-- ==== Sys2Proof/Word.lean ====
section
/-! DEFINITION. The word types of the K1: a byte, a 32-bit register word (R12), a 256-byte line (R271),
a 32-byte instruction (R346). -/

namespace Sys2Proof

/-- One byte of a memory. -/
abbrev Byte := BitVec 8

/-- A register word, 32 bits (R12). -/
abbrev Word := BitVec 32

/-- A line of 256 bytes read as one little-endian integer (R271, R346). -/
abbrev Line := BitVec 2048

/-- A core or ring instruction of 32 bytes (R346, R347). -/
abbrev InsnWord := BitVec 256

end Sys2Proof
end

