-- ==== Sys2Proof/Syntax.lean ====
section
/-! DEFINITION. The commands of the block: one constructor of `Instr` per row of opcode_table.json, with the
row's operands (the table gives the rows no bits). Operand types are exact, so that nearly every term is well formed. -/

namespace Sys2Proof

/-- Who makes a register write: firmware, or the host driver over BAR0 (R494). -/
inductive Writer where
  | firmware
  | host
  deriving DecidableEq, Repr, Inhabited

/-- The two instruction streams of a core (R85, R108). -/
inductive StreamId where
  | fwd
  | bwd
  deriving DecidableEq, Repr, Inhabited

/-- The two lanes of a ring (R124). -/
inductive Lane where
  | cw
  | ccw
  deriving DecidableEq, Repr, Inhabited

/-- Whose oldest outstanding line request a memory command serves: a core's Vault request queue (R271) or the
reads of a ring station's injections (R139). -/
inductive Requester where
  | core (die : Fin 4) (phys : Fin 34)
  | station (die : Fin 4) (station : Fin 34)
  deriving DecidableEq, Repr, Inhabited

/-- One symbol of a line that returns from the stacks changed: sector, symbol position in the numbering of R263,
and the value XORed into it. -/
structure Flip where
  sector : Fin 4
  pos : Fin 68
  value : Byte
  deriving DecidableEq, Repr, Inhabited

/-- Which count a write of a CLR field clears (R291). -/
inductive MemCount where
  | hbmCe
  | hbmUe
  | vltCe
  deriving DecidableEq, Repr, Inhabited

/-- What the lane tests of a training find on a port, and the CAP flit that the peer sends (R381, R393).
`lanes` has one bit per physical lane that passes. -/
structure Training where
  lanes : BitVec 9
  capVersion : Byte
  linkVersions : Byte
  feature : BitVec 16
  package : BitVec 12
  classes : Byte
  maxData : BitVec 16
  deriving DecidableEq, Repr, Inhabited

/-- The input measurements and the regions' metered power that the Treasury reads at a period boundary (R423, R425,
R426): mean and least input voltage in mV, mean current in 10 mA, mean power in W, always-on power in W, each region's
metered power in W and the mesh edges of every 64 that it passed (0: the region slept). -/
structure Measurement where
  vin : Nat
  vinMin : Nat
  iin : Nat
  pin : Nat
  pAon : Nat
  power : List (Nat × Nat)
  deriving DecidableEq, Repr, Inhabited

/-- A unit of R37, other than a Vyvan or CXL port, that fails for good; `region64` is an uncorrectable error of the always-on
region (R436). -/
inductive LostUnit where
  | stack (k : Fin 16)
  | memoryDie (n : Fin 4)
  | ioDie (n : Fin 2)
  | teller (n : Fin 2)
  | scheduleEngine (n : Fin 2)
  | hostEndpoint
  | farhies
  | powerStage
  | region64
  deriving DecidableEq, Repr, Inhabited

/-- The health monitor's inputs over the last second (R456): corrected events, least thermal margin in °C, droop
swallows per 65,536 edges in the worst domain, retrains and replays, and the highest temperatures (R542). -/
structure Health where
  corrected : Nat
  margin : Int
  droop : Nat
  retrains : Nat
  replays : Nat
  dieTemp : Int
  stackTemp : Int
  sourceFaulted : Bool
  /-- Vault banks that it marks as failing, 40 × die + bank (R281) -/
  failingBanks : List Nat
  /-- units without a reserve that have failed for good (R37) -/
  lost : List LostUnit
  deriving DecidableEq, Repr, Inhabited

/-- What the ROM's and FW1's checks outside this model find on one NVM bank (R482): the read works, the two ML-DSA-65
signatures verify, the firmware's self-test passes. -/
structure BankVerdict where
  readOk : Bool
  manifestSig : Bool
  headerSig : Bool
  selfTest : Bool
  deriving DecidableEq, Repr, Inhabited

/-- What a cold start finds in the package (R268, R270, R274, R286, R482): verdicts for the two NVM banks, unrepairable
stacks, channels that use a repair lane per stack, Vault banks that fail their test (40 × die + bank), capacity of each
CXL port in GiB (0: unpopulated), and the segment that firmware steers for a pseudo-channel. -/
structure BootFinds where
  bankA : BankVerdict
  bankB : BankVerdict
  unrepaired : List (Fin 16)
  lanes : List (Fin 16 × Word)
  badBanks : List Nat
  cxl : List Nat
  steered : List (Fin 4 × Fin 256 × BitVec 8)
  deriving DecidableEq, Repr, Inhabited

/-- What link training and repair find during recovery, with the stacks out of service (R268 to R270): channels that use a repair lane
per stack, stacks with a channel left unrepaired, stacks with no repair resources left, and the segment that firmware steers for a
pseudo-channel, or none. -/
structure RecoveryFinds where
  lanes : List (Fin 16 × Word) := []
  unrepaired : List (Fin 16) := []
  spent : List (Fin 16) := []
  steered : List (Fin 4 × Fin 256 × Option (BitVec 8)) := []
  deriving DecidableEq, Repr, Inhabited

/-- A weights shard of another member, of a layer of a checkpoint, and its digest record (R459 to R461). -/
structure Replica where
  layer : BitVec 16
  shard : List Byte
  record : List Byte
  deriving DecidableEq, Repr, Inhabited

/-- A backward layer pass that ends at a barrier edge: of the layer of a record for the micro-batch of a stamp entry (R205), or the last of
that micro-batch on the package (R183, R187). -/
inductive PassEnd where
  | layer (record : BitVec 16) (entry : Fin 32)
  | batch (entry : Fin 32)
  deriving DecidableEq, Repr, Inhabited

/-- A PIPE message that this package sends (R185, R395, R397): destination, address at the receiver, mark and its total, the stamp
entry of the micro-batch, and where its lines lie. -/
structure PipeOut where
  dst : BitVec 12
  addr : BitVec 48
  mark : BitVec 16
  total : BitVec 32
  entry : Fin 32
  source : BitVec 48
  lines : Fin 257
  deriving DecidableEq, Repr, Inhabited

/-- The commands. The doc of each names the row's rule. -/
inductive Instr where
  -- register access
  | registerWrite (by_ : Writer) (off : Word) (val : Word)
  | unmappedAccess (by_ : Writer) (off : Word) (write : Bool)
  | unsupportedRequest (off : Word) (size : Nat) (write : Bool)
  | clkEdgeRead
  | tlyCntRead (block : Fin 10) (k : Fin 16)
  | bar2Read (off : BitVec 25)
  | bar2Write (off : BitVec 25) (val : Word)
  -- picker
  | instructionFetch (die : Fin 4) (phys : Fin 34) (st : StreamId) (upsets : List (Fin 524288 × Bool) := [])
  | ctrlNop (die : Fin 4) (phys : Fin 34) (st : StreamId)
  | ctrlWait (die : Fin 4) (phys : Fin 34) (st : StreamId)
  | ctrlBarrier (die : Fin 4) (phys : Fin 34) (st : StreamId)
  | skipIfKept (die : Fin 4) (phys : Fin 34) (st : StreamId)
  | ctrlEnd (die : Fin 4) (phys : Fin 34) (st : StreamId)
  -- arrays
  | pass (die : Fin 4) (phys : Fin 34) (st : StreamId)
  | passStart (die : Fin 4) (phys : Fin 34) (array : Fin 4)
  | passComplete (die : Fin 4) (phys : Fin 34) (array : Fin 4)
  | wload (die : Fin 4) (phys : Fin 34) (st : StreamId)
  | weightRowWrite (die : Fin 4) (phys : Fin 34)
  | feed (die : Fin 4) (phys : Fin 34) (st : StreamId)
  | feedFillComplete (die : Fin 4) (phys : Fin 34) (array : Fin 4)
  -- row unit
  | rowAdd (die : Fin 4) (phys : Fin 34) (st : StreamId)
  | rowSub (die : Fin 4) (phys : Fin 34) (st : StreamId)
  | rowMul (die : Fin 4) (phys : Fin 34) (st : StreamId)
  | rowFma (die : Fin 4) (phys : Fin 34) (st : StreamId)
  | rowMin (die : Fin 4) (phys : Fin 34) (st : StreamId)
  | rowMax (die : Fin 4) (phys : Fin 34) (st : StreamId)
  | rowCmp (die : Fin 4) (phys : Fin 34) (st : StreamId)
  | rowSel (die : Fin 4) (phys : Fin 34) (st : StreamId)
  | rowAbs (die : Fin 4) (phys : Fin 34) (st : StreamId)
  | rowNeg (die : Fin 4) (phys : Fin 34) (st : StreamId)
  | rowCopy (die : Fin 4) (phys : Fin 34) (st : StreamId)
  | rowScale2 (die : Fin 4) (phys : Fin 34) (st : StreamId)
  | rowCvt (die : Fin 4) (phys : Fin 34) (st : StreamId)
  | rowCvts (die : Fin 4) (phys : Fin 34) (st : StreamId)
  | rowExp (die : Fin 4) (phys : Fin 34) (st : StreamId)
  | rowRcp (die : Fin 4) (phys : Fin 34) (st : StreamId)
  | rowRsqrt (die : Fin 4) (phys : Fin 34) (st : StreamId)
  | rowDiv (die : Fin 4) (phys : Fin 34) (st : StreamId)
  | rowSqrt (die : Fin 4) (phys : Fin 34) (st : StreamId)
  | rowRed (die : Fin 4) (phys : Fin 34) (st : StreamId)
  | rowRed2 (die : Fin 4) (phys : Fin 34) (st : StreamId)
  | drain (die : Fin 4) (phys : Fin 34) (st : StreamId)
  -- ring
  | inject (die : Fin 4) (phys : Fin 34) (st : StreamId)
  | injectReadIssue (die : Fin 4) (station : Fin 34)
  | injectFlitSend (die : Fin 4) (station : Fin 34) (lane : Lane)
  | multicastDelivery (die : Fin 4) (station : Fin 34)
  | ringFlitArrival (die : Fin 4) (station : Fin 34) (lane : Lane) (words : List (Fin 32 × Bool))
  | takeWrite (die : Fin 4) (station : Fin 34) (lane : Lane)
  | accum (die : Fin 4) (phys : Fin 34) (st : StreamId)
  | contrib (die : Fin 4) (phys : Fin 34) (st : StreamId)
  | accFlitAdd (die : Fin 4) (station : Fin 34) (lane : Lane) (words : List (Fin 32 × Bool))
  | creditReturn (die : Fin 4) (stream : Fin 4)
  | barrierEdge (die : Fin 4) (ends : List PassEnd := [])
  | barrierTimeout (die : Fin 4)
  | ringEnable (by_ : Writer) (die : Fin 4)
  | ringDisable (by_ : Writer) (die : Fin 4)
  | ringSpanWrite (by_ : Writer) (die : Fin 4) (package : Bool)
  -- core control
  | coreRunStart (by_ : Writer) (die : Fin 4) (phys : Fin 34)
  | coreRunStop (by_ : Writer) (die : Fin 4) (phys : Fin 34)
  | clearInbox (by_ : Writer) (die : Fin 4) (phys : Fin 34)
  | clearAcc (by_ : Writer) (die : Fin 4) (phys : Fin 34)
  | coreCeClr (by_ : Writer) (die : Fin 4) (phys : Fin 34)
  | ringCeClr (by_ : Writer) (die : Fin 4)
  -- memory instructions
  | memRead (die : Fin 4) (phys : Fin 34) (st : StreamId)
  | memWrite (die : Fin 4) (phys : Fin 34) (st : StreamId)
  | memAdd (die : Fin 4) (phys : Fin 34) (st : StreamId)
  | memReadClear (die : Fin 4) (phys : Fin 34) (st : StreamId)
  | memRelease (die : Fin 4) (phys : Fin 34) (st : StreamId)
  | esave (die : Fin 4) (phys : Fin 34) (st : StreamId)
  | eread (die : Fin 4) (phys : Fin 34) (st : StreamId)
  | memReadComplete (die : Fin 4) (phys : Fin 34)
  | depWrite (die : Fin 4) (phys : Fin 34) (st : StreamId)
  | depRead (die : Fin 4) (phys : Fin 34) (st : StreamId)
  | depFetch (die : Fin 4) (phys : Fin 34) (st : StreamId)
  | depDrop (die : Fin 4) (phys : Fin 34) (st : StreamId)
  -- Vault and near memory
  | vaultRead (r : Requester) (upsets : List (Fin 4 × Fin 40 × Fin 524288 × Bool) := [])
  | vaultWrite (r : Requester)
  | vaultAdd (r : Requester)
  | vaultReadClear (r : Requester)
  | vaultRelease (r : Requester)
  | hbmReadComplete (die : Fin 4) (channel : Fin 256) (flips : List Flip)
  | hbmRefresh (die : Fin 4) (channel : Fin 256) (upsets : List (BitVec 22 × Flip) := [])
  | scrubRead (die : Fin 4) (channel : Fin 256) (line : BitVec 22) (flips : List Flip)
  | hbmEnable (by_ : Writer)
  | hbmEnableMember (by_ : Writer) (member : Fin 3)
  | hbmCeClr (by_ : Writer) (die : Fin 4) (which : MemCount)
  | vaultEnable (by_ : Writer) (die : Fin 4)
  | vaultDisable (by_ : Writer) (die : Fin 4)
  | vaultFlush (by_ : Writer) (die : Fin 4)
  | vaultFlushComplete (die : Fin 4)
  | unkeepAll (by_ : Writer) (die : Fin 4)
  | xtRead (r : Requester)
  | xtWrite (r : Requester)
  | xtCompletion (port : Fin 4) (poison : Bool)
  | cxlPortLost (port : Fin 4)
  -- Depository
  | depOpen (by_ : Writer) (stream : BitVec 16)
  | depOpenComplete
  | depClose (by_ : Writer) (stream : BitVec 16)
  | depEnable (by_ : Writer)
  | pageOutStart (slice : Fin 4)
  | pageOutComplete (slice : Fin 4)
  | pageInStart (slice : Fin 4)
  | pageInComplete (slice : Fin 4) (poison : List (Fin 256) := [])
  | depIntakeRelease (slice : Fin 4)
  -- step
  | microbatchAdmit
  | layerRecordEnqueue (record : BitVec 16)
  | tlrEnq (by_ : Writer) (teller : Fin 2) (index : BitVec 16)
  | tellerUpdate (teller : Fin 2)
  | tellerContribute (teller : Fin 2)
  | tellerFrozen (teller : Fin 2)
  | recordComplete (teller : Fin 2)
  | qflush (by_ : Writer) (teller : Fin 2)
  | schCompute (by_ : Writer) (engine : Fin 2)
  | settle
  | voteSend
  | vote (port : Fin 18)
  | voteTimeout
  | posting
  | skip
  | stepEntry
  | eval
  | evalSlotBegin
  | evalSlotEnd
  -- Vyvan Link
  | portTraining (port : Fin 18) (found : Training)
  | portRetrain (port : Fin 18) (lane : Fin 9) (spareOk : Bool)
  | vlRetrain (by_ : Writer) (port : Fin 18) (lane : Fin 9) (spareOk : Bool)
  | vlEnable (by_ : Writer) (io : Fin 2)
  | vlPerrClr (by_ : Writer) (port : Fin 18)
  | vlRouteWrite (by_ : Writer) (dest : BitVec 12) (val : Word)
  | flitTransmit (port : Fin 18)
  | flitReceive (port : Fin 18) (bytes : List Byte)
  | nak (port : Fin 18) (seq : BitVec 10)
  | replayLimit (port : Fin 18) (retrainOk : Bool)
  | messageForward (port : Fin 18) (cls : Fin 4)
  | stepFault (port : Fin 18)
  | joinReq (port : Fin 18)
  | joinAck (port : Fin 18)
  | ready (port : Fin 18)
  | leave (port : Fin 18)
  | mgmt (port : Fin 18)
  | secure (port : Fin 18)
  | pipe (port : Fin 18) (out : Option PipeOut := none)
  | grad (port : Fin 18)
  | bcast (port : Fin 18)
  | parity (port : Fin 18)
  | put (port : Fin 18)
  | heldMessageApply
  -- Treasury and clocks
  | allowancePeriod (m : Measurement)
  | grantEffect
  | throttleSwallow (region : Fin 64)
  | hardCap (region : Fin 64) (edges : Nat)
  | tsyRcfgWrite (by_ : Writer) (region : Fin 64) (val : Word)
  | opChangePrepare (locked : BitVec 10)
  | change
  | changeAck (die : Fin 10)
  | cancel
  | opChangeSwitch (domain : Fin 231)
  | stretchToken (sender : Fin 231) (receiver : Fin 231)
  | droopSwallow (domain : Fin 231) (edges : Fin 5)
  | skewHold (a : Fin 231) (b : Fin 231)
  | clkSkewClr (by_ : Writer)
  | domainSleep (domain : Fin 231)
  | domainWake (domain : Fin 231)
  -- faults and the Ledger
  | queuedErrorRun
  | restoreRecovery (finds : RecoveryFinds := {})
  | fatalDump (reachable : BitVec 11) (cut : Option (Fin 11) := none)
  | jnlPop (by_ : Writer) (n : BitVec 13)
  | dumpRelease (by_ : Writer)
  | ratingUpdate (h : Health)
  | slowUnitFlag (domain : Fin 231) (swallows : Nat)
  | securingRead (lines : Nat)
  -- start-up, power and the host
  | coldStart (finds : BootFinds)
  | powerUp (vin : Nat)
  | powerDown (pwrEnFell : Bool) (vin : Nat)
  | overVoltageTrip (vin : Nat)
  | thermalTrip (die : Int) (stack : Int)
  | linkReset (hot : Bool)
  | mbxReqTailWrite (by_ : Writer) (tail : BitVec 16)
  | mbxRplHeadWrite (by_ : Writer) (head : BitVec 16)
  | badFrame
  | heartbeat
  | ident
  | ackAttn
  | queryOp
  | getLatency (hostFault : Option (BitVec 32))
  | getReport (hostFault : Option (BitVec 32))
  | attest (hostFault : Option (BitVec 32))
  | getCerts (hostFault : Option (BitVec 32))
  | load (hostFault : Option (BitVec 32)) (sigOk : Bool)
  | start
  | stop
  | checkpoint
  | restore (auditOk : Bool) (replicas : List Replica := [])
  | ledgerRestore (hostFault : Option (BitVec 32))
  | membership (hostFault : Option (BitVec 32))
  | stage (hostFault : Option (BitVec 32))
  | setJobKey (hostFault : Option (BitVec 32))
  | svnCommit
  | debugUnlock (hostFault : Option (BitVec 32)) (sigOk : Bool)
  | nvmUpdate (hostFault : Option (BitVec 32)) (verdict : BankVerdict) (readBackOk : Bool)
  | restart
  | longOpComplete (opId : BitVec 16)
  | heartbeatGraceExpiry
  -- Tally
  | tallyWindowClose
  | tlyClr (by_ : Writer) (block : Fin 10)
  | tlyFreeze (by_ : Writer) (freeze : Bool)
  | tlyWinCfgWrite (by_ : Writer) (val : Word)
  | counterWrap (block : Fin 10) (k : Fin 16)
  -- management port
  | mgmtIdent
  | mgmtBoot
  | mgmtStatus
  | mgmtInput
  | mgmtTemps
  | mgmtRating
  | mgmtDevid
  | mgmtReservedCommand (code : Byte)
  -- JTAG
  | bypass
  | idcode
  | samplePreload (preload : Option (BitVec 64))
  | extest
  | highz
  | clamp
  | crossingWaitSwallow (reader : Fin 231) (writer : Fin 231)
  | alwaysOnHoldExpiry
  deriving DecidableEq, Repr

end Sys2Proof
end

