-- ==== Sys2Proof/Decode.lean ====
section
/-! DEFINITION. The opcode table gives its rows no bits: the commands of this block arrive as operations and events, not as
words, so no word spells one. (The 32-byte core and ring instructions that streams fetch from a core store are decoded in
Machine/Operands.lean.) -/

namespace Sys2Proof

/-- The command that a word spells by the table's bits: the table gives none. -/
def decodeTableWord (_nbits _w : Nat) : Option Instr := none

end Sys2Proof
end

