-- ==== Sys2Proof/Config.lean ====
section
/-! DEFINITION. What one implementation fixes and what the spec leaves open: constants without a body, so that nothing can
be proved of their values (logs 7 and 8). -/

namespace Sys2Proof.Config

/-- The 16 random bits that draw `n` of a Mint lane takes under a seed (R72, R73). -/
opaque mint (seed lane n : Nat) : BitVec 16

/-- A 32-bit value that the spec does not state, taken at a count of `State.free`. -/
opaque freeWord : Nat → Word

/-- A 256-bit value that the spec does not state (a nonce, a key seed's entropy). -/
opaque freeDigest : Nat → BitVec 256

/-- A choice that the spec leaves open. -/
opaque freeNat : Nat → Nat

/-- The seed of the device-identity key, from the fused secret and the lifecycle (R485): the bytes that are hashed are not
stated. -/
opaque devidSeed (secret : BitVec 256) (lifecycle : Nat) : BitVec 256

/-- The seed of the attestation key, from the fused secret, the lifecycle, M, the bank SVN and the fused SVN (R485). -/
opaque akSeed (secret : BitVec 256) (lifecycle : Nat) (m : BitVec 256) (svn fused : Nat) : BitVec 256

/-- The ML-DSA-65 public key of a seed, 1,952 bytes (R476, FIPS 204): its value is outside the spec. -/
opaque mldsaPublic (seed : BitVec 256) : List Byte

/-- The ML-DSA-65 signature of a message under a seed's key (R476). -/
opaque mldsaSign (seed : BitVec 256) (msg : List Byte) : List Byte

/-- The payload of a CTRL flit: the NAK that it carries and the credits that it returns for classes 0 to 3 (R386). Their places in the
256 bytes are not stated. -/
opaque ctrlPayload (nak : Option Nat) (credits : List Nat) : BitVec 2048

/-- The credits that the payload of a CTRL flit returns for a class (R386). -/
opaque ctrlCredits (payload : BitVec 2048) (cls : Nat) : Nat

/-- The message counter of the source package of a message in transit (R391): the message does not carry it. -/
opaque sourceCount (head : BitVec 2048) : Nat

end Sys2Proof.Config
end

