-- ==== Sys2Proof/Machine/RegMap.lean ====
section
/-! DEFINITION. The register map: for every BAR0 offset the fields of its register with their access codes (R19) and reset
values, from the register chapters (R3, R8, R81, R113 to R123, R157 to R166, R237 to R253, R288 to R296, R319 to R323,
R403 to R408, R430 to R434, R472 to R475, R509 to R512, R525, R526). An offset without fields is unmapped (R17). -/

namespace Sys2Proof.Machine

/-- Access codes of R19. `act` marks a field that reads as it was last set and whose write has a behaviour of its own, so
that a command of its own carries it; `wo` fields likewise. -/
inductive Access where
  | ro
  | rw
  | wo
  | w1c
  | act
  deriving DecidableEq, Repr

/-- A field of a register: bits, access, reset value, and whether the host driver may write it (R494). -/
structure Fld where
  hi : Nat
  lo : Nat
  acc : Access
  reset : Nat
  host : Bool
  deriving DecidableEq, Repr

def fRo (hi lo : Nat) (reset : Nat := 0) : Fld := ⟨hi, lo, .ro, reset, false⟩
def fRw (hi lo : Nat) (reset : Nat := 0) : Fld := ⟨hi, lo, .rw, reset, false⟩
def fRwH (hi lo : Nat) (reset : Nat := 0) : Fld := ⟨hi, lo, .rw, reset, true⟩
def fW1c (hi lo : Nat) : Fld := ⟨hi, lo, .w1c, 0, true⟩
def fWo (hi lo : Nat) : Fld := ⟨hi, lo, .wo, 0, false⟩
def fWoH (hi lo : Nat) : Fld := ⟨hi, lo, .wo, 0, true⟩
def fAct (hi lo : Nat) (reset : Nat := 0) : Fld := ⟨hi, lo, .act, reset, false⟩
def fActH (hi lo : Nat) (reset : Nat := 0) : Fld := ⟨hi, lo, .act, reset, true⟩

/-- A flag word of R81: INEXACT, UNDERFLOW, OVERFLOW, DIVZ, INVALID. -/
def flagFields : List Fld := [fW1c 4 0]

/-- Registers listed at their offsets in a block. -/
abbrev RegTable := List (Nat × List Fld)

/-- The fields listed at an offset. -/
def RegTable.at? : RegTable → Nat → Option (List Fld)
  | [], _ => none
  | (o, fs) :: t, i => if i = o then some fs else RegTable.at? t i

/-- The core registers (R113 to R123), core `c` of die `n`. -/
def coreRegs (n c : Nat) : RegTable :=
  [ (0x00, [fRo 31 24 0xFF, fRo 17 16 n, fRo 13 8 c, fRo 7 0 1]),
    (0x04, [fWo 5 5, fWo 4 4, fRw 2 2 1, fRw 1 1 1, fAct 0 0]),
    (0x08, [fRo 19 19, fRo 18 18 1, fRo 17 17 1, fRo 16 12, fRo 11 8, fRo 7 4, fRo 3 3 1, fRo 2 2, fRo 1 1, fRo 0 0]),
    (0x0C, [fW1c 8 0]),
    (0x10, flagFields), (0x14, flagFields), (0x18, flagFields), (0x1C, flagFields), (0x20, flagFields),
    (0x24, [fRo 15 0]),
    (0x28, [fRw 21 8]), (0x2C, [fRw 21 8]),
    (0x30, [fRo 21 5]), (0x34, [fRo 21 5]),
    (0x38, [fRw 3 3 1, fRw 2 2 1, fRw 1 0]),
    (0x3C, [fWoH 16 16, fRo 15 0]) ]

/-- CORE_RANGEk (R123). -/
def coreRangeFields : List Fld := [fRw 31 31, fRw 30 30, fRw 29 29, fRw 21 11, fRw 10 0]

def coreFields (n c o : Nat) : Option (List Fld) :=
  if 0x40 ≤ o ∧ o < 0x60 ∧ o % 4 = 0 then some coreRangeFields else (coreRegs n c).at? o

/-- The ring registers (R157 to R166). -/
def ringRegs (n : Nat) : RegTable :=
  [ (0x00, [fRo 23 18, fRo 17 16 n, fRo 7 0 1]),
    (0x04, [fRw 19 4, fRw 2 2 1, fAct 1 1, fAct 0 0]),
    (0x08, [fRo 7 7, fRo 6 6, fRo 5 2, fRo 1 1, fRo 0 0 1]),
    (0x0C, [fW1c 7 0]),
    (0x10, [fRo 31 0]), (0x14, [fRo 1 0]), (0x18, [fRo 31 0]),
    (0x40, [fWoH 16 16, fRo 15 0]) ]

def creditCfgFields : List Fld := [fRw 31 31, fRw 30 30, fRw 29 28, fRw 27 24, fRw 8 0]

def ringFields (n o : Nat) : Option (List Fld) :=
  if 0x20 ≤ o ∧ o < 0x40 ∧ o % 4 = 0 then
    some (if o % 8 = 0 then creditCfgFields else [fRo 8 0])
  else (ringRegs n).at? o

/-- The HBM registers (R288 to R293): on MD1 to MD3, HBM_QRANGE mirrors MD0 and is read only. -/
def hbmRegs : RegTable :=
  [ (0x00, [fRo 15 8 4, fRo 7 0 1]),
    (0x04, [fRw 31 24 0x18, fRw 1 1 1, fAct 0 0]),
    (0x08, [fRo 11 8, fRo 7 4, fRo 1 1, fRo 0 0]),
    (0x0C, [fW1c 2 0]),
    (0x10, [fWoH 16 16, fRo 15 0]), (0x14, [fWoH 16 16, fRo 15 0]),
    (0x18, [fRo 31 8, fW1c 0 0]), (0x1C, [fRo 15 0]),
    (0x20, [fRo 31 0]), (0x24, [fRo 31 0]), (0x28, [fRo 31 0]), (0x2C, [fRo 31 0]),
    (0x30, [fRo 4 0]) ]

def hbmFields (n o : Nat) : Option (List Fld) :=
  if 0x40 ≤ o ∧ o < 0x50 ∧ o % 4 = 0 then
    some (if n = 0 then [fRw 31 31, fRw 15 8, fRw 7 0] else [fRo 31 31, fRo 15 8, fRo 7 0])
  else hbmRegs.at? o

/-- The Vault registers (R288, R294 to R296). -/
def vltRegs : RegTable :=
  [ (0x00, [fRo 15 8 0x28, fRo 7 0 1]),
    (0x04, [fRw 13 8 0x1E, fWo 3 3, fWo 2 2, fRw 1 1, fAct 0 0]),
    (0x08, [fRo 23 16, fRo 15 8, fRo 1 1, fRo 0 0]),
    (0x0C, [fW1c 7 0]),
    (0x10, flagFields),
    (0x14, [fRw 31 8, fRw 6 0]), (0x18, [fRw 15 0]),
    (0x1C, [fRo 31 0]), (0x20, [fRo 7 0]),
    (0x24, [fWoH 16 16, fRo 15 0]) ]

/-- The Depository registers (R319 to R323). DEP_CTL and DEP_DESC of MD1 to MD3 mirror MD0 and are read only; DEP_OPEN and
DEP_CLOSE there ignore writes. -/
def depRegs (n : Nat) : RegTable :=
  [ (0x00, [fRo 21 20 n, fRo 19 8 0x100, fRo 7 0 1]),
    (0x04, if n = 0 then [fRw 7 6, fRw 3 3 1, fRw 2 2 1, fAct 0 0] else [fRo 7 6, fRo 3 3 1, fRo 2 2 1, fRo 0 0]),
    (0x08, [fRo 16 2, fRo 1 1, fRo 0 0]),
    (0x0C, [fW1c 7 0]),
    (0x10, if n = 0 then [fRw 31 8] else [fRo 31 8]), (0x14, if n = 0 then [fRw 15 0] else [fRo 15 0]),
    (0x18, if n = 0 then [fRo 31 31, fWoH 15 0] else [fRo 31 31]),
    (0x1C, if n = 0 then [fRo 31 31, fWoH 15 0] else [fRo 31 31]),
    (0x20, [fRw 31 16 0x80, fRw 15 0 0x40]),
    (0x24, [fRo 21 0]), (0x28, [fRo 24 0]), (0x2C, [fRo 24 16, fRo 4 0]),
    (0x30, [fRo 31 16, fRo 12 1, fW1c 0 0]) ]

/-- The Teller registers (R237 to R249); on XD1 the step registers mirror XD0 and are read only. -/
def tlrRegs (n : Nat) : RegTable :=
  [ (0x00, [fRo 11 8 0xF, fRo 0 0 n]),
    (0x04, [fWo 2 2, fRw 1 1 1, fRw 0 0]),
    (0x08, [fRo 15 9, fRo 8 6, fRo 5 5, fRo 4 4, fRo 3 3, fRo 2 2, fRo 1 1]),
    (0x0C, [fW1c 5 0]),
    (0x10, flagFields),
    (0x14, [fWo 15 0]),
    (0x18, [fRw 31 7]), (0x1C, [fRw 15 0]),
    (0x20, if n = 0 then [fRw 31 0] else [fRo 31 0]),
    (0x24, if n = 0 then [fRw 31 24 8, fRw 15 8 0x10, fRw 0 0] else [fRo 31 24 8, fRo 15 8 0x10, fRo 0 0]),
    (0x28, if n = 0 then [fRwH 31 16, fRwH 15 8, fRwH 6 0] else [fRo 31 16, fRo 15 8, fRo 6 0]),
    (0x2C, if n = 0 then [fRwH 31 31 1, fRwH 30 24 0x18, fRwH 22 16, fRwH 15 0 0x7D0]
           else [fRo 31 31 1, fRo 30 24 0x18, fRo 22 16, fRo 15 0 0x7D0]),
    (0x30, [fRo 31 0]), (0x34, [fRo 31 0]), (0x38, [fRo 31 0]),
    (0x3C, [fRo 31 24, fRo 15 0]),
    (0x8000, [fRo 15 8 0x40, fRo 7 0 1]),
    (0x8004, [fWo 1 1, fRw 0 0]),
    (0x8008, [fRw 31 12]), (0x800C, [fRw 15 0]),
    (0x8010, [fRo 1 1, fRo 0 0]) ]

def tlrFields (n o : Nat) : Option (List Fld) :=
  if 0x8100 ≤ o ∧ o < 0x8300 ∧ o % 4 = 0 then some [fRo 31 0] else (tlrRegs n).at? o

/-- The link registers (R403 to R408); on XD1 the package registers and the route table mirror XD0 and are read only. -/
def vlRegs (n : Nat) : RegTable :=
  [ (0x00, [fRo 23 16 2, fRo 15 8 9, fRo 7 0 1]),
    (0x04, [fRw 7 4 8, fAct 0 0]),
    (0x08, [fRo 17 9, fRo 8 0]),
    (0x0C, [fW1c 7 0]),
    (0x10, if n = 0 then [fRw 11 0] else [fRo 11 0]),
    (0x14, if n = 0 then [fRw 31 0] else [fRo 31 0]),
    (0x18, if n = 0 then [fRw 11 0] else [fRo 11 0]),
    (0x1C, [fRo 15 0]),
    (0x20, if n = 0 then [fRw 23 16 0x20, fRw 15 8 0x80, fRw 7 0 0x60]
           else [fRo 23 16 0x20, fRo 15 8 0x80, fRo 7 0 0x60]) ]

def vlPortFields (k : Nat) : Option (List Fld) :=
  if k = 0 then some [fRw 31 16 0x100, fWo 1 1, fRw 0 0 1]
  else if k = 4 then some [fRo 31 28, fRo 27 24 0xF, fRo 23 12, fRo 11 8, fRo 7 0]
  else if k = 8 then some [fRo 31 24, fWoH 16 16, fRo 15 0]
  else none

def vlFields (n o : Nat) : Option (List Fld) :=
  if 0x100 ≤ o ∧ o < 0x220 then vlPortFields (o % 0x20)
  else if 0x10000 ≤ o ∧ o < 0x14000 ∧ o % 4 = 0 then
    some (if n = 0 then [fAct 31 31, fAct 27 24, fAct 17 0] else [fRo 31 31, fRo 27 24, fRo 17 0])
  else (vlRegs n).at? o

/-- The Ledger registers (R474, R475). -/
def ldgRegs : RegTable :=
  [ (0x00, [fRo 15 8 0x10, fRo 7 0 1]),
    (0x04, [fRw 12 9, fRw 8 4 1, fRw 3 2 1, fRw 1 1, fRw 0 0]),
    (0x08, [fRo 5 5, fRo 4 4, fRo 3 3, fRo 2 2, fRo 1 1, fRo 0 0]),
    (0x0C, [fW1c 4 0]),
    (0x10, [fRo 31 0]),
    (0x14, [fRw 31 8]), (0x18, [fRw 15 0]),
    (0x1C, [fRo 31 0]),
    (0x20, [fRw 31 8]), (0x24, [fRw 15 0]),
    (0x28, [fRw 31 0]),
    (0x2C, [fRw 6 2, fRw 1 1, fRw 0 0]),
    (0x30, [fRw 31 0]), (0x34, [fRw 7 0]),
    (0x38, [fRw 31 31, fRw 27 16, fRw 11 0]),
    (0x3C, [fRo 31 24, fRo 23 16, fRo 15 8, fRo 7 0]),
    (0x40, [fRo 15 8, fRo 7 0]),
    (0x44, [fRw 15 8 0x20, fRw 7 0 0xC0]),
    (0x48, [fRw 19 16 2, fRw 15 12 2, fRw 11 8 2, fRw 7 4 4, fRw 3 0 4]),
    (0x4C, [fRw 23 16 0x64, fRw 15 0 0x400]),
    (0x50, [fRo 16 16, fRo 15 8, fRo 7 0]) ]

/-- The Treasury and clock registers (R430 to R434). REGION and SLEEPABLE of CLK_DOM are found from R412. -/
def tsyRegs : RegTable :=
  [ (0x00, [fRo 15 8 0x40, fRo 7 0 1]),
    (0x04, [fRw 7 6 2, fRw 5 4 2, fRw 0 0]),
    (0x08, [fRo 7 6 2, fRo 5 5, fRo 4 4, fRo 3 3, fRo 2 2, fRo 1 0]),
    (0x0C, [fW1c 3 0]),
    (0x10, [fRw 31 16 0x1194, fRw 9 0 0x271]),
    (0x14, [fRo 31 16, fRo 15 0]), (0x18, [fRo 31 16, fRo 15 0]), (0x1C, [fRo 31 0]),
    (0x8000, [fRo 15 8 0xE7, fRo 7 0 1]),
    (0x8004, [fRo 31 0]), (0x8008, [fRo 31 0]),
    (0x800C, [fRo 2 2, fRo 1 0]), (0x8010, [fRo 31 0]),
    (0x8014, [fRo 31 17, fWoH 16 16, fRo 15 8, fRo 7 0]) ]

def tsyFields (o : Nat) : Option (List Fld) :=
  if 0x100 ≤ o ∧ o < 0x200 ∧ o % 4 = 0 then some [fAct 31 24 1, fAct 23 12 0x3E8, fAct 11 0 0xA]
  else if 0x200 ≤ o ∧ o < 0x300 ∧ o % 4 = 0 then some [fRo 29 24, fRo 23 12, fRo 11 0]
  else if 0x9000 ≤ o ∧ o < 0x9000 + 4 * 231 ∧ o % 4 = 0 then some [fRo 31 31, fRo 30 24, fRo 23 23, fRo 15 0]
  else tsyRegs.at? o

/-- The Journal registers (R472, R473). -/
def jnlRegs : RegTable :=
  [ (0x00, [fRo 28 16 0x1000, fRo 7 0 1]),
    (0x04, [fRwH 15 12 4, fWoH 1 1, fRwH 0 0 1]),
    (0x08, [fRo 31 31, fRo 30 30, fRo 28 16, fRo 15 0]),
    (0x0C, [fRo 11 0]), (0x10, [fRo 31 0]),
    (0x14, [fWoH 12 0]),
    (0x18, [fRo 14 12, fRo 10 8, fRo 7 7, fRo 6 0]),
    (0x1C, [fRo 7 0]) ]

def jnlFields (o : Nat) : Option (List Fld) :=
  if 0x10000 ≤ o ∧ o < 0x30000 ∧ o % 4 = 0 then some [fRo 31 0] else jnlRegs.at? o

/-- The Farhies and mailbox registers (R3, R8, R509 to R512). Request slots are RW, reply slots RO. -/
def fmcRegs : RegTable :=
  [ (0x000, [fRo 31 16 0x4B31, fRo 15 8 1, fRo 7 4, fRo 3 0]),
    (0x004, [fRo 15 8 1, fRo 7 0]),
    (0x008, [fRo 31 28, fRo 24 24, fRo 23 23, fRo 15 8, fRo 7 0]),
    (0x00C, [fRo 15 8, fRo 5 0]),
    (0x010, [fRo 5 5, fRo 4 4, fRo 3 3, fRo 2 2, fRo 1 0]),
    (0x100, [fActH 15 0]), (0x104, [fRo 15 0]), (0x108, [fActH 15 0]),
    (0x10C, [fW1c 16 16, fRo 7 0 2]),
    (0x110, [fRo 16 0 3]),
    (0x114, [fRwH 7 0 0xA]) ]

def fmcFields (o : Nat) : Option (List Fld) :=
  if 0x1000 ≤ o ∧ o < 0x1800 ∧ o % 4 = 0 then some [fRwH 31 0]
  else if 0x2000 ≤ o ∧ o < 0x2800 ∧ o % 4 = 0 then some [fRo 31 0]
  else fmcRegs.at? o

/-- The global Tally registers (R525). -/
def tlyGlobalFields (o : Nat) : Option (List Fld) :=
  if o = 0 then some [fRo 15 8 0xA, fRo 7 0 1]
  else if o = 4 then some [fActH 2 2, fRwH 1 1, fRwH 0 0]
  else if o = 8 then some [fActH 16 16, fActH 15 0 0x3E8]
  else if o = 0xC then some [fRo 31 0]
  else if o % 4 = 0 ∧ ((0x1000 ≤ o ∧ o < 0x1000 + 8 * 18) ∨ (0x1100 ≤ o ∧ o < 0x1100 + 8 * 16) ∨
      (0x1200 ≤ o ∧ o < 0x1200 + 8 * 4) ∨ (0x1300 ≤ o ∧ o < 0x1300 + 4 * 8)) then some [fRo 31 0]
  else none

/-- KIND and DIE of a Tally block (R513, R526). -/
def tlyKind (b : Nat) : Nat := if b < 4 then 0 else if b < 8 then 1 else 2
def tlyDie (b : Nat) : Nat := if b < 8 then b % 4 else b - 8

/-- The registers of a Tally block (R526). -/
def tlyBlockFields (b o : Nat) : Option (List Fld) :=
  if o = 0 then some [fRo 11 8 (tlyKind b), fRo 3 0 (tlyDie b)]
  else if o = 4 then some [fWoH 16 16, fW1c 15 0]
  else if 0x100 ≤ o ∧ o < 0x140 ∧ o % 4 = 0 then some [fRwH 31 31, fRwH 30 30, fRwH 24 16 0x1FF, fRwH 15 0]
  else if 0x200 ≤ o ∧ o < 0x280 ∧ o % 4 = 0 then some [fRo 31 0]
  else none

def tlyFields (o : Nat) : Option (List Fld) :=
  if o < 0x10000 then tlyGlobalFields o
  else if o / 0x10000 ≤ 10 then tlyBlockFields (o / 0x10000 - 1) (o % 0x10000)
  else none

/-- The fields of the register at a BAR0 offset by the block map of R16; `none` at an unmapped offset (R17). -/
def regFields (off : Nat) : Option (List Fld) :=
  let o := off % 0x1000000
  let b := off / 0x1000000
  if b = 0 then fmcFields o
  else if b = 1 then tsyFields o
  else if b = 2 then jnlFields o
  else if b = 3 then tlyFields o
  else if 0x10 ≤ b ∧ b < 0x14 then
    if o < 0x220000 then coreFields (b - 0x10) (o / 0x10000) (o % 0x10000)
    else if 0x800000 ≤ o then ringFields (b - 0x10) (o % 0x800000)
    else none
  else if 0x20 ≤ b ∧ b < 0x24 then
    if o < 0x400000 then hbmFields (b - 0x20) o
    else if o < 0x800000 then vltRegs.at? (o % 0x400000)
    else (depRegs (b - 0x20)).at? (o % 0x800000)
  else if b = 0x30 ∧ 0x400000 ≤ o ∧ o < 0x800000 then ldgRegs.at? (o % 0x400000)
  else if 0x30 ≤ b ∧ b < 0x32 then
    if o < 0x400000 then vlFields (b - 0x30) o
    else if 0x800000 ≤ o then tlrFields (b - 0x30) (o % 0x800000)
    else none
  else none

/-- The reset value that a list of fields spells. -/
def fieldsReset : List Fld → Nat
  | [] => 0
  | f :: fs => 2 ^ f.lo * f.reset + fieldsReset fs

/-- What a register holds at reset (R19). -/
def regReset (off : Nat) : Word := BitVec.ofNat 32 (((regFields off).map fieldsReset).getD 0)

/-- The bits that a field covers. -/
def Fld.mask (f : Fld) : Word := BitVec.ofNat 32 (2 ^ f.lo * (2 ^ (f.hi + 1 - f.lo) - 1))

/-! Block bases (R16, R113, R157, R237, R288, R319, R403, R513). -/

def coreBase (d p : Nat) : Nat := 0x10000000 + 0x1000000 * d + 0x10000 * p
def ringBase (d : Nat) : Nat := 0x10800000 + 0x1000000 * d
def hbmBase (d : Nat) : Nat := 0x20000000 + 0x1000000 * d
def vltBase (d : Nat) : Nat := 0x20400000 + 0x1000000 * d
def depBase (d : Nat) : Nat := 0x20800000 + 0x1000000 * d
def vlBase (n : Nat) : Nat := 0x30000000 + 0x1000000 * n
def tlrBase (n : Nat) : Nat := 0x30800000 + 0x1000000 * n
def ldgBase : Nat := 0x30400000
def tsyBase : Nat := 0x01000000
def jnlBase : Nat := 0x02000000
def tlyBase : Nat := 0x03000000
def tlyBlock (b : Nat) : Nat := 0x03000000 + 0x10000 * (b + 1)

end Sys2Proof.Machine
end

