-- ==== Sys2Proof/Machine/Table.lean ====
section
/-! DEFINITION. Sparse tables: lists of (key, value) pairs with rising keys and no default entry. A memory is the
table of its bytes (Host.Cell); what an unlisted key reads as is an argument of every operation. -/

namespace Sys2Proof.Machine

/-- A sparse table: (key, value) pairs. -/
abbrev Tab (α : Type) := List (Nat × α)

/-- A memory of bytes: the (address, byte) pairs that differ from what an unlisted address reads as. -/
abbrev Mem := List Host.Cell

/-- The value listed at a key. -/
def Tab.find? {α : Type} : Tab α → Nat → Option α
  | [], _ => none
  | (k, v) :: t, i => if i = k then some v else Tab.find? t i

/-- List a value at a key, before the first greater key. -/
def Tab.put {α : Type} : Tab α → Nat → α → Tab α
  | [], i, v => [(i, v)]
  | (k, w) :: t, i, v =>
    if i < k then (i, v) :: (k, w) :: t
    else if i = k then (i, v) :: t
    else (k, w) :: Tab.put t i v

/-- Unlist a key. -/
def Tab.del {α : Type} (t : Tab α) (i : Nat) : Tab α := t.filter (fun p => p.1 != i)

/-- Read a table: an unlisted key reads as `d`. -/
def Tab.read {α : Type} (d : α) (t : Tab α) (i : Nat) : α := (Tab.find? t i).getD d

/-- Write a table: the value an unlisted key reads as is not listed. -/
def Tab.write {α : Type} [DecidableEq α] (d : α) (t : Tab α) (i : Nat) (v : α) : Tab α :=
  if v = d then Tab.del t i else Tab.put t i v

/-- The canonical form: keys strictly rising, no entry equal to the default. -/
abbrev Tab.wf {α : Type} [DecidableEq α] (d : α) (t : Tab α) : Prop :=
  t.Pairwise (fun a b => a.1 < b.1) ∧ ∀ p ∈ t, p.2 ≠ d

/-- The canonical form of a memory whose unlisted bytes read as 0. -/
abbrev Memory.wf (m : Mem) : Prop := Tab.wf (0 : Byte) m

/-- One byte of a memory (unlisted: 0, log 4). -/
def Mem.byte (m : Mem) (a : Nat) : Byte := Tab.read (0 : Byte) m a

/-- Write one byte of a memory. -/
def Mem.setByte (m : Mem) (a : Nat) (b : Byte) : Mem := Tab.write (0 : Byte) m a b

/-- The little-endian number in `n` bytes from an address (R12). -/
def Mem.num (m : Mem) (a : Nat) : Nat → Nat
  | 0 => 0
  | n + 1 => (Mem.byte m a).toNat + 256 * Mem.num m (a + 1) n

/-- Write a number little-endian into `n` bytes from an address (R12). -/
def Mem.setNum (m : Mem) (a : Nat) : Nat → Nat → Mem
  | 0, _ => m
  | n + 1, v => Mem.setNum (Mem.setByte m a (BitVec.ofNat 8 v)) (a + 1) n (v / 256)

/-- The line of 256 bytes at an address. -/
def Mem.line (m : Mem) (a : Nat) : Line := BitVec.ofNat 2048 (Mem.num m a 256)

/-- Write a line of 256 bytes at an address. -/
def Mem.setLine (m : Mem) (a : Nat) (v : Line) : Mem := Mem.setNum m a 256 v.toNat

/-- The bytes of a memory from an address. -/
def Mem.bytes (m : Mem) (a : Nat) : Nat → List Byte
  | 0 => []
  | n + 1 => Mem.byte m a :: Mem.bytes m (a + 1) n

/-- Write bytes from an address. -/
def Mem.setBytes (m : Mem) (a : Nat) : List Byte → Mem
  | [] => m
  | b :: bs => Mem.setBytes (Mem.setByte m a b) (a + 1) bs

/-- The number that bytes spell, little-endian. -/
def numOfBytes : List Byte → Nat
  | [] => 0
  | b :: bs => b.toNat + 256 * numOfBytes bs

/-- A number as `n` bytes, little-endian. -/
def bytesOfNum : Nat → Nat → List Byte
  | 0, _ => []
  | n + 1, v => BitVec.ofNat 8 v :: bytesOfNum n (v / 256)

end Sys2Proof.Machine
end

