-- ==== Sys2Proof/Machine/State.lean ====
section
/-! DEFINITION. The state of the module as plain data: every register (by BAR0 offset), memory, queue, buffer, counter,
mode and pin that the spec names, and the queue of waiting commands. Register reset values stand in Machine/RegMap.lean;
`State.reset` lists no register, so each reads its reset value. -/

namespace Sys2Proof.Machine

/-- Why a command stops the model. -/
inductive Fault where
  /-- Raised by a command that carries raw bytes whose number the interface cannot carry (a flit that is not 272 bytes,
  R383; `Instr.wf` is false of it). Hardware cannot receive such a command: safe. -/
  | illFormed (why : String)
  deriving DecidableEq, Repr

/-- Why a command has no meaning in the model. -/
inductive Refusal where
  /-- Raised by an arm of `exec` whose command has no meaning yet: safe. -/
  | notModelled (mnemonic : String)
  deriving DecidableEq, Repr

/-! ### Cores (03) -/

/-- State of an accumulator row (R98). -/
inductive RowState where
  | empty
  | pending
  | valid
  deriving DecidableEq, Repr, Inhabited

/-- What a weight bank was last loaded with (R88, R91, R92): a code of R349, whether scales came with it, the load that
filled it, how many of its rows are written, whether a load or pass has used it since CLEAR_ACC. -/
structure BankInfo where
  fmt : Option Nat := none
  scaled : Bool := false
  loadId : Nat := 0
  rows : Nat := 0
  used : Bool := false
  deriving DecidableEq, Repr, Inhabited

/-- A pass as its instruction gives it (R88, R355), with the load its weights come from. -/
structure Pass where
  stream : StreamId
  bank : Nat
  accumulate : Bool
  afmt : Nat
  wfmt : Nat
  len : Nat
  accb : Nat
  feedb : Nat
  ascale : Bool
  loadId : Nat
  deriving DecidableEq, Repr, Inhabited

/-- A line of a feed buffer: 128 bytes and 4 scale bytes (R93). -/
structure FeedLine where
  data : BitVec 1024 := 0
  scale : Word := 0
  deriving DecidableEq, Repr, Inhabited

/-- A pass in progress (R89): its start edge, the edge up to which its elements have entered and its columns are written, the
weights of its bank, and the activation codes (keyed 128 × row + element) and scale bytes (4 × row + block) that have entered. -/
structure PassRun where
  pass : Pass
  start : Nat
  upTo : Nat
  weights : Tab Word
  wscales : Tab Byte
  acts : Tab Word
  ascales : Tab Byte
  deriving DecidableEq, Repr, Inhabited

/-- A feed fill not yet complete (R94), with the inbox slot that it releases. -/
structure Fill where
  stream : StreamId
  due : Nat
  release : Option Nat
  deriving DecidableEq, Repr, Inhabited

/-- One array with its feed and accumulator buffers (R85). Weight elements are codes keyed bank × 16384 + 128 × row +
column; scales are keyed bank × 512 + 128 × block + column; accumulator entries 128 × row + column. -/
structure Array where
  weights : Tab Word := []
  wscales : Tab Byte := []
  bank0 : BankInfo := {}
  bank1 : BankInfo := {}
  feed : Tab FeedLine := []
  acc : Tab Word := []
  rowState : Tab RowState := []
  queue : List Pass := []
  running : List PassRun := []
  fills : List Fill := []
  drainBusy : Nat := 0
  /-- edge at which the last pass completed -/
  doneAt : Nat := 0
  deriving DecidableEq, Repr, Inhabited

/-- A weight load in progress (R91, R95, R353): arrays loaded directly and transposed, rows delivered so far (of 128,
or of 256 for a split load), the edge of its issue and of the last row written, and the rows of codes and scale bytes that its one
read of the source has taken; a row that read as uncorrectable has none. -/
structure WeightLoad where
  id : Nat
  stream : StreamId
  direct : List Nat
  trans : List Nat
  bank : Nat
  fmt : Nat
  scaled : Bool
  addr : Nat
  slot : Option Nat
  release : Bool
  delivered : Nat
  issue : Nat
  last : Nat
  taken : Tab Nat
  takenScales : Tab Nat
  deriving DecidableEq, Repr, Inhabited

/-- A slot of the tile inbox (R107): where its tile lies, which tile it is, and whether a delivery is in progress. Its
valid bit is `Core.inbox`. A `bad` delivery never becomes valid (R140). -/
structure Slot where
  addr : Nat := 0
  tile : Nat := 0
  delivering : Bool := false
  /-- flits that have arrived, and the indices of those written -/
  arrived : Nat := 0
  written : List Nat := []
  bad : Bool := false
  deriving DecidableEq, Repr, Inhabited

/-- An entry of a stream's fetch buffer (R366). -/
structure FetchEntry where
  word : InsnWord
  addr : Nat
  outside : Bool
  uncorrectable : Bool
  deriving DecidableEq, Repr, Inhabited

/-- One instruction stream at the picker (R108, R366, R549). -/
structure Stream where
  buf : List FetchEntry := []
  fetchAt : Nat := 0
  stopFetch : Bool := false
  head : Nat := 0
  ended : Bool := true
  wait : Option Nat := none
  waited : List Nat := []
  barrier : Bool := false
  window : Nat := 0
  slipped : Bool := false
  /-- edge of its last issue (R109) -/
  issuedAt : Option Nat := none
  deriving DecidableEq, Repr, Inhabited

/-- Where a saved Escrow tile lies (R194). -/
inductive EscPlace where
  | hbm (granule : Nat) (lines : Nat)
  | tier (place : Nat) (lines : Nat)
  | dropped
  deriving DecidableEq, Repr, Inhabited

/-- A read into the core store that guards later instructions of its stream (R108): the bytes it writes, the lines still
to come, the edge at which the last of those sent arrives, the Escrow tile that its completion frees (index key and place), and whether
it holds a request-queue entry for a Depository READ (R304). -/
structure MemOp where
  id : Nat
  stream : StreamId
  lo : Nat
  hi : Nat
  remaining : Nat
  last : Nat
  release : Option (Nat × EscPlace)
  entry : Bool
  deriving DecidableEq, Repr, Inhabited

/-- Bytes on their way into a core store: the edge at which they are written, and where (R273, R341). -/
structure Arrival where
  due : Nat
  addr : Nat
  data : List Byte
  poison : Bool
  deriving DecidableEq, Repr, Inhabited

/-- One physical core (R85). -/
structure Core where
  active : Bool := false
  off : Bool := false
  activeIndex : Nat := 255
  store : Mem := []
  /-- words of the store whose code reads as an error: `false` correctable, `true` uncorrectable (R104) -/
  marks : Tab Bool := []
  /-- the edge of the last transfer into the store, and the store and its marks before that edge (R103) -/
  before : Option (Nat × Mem × Tab Bool) := none
  rowRegs : Mem := []
  array0 : Array := {}
  array1 : Array := {}
  array2 : Array := {}
  array3 : Array := {}
  load : Option WeightLoad := none
  transBusy : Nat := 0
  rowQueue : List Nat := []
  rowDone : Nat := 0
  inbox : BitVec 16 := 0
  slots : Tab Slot := []
  fwd : Stream := {}
  bwd : Stream := {}
  ops : List MemOp := []
  /-- bytes that come from the memory-side dies, by edge -/
  arriving : List Arrival := []
  /-- the first edge at which a further request can leave the Vault request queue (R331) -/
  nextLeave : Nat := 0
  /-- a fault has stopped both streams until RUN is set again (R112) -/
  halted : Bool := false
  /-- edges in which results and drains hold the write port, from and up to, and the first edge free after inbox writes (R105) -/
  portBusy : List (Nat × Nat) := []
  takeFree : Nat := 0
  /-- RUN has been cleared and stopping has not completed (R116) -/
  stopping : Bool := false
  nextId : Nat := 1
  deriving DecidableEq, Repr, Inhabited

/-! ### Ring (04) -/

/-- KIND of a flit (R126). -/
inductive FlitKind where
  | tile
  | acc
  | mark
  deriving DecidableEq, Repr, Inhabited

/-- A flit with its sideband (R126). `tile` names the tile or stream it belongs to, `lines` its size and `addr` the slot
address its instruction names (R132); `due` is the edge at which it reaches the station. -/
structure RingFlit where
  kind : FlitKind
  stream : Nat
  slot : Nat
  index : Nat
  count : Nat
  origin : Nat
  payload : Line
  poison : Bool
  tile : Nat
  lines : Nat
  addr : Nat
  due : Nat
  deriving DecidableEq, Repr, Inhabited

/-- A tile in an injection queue (R131, R136). -/
structure Inj where
  id : Nat
  /-- the read that its lines come from, shared by the copies of a multicast -/
  group : Nat
  fromMem : Bool
  lane : Lane
  count : Nat
  slot : Nat
  slotAddr : Nat
  cstream : Nat
  lines : Nat
  addr : Nat
  hint : Nat
  spendN : Nat
  reblock : Option Nat
  mask : List Nat
  lead : Bool
  issued : Bool
  nextWindow : Bool
  arrived : Tab (Line × Bool)
  /-- edges at which the lines arrive -/
  dueAt : Tab Nat
  sent : List Nat
  deriving DecidableEq, Repr, Inhabited

/-- A contribution named at a station (R143, R362), and whether the rows that its stream's flits cover have been checked. -/
structure Contrib where
  array : Nat
  accb : Nat
  release : Bool
  lane : Lane
  origin : Nat
  done : Nat
  checked : Bool
  deriving DecidableEq, Repr, Inhabited

/-- A ring-accumulate stream opened at its origin (R143, R361). -/
structure AccStream where
  id : Nat
  lane : Lane
  k : Nat
  flits : Nat
  toCore : Bool
  add : Bool
  exit : Nat
  sent : Nat
  deriving DecidableEq, Repr, Inhabited

/-- One ring station (R124): queues and buffers, by lane where there is one per lane. -/
structure Station where
  injQ : List Inj := []
  mcast : List Inj := []
  takeCw : List RingFlit := []
  takeCcw : List RingFlit := []
  accCw : List RingFlit := []
  accCcw : List RingFlit := []
  contribs : List Contrib := []
  accs : List AccStream := []
  /-- tiles that never become valid here, with the flits that have passed (R140) -/
  lost : List (Nat × Nat) := []
  laneCw : Nat := 0
  laneCcw : Nat := 0
  deriving DecidableEq, Repr, Inhabited

/-- A tile whose credits are out (R140): takers that have not released it, when its credits return, and whether it came back to its
injector, with the takers that it never reached left out (R133). -/
structure TileOut where
  id : Nat
  stream : Nat
  credits : Nat
  toRelease : Nat
  origin : Nat
  lane : Lane
  due : Option Nat
  fitted : Bool
  deriving DecidableEq, Repr, Inhabited

/-- What an accumulate stream's exit needs where it leaves the ring (R147), kept by its id. -/
structure AccExit where
  id : Nat
  toCore : Bool
  add : Bool
  exit : Nat
  poisoned : Bool
  deriving DecidableEq, Repr, Inhabited

/-- The ring of one compute die. `hops` is keyed 34 × lane + destination station. -/
structure Ring where
  stations : Tab Station := []
  hops : Tab (List RingFlit) := []
  tiles : List TileOut := []
  exits : List AccExit := []
  counts : Tab Nat := []
  lastBarrier : Nat := 0
  /-- edge of the last event of this die's part of the ring (R149), and of the last wake of its segments (R152) -/
  eventAt : Nat := 0
  awakeAt : Nat := 0
  /-- rises of a credit count: stream, the edge from which the die itself can take them, credits (R140, R141) -/
  gains : List (Nat × Nat × Nat) := []
  deriving DecidableEq, Repr, Inhabited

/-! ### Line requests, near memory, Vault, expansion tier (07) -/

/-- Kinds of line request (R271). -/
inductive LineKind where
  | read
  | write
  | add
  | readClear
  | release
  deriving DecidableEq, Repr, Inhabited

/-- Hints (R271, R365). -/
inductive Hint where
  | stream
  | keep
  | spend (n : Nat)
  deriving DecidableEq, Repr, Inhabited

/-- Where a line that is read goes: a core store, a tile of an injection queue, or nowhere. -/
inductive Dest where
  | none
  | store (die phys addr op : Nat)
  | tile (die station inj index : Nat)
  deriving DecidableEq, Repr, Inhabited

/-- A line request on its way to its home die (R271, R272); `leave` is the edge at which it leaves its requester (R331). -/
structure LineReq where
  src : Requester
  kind : LineKind
  addr : Nat
  hint : Hint
  data : Line
  poison : Bool
  dest : Dest
  leave : Nat
  deriving DecidableEq, Repr, Inhabited

/-- What an HBM read does to the Vault when it returns (R275): allocates nothing, or a clean line with KEEP or a count. -/
inductive Fill? where
  | none
  | keep
  | count (n : Nat)
  deriving DecidableEq, Repr, Inhabited

/-- An outstanding HBM read (R264, R271). -/
structure HbmRead where
  req : LineReq
  channel : Nat
  alloc : Fill?
  deriving DecidableEq, Repr, Inhabited

/-- A line in a way of the Vault (R274), by its index in near memory. `marks` are words whose code reads as an error (R280): `false`
correctable, `true` uncorrectable. -/
structure VLine where
  line : Nat
  data : Line
  dirty : Bool
  keep : Bool
  count : Nat
  age : Nat
  poison : Bool
  marks : Tab Bool
  deriving DecidableEq, Repr, Inhabited

/-- A granule range in scratchpad (R283). -/
structure Partition where
  first : Nat
  count : Nat
  id : Nat
  deriving DecidableEq, Repr, Inhabited

/-- One memory-side die. `ways` is keyed 38 × set + slot; `slots` maps a slot to its bank; `scratch` is keyed by granule
× 2^20 + offset; poisoned scratchpad lines are listed by granule × 4,096 + line. `ppr` lists pseudo-channel and controller
row; `seen` rows are pseudo-channel × 2^18 + row; `steered` is the segment of each pseudo-channel that the repair reserve stands for
(R270). -/
structure MemDie where
  slots : Tab Nat := []
  failing : List Nat := []
  passing : List Nat := []
  ways : Tab VLine := []
  clock : Nat := 0
  parts : List Partition := []
  scratch : Mem := []
  scratchMarks : Tab Bool := []
  scratchPoison : List Nat := []
  queue : List HbmRead := []
  ppr : List (Nat × Nat) := []
  /-- symbols corrected and written back: controller row, symbol within it -/
  seen : List (Nat × Nat) := []
  steered : Tab Nat := []
  refreshed : Tab Nat := []
  /-- VLT_CTL.ENABLE has been written, set or cleared, and waits for the controllers (R294, R548) -/
  enabling : Bool := false
  disabling : Bool := false
  /-- edges at which unscheduled lines were admitted to a pseudo-channel queue in the window of R334 -/
  admitted : Tab (List Nat) := []
  deriving DecidableEq, Repr, Inhabited

/-- An expansion-tier request at the CXL port (R287), with its place in the order of arrival at the ports (R42). -/
structure XtReq where
  req : LineReq
  port : Nat
  order : Nat
  deriving DecidableEq, Repr, Inhabited

/-- Near memory, by line index 1,024 × L + P of R261: data bytes at 256 × index, check bytes e_j of a sector at 16 × index +
4 × sector + j (R255, R263), repair reserves at 16 × (1,024 × controller row + P) (R270); the expansion tier, its poisoned lines and requests in flight. -/
structure Memories where
  near : Mem := []
  check : Mem := []
  reserve : Mem := []
  tier : Mem := []
  tierPoison : List Nat := []
  reqs : List LineReq := []
  xt : List XtReq := []
  xtLost : List Nat := []
  cxl : List Nat := []
  qranges : List (Nat × Nat) := []
  deriving DecidableEq, Repr, Inhabited

/-! ### Depository (08) -/

/-- Where a block lies (R303). -/
inductive Loc where
  | absent
  | hbm
  | xt
  | moving
  deriving DecidableEq, Repr, Inhabited

/-- A block-table entry (R303). -/
structure DepEntry where
  loc : Loc := .absent
  frame : Nat := 0
  fill : Nat := 0
  pin : Bool := false
  ref : Bool := false
  poison : Bool := false
  deriving DecidableEq, Repr, Inhabited

/-- Kinds of Depository request (R304). -/
inductive DepKind where
  | write
  | read
  | fetch
  | drop
  deriving DecidableEq, Repr, Inhabited

/-- A Depository request (R304, R364), with the FP32 rows a WRITE carries, the guard of a READ, the edge at which it leaves its core
(R331) and its place in the order of issue (R307). -/
structure DepReq where
  die : Nat
  phys : Nat
  kind : DepKind
  stream : Nat
  plane : Nat
  pos : Nat
  n : Nat
  caddr : Nat
  saddr : Nat
  pin : Nat
  deliv : Nat
  rows : List Word
  op : Nat
  leave : Nat
  seq : Nat
  deriving DecidableEq, Repr, Inhabited

/-- A fault-queue entry (R313): the block and the requests that wait for it. -/
structure FaultEntry where
  key : Nat
  waiting : List DepReq
  deriving DecidableEq, Repr, Inhabited

/-- A page transfer in flight (R310, R312): the block, its direction, its HBM frame and its region frame, the CXL ports of that frame and
its place in the order of arrival there (R42). -/
structure PageMove where
  key : Nat
  toTier : Bool
  hbm : Nat
  xt : Nat
  ports : List Nat
  order : Nat
  deriving DecidableEq, Repr, Inhabited

/-- One Depository slice. The cache holds block-table entries by stream × 2^22 + block, most recent first. -/
structure Slice where
  cache : List (Nat × DepEntry) := []
  frames : Tab Nat := []
  xtFrames : Tab Nat := []
  faults : List FaultEntry := []
  moves : List PageMove := []
  intake : List DepReq := []
  forFrame : List DepReq := []
  /-- sweep position, and whether page-outs go on until HIGH (R309) -/
  sweepAt : Nat := 0
  sweeping : Bool := false
  deriving DecidableEq, Repr, Inhabited

/-- The Depository (R25): open streams with their descriptors (R299), the stream that is opening and whether its descriptor is still to
be read, one that is closing, requests held on them, and the number of requests issued. -/
structure Depository where
  streams : Tab (BitVec 512) := []
  opening : Option Nat := none
  reading : Bool := false
  issued : Nat := 0
  closing : Option Nat := none
  held : List DepReq := []
  slice0 : Slice := {}
  slice1 : Slice := {}
  slice2 : Slice := {}
  slice3 : Slice := {}
  deriving DecidableEq, Repr, Inhabited

/-! ### Errors (13) -/

/-- Error classes (R435). -/
inductive ErrClass where
  | corrected
  | notice
  | step
  | restore
  | depart
  | fatal
  deriving DecidableEq, Repr, Inhabited

/-- An error whose action waits or runs (R442, R443). `memory` marks one found in a memory-side die region. -/
structure ErrRef where
  cls : ErrClass
  region : Nat
  code : Nat
  deriving DecidableEq, Repr, Inhabited

/-- An error that waits for an earlier handling to end (R443): with its SEQ, its line address, and whether it is charged to the
attempt that follows (R444). -/
structure QueuedErr where
  ref : ErrRef
  seq : Nat
  addr : Nat
  later : Bool
  deriving DecidableEq, Repr, Inhabited

/-! ### The job and the step (05, 06, 10) -/

/-- A layer entry of the image (R375). -/
structure LayerEntry where
  package : Bool
  frozen : Bool
  trainable : Bool
  layer : Nat
  record : Nat
  deriving DecidableEq, Repr, Inhabited

/-- A range entry of the image (R376). -/
structure MapRange where
  kind : Nat
  base : Nat
  size : Nat
  deriving DecidableEq, Repr, Inhabited

/-- A per-core section of the image (R373, R374): its type, variant, dies, active index, load address and bytes. -/
structure CoreSection where
  type : Nat
  variant : Bool
  eval : Bool
  dies : List Nat
  index : Nat
  load : Nat
  bytes : List Byte
  deriving DecidableEq, Repr, Inhabited

/-- The loaded image (R372 to R376). -/
structure Job where
  overlap : Bool := false
  spill : Bool := false
  hot : Bool := false
  compat : Bool := false
  level : Nat := 0
  fmax : Nat := 0
  bgLines : Nat := 0
  microBatches : Nat := 1
  versionStride : Nat := 0
  gradStride : Nat := 0
  escBase : Nat := 0
  escGranules : Nat := 0
  xtDep : Nat := 0
  xtEsc : Nat := 0
  evalLimit : Nat := 0
  digest : BitVec 256 := 0
  layers : List LayerEntry := []
  ranges : List MapRange := []
  sections : List CoreSection := []
  deriving DecidableEq, Repr, Inhabited

/-- A vote as received (R235, R397). -/
structure Vote where
  src : Nat
  step : Nat
  epoch : Nat
  skips : Nat
  nonfinite : Bool
  fault : Bool
  deriving DecidableEq, Repr, Inhabited

/-- A Teller (R213): its queue of record indices, the record in progress with its LAYER and the status it will post, and whether
the matrix unit works for it (R223). -/
structure Teller where
  queue : List Nat := []
  /-- QFLUSH, or SCH_COMPUTE of the engine beside it, has been written and waits for the memory controllers (R548) -/
  flushing : Bool := false
  computing : Bool := false
  current : Option (Nat × Nat × Nat) := none
  /-- the 128 bytes of the record in progress, read at the head of the queue (R213, R378) -/
  record : Nat := 0
  matrix : Bool := false
  deriving DecidableEq, Repr, Inhabited

/-- An entry of the step report being formed (R504): LAYER, status, Teller. -/
structure ReportEntry where
  layer : Nat
  status : Nat
  teller : Nat
  deriving DecidableEq, Repr, Inhabited

/-- A step report (R504). -/
structure Report where
  outcome : Nat
  flags : Nat
  rating : Nat
  step : Nat
  ls : Word
  abandoned : Nat
  snapStep : Nat
  jnlFirst : Nat
  jnlLast : Nat
  done : Nat
  entries : List ReportEntry
  deriving DecidableEq, Repr, Inhabited

/-- The injector, stamps, Escrow and Posting engine of the step in progress. -/
structure Step where
  job : Option Job := none
  holds : Tab Nat := []
  /-- occupied stamp entries (R187) -/
  stamps : Tab (BitVec 128) := []
  /-- MB and STEP of the next micro-batch -/
  nextMb : Nat := 0
  admitStep : Nat := 0
  stopped : Bool := true
  stopRequested : Bool := false
  granules : List Nat := []
  tierPlaces : List Nat := []
  escrow : Tab EscPlace := []
  evalRequested : Bool := false
  evalRunning : Bool := false
  /-- micro-batches whose backward pass of a layer is complete, by parity of the step × 65536 + record (R205), and those whose last
  backward pass is, by parity (R187) -/
  passes : Tab (List Nat) := []
  batches : Tab (List Nat) := []
  /-- the Mint has been seeded in this ENTRY (R74) -/
  seeded : Bool := false
  /-- records enqueued in this step, and records held under R550 -/
  enqueued : List Nat := []
  heldRecords : List Nat := []
  teller0 : Teller := {}
  teller1 : Teller := {}
  /-- state of R234 -/
  post : Nat := 0
  nonfinite : Bool := false
  votedNonfinite : Bool := false
  votedFault : Bool := false
  voteSent : Bool := false
  votes : List Vote := []
  stalled : Bool := false
  /-- a step fault was raised or received in this attempt (R197); another, with its SEQ, is charged to the next attempt
  (R444) -/
  faulted : Bool := false
  faultNext : Option Nat := none
  /-- the error that faulted the attempt (R442) -/
  faultRef : Option ErrRef := none
  abandonedDies : List Nat := []
  /-- micro-batches abandoned by the last skip -/
  abandoned : Nat := 0
  /-- the report being formed -/
  reportDone : Nat := 0
  reportEntries : List ReportEntry := []
  jnlFirst : Nat := 0
  secured : Bool := false
  lastSkipped : Bool := false
  /-- the votes of the last decision (R234) -/
  decNonfinite : Bool := false
  decFault : Bool := false
  /-- records that were frozen at the last Posting or load (R225) -/
  frozenRecs : List Nat := []
  /-- evaluation sections stand in the core stores; edge at which the slot began (R200) -/
  evalPlaced : Bool := false
  evalStart : Nat := 0
  deriving DecidableEq, Repr, Inhabited

/-- The Mint (R73, R74): the seeds in force, and the draws each lane has made since they were given. Lanes are keyed 8 ×
unit + lane, units 0 to 135 the cores, 136 to 139 the converters, 140 and 141 the Tellers. -/
structure Mint where
  seed : Nat := 0
  draws : Tab Nat := []
  deriving DecidableEq, Repr, Inhabited

/-! ### Vyvan Link (11) -/

/-- A flit held by a port (R383, R385). `seq` is set once it has been sent. -/
structure LinkFlit where
  type : Nat
  poison : Bool
  cls : Nat
  payload : Line
  seq : Nat
  sends : Nat
  deriving DecidableEq, Repr, Inhabited

/-- A message (R395): class, HEAD payload, DATA lines with their poison. -/
structure Msg where
  cls : Nat
  head : Line
  data : List (Line × Bool)
  deriving DecidableEq, Repr, Inhabited

/-- State of a port (R407). -/
inductive PortState where
  | down
  | training
  | negotiating
  | up
  | retraining
  deriving DecidableEq, Repr, Inhabited

/-- One Vyvan port (R380 to R389). Per-class values are keyed by class. -/
structure Port where
  state : PortState := .down
  lanes : List Nat := []
  spareInUse : Bool := false
  spareFor : Nat := 15
  lost : Bool := false
  peer : Nat := 0
  peerFeature : Nat := 0
  otherGeneration : Bool := false
  nextSeq : Nat := 0
  expected : Nat := 0
  replay : List LinkFlit := []
  resend : Option Nat := none
  nakDue : Option Nat := none
  credits : Tab Nat := []
  owed : Tab Nat := []
  egress : Tab (List LinkFlit) := []
  deficit : Tab Nat := []
  tokens : Nat := 8
  flitTimes : Nat := 0
  partialMsg : Tab Msg := []
  inbox : Tab (List Msg) := []
  /-- bytes of the flit that goes out, by physical lane (R380) -/
  wire : Tab (List Byte) := []
  /-- flits that have arrived, and of each logical lane the flits at which symbols were corrected, within 2^20 flits (R382) -/
  flitsIn : Nat := 0
  laneErrs : Tab (List Nat) := []
  /-- the physical lane for which the port retrains -/
  failing : Option Nat := none
  deriving DecidableEq, Repr, Inhabited

/-- A staged membership change (R401, R503). -/
structure Staged where
  step : Nat
  epoch : Nat
  group : Nat
  ledgerWords : List Word
  members : List Nat
  joiners : List Nat
  leavers : List Nat
  owners : List (Nat × Nat × Nat)
  deriving DecidableEq, Repr, Inhabited

/-- The link beyond its ports: route shadow bank, arrival marks (count, total), counters of R400 keyed (2 × io + parity) ×
65536 + record, held messages, class-0 messages seen in the epoch, membership. -/
structure Link where
  ports : Tab Port := []
  shadow : Tab Word := []
  marks : Tab (Nat × Nat) := []
  gradCount : Tab Nat := []
  bcastCount : Tab Nat := []
  /-- TOTAL of the messages that the counters count, by parity × 65536 + record (R397, R400) -/
  gradTotal : Tab Nat := []
  bcastTotal : Tab Nat := []
  /-- messages that wait for VL_SKIPS, with the port that holds them (R398) -/
  held : List (Nat × Msg) := []
  seen : List Line := []
  members : List Nat := []
  staged : Option Staged := none
  joiners : List Nat := []
  leavers : List Nat := []
  /-- READY and LEAVE messages: sender and NEW_EPOCH (R397, R401) -/
  readies : List (Nat × Nat) := []
  lefts : List (Nat × Nat) := []
  accepted : List Nat := []
  msgCount : Nat := 0
  firmwareInbox : List Line := []
  deriving DecidableEq, Repr, Inhabited

/-! ### Clocks and the Treasury (12) -/

/-- One clock domain (R410, R412, R413, R418). -/
structure Domain where
  awake : Bool := false
  /-- edge at which a wake condition was seen while the domain sleeps (R413) -/
  wakeAt : Option Nat := none
  /-- consecutive edges, 64 at most, for which the sleep condition of the awake domain has held (R413) -/
  rested : Nat := 0
  swallowed : Nat := 0
  originated : Nat := 0
  slowPeriods : Nat := 0
  slow : Bool := false
  wakes : Nat := 0
  deferred : Nat := 0
  opIndex : Nat := 2
  deriving DecidableEq, Repr, Inhabited

/-- Phases of an operating-point change (R416). -/
inductive ChangePhase where
  | idle
  | decided
  | prepared
  | posted
  | switching
  deriving DecidableEq, Repr, Inhabited

/-- The Treasury and the clock generators. -/
structure Treasury where
  phase : ChangePhase := .idle
  nextOp : Nat := 2
  changeEdge : Nat := 0
  acks : List Nat := []
  switched : List Nat := []
  /-- grants computed at the last boundary and not yet in effect -/
  pending : List Nat := []
  /-- mesh edges since the grants took effect, per region -/
  meshAt : Tab Nat := []
  capped : List Nat := []
  /-- share of mesh edges swallowed, in 64ths, of the last periods; and whether demand would have fitted one point up -/
  swallowHistory : List Nat := []
  fitHistory : List Bool := []
  sinceChange : Nat := 100
  vinSeen : Nat := 0
  deriving DecidableEq, Repr, Inhabited

/-! ### Faults, Journal, Ledger (13) -/

/-- A Journal entry (R438). -/
structure JEntry where
  cls : ErrClass
  region : Nat
  domain : Nat
  joined : Bool
  queued : Bool
  escalated : Bool
  lostBefore : Bool
  seq : Nat
  edge : Nat
  code : Nat
  step : Nat
  addr : Nat
  unit : Nat
  info : Nat
  deriving DecidableEq, Repr, Inhabited

/-- The Journal (R440) and error handling (R442, R443). -/
structure Journal where
  entries : List JEntry := []
  oldest : Nat := 0
  seq : Nat := 0
  lost : Nat := 0
  lostRegions : List Nat := []
  handling : Option ErrRef := none
  queue : List QueuedErr := []
  stepFaults : Nat := 0
  deriving DecidableEq, Repr, Inhabited

/-- Stages of a recovery (R445). -/
inductive RecStage where
  | none
  | pendingSkip
  | imageNeeded
  | restoreNeeded
  | resume
  deriving DecidableEq, Repr, Inhabited

/-- The fatal stop and its dump (R469 to R471). -/
structure Fatal where
  pending : Option (Nat × Nat) := none
  stopped : Bool := false
  dumpHeld : Bool := false
  laterSeq : Nat := 0
  complete : Bool := false
  flushed : Bool := false
  selfRefresh : Bool := false
  deriving DecidableEq, Repr, Inhabited

/-- Recovery (R445) and departure (R435): cores that the image must fill (34 × die + core), lines of protected state that are
lost. -/
structure Recovery where
  stage : RecStage := .none
  cores : List Nat := []
  lost : List Nat := []
  memoryRegion : Bool := false
  departNeeded : Bool := false
  haltedLs : Bool := false
  haltedSteps : Bool := false
  deriving DecidableEq, Repr, Inhabited

/-- The Ledger (R452 to R454): steps named by SECURE messages, the securing in progress and how far it is. -/
structure Ledger where
  secures : List Nat := []
  acksDue : List Nat := []
  building : Option Nat := none
  read : Nat := 0
  applied : Nat := 0
  digest : Option (BitVec 256) := none
  /-- where the lines of this package lie in its holders' spare halves (log 8) -/
  bases : List Nat := []
  armed : Bool := true
  deriving DecidableEq, Repr, Inhabited

/-! ### Farhies, mailbox, power, Tally, management port, JTAG (14, 15, 16) -/

/-- Fuses and straps of the module (R3, R482, R485, R542). -/
structure Fuses where
  stepMajor : Nat := 1
  lifecycle : Nat := 0
  svn : Nat := 0
  rootDigest : BitVec 256 := 0
  secret : BitVec 256 := 0
  manufacturer : BitVec 11 := 0
  straps : Nat := 0
  deriving DecidableEq, Repr, Inhabited

/-- The Farhies memory after a boot (R481, R485, R493). -/
structure Farhies where
  bootDone : Bool := false
  bank : Option Bool := none
  /-- the verified bank header, 4 KiB, whose digest is M -/
  measurement : BitVec 256 := 0
  configDigest : BitVec 256 := 0
  /-- seed of the attestation key while its secret key is held -/
  keySeed : Option (BitVec 256) := none
  devidDigest : BitVec 256 := 0
  /-- fused SVN when the keys were derived -/
  fusedAtBoot : Nat := 0
  jobKey : Option (List Byte) := none
  nonce : Option (BitVec 256) := none
  firstLoad : Bool := false
  /-- a debug token has moved the lifecycle to DEBUG until the next cold start (R488) -/
  unlocked : Bool := false
  debugKeys : List (List Byte) := []
  deriving DecidableEq, Repr, Inhabited

/-- A long operation (R501): its id, its request frame, the failing offset of its host buffer, the outcome it will have, and
whether it has completed. -/
structure LongOp where
  id : Nat
  frame : BitVec 512
  hostFault : Option Nat
  result : Nat
  detail : Nat
  done : Bool
  deriving DecidableEq, Repr, Inhabited

/-- The mailbox beyond its registers (R498 to R508). -/
structure Mailbox where
  taken : Nat := 0
  firstRequest : Bool := false
  ops : List LongOp := []
  nextOp : Nat := 1
  evalEnded : Bool := false
  abandoned : Bool := false
  opDone : Bool := false
  haltedHost : Bool := false
  restoreFailed : Bool := false
  reports : List Report := []
  deriving DecidableEq, Repr, Inhabited

/-- Phases of the power stage (R537 to R539). -/
inductive PowerPhase where
  | off
  | holding
  | on
  deriving DecidableEq, Repr, Inhabited

/-- The power stage: input voltage in mV, PWR_EN, its phase, latches (R531, R537, R540), HOST_PERST_N, which the host has not
released at the rise of PWR_GOOD (R538, log 6). -/
structure Power where
  phase : PowerPhase := .on
  vin : Nat := 72000
  pwrEn : Bool := true
  thermTrip : Bool := false
  overVoltage : Bool := false
  alwaysOn : Bool := true
  perstN : Bool := false
  dieTemp : Int := 25
  stackTemp : Int := 25
  deriving DecidableEq, Repr, Inhabited

/-- The answer of the host bus to the last host access (R15, R17, R19). -/
inductive BusReply where
  | none
  | value (w : Word)
  | done
  | unsupported
  deriving DecidableEq, Repr, Inhabited

/-- JTAG instructions (R543). -/
inductive JtagReg where
  | bypass
  | idcode
  | boundary
  deriving DecidableEq, Repr, Inhabited

/-- The test access port (R543): the register between TDI and TDO, what it holds, the boundary cells, and whether they
drive, float or clamp the outputs. -/
structure Jtag where
  selected : JtagReg := .bypass
  shift : Word := 0
  cells : BitVec 64 := 0
  driving : Bool := false
  floating : Bool := false
  clamped : Bool := false
  deriving DecidableEq, Repr, Inhabited

/-- An increment on its way to a counter, and the edge in which it is counted (R515). -/
structure Increment where
  due : Nat
  block : Nat
  counter : Nat
  value : Nat
  deriving DecidableEq, Repr, Inhabited

/-- Tally (R513 to R522): counters keyed 16 × block + k, the edge of each counter's last event, units of the window in
progress keyed by the offset of their derived register. -/
structure Tally where
  counts : Tab Nat := []
  /-- increments that have not reached their counters (R515) -/
  coming : List Increment := []
  /-- the edge of the last write to a TLY_SELk that was counting, and what each register written in it held before, by offset
  (R516) -/
  selEdge : Nat := 0
  selWas : Tab Word := []
  lastEvent : Tab Nat := []
  units : Tab Nat := []
  /-- OVF of each block's TLY_BCTL, one bit per counter -/
  ovf : Tab Nat := []
  deriving DecidableEq, Repr, Inhabited

/-- Bits of registers that the module has set, and counts that it has raised, in one edge, by BAR0 offset (R20). -/
structure Fresh where
  edge : Nat := 0
  bits : Tab Nat := []
  deriving DecidableEq, Repr, Inhabited

/-- The whole module. -/
structure State where
  /-- commands that wait, first in, first out -/
  pending : List Instr := []
  /-- edge count of XD0's die control (R410, R434) -/
  edge : Nat := 0
  /-- registers that differ from their reset value, by BAR0 offset (R16) -/
  regs : Tab Word := []
  recent : Fresh := {}
  cores : Tab Core := []
  rings : Tab Ring := []
  dies : Tab MemDie := []
  mem : Memories := {}
  dep : Depository := {}
  step : Step := {}
  mint : Mint := {}
  link : Link := {}
  domains : Tab Domain := []
  tsy : Treasury := {}
  jnl : Journal := {}
  fatal : Fatal := {}
  rec_ : Recovery := {}
  ldg : Ledger := {}
  fuses : Fuses := {}
  far : Farhies := {}
  nvm : Mem := []
  mbx : Mailbox := {}
  hostMem : Mem := []
  power : Power := {}
  tally : Tally := {}
  jtag : Jtag := {}
  bus : BusReply := .none
  mgmtOut : List Byte := []
  /-- identifiers given to tiles, streams and loads -/
  nextId : Nat := 1
  /-- the model's own: how many free values have been taken (log 8) -/
  free : Nat := 0
  deriving DecidableEq, Repr, Inhabited

/-- The module right after reset: PWR_GOOD has risen, the boot has not begun, every register at its reset value (log 6). -/
def State.reset : State := {}

end Sys2Proof.Machine
end

