-- ==== Sys2Proof/Machine/Ops.lean ====
section
/-! DEFINITION. Named operations on the state that every family shares: registers and their fields, units by index, edges and
time, Tally counts, link messages, the Journal and what a detected error does (R435 to R444). -/

namespace Sys2Proof.Machine

/-- The outcome of a command. -/
abbrev Out := Host.Outcome State Fault Refusal

/-! ### Bits -/

/-- Bits [hi:lo] of a number (R12). -/
def bits (n hi lo : Nat) : Nat := n / 2 ^ lo % 2 ^ (hi + 1 - lo)

/-- A number with bits [hi:lo] replaced. -/
def setBits (n hi lo v : Nat) : Nat := n - 2 ^ lo * bits n hi lo + 2 ^ lo * (v % 2 ^ (hi + 1 - lo))

/-- Bit `i` of a number. -/
def bit (n i : Nat) : Bool := n / 2 ^ i % 2 == 1

/-- 1 for true. -/
def b2n (b : Bool) : Nat := if b then 1 else 0

/-- The numbers `a`, `a + 1`, … below `a + n`. -/
def upFrom (a n : Nat) : List Nat := (List.range n).map (fun i => a + i)

/-- The indices of the bits of a number that are 1, below `w`. -/
def bitList (n w : Nat) : List Nat := (List.range w).filter (fun i => bit n i)

/-- Number of leading elements for which a test holds. -/
def countWhere {α : Type} (p : α → Bool) (l : List α) : Nat := (l.filter p).length

/-- The least number below `n` that is not in a list: it is at most the length of the list. -/
def firstFree (used : List Nat) (n : Nat) : Option Nat :=
  (List.range (min n (used.length + 1))).find? (fun i => !used.contains i)

/-! ### Registers -/

/-- What a register of `State.regs` holds. -/
def State.reg (s : State) (off : Nat) : Word := Tab.read (regReset off) s.regs off

/-- Set a whole register. -/
def State.setReg (s : State) (off : Nat) (v : Word) : State :=
  { s with regs := Tab.write (regReset off) s.regs off v }

/-- A field of a register. -/
def State.rf (s : State) (off hi lo : Nat) : Nat := bits (s.reg off).toNat hi lo

/-- Set a field of a register. -/
def State.setRf (s : State) (off hi lo v : Nat) : State :=
  s.setReg off (BitVec.ofNat 32 (setBits (s.reg off).toNat hi lo v))

/-- Bits of a register that the module has set in the present edge (R20). -/
def State.freshBits (s : State) (off : Nat) : Nat := if s.recent.edge = s.edge then Tab.read 0 s.recent.bits off else 0

/-- The module sets bits of a register in the present edge: a clear by a writer in the same edge leaves them set (R20). -/
def State.markFresh (s : State) (off mask : Nat) : State :=
  { s with recent := { edge := s.edge,
                        bits := Tab.write 0 (if s.recent.edge = s.edge then s.recent.bits else []) off (s.freshBits off ||| mask) } }

/-- Set bits of a register (a fault or flag register): OR in a mask. -/
def State.orReg (s : State) (off mask : Nat) : State :=
  (s.setReg off (s.reg off ||| BitVec.ofNat 32 mask)).markFresh off mask

/-- Add to a counting field that saturates. -/
def State.countRf (s : State) (off hi lo n : Nat) : State :=
  (s.setRf off hi lo (min (s.rf off hi lo + n) (2 ^ (hi + 1 - lo) - 1))).markFresh off (if n = 0 then 0 else 2 ^ lo)

/-- A writer clears a counting field: a count in the same edge leaves it at 1 (R20, R122, R166, R291). -/
def State.clearRf (s : State) (off hi lo : Nat) : State :=
  s.setRf off hi lo (if bit (s.freshBits off) lo then 1 else 0)

def State.tlrStep (s : State) : Nat := (s.reg (tlrBase 0 + 0x20)).toNat
def State.setTlrStep (s : State) (v : Nat) : State := s.setReg (tlrBase 0 + 0x20) (BitVec.ofNat 32 v)

/-- The active version of the step in progress (R201). -/
def State.activeVer (s : State) : Nat := (s.tlrStep + s.rf (tlrBase 0 + 0x24) 0 0) % 2

/-! ### Units by index -/

def State.core (s : State) (d p : Nat) : Core := Tab.read {} s.cores (34 * d + p)
def State.setCore (s : State) (d p : Nat) (c : Core) : State :=
  { s with cores := Tab.write {} s.cores (34 * d + p) c }
def State.modCore (s : State) (d p : Nat) (f : Core → Core) : State := s.setCore d p (f (s.core d p))

def State.ring (s : State) (d : Nat) : Ring := Tab.read {} s.rings d
def State.setRing (s : State) (d : Nat) (r : Ring) : State := { s with rings := Tab.write {} s.rings d r }
def State.modRing (s : State) (d : Nat) (f : Ring → Ring) : State := s.setRing d (f (s.ring d))

def Ring.station (r : Ring) (j : Nat) : Station := Tab.read {} r.stations j
def Ring.setStation (r : Ring) (j : Nat) (t : Station) : Ring := { r with stations := Tab.write {} r.stations j t }
def Ring.modStation (r : Ring) (j : Nat) (f : Station → Station) : Ring := r.setStation j (f (r.station j))

def State.station (s : State) (d j : Nat) : Station := (s.ring d).station j
def State.modStation (s : State) (d j : Nat) (f : Station → Station) : State :=
  s.modRing d (fun r => r.modStation j f)

def State.die (s : State) (d : Nat) : MemDie := Tab.read {} s.dies d
def State.setDie (s : State) (d : Nat) (m : MemDie) : State := { s with dies := Tab.write {} s.dies d m }
def State.modDie (s : State) (d : Nat) (f : MemDie → MemDie) : State := s.setDie d (f (s.die d))

def State.domain (s : State) (i : Nat) : Domain := Tab.read {} s.domains i
def State.setDomain (s : State) (i : Nat) (m : Domain) : State := { s with domains := Tab.write {} s.domains i m }
def State.modDomain (s : State) (i : Nat) (f : Domain → Domain) : State := s.setDomain i (f (s.domain i))

def State.port (s : State) (p : Nat) : Port := Tab.read {} s.link.ports p
def State.setPort (s : State) (p : Nat) (q : Port) : State :=
  { s with link := { s.link with ports := Tab.write {} s.link.ports p q } }
def State.modPort (s : State) (p : Nat) (f : Port → Port) : State := s.setPort p (f (s.port p))

def Core.array (c : Core) (i : Nat) : Array :=
  if i = 0 then c.array0 else if i = 1 then c.array1 else if i = 2 then c.array2 else c.array3
def Core.setArray (c : Core) (i : Nat) (a : Array) : Core :=
  if i = 0 then { c with array0 := a } else if i = 1 then { c with array1 := a }
  else if i = 2 then { c with array2 := a } else { c with array3 := a }
def Core.modArray (c : Core) (i : Nat) (f : Array → Array) : Core := c.setArray i (f (c.array i))

def Core.stream (c : Core) : StreamId → Stream
  | .fwd => c.fwd
  | .bwd => c.bwd
def Core.setStream (c : Core) (i : StreamId) (x : Stream) : Core :=
  match i with
  | .fwd => { c with fwd := x }
  | .bwd => { c with bwd := x }

def Depository.slice (x : Depository) (i : Nat) : Slice :=
  if i = 0 then x.slice0 else if i = 1 then x.slice1 else if i = 2 then x.slice2 else x.slice3
def Depository.setSlice (x : Depository) (i : Nat) (a : Slice) : Depository :=
  if i = 0 then { x with slice0 := a } else if i = 1 then { x with slice1 := a }
  else if i = 2 then { x with slice2 := a } else { x with slice3 := a }
def State.slice (s : State) (i : Nat) : Slice := s.dep.slice i
def State.modSlice (s : State) (i : Nat) (f : Slice → Slice) : State :=
  { s with dep := s.dep.setSlice i (f (s.dep.slice i)) }

def Step.teller (x : Step) (n : Nat) : Teller := if n = 0 then x.teller0 else x.teller1
def Step.setTeller (x : Step) (n : Nat) (t : Teller) : Step :=
  if n = 0 then { x with teller0 := t } else { x with teller1 := t }

/-! ### Domains and regions (R412, R424, R547) -/

def domCore (d p : Nat) : Nat := 39 * d + p
def domSegment (d i : Nat) : Nat := 39 * d + 34 + i
def domCdCtl (d : Nat) : Nat := 39 * d + 38
def domMd (d j : Nat) : Nat := 156 + 10 * d + j
def domXd (n j : Nat) : Nat := 196 + 16 * n + j
def domAon (j : Nat) : Nat := 228 + j
/-- DOMAIN of an entry that no domain detects (R438). -/
def domNone : Nat := 0xFF

/-- The power region of a domain (R412, R424); 0x7F for the always-on domains (R434). -/
def domRegion (i : Nat) : Nat :=
  if i < 156 then
    10 * (i / 39) + (if i % 39 < 34 then min (i % 39 / 4) 8 else 9)
  else if i < 196 then
    40 + 3 * ((i - 156) / 10) +
      (if (i - 156) % 10 < 4 then 0 else if (i - 156) % 10 < 6 then 1 else 2)
  else if i < 228 then
    52 + 6 * ((i - 196) / 16) +
      (let j := (i - 196) % 16
       if j < 9 then j / 3 else if j = 9 ∨ j = 10 then 3 else if j = 12 ∨ j = 13 then 4 else 5)
  else 0x7F

/-- The error region of a detecting domain: its power region, or 64 for the always-on domains (R435). -/
def errRegion (i : Nat) : Nat := if 228 ≤ i then 64 else domRegion i

/-- Whether a domain may sleep (R412). -/
def domSleepable (i : Nat) : Bool :=
  if i < 156 then i % 39 < 38
  else if i < 196 then (i - 156) % 10 == 7
  else if i < 228 then (let j := (i - 196) % 16; decide (j ≤ 10) || j == 12 || j == 13)
  else false

/-- Edges of the die control between a wake condition and service (R412, R414); 0 for a domain that never sleeps. -/
def domWake (i : Nat) : Nat :=
  if i < 156 then (if i % 39 < 38 then 512 else 0)
  else if i < 196 then (if (i - 156) % 10 = 7 then 1024 else 0)
  else if i < 228 then (if (i - 196) % 16 = 9 then 1024 else if (i - 196) % 16 = 10 then 256 else 0)
  else 0

/-- Edges of the die control between a wake condition and the opening of the domain gate (R414). -/
def domGate (i : Nat) : Nat := if domWake i = 1024 then 960 else domWake i / 8 * 7

/-- The edge count of a domain: equal to that of XD0's die control, less the edges it has swallowed beyond it (R410,
R418). -/
def State.domEdge (s : State) (i : Nat) : Nat :=
  s.edge + (s.domain (domXd 0 15)).swallowed - (s.domain i).swallowed

/-! ### Tally (R513 to R516) -/

/-- Counter `k` of a block after an increment: it wraps from 2^64 - 1 and sets its OVF bit (R515). -/
def Tally.bump (t : Tally) (b k v : Nat) : Tally :=
  let n := Tab.read 0 t.counts (16 * b + k) + v
  let t := { t with counts := Tab.write 0 t.counts (16 * b + k) (n % 2 ^ 64) }
  if 2 ^ 64 ≤ n then { t with ovf := Tab.write 0 t.ovf b (Tab.read 0 t.ovf b ||| 2 ^ k) } else t

/-- Whether TLY_SELk of a block selects an event at a unit (R514, R526). -/
def tallySelects (sel ev unit : Nat) : Bool :=
  bit sel 31 && bits sel 15 0 == ev && (bits sel 24 16 == 0x1FF || bits sel 24 16 == unit)

/-- An increment leaves for counter `k` of a block; it is counted 4 edges after its own (R515). -/
def Tally.send (t : Tally) (b k v edge : Nat) : Tally :=
  if v = 0 then t else { t with coming := t.coming ++ [{ due := edge + 4, block := b, counter := k, value := v }] }

/-- The increments that fall before an edge are counted (R515); none is while ENABLE is 0 (R516). -/
def Tally.land (t : Tally) (on : Bool) (edge : Nat) : Tally :=
  let now := t.coming.filter (fun x => decide (x.due < edge))
  let t1 := { t with coming := t.coming.filter (fun x => !decide (x.due < edge)) }
  if on then now.foldl (fun t x => t.bump x.block x.counter x.value) t1 else t1

/-- One counter's share of an event of value `v` at an edge (R514). -/
def Tally.event (t : Tally) (sel b k ev unit v edge : Nat) : Tally :=
  if tallySelects sel ev unit then
    let last := Tab.read 0 t.lastEvent (16 * b + k)
    let inc := if bit sel 30 then (if last = edge ∨ last = edge + 1 then 0 else 1) else v
    Tally.send { t with lastEvent := Tab.write 0 t.lastEvent (16 * b + k) (edge + 1) } b k inc edge
  else t

def tlySel (b k : Nat) : Nat := tlyBlock b + 0x100 + 4 * k

/-- The selection by which counter `k` of a block counts in the present edge: a new one counts from the next edge (R516). -/
def State.selNow (s : State) (b k : Nat) : Nat :=
  ((if s.tally.selEdge = s.edge then Tab.find? s.tally.selWas (tlySel b k) else none).getD (s.reg (tlySel b k))).toNat

/-- TLY_CTL.ENABLE. -/
def State.tallyOn (s : State) : Bool := s.rf (tlyBase + 4) 0 0 == 1

/-- Deliver an event of value `v` to a block's counters (R514): nothing while ENABLE is 0 or FREEZE is 1 (R516). -/
def State.count (s : State) (b ev unit v : Nat) : State :=
  if s.tallyOn = true ∧ s.rf (tlyBase + 4) 2 2 = 0 ∧ 0 < v then
    { s with tally := (List.range 16).foldl (fun (t : Tally) k => t.event (s.selNow b k) b k ev unit v s.edge) s.tally }
  else s

/-- Units of 256 bytes that pass a port of R521, kept by the offset of its derived register while windows run. -/
def State.units (s : State) (off n : Nat) : State :=
  if s.rf (tlyBase + 4) 0 0 = 1 ∧ s.rf (tlyBase + 8) 16 16 = 1 then
    { s with tally := { s.tally with units := Tab.write 0 s.tally.units off (Tab.read 0 s.tally.units off + n) } }
  else s

def blkCd (d : Nat) : Nat := d
def blkMd (d : Nat) : Nat := 4 + d
def blkXd (n : Nat) : Nat := 8 + n

/-! ### Latencies and hold stages (R339, R341) -/

/-- The device's latency descriptor (R339): unit and figure by ID, 0x0001 to 0x000F; UNIT 0 edges, 1 ns. -/
def latencyTable (major : Nat) : List (Nat × Nat × Nat) :=
  [ (1, 0, if major = 0 then 72 else 64), (2, 0, if major = 0 then 10 else 8), (3, 0, if major = 0 then 40 else 32), (4, 0, 8),
    (5, 0, 2), (6, 0, 8), (7, 0, 4), (8, 0, 512), (9, 0, 512), (10, 0, 1024), (11, 1, 250), (12, 1, 350), (13, 1, 700),
    (14, 1, 1300), (15, 1, 800) ]

/-- Hold stages of a latency-descriptor entry, in force since the load (R341). -/
def State.hold (s : State) (id : Nat) : Nat := Tab.read 0 s.step.holds id

/-- What an edge entry takes: the figure of the stepping and its hold stages (R339, R341). -/
def State.latency (s : State) (id : Nat) : Nat :=
  (((latencyTable s.fuses.stepMajor).find? (fun e => e.1 == id)).map (·.2.2)).getD 0 + s.hold id

/-- A Vault line from leaving its requester to arriving, a converter, a block-table lookup, and a CD–MD or MD–XD bridge, in edges. -/
def State.vaultHit (s : State) : Nat := s.latency 1
def State.convert (s : State) : Nat := s.latency 2
def State.depLookup (s : State) : Nat := s.latency 3
def State.bridge (s : State) : Nat := s.latency 4

/-! ### Free values (log 8) -/

/-- A number that the spec leaves open, below `n`. -/
def State.freeBelow (s : State) (n : Nat) : Nat × State := (Config.freeNat s.free % n, { s with free := s.free + 1 })

/-- An identifier that nothing else carries. -/
def State.fresh (s : State) : Nat × State := (s.nextId, { s with nextId := s.nextId + 1 })

/-! ### The Journal (R438 to R441) -/

def ErrClass.code : ErrClass → Nat
  | .corrected => 0
  | .notice => 1
  | .step => 2
  | .restore => 3
  | .depart => 4
  | .fatal => 5

/-- The 256 bits of an entry (R438). -/
def JEntry.word (e : JEntry) : Nat :=
  1 + 2 ^ 4 * e.cls.code + 2 ^ 8 * e.region + 2 ^ 16 * e.domain + 2 ^ 24 * b2n e.joined + 2 ^ 25 * b2n e.queued
    + 2 ^ 26 * b2n e.escalated + 2 ^ 27 * b2n e.lostBefore + 2 ^ 32 * (e.seq % 2 ^ 32) + 2 ^ 64 * (e.edge % 2 ^ 48)
    + 2 ^ 112 * e.code + 2 ^ 128 * (e.step % 2 ^ 32) + 2 ^ 160 * (e.addr % 2 ^ 48) + 2 ^ 208 * (e.unit % 2 ^ 16)
    + 2 ^ 224 * (e.info % 2 ^ 32)

/-- What a source tells the Journal: class, code, detecting domain, region, line address, unit, detail. -/
structure Err where
  cls : ErrClass
  code : Nat
  domain : Nat := 0xFF
  region : Nat := 64
  addr : Nat := 0
  unit : Nat := 0
  info : Nat := 0
  deriving DecidableEq, Repr

/-- An error that a domain detects: its region is that of the domain (R435). -/
def Err.of (cls : ErrClass) (code domain : Nat) (unit : Nat := 0) (addr : Nat := 0) (info : Nat := 0) : Err :=
  { cls := cls, code := code, domain := domain, region := errRegion domain, addr := addr, unit := unit, info := info }

/-- An error that the always-on domain 0 reports for region 64 (R547). -/
def Err.aon (cls : ErrClass) (code : Nat) (addr : Nat := 0) (unit : Nat := 0) (info : Nat := 0) : Err :=
  { cls := cls, code := code, domain := domAon 0, region := 64, addr := addr, unit := unit, info := info }

/-- Whether an entry of a class is written while `n` entries are held (R440). -/
def Journal.keeps (n : Nat) (c : ErrClass) : Bool :=
  match c with
  | .corrected | .notice => decide (n < 3840)
  | .fatal => decide (n < 4096)
  | _ => decide (n < 4095)

/-- Write an entry, or drop and count it (R439, R440). With every place held, the SEQ is still taken. -/
def State.journal (s : State) (e : Err) (joined queued escalated : Bool) : State :=
  let j := s.jnl
  let n := j.entries.length
  if Journal.keeps n e.cls then
    let x : JEntry :=
      { cls := e.cls, region := e.region, domain := e.domain, joined := joined, queued := queued,
        escalated := escalated, lostBefore := j.lostRegions.contains e.region, seq := j.seq,
        edge := s.domEdge e.domain % 2 ^ 48, code := e.code, step := s.tlrStep, addr := e.addr, unit := e.unit,
        info := e.info }
    { s with jnl := { j with entries := j.entries ++ [x], seq := (j.seq + 1) % 2 ^ 32,
                             lostRegions := j.lostRegions.filter (fun r => r != e.region) } }
  else
    { s with jnl := { j with seq := if n = 4096 then (j.seq + 1) % 2 ^ 32 else j.seq, lost := min (j.lost + 1) 0xFFFF,
                             lostRegions := e.region :: j.lostRegions.filter (fun r => r != e.region) } }

/-- A NOTICE: journalled, and nothing else (R435). -/
def State.notice (s : State) (e : Err) : State := s.journal { e with cls := .notice } false false false

/-- An event that is journalled under a code that the spec does not state (log 8). -/
def State.noticeOpen (s : State) (info : Nat) : State :=
  let f := s.freeBelow 65536
  f.2.notice (Err.aon .notice f.1 0 0 info)

/-- A corrected event of a unit whose counter reads `count` after it (R441): journalled at the first correction and when the
counter saturates. -/
def State.corrected (s : State) (e : Err) (count sat : Nat) : State :=
  if s.rf (jnlBase + 4) 0 0 = 1 ∧ (count = 1 ∨ count = sat) then
    s.journal { e with cls := .corrected } false false false
  else s

/-- A register write that is ignored is journalled with code 0x0A21 (R436, R494). -/
def State.ignored (s : State) (off : Nat) : State := s.notice (Err.aon .notice 0x0A21 0 0 off)

/-- A line that the spec does not state (log 8). -/
def freeLine (n : Nat) : Line :=
  BitVec.ofNat 2048 ((List.range 8).foldl (fun v i => 2 ^ 256 * v + (Config.freeDigest (8 * n + i)).toNat) 0)

/-! ### Class-0 messages that this package originates (R391, R395) -/

/-- The HEAD payload of a message of this package (R395). -/
def State.headLine (s : State) (transport dst step dataFlits fields : Nat) : Line :=
  BitVec.ofNat 2048
    (1 + 2 ^ 8 * transport + 2 ^ 16 * s.rf (vlBase 0 + 0x10) 11 0 + 2 ^ 32 * dst
      + 2 ^ 64 * s.rf (vlBase 0 + 0x14) 31 0 + 2 ^ 96 * step + 2 ^ 128 * s.rf (vlBase 0 + 0x1C) 15 0
      + 2 ^ 144 * dataFlits + 2 ^ 256 * fields)

/-- Global ports of the mask of a destination, valid or not (R391, R408). -/
def State.routePorts (s : State) (dst : Nat) : List Nat :=
  let e := vlBase 0 + 0x10000 + 4 * dst
  if s.rf e 31 31 = 1 then bitList (s.rf e 17 0) 18 else []

/-- The egress port of a message: class 0 takes the lowest UP port of the mask, or waits at one that retrains (R402);
classes 1 to 3 go by the message counter (R391). -/
def State.egressPort (s : State) (cls dst counter : Nat) : Option Nat :=
  let mask := s.routePorts dst
  let up := mask.filter (fun p => (s.port p).state == .up)
  if up.isEmpty then
    (if cls = 0 then mask.find? (fun p => (s.port p).state == .retraining) else none)
  else if cls = 0 then up.head?
  else up[counter % up.length]?

/-- Put flits into a port's egress queue of a class. A class-0 queue that reaches 256 flits sets C0_OVER (R389). -/
def State.enqueueFlits (s : State) (p c : Nat) (flits : List LinkFlit) : State :=
  let was := Tab.read [] (s.port p).egress c
  let q := was ++ flits
  let s := s.modPort p (fun x => { x with egress := Tab.write [] x.egress c q })
  if c = 0 ∧ was.length < 256 ∧ 256 ≤ q.length then
    let s := s.orReg (vlBase (p / 9) + 0xC) 0x40
    s.notice (Err.of .notice 0x0706 (domXd (p / 9) 15) p)
  else s

/-- The flits of a message: one HEAD and its DATA (R395). -/
def Msg.flits (m : Msg) : List LinkFlit :=
  { type := 1, poison := false, cls := m.cls, payload := m.head, seq := 0, sends := 0 } ::
    m.data.map (fun d => { type := 2, poison := d.2, cls := m.cls, payload := d.1, seq := 0, sends := 0 })

/-- Put a message into a port's egress queue of its class. -/
def State.enqueueMsg (s : State) (p : Nat) (m : Msg) : State := s.enqueueFlits p m.cls m.flits

/-- Send a message of this package, or discard it with NO_ROUTE where its destination has no route (R391). -/
def State.sendMsg (s : State) (dst : Nat) (m : Msg) : State :=
  let c := s.link.msgCount
  let s := { s with link := { s.link with msgCount := c + 1 } }
  match s.egressPort m.cls dst c with
  | some p => s.enqueueMsg p m
  | none =>
    let s := s.orReg (vlBase 0 + 0xC) 0x10
    s.notice (Err.of .notice 0x0704 (domXd 0 15) dst)

/-- The other packages of the job. -/
def State.peers (s : State) : List Nat :=
  s.link.members.filter (fun m => m != s.rf (vlBase 0 + 0x10) 11 0)

/-- Send a class-0 message to every other package of the job. -/
def State.sendAll (s : State) (transport step fields : Nat) : State :=
  s.peers.foldl (fun s d => s.sendMsg d { cls := 0, head := s.headLine transport d step 0 fields, data := [] }) s

/-! ### What a detected error does (R435, R442 to R444) -/

/-- Raise a step fault (R197): it is held for this attempt, saves stop, and every package is sent a notice; an error after
SETTLE has latched is charged to the attempt that follows (R444). -/
def State.raiseStepFault (s : State) (seq : Nat) : State :=
  if 2 ≤ s.step.post then { s with step := { s.step with faultNext := some seq } }
  else if s.step.faulted then s
  else
    let s := { s with step := { s.step with faulted := true } }
    s.sendAll 2 s.tlrStep seq

/-- The error that faults the attempt is the one that its skip handles (R442); a more severe error of its region takes its place
(R444). -/
def State.faultBy (s : State) (cls : ErrClass) (region code : Nat) : State :=
  if s.step.faultRef.all (fun r => r.region == region && decide (r.cls.code < cls.code)) then
    { s with step := { s.step with faultRef := some ⟨cls, region, code⟩ } }
  else s

/-- The action of an error of class STEP, RESTORE, DEPART or FATAL (R435). A fatal error after the first is named in LATER_SEQ
(R440, R469). -/
def State.act (s : State) (cls : ErrClass) (region code seq addr : Nat) : State :=
  match cls with
  | .step => (s.faultBy cls region code).raiseStepFault seq
  | .restore =>
    let s := s.raiseStepFault seq
    { s with rec_ := { s.rec_ with stage := .pendingSkip, lost := if 40 ≤ region ∧ region < 52 then addr :: s.rec_.lost else s.rec_.lost,
                                   memoryRegion := s.rec_.memoryRegion || (decide (40 ≤ region) && decide (region < 52)) },
             jnl := { s.jnl with handling := some ⟨.restore, region, code⟩ } }
  | .depart =>
    let s := (s.faultBy cls region code).raiseStepFault seq
    { s with rec_ := { s.rec_ with departNeeded := true } }
  | .fatal =>
    if s.fatal.pending.isSome || s.fatal.stopped then { s with fatal := { s.fatal with laterSeq := seq } }
    else { s with fatal := { s.fatal with pending := some (seq, code) } }
  | _ => s

/-- Whether an entry is of class STEP or above, detected at an edge (R444). -/
def JEntry.sameEdge (e : JEntry) (edge : Nat) : Bool := e.edge == edge % 2 ^ 48 && decide (2 ≤ e.cls.code)

/-- What becomes of an error of class STEP, RESTORE or DEPART. -/
inductive Verdict where
  | act
  | joined (andAct : Bool)
  | queued
  | escalated (code : Nat)
  deriving DecidableEq, Repr

/-- Decide an error of class STEP, RESTORE or DEPART by R440 and R442 to R444. -/
def State.verdict (s : State) (e : Err) : Verdict :=
  let j := s.jnl
  let edge := s.domEdge e.domain
  let met := j.entries.filter (fun x => x.sameEdge edge)
  if j.entries.length = 4095 then .escalated 0x0A25
  else
    match met.find? (fun x => x.region == e.region) with
    | some x => .joined (decide (x.cls.code < e.cls.code))
    | none =>
      match j.handling with
      | some h =>
        if h.region = e.region then .escalated 0x0A24
        else if 4 ≤ j.queue.length then .escalated 0x0A24
        else .queued
      | none =>
        if met.isEmpty then (if s.step.faulted && decide (e.cls = .step) then .joined false else .act)
        else if 4 ≤ j.queue.length then .escalated 0x0A24
        else .queued

/-- A detected error: its Journal entry and its action (R435, R440, R442 to R444). -/
def State.report (s : State) (e : Err) : State :=
  let seq := s.jnl.seq
  match e.cls with
  | .corrected | .notice => s.journal e false false false
  | .fatal => (s.journal e false false false).act .fatal e.region e.code seq e.addr
  | _ =>
    match s.verdict e with
    | .act => (s.journal e false false false).act e.cls e.region e.code seq e.addr
    | .joined more =>
      let s := s.journal e true false false
      if more then s.act e.cls e.region e.code seq e.addr else s
    | .queued =>
      let s := s.journal e false true false
      { s with jnl := { s.jnl with queue := s.jnl.queue ++
        [{ ref := ⟨e.cls, e.region, e.code⟩, seq := seq, addr := e.addr, later := decide (2 ≤ s.step.post) }] } }
    | .escalated code =>
      (s.journal { e with cls := .fatal, code := code } false false (code == 0x0A24)).act .fatal e.region code seq e.addr

/-- A package that must secure names the step in progress where it has not entered VOTE for it, and the next one otherwise, in a
SECURE to every package of the job, and withholds its vote until each has acknowledged it (R452). -/
def State.sendSecure (s : State) : State :=
  let m := if s.step.post < 2 ∨ s.step.post = 5 then s.tlrStep else s.tlrStep + 1
  if s.rf (ldgBase + 4) 0 0 = 0 ∨ s.ldg.secures.contains m = true then s
  else
    let t := s.sendAll 4 m 0
    { t with ldg := { t.ldg with secures := t.ldg.secures ++ [m], acksDue := t.ldg.acksDue ++ t.peers } }

/-- Report a list of errors in order. -/
def State.reports (s : State) (es : List Err) : State := es.foldl (fun s e => s.report e) s

/-- Set fault bits of a register and report each bit newly or again set, with code base + bit. -/
def State.raiseBits (s : State) (off : Nat) (bs : List Nat) (err : Nat → Err) : State :=
  (s.orReg off (bs.foldl (fun m b => m ||| 2 ^ b) 0)).reports (bs.map err)

end Sys2Proof.Machine
end

