-- ==== Sys2Proof/Machine/Flags.lean ====
section
/-! DEFINITION. The number formats, exact values, rounding, special values and sticky flags of 02_number_formats.md (R45 to
R84): every engine computes on exact dyadic values and narrows once, with the flags that the narrowing raises. -/

namespace Sys2Proof.Machine

/-! ### Formats (R45 to R59) -/

/-- The formats of R45. -/
inductive Fmt where
  | fp64
  | fp32
  | fp16
  | kb16
  | kf8a
  | kf8b
  | kf6a
  | kf6b
  | kf4
  | i8
  deriving DecidableEq, Repr, Inhabited

/-- Exponent bits, fraction bits and bias (R45, R51 to R56). -/
def Fmt.ebits : Fmt → Nat
  | .fp64 => 11 | .fp32 => 8 | .fp16 => 5 | .kb16 => 8 | .kf8a => 4 | .kf8b => 5 | .kf6a => 3 | .kf6b => 2 | .kf4 => 2
  | .i8 => 0
def Fmt.mbits : Fmt → Nat
  | .fp64 => 52 | .fp32 => 23 | .fp16 => 10 | .kb16 => 7 | .kf8a => 3 | .kf8b => 2 | .kf6a => 2 | .kf6b => 3 | .kf4 => 1
  | .i8 => 0
def Fmt.bias : Fmt → Nat
  | .fp64 => 1023 | .fp32 => 127 | .fp16 => 15 | .kb16 => 127 | .kf8a => 8 | .kf8b => 15 | .kf6a => 4 | .kf6b => 2
  | .kf4 => 1 | .i8 => 0
/-- Bits of a code. -/
def Fmt.width : Fmt → Nat
  | .fp64 => 64 | .fp32 => 32 | .fp16 => 16 | .kb16 => 16 | .kf8a => 8 | .kf8b => 8 | .kf6a => 6 | .kf6b => 6 | .kf4 => 4
  | .i8 => 8

/-- FP64, FP32, FP16 and KB16 hold infinities; the others saturate (R52 to R56). -/
def Fmt.hasInf : Fmt → Bool
  | .fp64 | .fp32 | .fp16 | .kb16 => true
  | _ => false

/-- KF6A, KF6B and KF4 always carry scales (R60). -/
def Fmt.alwaysScaled : Fmt → Bool
  | .kf6a | .kf6b | .kf4 => true
  | _ => false

/-- The code without its sign of the largest finite value (R52 to R56). -/
def Fmt.maxMag (f : Fmt) : Nat :=
  match f with
  | .kf8a | .kf8b => 0x7E
  | .kf6a | .kf6b => 31
  | .kf4 => 7
  | .i8 => 127
  | _ => (2 ^ f.ebits - 1) * 2 ^ f.mbits - 1

/-- The canonical NaN (R50). -/
def Fmt.nanCode : Fmt → Nat
  | .fp64 => 0x7FF8000000000000 | .fp32 => 0x7FC00000 | .fp16 => 0x7E00 | .kb16 => 0x7FC0 | .kf8a => 0x7F | .kf8b => 0x7F
  | _ => 0

/-- The code of infinity without its sign. -/
def Fmt.infMag (f : Fmt) : Nat := (2 ^ f.ebits - 1) * 2 ^ f.mbits

/-- Exponent of the smallest normal, and of the smallest subnormal (R51). -/
def Fmt.emin (f : Fmt) : Int := 1 - (f.bias : Int)
def Fmt.qmin (f : Fmt) : Int := 1 - (f.bias : Int) - (f.mbits : Int)

/-! ### Values -/

/-- An exact value: a NaN, an infinity, or (-1)^neg × m × 2^e. -/
inductive Num where
  | nan (signalling : Bool)
  | inf (neg : Bool)
  | fin (neg : Bool) (m : Nat) (e : Int)
  deriving DecidableEq, Repr, Inhabited

def Num.zero (neg : Bool) : Num := .fin neg 0 0

/-- The value of a code (R51 to R59). -/
def Fmt.decode (f : Fmt) (code : Nat) : Num :=
  if f = .i8 then
    let c := code % 256
    if c < 128 then .fin false c 0 else .fin true (256 - c) 0
  else
    let neg := bit code (f.width - 1)
    let mag := code % 2 ^ (f.width - 1)
    let ex := mag / 2 ^ f.mbits
    let fr := mag % 2 ^ f.mbits
    if f.hasInf && ex == 2 ^ f.ebits - 1 then
      if fr = 0 then .inf neg
      else .nan (f != .kb16 && decide (fr < 2 ^ (f.mbits - 1)))
    else if (f == .kf8a || f == .kf8b) && mag == 0x7F then .nan false
    else if ex = 0 then .fin neg fr (f.qmin)
    else .fin neg (2 ^ f.mbits + fr) (f.qmin + (ex - 1 : Nat))

def Num.isNan : Num → Bool
  | .nan _ => true
  | _ => false
def Num.isSnan : Num → Bool
  | .nan g => g
  | _ => false
def Num.isInf : Num → Bool
  | .inf _ => true
  | _ => false
def Num.isZero : Num → Bool
  | .fin _ m _ => m == 0
  | _ => false
def Num.neg : Num → Bool
  | .inf n => n
  | .fin n _ _ => n
  | .nan _ => false
def Num.flip : Num → Num
  | .inf n => .inf (!n)
  | .fin n m e => .fin (!n) m e
  | .nan g => .nan g

/-- A value scaled by 2^k. -/
def Num.scale (x : Num) (k : Int) : Num :=
  match x with
  | .fin n m e => .fin n m (e + k)
  | y => y

/-! ### Flags (R81) -/

def fInvalid : Nat := 1
def fDivz : Nat := 2
def fOverflow : Nat := 4
def fUnderflow : Nat := 8
def fInexact : Nat := 16

/-! ### Rounding (R70 to R72) -/

/-- Rounding modes: the four attributes of R47, and stochastic rounding with the 16 bits drawn (R72). -/
inductive Rnd where
  | rne
  | rtz
  | rup
  | rdn
  | sr (r : Nat)
  deriving DecidableEq, Repr, Inhabited

/-- The integer next to m × 2^(-k) that a mode takes, and whether that is inexact. -/
def roundShift (mode : Rnd) (neg : Bool) (m k : Nat) : Nat × Bool :=
  let q := m / 2 ^ k
  let r := m % 2 ^ k
  if r = 0 then (q, false)
  else
    let up :=
      match mode with
      | .rne => decide (2 ^ k < 2 * r) || (decide (2 * r = 2 ^ k) && q % 2 == 1)
      | .rtz => false
      | .rup => !neg
      | .rdn => neg
      | .sr x => decide (x < r * 65536 / 2 ^ k)
    (if up then q + 1 else q, true)

/-- m × 2^e rounded to a multiple of 2^q. -/
def roundAt (mode : Rnd) (neg : Bool) (m : Nat) (e q : Int) : Nat × Bool :=
  if q ≤ e then (2 ^ (e - q).toNat * m, false) else roundShift mode neg m (q - e).toNat

/-- The code without sign of m × 2^e, m ≠ 0, at the precision of a format with an unbounded top, and whether it is
inexact. Codes rise with magnitude, so a carry into the next binade is the next code. -/
def Fmt.roundMag (f : Fmt) (mode : Rnd) (neg : Bool) (m : Nat) (e : Int) : Nat × Bool :=
  let ex : Int := e + (Nat.log2 m : Int)
  let q : Int := max ex f.emin - (f.mbits : Int)
  let r := roundAt mode neg m e q
  ((q - f.qmin).toNat * 2 ^ f.mbits + r.1, r.2)

/-- Whether m × 2^e, rounded with an unbounded exponent, lies below the smallest normal (R48). -/
def Fmt.tiny (f : Fmt) (mode : Rnd) (neg : Bool) (m : Nat) (e : Int) : Bool :=
  let ex : Int := e + (Nat.log2 m : Int)
  decide (ex < f.emin) &&
    !(decide (ex + 1 = f.emin) && (roundAt mode neg m e (ex - (f.mbits : Int))).1 == 2 ^ (f.mbits + 1))

/-- The magnitude code that an overflow leaves (R71, R47). -/
def Fmt.overflowMag (f : Fmt) (mode : Rnd) (neg : Bool) : Nat :=
  if f.hasInf then
    match mode with
    | .rtz => f.maxMag
    | .rup => if neg then f.maxMag else f.infMag
    | .rdn => if neg then f.infMag else f.maxMag
    | _ => f.infMag
  else f.maxMag

/-- Round to nearest even or by an attribute of R47 (R71): the code without sign, and the flags. -/
def Fmt.roundDirected (f : Fmt) (mode : Rnd) (neg : Bool) (m : Nat) (e : Int) : Nat × Nat :=
  let r := f.roundMag mode neg m e
  if f.maxMag < r.1 then (f.overflowMag mode neg, fOverflow ||| fInexact)
  else (r.1, if r.2 then (if f.tiny mode neg m e then fUnderflow ||| fInexact else fInexact) else 0)

/-- Round a finite value (R71, R72): stochastic rounding judges tininess on the delivered result, and takes a value beyond
the largest finite value to nearest even. -/
def Fmt.roundFin (f : Fmt) (mode : Rnd) (neg : Bool) (m : Nat) (e : Int) : Nat × Nat :=
  if m = 0 then (0, 0)
  else
    match mode with
    | .sr _ =>
      let down := f.roundMag .rtz neg m e
      if f.maxMag < down.1 ∨ (down.1 = f.maxMag ∧ down.2 = true) then f.roundDirected .rne neg m e
      else
        let r := f.roundMag mode neg m e
        (r.1, if r.2 then (if r.1 < 2 ^ f.mbits then fUnderflow ||| fInexact else fInexact) else 0)
    | _ => f.roundDirected mode neg m e

/-- A code with its sign. -/
def Fmt.signed (f : Fmt) (neg : Bool) (mag : Nat) : Nat := mag + (if neg then 2 ^ (f.width - 1) else 0)

/-- Into I8 (R71, R72, R77): saturating at -128 and 127. -/
def toI8 (mode : Rnd) (x : Num) : Nat × Nat :=
  match x with
  | .nan _ => (0, fInvalid)
  | .inf neg => (if neg then 0x80 else 127, fInvalid)
  | .fin neg m e =>
    let down := roundAt .rtz neg m e 0
    let beyond := decide (127 < down.1) || (down.1 == 127 && down.2)
    let r := match mode with
      | .sr _ => if beyond then roundAt .rne neg m e 0 else roundAt mode neg m e 0
      | _ => roundAt mode neg m e 0
    if neg then
      if 128 < r.1 then (0x80, fOverflow ||| fInexact)
      else ((256 - r.1) % 256, if r.2 then fInexact else 0)
    else if 127 < r.1 then (127, fOverflow ||| fInexact)
    else (r.1, if r.2 then fInexact else 0)

/-- Convert an exact value into a format (R71, R72, R76, R77): the code and the flags. -/
def Fmt.encode (f : Fmt) (mode : Rnd) (x : Num) : Nat × Nat :=
  if f = .i8 then toI8 mode x
  else
    match x with
    | .nan g => (f.nanCode, if g then fInvalid else 0)
    | .inf neg => if f.hasInf then (f.signed neg f.infMag, 0) else (f.nanCode, fInvalid)
    | .fin neg m e =>
      let r := f.roundFin mode neg m e
      (f.signed neg r.1, r.2)

/-! ### Exact arithmetic -/

/-- Whether the exact sum of two values of different signs that cancel is -0 (R78). -/
def Rnd.cancelNeg : Rnd → Bool
  | .rdn => true
  | _ => false

/-- The exact sum of two finite values. -/
def addFin (mode : Rnd) (na : Bool) (ma : Nat) (ea : Int) (nb : Bool) (mb : Nat) (eb : Int) : Num :=
  let e := min ea eb
  let x := 2 ^ (ea - e).toNat * ma
  let y := 2 ^ (eb - e).toNat * mb
  if na = nb then .fin na (x + y) e
  else if x = y then .fin mode.cancelNeg 0 0
  else if y < x then .fin na (x - y) e
  else .fin nb (y - x) e

/-- A result and its flags. -/
abbrev NumF := Num × Nat

/-- INVALID if any operand is a signalling NaN (R49, R78). -/
def snanFlag (xs : List Num) : Nat := if xs.any Num.isSnan then fInvalid else 0

/-- Add (R78). -/
def addNum (mode : Rnd) (a b : Num) : NumF :=
  if a.isNan || b.isNan then (.nan false, snanFlag [a, b])
  else
    match a, b with
    | .inf na, .inf nb => if na = nb then (a, 0) else (.nan false, fInvalid)
    | .inf _, _ => (a, 0)
    | _, .inf _ => (b, 0)
    | .fin na ma ea, .fin nb mb eb => (addFin mode na ma ea nb mb eb, 0)
    | _, _ => (.nan false, 0)

/-- Multiply (R78). -/
def mulNum (a b : Num) : NumF :=
  if (a.isZero && b.isInf) || (a.isInf && b.isZero) then (.nan false, fInvalid)
  else if a.isNan || b.isNan then (.nan false, snanFlag [a, b])
  else
    match a, b with
    | .fin na ma ea, .fin nb mb eb => (.fin (na != nb) (ma * mb) (ea + eb), 0)
    | _, _ => (.inf (a.neg != b.neg), 0)

/-- Fused multiply-add (R78). -/
def fmaNum (mode : Rnd) (a b c : Num) : NumF :=
  if (a.isZero && b.isInf) || (a.isInf && b.isZero) then (.nan false, fInvalid)
  else if a.isNan || b.isNan || c.isNan then (.nan false, snanFlag [a, b, c])
  else addNum mode (mulNum a b).1 c

/-- Precision kept by quotients and roots before the one rounding: above every format's precision. -/
def extraBits : Nat := 140

/-- A quotient of positive integers as a dyadic value that rounds as the exact one does: `extraBits` bits or more, and a
last bit that says whether anything is left. -/
def divFin (neg : Bool) (ma : Nat) (ea : Int) (mb : Nat) (eb : Int) : Num :=
  let k := extraBits + Nat.log2 mb
  let q := 2 ^ k * ma / mb
  let r := 2 ^ k * ma % mb
  .fin neg (2 * q + (if r = 0 then 0 else 1)) (ea - eb - (k : Int) - 1)

/-- Divide (R78). -/
def divNum (a b : Num) : NumF :=
  if a.isNan || b.isNan then (.nan false, snanFlag [a, b])
  else
    let neg := a.neg != b.neg
    match a, b with
    | .inf _, .inf _ => (.nan false, fInvalid)
    | .inf _, _ => (.inf neg, 0)
    | _, .inf _ => (.zero neg, 0)
    | .fin _ ma ea, .fin _ mb eb =>
      if ma = 0 ∧ mb = 0 then (.nan false, fInvalid)
      else if mb = 0 then (.inf neg, fDivz)
      else if ma = 0 then (.zero neg, 0)
      else (divFin neg ma ea mb eb, 0)
    | _, _ => (.nan false, 0)

/-- The bits of an integer square root, from bit `k - 1` down. -/
def isqrtBits (n : Nat) : Nat → Nat → Nat
  | 0, r => r
  | k + 1, r => if (r + 2 ^ k) * (r + 2 ^ k) ≤ n then isqrtBits n k (r + 2 ^ k) else isqrtBits n k r

/-- The integer square root. -/
def isqrt (n : Nat) : Nat := isqrtBits n (Nat.log2 n / 2 + 1) 0

/-- An even exponent for a root. -/
def evenExp (m : Nat) (e : Int) : Nat × Int := if e % 2 = 0 then (m, e) else (2 * m, e - 1)

/-- Square root (R78). -/
def sqrtNum (a : Num) : NumF :=
  match a with
  | .nan g => (.nan false, if g then fInvalid else 0)
  | .inf neg => if neg then (.nan false, fInvalid) else (a, 0)
  | .fin neg m e =>
    if m = 0 then (.zero neg, 0)
    else if neg then (.nan false, fInvalid)
    else
      let p := evenExp m e
      let n := 2 ^ (2 * extraBits) * p.1
      let r := isqrt n
      (.fin false (2 * r + (if r * r = n then 0 else 1)) (p.2 / 2 - (extraBits : Int) - 1), 0)

/-- Reciprocal square root (R78, R80). -/
def rsqrtNum (a : Num) : NumF :=
  match a with
  | .nan g => (.nan false, if g then fInvalid else 0)
  | .inf neg => if neg then (.nan false, fInvalid) else (.zero false, 0)
  | .fin neg m e =>
    if m = 0 then (.inf neg, fDivz)
    else if neg then (.nan false, fInvalid)
    else
      let p := evenExp m e
      let k := extraBits + Nat.log2 p.1
      let n := 2 ^ (2 * k) / p.1
      let r := isqrt n
      (.fin false (2 * r + (if r * r * p.1 = 2 ^ (2 * k) then 0 else 1)) (-(p.2 / 2) - (k : Int) - 1), 0)

/-- The number 1. -/
def oneNum : Num := .fin false 1 0

/-- Reciprocal (R80). -/
def rcpNum (a : Num) : NumF := divNum oneNum a

/-! ### Exp (R80) -/

/-- Fraction bits of the fixed-point work of `expNum`. -/
def expBits : Nat := 320

/-- Terms of 2 atanh(1/3), in fixed point: `p` is 2^expBits / 3^(2i+1). -/
def ln2Terms : Nat → Nat → Nat → Nat
  | 0, _, _ => 0
  | n + 1, i, p => p / (2 * i + 1) + ln2Terms n (i + 1) (p / 9)

/-- ln 2 in fixed point. -/
def ln2Fixed : Nat := 2 * ln2Terms 110 0 (2 ^ expBits / 3)

/-- Terms of the exponential series in fixed point: `t` is r^i / i!. -/
def expTerms (r : Nat) : Nat → Nat → Nat → Nat
  | 0, _, _ => 0
  | n + 1, i, t => t + expTerms r n (i + 1) (t * r / 2 ^ expBits / (i + 1))

/-- The exponential of a finite value other than 0, as a dyadic value that rounds as the exact one does: exp of a non-zero
rational is never a dyadic value or halfway between two, and `expBits` tells it from its neighbours. -/
def expFin (neg : Bool) (m : Nat) (e : Int) : Num :=
  let big := decide ((8 : Int) ≤ e + (Nat.log2 m : Int))
  if big then (if neg then .fin false 1 (-400) else .fin false 1 400)
  else
    let x := (m * 2 ^ expBits) * 2 ^ e.toNat / 2 ^ (-e).toNat
    let k := x / ln2Fixed
    let r := x % ln2Fixed
    let up : Nat := 2 * expTerms r 120 0 (2 ^ expBits) + 1
    if neg then
      let y : Nat := 2 * expTerms (ln2Fixed - r) 120 0 (2 ^ expBits) + 1
      .fin false y (-(k : Int) - 1 - (expBits : Int) - 1)
    else .fin false up ((k : Int) - (expBits : Int) - 1)

/-- Exp (R78, R80). -/
def expNum (a : Num) : NumF :=
  match a with
  | .nan g => (.nan false, if g then fInvalid else 0)
  | .inf neg => if neg then (.zero false, 0) else (a, 0)
  | .fin neg m e => if m = 0 then (oneNum, 0) else (expFin neg m e, 0)

/-! ### Comparison, maximum, minimum (R78, R79) -/

/-- a < b of values other than NaN; both zeros are equal. -/
def ltNum (a b : Num) : Bool :=
  match a, b with
  | .inf na, .inf nb => na && !nb
  | .inf na, _ => na
  | _, .inf nb => !nb
  | .fin na ma ea, .fin nb mb eb =>
    let e := min ea eb
    let x := 2 ^ (ea - e).toNat * ma
    let y := 2 ^ (eb - e).toNat * mb
    if na then (if nb then decide (y < x) else decide (0 < x ∨ 0 < y)) else (if nb then false else decide (x < y))
  | _, _ => false

def eqNum (a b : Num) : Bool := !a.isNan && !b.isNan && !ltNum a b && !ltNum b a

/-- Maximum (R79). -/
def maxNum (a b : Num) : NumF :=
  let fl := snanFlag [a, b]
  if a.isNan && b.isNan then (.nan false, fl)
  else if a.isNan then (b, fl)
  else if b.isNan then (a, fl)
  else if a.isZero && b.isZero then (.zero (a.neg && b.neg), 0)
  else if ltNum a b then (b, 0) else (a, 0)

/-- Minimum (R79). -/
def minNum (a b : Num) : NumF :=
  let fl := snanFlag [a, b]
  if a.isNan && b.isNan then (.nan false, fl)
  else if a.isNan then (b, fl)
  else if b.isNan then (a, fl)
  else if a.isZero && b.isZero then (.zero (a.neg || b.neg), 0)
  else if ltNum b a then (b, 0) else (a, 0)

/-! ### Operations on codes -/

/-- A code and the flags raised. -/
abbrev CodeF := Nat × Nat

/-- Round the exact result of an operation into a format, with the flags of both. -/
def Fmt.deliver (f : Fmt) (mode : Rnd) (x : NumF) : CodeF :=
  let r := f.encode mode x.1
  (r.1, r.2 ||| x.2)

def Fmt.add (f : Fmt) (mode : Rnd) (a b : Nat) : CodeF := f.deliver mode (addNum mode (f.decode a) (f.decode b))
def Fmt.sub (f : Fmt) (mode : Rnd) (a b : Nat) : CodeF := f.deliver mode (addNum mode (f.decode a) (f.decode b).flip)
def Fmt.mul (f : Fmt) (mode : Rnd) (a b : Nat) : CodeF := f.deliver mode (mulNum (f.decode a) (f.decode b))
def Fmt.fma (f : Fmt) (mode : Rnd) (a b c : Nat) : CodeF :=
  f.deliver mode (fmaNum mode (f.decode a) (f.decode b) (f.decode c))
def Fmt.div (f : Fmt) (mode : Rnd) (a b : Nat) : CodeF := f.deliver mode (divNum (f.decode a) (f.decode b))
def Fmt.sqrt (f : Fmt) (mode : Rnd) (a : Nat) : CodeF := f.deliver mode (sqrtNum (f.decode a))
def Fmt.rcp (f : Fmt) (mode : Rnd) (a : Nat) : CodeF := f.deliver mode (rcpNum (f.decode a))
def Fmt.rsqrt (f : Fmt) (mode : Rnd) (a : Nat) : CodeF := f.deliver mode (rsqrtNum (f.decode a))
/-- A result above the largest finite value is +∞ under every attribute (R78). -/
def Fmt.exp (f : Fmt) (mode : Rnd) (a : Nat) : CodeF :=
  let r := f.deliver mode (expNum (f.decode a))
  if bit r.2 2 then (f.infMag, r.2) else r
def Fmt.max (f : Fmt) (a b : Nat) : CodeF := f.deliver .rne (maxNum (f.decode a) (f.decode b))
def Fmt.min (f : Fmt) (a b : Nat) : CodeF := f.deliver .rne (minNum (f.decode a) (f.decode b))
def Fmt.scale2 (f : Fmt) (mode : Rnd) (a : Nat) (k : Int) : CodeF :=
  let x := f.decode a
  f.deliver mode (if x.isNan then (.nan false, snanFlag [x]) else (x.scale k, 0))

/-- FP32 addition to nearest even (R67, R69). -/
def addF32 (a b : Nat) : CodeF := Fmt.fp32.add .rne a b

/-! ### Blocks and KFS scales (R57 to R63) -/

/-- The power of two of a KFS code, or none for its NaN code (R58). -/
def kfsExp (c : Nat) : Option Int := if c % 256 = 0 then none else some ((c % 256 : Nat) - 128)

/-- The value of an element with its block's scale (R60, R63). -/
def scaledValue (f : Fmt) (code : Nat) (scale : Option Nat) : Num :=
  match scale with
  | none => f.decode code
  | some c =>
    match kfsExp c with
    | none => .nan false
    | some k => (f.decode code).scale k

/-- fmtmax of R61 as a dyadic value (m, e). -/
def Fmt.maxFin (f : Fmt) : Nat × Int :=
  match f.decode f.maxMag with
  | .fin _ m e => (m, e)
  | _ => (0, 0)

/-- ma × 2^ea ≤ mb × 2^eb. -/
def leFin (ma : Nat) (ea : Int) (mb : Nat) (eb : Int) : Bool :=
  let e := min ea eb
  decide (2 ^ (ea - e).toNat * ma ≤ 2 ^ (eb - e).toNat * mb)

/-- The largest magnitude of the finite values of a block. -/
def maxAbs : List Num → Nat × Int
  | [] => (0, 0)
  | .fin _ m e :: t => let r := maxAbs t; if leFin r.1 r.2 m e then (m, e) else r
  | _ :: t => maxAbs t

/-- The smallest e with maxabs ≤ fmtmax × 2^e, clamped to -127 … 127 (R61). -/
def scaleExp (f : Fmt) (m : Nat) (e : Int) : Int :=
  if m = 0 then 0
  else
    let fm := f.maxFin
    let ex : Int := e + (Nat.log2 m : Int) - (fm.2 + (Nat.log2 fm.1 : Int))
    let k := if leFin m e fm.1 (fm.2 + ex) then ex else ex + 1
    max (-127) (min 127 k)

/-- A block narrowed to a scaled format (R61, R62): the scale code, the element codes, the flags. `draws` gives the Mint
bits of each element in stochastic mode. -/
def narrowBlock (f : Fmt) (mode : Nat → Rnd) (xs : List Num) : Nat × List Nat × Nat :=
  let bad := xs.any (fun x => x.isNan || x.isInf)
  if f.alwaysScaled && bad then (0, xs.map (fun _ => 0), fInvalid)
  else
    let mx := maxAbs xs
    let e := scaleExp f mx.1 mx.2
    let rs := xs.zipIdx.map (fun p => f.encode (mode p.2) (p.1.scale (-e)))
    ((e + 128).toNat, rs.map (·.1), rs.foldl (fun a r => a ||| r.2) 0)

/-- An element widened to FP32 (R76). -/
def widenF32 (f : Fmt) (code : Nat) (scale : Option Nat) : CodeF :=
  match f with
  | .fp32 => (code, 0)
  | _ => Fmt.fp32.encode .rne (scaledValue f code scale)

/-! ### Columns of a pass (R64 to R66) -/

/-- The exact sum of values other than NaN and infinity, from -0. -/
def sumExact (xs : List Num) : Num := xs.foldl (fun a x => (addNum .rne a x).1) (.zero true)

/-- Blocks of 32. -/
def chunks32 {α : Type} : Nat → List α → List (List α)
  | 0, _ => []
  | n + 1, l => l.take 32 :: chunks32 n (l.drop 32)

/-- One column by the block rule (R64): the products of a block with the scales of both sides. -/
def blockStep (c : CodeF) (prods : List Num) (sa sw : Option Nat) : CodeF :=
  let scaleNan (x : Option Nat) : Bool := x == some 0
  let b : CodeF :=
    if scaleNan sa || scaleNan sw || prods.any Num.isNan then (Fmt.fp32.nanCode, 0)
    else
      let k (x : Option Nat) : Int := match x with
        | some v => (v : Int) - 128
        | none => 0
      Fmt.fp32.encode .rne ((sumExact prods).scale (k sa + k sw))
  let r := addF32 c.1 b.1
  (r.1, c.2 ||| b.2 ||| r.2)

/-- FP32 -0. -/
def negZero32 : Nat := 0x80000000

/-- A column of the block rule (R64). `a` and `w` hold 128 codes, `sa` and `sw` the four scales of each side. -/
def columnBlock (fa fw : Fmt) (a w : List Nat) (sa sw : List (Option Nat)) : CodeF :=
  let prods := (a.zip w).map (fun p => (mulNum (fa.decode p.1) (fw.decode p.2)).1)
  ((chunks32 4 prods).zip (sa.zip sw)).foldl (fun c b => blockStep c b.1 b.2.1 b.2.2) (negZero32, 0)

/-- A column of the integer rule (R65). -/
def columnInt (a w : List Nat) : CodeF :=
  let prods := (a.zip w).map (fun p => (mulNum (Fmt.i8.decode p.1) (Fmt.i8.decode p.2)).1)
  let v := match sumExact prods with
    | .fin neg m e => if m = 0 then Num.zero false else .fin neg m e
    | x => x
  addF32 negZero32 (Fmt.fp32.encode .rne v).1

/-- A column of the fused chain (R66). -/
def columnChain (fa fw : Fmt) (a w : List Nat) : CodeF :=
  (a.zip w).foldl (fun c p =>
    let r := Fmt.fp32.deliver .rne (fmaNum .rne (fa.decode p.1) (fw.decode p.2) (Fmt.fp32.decode c.1))
    (r.1, c.2 ||| r.2)) (negZero32, 0)

/-- Operand classes of R46. -/
inductive FmtClass where
  | eight
  | packed
  | integer
  | sixteen
  | fp32
  deriving DecidableEq, Repr

def Fmt.cls? : Fmt → Option FmtClass
  | .kf8a | .kf8b => some .eight
  | .kf6a | .kf6b | .kf4 => some .packed
  | .i8 => some .integer
  | .kb16 | .fp16 => some .sixteen
  | .fp32 => some .fp32
  | .fp64 => none

/-- One column result of a pass (R64 to R66). -/
def column (fa fw : Fmt) (a w : List Nat) (sa sw : List (Option Nat)) : CodeF :=
  match fa.cls? with
  | some .integer => columnInt a w
  | some .sixteen | some .fp32 => columnChain fa fw a w
  | _ => columnBlock fa fw a w sa sw

/-! ### The Mint (R72 to R74) -/

/-- Draw `n` of a Mint lane since its last seed, as a stochastic mode. -/
def State.mintMode (s : State) (lane i : Nat) : Rnd :=
  .sr (Config.mint s.mint.seed lane (Tab.read 0 s.mint.draws lane + i)).toNat

/-- A lane advances by the elements of a conversion (R73). -/
def State.mintAdvance (s : State) (lane n : Nat) : State :=
  { s with mint := { s.mint with draws := Tab.write 0 s.mint.draws lane (Tab.read 0 s.mint.draws lane + n) } }

/-- Mint lanes: a core's drain lanes 0 to 3 and its row unit 4; converters; Tellers. DESIGN CHOICE (log 7): the spec numbers no lanes,
and does not say how many conversion pipelines a memory-side converter or a Teller has; here each has one, and so one lane. -/
def laneCore (d p k : Nat) : Nat := 8 * (34 * d + p) + k
def laneConv (d : Nat) : Nat := 8 * (136 + d)
def laneTeller (n : Nat) : Nat := 8 * (140 + n)

end Sys2Proof.Machine
end

