-- ==== Sys2Proof/Machine/Operands.lean ====
section
/-! DEFINITION. The 32-byte instructions of a core's streams (R346 to R366): their fields, the faults that their fields alone
raise (R348), and what each one reads, writes and waits for (R106 to R108). -/

namespace Sys2Proof.Machine

/-- Round up to a multiple of `k`. -/
def roundUp (n k : Nat) : Nat := (n + k - 1) / k * k

/-- Element formats by their 4-bit code (R349). -/
def fmtOfCode (c : Nat) : Option Fmt :=
  if c = 0 then some .fp32 else if c = 1 then some .fp16 else if c = 2 then some .kb16 else if c = 3 then some .kf8a
  else if c = 4 then some .kf8b else if c = 5 then some .kf6a else if c = 6 then some .kf6b else if c = 7 then some .kf4
  else if c = 8 then some .i8 else if c = 9 then some .fp64 else none

/-- Formats that can carry KFS scales (R60). -/
def Fmt.scalable : Fmt → Bool
  | .kf8a | .kf8b | .kf6a | .kf6b | .kf4 => true
  | _ => false

/-- Bytes of a row of 128 elements; 0 for a reserved format. -/
def rowBytes (f : Option Fmt) : Nat := (f.map (fun x => 16 * x.width)).getD 0

/-- Feed lines per row (R93); FP64 is no array format and has none. -/
def linesPerRow (f : Fmt) : Nat :=
  match f with
  | .fp64 => 0
  | .fp16 | .kb16 => 2
  | .fp32 => 4
  | _ => 1

/-- Bits of CORE_FAULT and RING_FAULT (R117, R161). -/
def cfOverrun : Nat := 0
def cfSlot : Nat := 1
def cfFormat : Nat := 2
def cfRange : Nat := 3
def cfFeed : Nat := 4
def cfAcc : Nat := 5
def cfEmpty : Nat := 6
def cfVersion : Nat := 7
def cfUe : Nat := 8
def rfCirc : Nat := 0
def rfTake : Nat := 1
def rfCreditOver : Nat := 2
def rfVersion : Nat := 3
def rfSpan : Nat := 4
def rfFlitUe : Nat := 5
def rfCreditRange : Nat := 6
def rfBarrier : Nat := 7

/-- `x` where a condition holds. -/
def when' (c : Bool) (x : Nat) : List Nat := if c then [x] else []

/-- What an instruction needs of its core before it issues, and the faults of its own fields. -/
structure Needs where
  /-- core-store bytes read and written: (address, length) -/
  reads : List (Nat × Nat) := []
  writes : List (Nat × Nat) := []
  slot : Option Nat := none
  /-- accumulator rows that must be VALID: (array, first row, rows) -/
  valid : List (Nat × Nat × Nat) := []
  /-- accumulator rows that must not be EMPTY -/
  present : List (Nat × Nat × Nat) := []
  /-- the array whose earlier fills must be complete -/
  fills : Option Nat := none
  /-- CORE_FAULT and RING_FAULT bits of its fields -/
  core : List Nat := []
  ring : List Nat := []
  deriving DecidableEq, Repr, Inhabited

/-! ### Header and class (R350, R351) -/

def insnVersion (w : Nat) : Nat := bits w 3 0
def insnClass (w : Nat) : Nat := bits w 7 4
def insnOp (w : Nat) : Nat := bits w 15 8
def insnSched (w : Nat) : Nat := bits w 63 32

/-- Row-unit operations (R358). -/
inductive RowOp where
  | add | sub | mul | fma | min | max | cmp | sel | abs | neg | copy | scale2 | cvt | cvts | exp | rcp | rsqrt | div
  | sqrt | red | red2
  deriving DecidableEq, Repr, Inhabited

def RowOp.code : RowOp → Nat
  | .add => 0x00 | .sub => 0x01 | .mul => 0x02 | .fma => 0x03 | .min => 0x04 | .max => 0x05 | .cmp => 0x06 | .sel => 0x07
  | .abs => 0x08 | .neg => 0x09 | .copy => 0x0A | .scale2 => 0x0B | .cvt => 0x10 | .cvts => 0x11 | .exp => 0x18
  | .rcp => 0x19 | .rsqrt => 0x1A | .div => 0x1C | .sqrt => 0x1D | .red => 0x20 | .red2 => 0x21

def rowOps : List RowOp :=
  [.add, .sub, .mul, .fma, .min, .max, .cmp, .sel, .abs, .neg, .copy, .scale2, .cvt, .cvts, .exp, .rcp, .rsqrt, .div,
   .sqrt, .red, .red2]

def rowOpOf (c : Nat) : Option RowOp := rowOps.find? (fun o => o.code == c)

/-- Whether a class and opcode are defined (R351). -/
def insnDefined (cls op : Nat) : Bool :=
  match cls with
  | 0 => decide (op ≤ 4)
  | 4 => (rowOpOf op).isSome
  | 1 | 2 | 3 | 5 | 6 | 7 | 8 => op == 0
  | 10 => decide (op ≤ 3)
  | 11 => decide (op ≤ 4) || op == 8 || op == 9
  | _ => false

/-- Ring instructions report an undefined version in RING_FAULT (R347). -/
def insnRing (w : Nat) : Bool := insnClass w == 6 || insnClass w == 7 || insnClass w == 8

/-- Whether a hint field is defined (R365). -/
def hintOk (h n : Nat) : Bool := !(h == 3) && !(h == 2 && n == 0)

def hintOf (h n : Nat) : Hint := if h = 1 then .keep else if h = 2 then .spend n else .stream

/-! ### WLOAD (R353) -/

structure Wload where
  arrays : Nat
  bank : Nat
  wfmt : Nat
  scaled : Bool
  trans : Bool
  split : Bool
  slot : Option Nat
  release : Bool
  addr : Nat
  deriving DecidableEq, Repr, Inhabited

def decWload (w : Nat) : Wload :=
  { arrays := bits w 67 64, bank := bits w 68 68, wfmt := bits w 72 69, scaled := bit w 73, trans := bit w 74,
    split := bit w 75, slot := if bit w 76 then none else some (bits w 80 77), release := bit w 81,
    addr := 256 * bits w 95 82 }

/-- Arrays loaded directly and through the transposer (R95, R353). -/
def Wload.direct (x : Wload) : List Nat := if x.trans && !x.split then [] else bitList x.arrays 4
def Wload.transposed (x : Wload) : List Nat :=
  if x.split then bitList (15 - x.arrays) 4 else if x.trans then bitList x.arrays 4 else []

def Wload.needs (x : Wload) (slotAddr : Nat) : Needs :=
  let f := fmtOfCode x.wfmt
  let tile := 128 * rowBytes f
  let a := if x.slot.isSome then slotAddr else x.addr
  { reads := (a, tile) :: (if x.scaled then [(a + tile, 512)] else []),
    slot := x.slot,
    core := when' (x.arrays == 0 || (x.split && !(x.arrays == 3 || x.arrays == 12)) || f.isNone ||
                    (!x.scaled && f.any Fmt.alwaysScaled)) cfVersion ++
            when' (f == some .fp64 || (x.scaled && f.any (fun y => !y.scalable))) cfFormat }

/-! ### FEED (R354) -/

structure Feed where
  array : Nat
  trans : Bool
  fmt : Nat
  scaled : Bool
  slot : Option Nat
  release : Bool
  addr : Nat
  line : Nat
  rows : Nat
  deriving DecidableEq, Repr, Inhabited

def decFeed (w : Nat) : Feed :=
  { array := bits w 65 64, trans := bit w 66, fmt := bits w 70 67, scaled := bit w 71,
    slot := if bit w 72 then none else some (bits w 76 73), release := bit w 77, addr := 256 * bits w 91 78,
    line := bits w 101 92, rows := bits w 111 102 }

/-- Rows of the source and the offset of its scale area (R354). -/
def Feed.srcRows (x : Feed) : Nat := if x.trans then 128 else x.rows
def Feed.stride (x : Feed) : Nat := roundUp (rowBytes (fmtOfCode x.fmt)) 128
def Feed.scaleOff (x : Feed) : Nat := roundUp (x.srcRows * x.stride) 256

def Feed.needs (x : Feed) (slotAddr : Nat) : Needs :=
  let f := fmtOfCode x.fmt
  let a := if x.slot.isSome then slotAddr else x.addr
  { reads := (a, x.srcRows * x.stride) :: (if x.scaled then [(a + x.scaleOff, 4 * x.srcRows)] else []),
    slot := x.slot,
    core := when' (x.rows == 0 || decide (512 < x.rows) || (x.trans && decide (128 < x.rows)) || f.isNone) cfVersion ++
            when' (f == some .fp64 || (x.scaled && f.any (fun y => !y.scalable)) ||
                   (!x.scaled && f.any Fmt.alwaysScaled)) cfFormat ++
            when' (decide (1024 < x.line + x.rows * ((f.map linesPerRow).getD 0))) cfFeed }

/-! ### PASS (R88, R355) -/

structure PassI where
  array : Nat
  bank : Nat
  accumulate : Bool
  afmt : Nat
  wfmt : Nat
  len : Nat
  accb : Nat
  feedb : Nat
  ascale : Bool
  deriving DecidableEq, Repr, Inhabited

def decPass (w : Nat) : PassI :=
  { array := bits w 65 64, bank := bits w 66 66, accumulate := bit w 67, afmt := bits w 71 68, wfmt := bits w 75 72,
    len := bits w 85 76, accb := bits w 94 86, feedb := bits w 104 95, ascale := bit w 105 }

/-- Formats of one array class (R46). -/
def sameClass (a b : Fmt) : Bool := a.cls?.isSome && a.cls? == b.cls?

def PassI.needs (x : PassI) (bankFmt : Option Nat) : Needs :=
  let fa := fmtOfCode x.afmt
  let fw := fmtOfCode x.wfmt
  let classOk := match fa, fw with
    | some a, some b => sameClass a b
    | _, _ => true
  { fills := some x.array,
    present := if x.accumulate then [(x.array, x.accb, x.len)] else [],
    core := when' (x.len == 0 || fa.isNone || fw.isNone) cfVersion ++
            when' (!classOk || (!x.ascale && fa.any Fmt.alwaysScaled) || (x.ascale && fa.any (fun y => !y.scalable)) ||
                   bankFmt != some x.wfmt) cfFormat ++
            when' (decide (512 < x.len) || decide (512 < x.accb + x.len)) cfAcc ++
            when' (decide (1024 < x.feedb + x.len * ((fa.map linesPerRow).getD 0))) cfFeed }

/-- Step length (R87). -/
def stepLength (f : Fmt) : Nat :=
  match f with
  | .fp16 | .kb16 => 2
  | .fp32 => 16
  | _ => 1

/-- Number of steps of a pass of `len` rows (R87, R89). -/
def stepCount (f : Fmt) (len : Nat) : Nat := if f.alwaysScaled then (len + 1) / 2 else len

/-! ### DRAIN (R356) -/

structure Drain where
  array : Nat
  accb : Nat
  rows : Nat
  fmt : Nat
  stochastic : Bool
  scaled : Bool
  release : Bool
  dst : Nat
  deriving DecidableEq, Repr, Inhabited

def decDrain (w : Nat) : Drain :=
  { array := bits w 65 64, accb := bits w 74 66, rows := bits w 84 75, fmt := bits w 88 85, stochastic := bit w 89,
    scaled := bit w 90, release := bit w 91, dst := 128 * bits w 106 92 }

def Drain.stride (x : Drain) : Nat := roundUp (rowBytes (fmtOfCode x.fmt)) 128
def Drain.scaleAddr (x : Drain) : Nat := roundUp (x.dst + x.rows * x.stride) 256

def Drain.needs (x : Drain) : Needs :=
  let f := fmtOfCode x.fmt
  { writes := (x.dst, x.rows * x.stride) :: (if x.scaled then [(x.scaleAddr, 4 * x.rows)] else []),
    valid := [(x.array, x.accb, x.rows)],
    core := when' (x.rows == 0 || f.isNone) cfVersion ++
            when' (f == some .fp64 || (!x.scaled && f.any Fmt.alwaysScaled) ||
                   (x.scaled && f.any (fun y => !y.scalable))) cfFormat ++
            when' (decide (512 < x.rows) || decide (512 < x.accb + x.rows)) cfAcc }

/-! ### ROW (R357 to R359) -/

/-- A ROW operand (R359). -/
structure Operand where
  kind : Nat
  rel : Bool
  index : Nat
  deriving DecidableEq, Repr, Inhabited

def decOperand (v : Nat) : Operand := { kind := bits v 1 0, rel := bit v 2, index := bits v 23 3 }

/-- Accumulator array and row of an operand of KIND 0b01. -/
def Operand.accArray (o : Operand) : Nat := bits o.index 10 9
def Operand.accRow (o : Operand) : Nat := bits o.index 8 0

structure RowI where
  op : RowOp
  fmt : Nat
  dfmt : Nat
  rmode : Nat
  pred : Nat
  a : Operand
  b : Operand
  c : Operand
  dst : Operand
  count : Nat
  imm : Nat
  pred2 : Nat
  deriving DecidableEq, Repr, Inhabited

def decRow (w : Nat) : RowI :=
  { op := (rowOpOf (insnOp w)).getD .add, fmt := bits w 67 64, dfmt := bits w 71 68, rmode := bits w 74 72,
    pred := bits w 79 75, a := decOperand (bits w 103 80), b := decOperand (bits w 127 104),
    c := decOperand (bits w 151 128), dst := decOperand (bits w 175 152), count := bits w 187 176,
    imm := bits w 219 188, pred2 := bits w 224 220 }

/-- Elements of a ROW operand. -/
def RowI.n (x : RowI) : Nat := 32 * x.count

/-- Conversions. -/
def RowOp.isCvt : RowOp → Bool
  | .cvt | .cvts => true
  | _ => false
def RowOp.isRed : RowOp → Bool
  | .red | .red2 => true
  | _ => false

/-- Source and target formats; `none` where a code is reserved. -/
def RowI.src? (x : RowI) : Option Fmt := fmtOfCode x.fmt
def RowI.dst? (x : RowI) : Option Fmt := if x.op.isCvt then fmtOfCode x.dfmt else fmtOfCode x.fmt

/-- The short formats of R51. -/
def Fmt.short : Fmt → Bool
  | .kb16 | .kf8a | .kf8b | .kf6a | .kf6b | .kf4 => true
  | _ => false

/-- FP64, FP32 and FP16 (R47). -/
def Fmt.ieee : Fmt → Bool
  | .fp64 | .fp32 | .fp16 => true
  | _ => false

/-- Formats that an operation of the row unit serves (R47, R76, R101, R358); CVT from I8 is the conversion from integers of R47
(log 13). -/
def rowFmtOk (op : RowOp) (f g : Fmt) : Bool :=
  match op with
  | .add | .sub | .mul | .fma | .min | .max | .cmp | .div | .sqrt => f.ieee
  | .sel | .abs | .neg | .copy | .scale2 => f == .fp32 || f == .fp16
  | .exp | .rcp => f == .fp32
  | .rsqrt => f == .fp32 || f == .fp64
  | .red | .red2 => f == .fp32
  | .cvt =>
    (f == .fp32 && (g == .fp64 || g == .fp16 || g == .kb16 || g == .kf8a || g == .kf8b || g == .i8)) ||
    (g == .fp32 && (f == .fp64 || f == .fp16 || f.short || f == .i8))
  | .cvts => f == .fp32 && (g == .kf8a || g == .kf8b)

/-- A conversion to a narrower format. -/
def narrows (op : RowOp) (f g : Fmt) : Bool := op.isCvt && decide (g.width < f.width)

/-- Rounding modes that an operation permits (R358); a reserved code is DESC_VERSION alone (R348). -/
def rowModeOk (op : RowOp) (f g : Fmt) (m : Nat) : Bool :=
  if m = 0 ∨ 5 ≤ m then true
  else if op.isRed then false
  else if m = 4 then narrows op f g
  else f.ieee && g.ieee

def cmpPredOk (p : Nat) : Bool := decide (p ≤ 6) || (decide (0xA ≤ p) && decide (p ≤ 0xD))

/-- A reserved code in a defined field of a ROW instruction, whether or not its operation uses the field (R348, R357, R358). -/
def RowI.reserved (x : RowI) : Bool :=
  decide (5 ≤ x.rmode) || (fmtOfCode x.fmt).isNone || (fmtOfCode x.dfmt).isNone ||
    (if x.op.isRed then decide (5 ≤ x.pred) else !cmpPredOk x.pred) || decide (5 ≤ x.pred2)

/-- An operand as the instruction uses it: the operand, its bytes, its elements, whether it is a destination. -/
structure Use where
  o : Operand
  bytes : Nat
  elems : Nat
  dest : Bool
  deriving DecidableEq, Repr, Inhabited

/-- Sources beyond A. -/
def RowI.usesB (x : RowI) : Bool :=
  match x.op with
  | .add | .sub | .mul | .fma | .min | .max | .cmp | .sel | .div => true
  | .red => x.pred == 4
  | .red2 => x.pred == 4 || x.pred2 == 4
  | _ => false
def RowI.usesC (x : RowI) : Bool :=
  match x.op with
  | .fma | .sel => true
  | _ => false

/-- A conversion that takes block scales from operand C (R358). -/
def RowI.scalesFromC (x : RowI) : Bool := x.op == .cvt && x.src?.any Fmt.scalable && x.c.kind != 3

/-- The operands that an instruction uses. -/
def RowI.uses (x : RowI) : List Use :=
  let wf := (x.src?.map Fmt.width).getD 0
  let wg := (x.dst?.map Fmt.width).getD 0
  let src (o : Operand) : Use := { o := o, bytes := x.n * wf / 8, elems := x.n, dest := false }
  [src x.a] ++ (if x.usesB then [src x.b] else []) ++ (if x.usesC then [src x.c] else []) ++
  (if x.scalesFromC then [{ o := x.c, bytes := x.count, elems := x.count, dest := false }] else []) ++
  (if x.op == .cvts then [{ o := x.c, bytes := x.count, elems := x.count, dest := true }] else []) ++
  (if x.op == .red2 then [{ o := x.c, bytes := 4, elems := 1, dest := true }] else []) ++
  [if x.op.isRed then { o := x.dst, bytes := 4, elems := 1, dest := true }
   else { o := x.dst, bytes := x.n * wg / 8, elems := x.n, dest := true }]

/-- Rows of an accumulator operand: 128 FP32 elements each. -/
def Use.accRows (u : Use) : Nat := (u.elems + 127) / 128

/-- Faults of an operand alone (R348, R359). -/
def Use.faults (u : Use) : List Nat :=
  if u.dest && (u.o.kind == 1 || u.o.kind == 3) then [cfVersion]
  else if u.o.kind = 0 then when' (decide (64 < u.o.index + max 1 ((u.bytes + 1023) / 1024))) cfVersion
  else if u.o.kind = 1 then when' (decide (2047 < u.o.index)) cfVersion ++ when' (decide (512 < u.o.accRow + u.accRows)) cfAcc
  else if u.o.kind = 2 then when' (decide (262143 < u.o.index)) cfVersion
  else []

def RowI.needs (x : RowI) : Needs :=
  let f? := x.src?
  let g? := x.dst?
  let us := x.uses
  let fmtBad := match f?, g? with
    | some f, some g =>
      !rowFmtOk x.op f g || !rowModeOk x.op f g x.rmode ||
      -- accumulator rows and immediates hold FP32 (R358, R359)
      (f != .fp32 && (x.a.kind == 1 || (x.usesB && x.b.kind == 1) || (x.usesC && x.c.kind == 1))) ||
      (f != .fp32 && (x.a.kind == 3 || (x.usesB && x.b.kind == 3) || (x.usesC && x.c.kind == 3))) ||
      (x.op == .cvt && f.scalable && x.c.kind == 1) || (x.op == .cvt && f.alwaysScaled && x.c.kind == 3)
    | _, _ => false
  { reads := (us.filter (fun u => !u.dest && u.o.kind == 2)).map (fun u => (16 * u.o.index, u.bytes)),
    writes := (us.filter (fun u => u.dest && u.o.kind == 2)).map (fun u => (16 * u.o.index, u.bytes)),
    valid := (us.filter (fun u => !u.dest && u.o.kind == 1)).map (fun u => (u.o.accArray, u.o.accRow, u.accRows)),
    core := when' (x.count == 0 || x.reserved) cfVersion ++
            when' fmtBad cfFormat ++ us.flatMap Use.faults }

/-! ### INJECT, ACCUM, CONTRIB (R360 to R362) -/

structure InjectI where
  lane : Nat
  fromCore : Bool
  versioned : Bool
  reblock : Bool
  cstream : Nat
  diemask : Nat
  count : Nat
  slot : Nat
  stamp : Nat
  hint : Nat
  spendn : Nat
  lines : Nat
  rbfmt : Nat
  slotAddr : Nat
  srcAddr : Nat
  deriving DecidableEq, Repr, Inhabited

def decInject (w : Nat) : InjectI :=
  { lane := bits w 64 64, fromCore := bit w 65, versioned := bit w 66, reblock := bit w 67, cstream := bits w 69 68,
    diemask := bits w 73 70, count := bits w 81 74, slot := bits w 85 82, stamp := bits w 90 86, hint := bits w 92 91,
    spendn := bits w 96 93, lines := bits w 105 97, rbfmt := bits w 109 106, slotAddr := 256 * bits w 123 110,
    srcAddr := bits w 171 124 }

/-- Credits of a tile (R139, R360). -/
def InjectI.credits (x : InjectI) : Nat := (x.lines + 15) / 16

/-- A RBFMT that carries no KFS scales cannot be re-blocked: FORMAT_TAG (R60, R172, R348). -/
def InjectI.needs (x : InjectI) (die : Nat) (package stampFree streamOff : Bool) : Needs :=
  let top := if package then 136 else 34
  let others := (bitList x.diemask 4).any (fun n => n != die)
  { reads := if x.fromCore then [(x.srcAddr % 2 ^ 22, 256 * x.lines)] else [],
    core := when' (x.reblock && (fmtOfCode x.rbfmt).any (fun f => !f.scalable)) cfFormat,
    ring := when' (x.count == 0 || decide (top < x.count)) rfCirc ++
            when' (!hintOk x.hint x.spendn || x.lines == 0 || decide (256 < x.lines) || !bit x.diemask die ||
                   (package && others) || (x.reblock && x.fromCore) || (x.reblock && (fmtOfCode x.rbfmt).isNone) ||
                   decide (x.srcAddr % 256 ≠ 0) || stampFree || (!x.fromCore && streamOff)) rfVersion }

structure AccumI where
  lane : Nat
  toCore : Bool
  add : Bool
  gradbuf : Bool
  k : Nat
  flits : Nat
  stamp : Nat
  exit : Nat
  deriving DecidableEq, Repr, Inhabited

def decAccum (w : Nat) : AccumI :=
  { lane := bits w 64 64, toCore := bit w 65, add := bit w 66, gradbuf := bit w 67, k := bits w 75 68,
    flits := bits w 84 76, stamp := bits w 89 85, exit := bits w 137 90 }

def AccumI.needs (x : AccumI) (package stampFree : Bool) : Needs :=
  let top := if package then 136 else 34
  { ring := when' (x.k == 0 || decide (top < x.k)) rfCirc ++
            when' (x.flits == 0 || decide (256 < x.flits) || (x.gradbuf && x.toCore) || decide (x.exit % 256 ≠ 0) ||
                   stampFree) rfVersion }

structure ContribI where
  array : Nat
  accb : Nat
  release : Bool
  lane : Nat
  origin : Nat
  deriving DecidableEq, Repr, Inhabited

def decContrib (w : Nat) : ContribI :=
  { array := bits w 65 64, accb := bits w 74 66, release := bit w 75, lane := bits w 76 76, origin := bits w 84 77 }

/-- `rows` is the number of rows that the stream's flits cover where the stream is open, else 1. -/
def ContribI.needs (x : ContribI) (rows : Nat) : Needs :=
  { present := [(x.array, x.accb, rows)], core := when' (decide (512 < x.accb + rows)) cfAcc }

/-! ### MEM and DEPREQ (R363, R364) -/

structure MemI where
  op : Nat
  hint : Nat
  spendn : Nat
  lines : Nat
  caddr : Nat
  maddr : Nat
  stamp : Nat
  versioned : Bool
  recomp : Bool
  erelease : Bool
  etile : Nat
  deriving DecidableEq, Repr, Inhabited

def decMem (w : Nat) : MemI :=
  { op := insnOp w, hint := bits w 65 64, spendn := bits w 69 66, lines := bits w 78 70, caddr := 256 * bits w 92 79,
    maddr := bits w 140 93, stamp := bits w 145 141, versioned := bit w 146, recomp := bit w 147, erelease := bit w 148,
    etile := bits w 172 149 }

/-- OP codes of MEM (R351). -/
def memReadOp : Nat := 0
def memWriteOp : Nat := 1
def memAddOp : Nat := 2
def memReadClearOp : Nat := 3
def memReleaseOp : Nat := 4
def memEsaveOp : Nat := 8
def memEreadOp : Nat := 9

def MemI.toStore (x : MemI) : Bool := x.op == memReadOp || x.op == memReadClearOp || x.op == memEreadOp
def MemI.fromStore (x : MemI) : Bool := x.op == memWriteOp || x.op == memAddOp || x.op == memEsaveOp
def MemI.usesStamp (x : MemI) : Bool :=
  x.op == memEsaveOp || x.op == memEreadOp || (x.versioned && x.op != memEsaveOp && x.op != memEreadOp)
def MemI.escrow (x : MemI) : Bool := x.op == memEsaveOp || x.op == memEreadOp
def MemI.usesHint (x : MemI) : Bool := x.op != memReadClearOp && x.op != memReleaseOp

def MemI.needs (x : MemI) (stampFree : Bool) : Needs :=
  { reads := if x.fromStore then [(x.caddr, 256 * x.lines)] else [],
    writes := if x.toStore then [(x.caddr, 256 * x.lines)] else [],
    core := when' ((x.usesHint && !hintOk x.hint x.spendn) || x.lines == 0 || decide (256 < x.lines) ||
                   (x.usesStamp && stampFree)) cfVersion }

structure DepI where
  op : Nat
  stream : Nat
  plane : Nat
  pos : Nat
  n : Nat
  caddr : Nat
  saddr : Nat
  pin : Nat
  deliv : Nat
  deriving DecidableEq, Repr, Inhabited

def decDep (w : Nat) : DepI :=
  { op := insnOp w, stream := bits w 79 64, plane := bits w 91 80, pos := bits w 125 92, n := bits w 138 126,
    caddr := 16 * bits w 156 139, saddr := 16 * bits w 174 157, pin := bits w 176 175, deliv := bits w 178 177 }

/-- `rd` and `wr` are the core-store bytes that the request moves under the stream's descriptor (R304). -/
def DepI.needs (x : DepI) (rd wr : List (Nat × Nat)) : Needs :=
  { reads := rd, writes := wr,
    core := when' (x.n == 0 || decide (4096 < x.n) || x.pin == 3 || x.deliv == 3) cfVersion }

/-! ### CTRL (R352) -/

def ctrlMark (w : Nat) : Nat := bits w 79 64
def ctrlSkip (w : Nat) : Nat := bits w 95 80
def ctrlEtile (w : Nat) : Nat := bits w 119 96
def ctrlStamp (w : Nat) : Nat := bits w 124 120

end Sys2Proof.Machine
end

