-- ==== Sys2Proof/Machine/Picker.lean ====
section
/-! DEFINITION. The core store with its ranges and error marks, what a core fault does, and the picker's view of a stream's head:
the checks and readiness rules of an issue (R103 to R112, R348, R366, R549). -/

namespace Sys2Proof.Machine

/-! ### What runs -/

/-- The module runs: power is on and no fatal stop has taken effect (R469, R539). -/
def State.alive (s : State) : Bool := s.power.phase == .on && !s.fatal.stopped

def reqIsCore (r : Requester) (d p : Nat) : Bool :=
  match r with
  | .core i j => i.val == d && j.val == p
  | .station _ _ => false

def reqIsStation (r : Requester) (d p : Nat) : Bool :=
  match r with
  | .station i j => i.val == d && j.val == p
  | .core _ _ => false

/-- Every line request that has not been served. -/
def State.allReqs (s : State) : List LineReq :=
  s.mem.reqs ++ ((List.range 4).flatMap (fun d => (s.die d).queue.map (·.req))) ++ s.mem.xt.map (·.req)

/-- Line requests of a core that are outstanding (R271). -/
def State.coreLines (s : State) (d p : Nat) : Nat := countWhere (fun r => reqIsCore r.src d p) s.allReqs

/-- Line requests of a core that have not left it (R271, R331): the first 64 of them fill its queue, and the others are held in the
core until entries free. -/
def State.unsentLines (s : State) (d p : Nat) : Nat :=
  countWhere (fun r => reqIsCore r.src d p && decide (s.edge < r.leave)) s.mem.reqs

def Slice.waiting (x : Slice) : List DepReq := x.intake ++ x.forFrame ++ x.faults.flatMap (·.waiting)

/-- Depository requests of a core that wait (R314). -/
def State.depWaiting (s : State) (d p : Nat) : Nat :=
  countWhere (fun r => r.die == d && r.phys == p)
    (s.dep.held ++ s.dep.slice0.waiting ++ s.dep.slice1.waiting ++ s.dep.slice2.waiting ++ s.dep.slice3.waiting)

/-- Depository READs of a core that have been served and whose last line is still to come: each keeps its queue entry (R304). -/
def Core.depReads (c : Core) : Nat := countWhere (fun (o : MemOp) => o.entry && o.remaining == 0) c.ops

/-- Free entries of a core's Vault request queue of 64 (R271, R304, R331). -/
def State.queueRoom (s : State) (d p : Nat) : Nat := 64 - (s.unsentLines d p + s.depWaiting d p + (s.core d p).depReads)

def Core.arrays (c : Core) : List Array := [c.array0, c.array1, c.array2, c.array3]

def Array.busy (a : Array) : Bool := !a.queue.isEmpty || !a.running.isEmpty

/-- Occupied entries of the row-unit queue (R101): an entry is free once its result is written. -/
def Core.rowLevel (c : Core) (edge : Nat) : Nat := countWhere (fun e => decide (edge < e)) c.rowQueue

/-- What a core's own ring instructions have still to do at its station: an injection in the queue, a contribution named, a stream
with flits unsent. -/
def Station.working (t : Station) : Bool :=
  !t.injQ.isEmpty || !t.contribs.isEmpty || t.accs.any (fun a => decide (a.sent < a.flits))

/-- QUIET: no instruction queued, no pass in progress, no transfer in flight (R116), those at the core's station among them. -/
def State.quiet (s : State) (d p : Nat) : Bool :=
  let c := s.core d p
  c.arrays.all (fun a => !a.busy && a.fills.isEmpty && decide (a.drainBusy ≤ s.edge)) && c.load.isNone && c.arriving.isEmpty &&
    decide (c.transBusy ≤ s.edge) && c.rowLevel s.edge == 0 && c.ops.isEmpty &&
    c.slots.all (fun x => !x.2.delivering) && !(s.station d p).working && s.coreLines d p == 0 && s.depWaiting d p == 0

def State.coreRun (s : State) (d p : Nat) : Bool := s.rf (coreBase d p + 4) 0 0 == 1

/-- Whether CORE_PICK_CTL enables a stream (R121). -/
def State.streamEn (s : State) (d p : Nat) (st : StreamId) : Bool :=
  match st with
  | .fwd => s.rf (coreBase d p + 0x38) 2 2 == 1
  | .bwd => s.rf (coreBase d p + 0x38) 3 3 == 1

/-- SCHEDULED mode (R121). -/
def State.scheduled (s : State) (d p : Nat) : Bool := s.rf (coreBase d p + 0x38) 1 0 == 1

/-- An arrival mark is set when its count equals its total (R399). -/
def State.markSet (s : State) (m : Nat) : Bool :=
  match Tab.find? s.link.marks m with
  | some x => x.1 == x.2
  | none => false

/-- The stamp of an entry; none while the entry is free (R187). -/
def State.stamp? (s : State) (e : Nat) : Option (BitVec 128) := Tab.find? s.step.stamps e
/-- An instruction may not name an entry that is free (R187). In an evaluation slot, which has no stamps, any entry serves (R200). -/
def State.stampFree (s : State) (e : Nat) : Bool := !s.step.evalRunning && (s.stamp? e).isNone
def stampVer (x : BitVec 128) : Nat := bits x.toNat 0 0
def stampStale (x : BitVec 128) : Bool := bit x.toNat 40
def stampAbandoned (x : BitVec 128) : Bool := bit x.toNat 41
def stampMb (x : BitVec 128) : Nat := bits x.toNat 31 16
def stampStep (x : BitVec 128) : Nat := bits x.toNat 95 64
def stampLs (x : BitVec 128) : Nat := bits x.toNat 127 96

/-! ### Core store (R103 to R106) -/

/-- The core with its store as it stood before an edge: what a read in that edge returns (R103). -/
def Core.was (c : Core) (edge : Nat) : Core :=
  match c.before with
  | some (e, m, k) => if e = edge then { c with store := m, marks := k } else c
  | none => c

/-- The first write of an edge keeps the store as it stood before it (R103). -/
def Core.note (c : Core) (edge : Nat) : Core :=
  if c.before.any (fun x => x.1 == edge) then c else { c with before := some (edge, c.store, c.marks) }

/-- A core as its store's read port shows it in the present edge (R103). -/
def State.seen (s : State) (d p : Nat) : Core := (s.core d p).was s.edge

/-- Write the store of a core in the present edge (R103). -/
def State.modStore (s : State) (d p : Nat) (f : Core → Core) : State := s.modCore d p (fun c => f (c.note s.edge))

/-- Whether a CORE_RANGE register permits an access (R106, R123). -/
def rangeAllows (r : Nat) (write instr : Bool) (a n : Nat) : Bool :=
  bit r 31 && (!write || bit r 30) && (!instr || bit r 29) && decide (bits r 21 11 ≤ 1024) &&
    decide (bits r 10 0 + bits r 21 11 ≤ 1024) && decide (4096 * bits r 10 0 ≤ a) &&
    decide (a + n ≤ 4096 * (bits r 10 0 + bits r 21 11))

/-- An access lies wholly inside an enabled range that permits it (R106); an access of no byte is none. -/
def State.storeAllowed (s : State) (d p : Nat) (write instr : Bool) (x : Nat × Nat) : Bool :=
  x.2 == 0 ||
    (List.range 8).any (fun k => rangeAllows (s.rf (coreBase d p + 0x40 + 4 * k) 31 0) write instr x.1 x.2)

/-- A core fault stops both streams (R112). -/
def State.halt (s : State) (d p : Nat) : State := s.modCore d p (fun c => { c with halted := true })

/-- The Journal entry of a CORE_FAULT bit (R112, R436). -/
def coreErr (d p b : Nat) : Err := Err.of (if b = cfUe then .restore else .step) (0x100 + b) (domCore d p) p

/-- CORE_FAULT bits are set, each is journalled, and both streams stop (R112). -/
def State.coreFault (s : State) (d p : Nat) (bs : List Nat) : State :=
  (s.halt d p).raiseBits (coreBase d p + 0xC) bs.dedup (coreErr d p)

/-- The Journal entry of a RING_FAULT bit, by the die control with the station index (R155, R436). -/
def ringErr (d j b : Nat) : Err := Err.of .step (0x200 + b) (domCdCtl d) j

/-- RING_FAULT bits are set and journalled (R155). -/
def State.ringFault (s : State) (d j : Nat) (bs : List Nat) : State :=
  s.raiseBits (ringBase d + 0xC) bs.dedup (ringErr d j)

/-- Words of the store with an error mark within a range of bytes. -/
def Core.marked (c : Core) (a n : Nat) (ue : Bool) : List Nat :=
  (c.marks.filter (fun m => decide (a / 8 ≤ m.1) && decide (8 * m.1 < a + n) && m.2 == ue)).map (·.1)

/-- Whether a read of a range is uncorrectable (R104). -/
def Core.readsUe (c : Core) (a n : Nat) : Bool := !(c.marked a n true).isEmpty

/-- One corrected core-store read: it is written back and counted (R104, R441). -/
def State.storeCorrected (s : State) (d p w : Nat) : State :=
  let s := s.modCore d p (fun c => { c with marks := Tab.del c.marks w })
  let s := s.countRf (coreBase d p + 0x3C) 15 0 1
  s.corrected (Err.of .corrected 0x120 (domCore d p) p) (s.rf (coreBase d p + 0x3C) 15 0) 0xFFFF

/-- The side of a read of a range: corrections, and STORE_UE where it is uncorrectable (R104). -/
def State.storeRead (s : State) (d p a n : Nat) : State :=
  let c := s.seen d p
  let s := (c.marked a n false).foldl (fun s w => s.storeCorrected d p w) s
  if c.readsUe a n then s.coreFault d p [cfUe] else s

/-- Write bytes: words written whole lose their error marks. -/
def Core.write (c : Core) (a : Nat) (bs : List Byte) : Core :=
  { c with store := c.store.setBytes a bs,
           marks := c.marks.filter (fun m => !(decide (a ≤ 8 * m.1) && decide (8 * m.1 + 8 ≤ a + bs.length))) }

/-- Write bytes; poisoned bytes are written with words whose code reads as uncorrectable (R104). -/
def Core.writeMarked (c : Core) (a : Nat) (bs : List Byte) (poison : Bool) : Core :=
  let c := c.write a bs
  if poison && !bs.isEmpty then
    { c with marks := (upFrom (a / 8) ((a + bs.length + 7) / 8 - a / 8)).foldl (fun t w => Tab.put t w true) c.marks }
  else c

/-- Write a line. -/
def Core.writeLine (c : Core) (a : Nat) (v : Line) (poison : Bool) : Core := c.writeMarked a (bytesOfNum 256 v.toNat) poison

/-- Bytes are on their way to the store: they stand in the order of their edges. -/
def arrive (x : Arrival) : List Arrival → List Arrival
  | [] => [x]
  | y :: t => if y.due ≤ x.due then y :: arrive x t else x :: y :: t

/-- The bytes that arrive before an edge are written. -/
def Core.land (c : Core) (edge : Nat) : Core :=
  (c.arriving.filter (fun x => decide (x.due < edge))).foldl (fun c x => c.writeMarked x.addr x.data x.poison)
    { c with arriving := c.arriving.filter (fun x => decide (edge ≤ x.due)) }

/-! ### Needs and room of an instruction (R108) -/

/-- Bytes that a Depository request moves to and from the core store, under the descriptor of its stream (R304, R306). -/
def depWidth (sfmt : Nat) : Nat := if sfmt = 0 then 4 else if sfmt = 3 then 16 else 6

def State.depDesc? (s : State) (stream : Nat) : Option Nat := (Tab.find? s.dep.streams stream).map BitVec.toNat

/-- Whether a READ delivers RAW (R306, R364). -/
def depRaw (desc deliv : Nat) : Bool := deliv == 2 || (deliv == 0 && bit desc 12)

def depD (desc : Nat) : Nat := 32 * bits desc 20 16
def depSfmt (desc : Nat) : Nat := bits desc 10 9

def State.depRegions (s : State) (x : DepI) : List (Nat × Nat) × List (Nat × Nat) :=
  match s.depDesc? x.stream with
  | none => ([], [])
  | some desc =>
    let dd := depD desc
    if x.op = 0 then ([(x.caddr, 4 * dd * x.n)], [])
    else if x.op = 1 then
      if depRaw desc x.deliv then
        ([], (x.caddr, x.n * dd * depWidth (depSfmt desc) / 8) ::
          (if depSfmt desc = 3 then [] else [(x.saddr, x.n * dd / 32)]))
      else ([], [(x.caddr, 4 * dd * x.n)])
    else ([], [])

def State.package (s : State) (d : Nat) : Bool := s.rf (ringBase d + 4) 1 1 == 1
def State.ringOn (s : State) (d : Nat) : Bool := s.rf (ringBase d + 4) 0 0 == 1

def creditCfg (d k : Nat) : Nat := ringBase d + 0x20 + 8 * k

/-- A credit stream in service: EN is 1 and INIT at most 256 (R139, R142). -/
def State.creditOn (s : State) (d k : Nat) : Bool :=
  s.rf (creditCfg d k) 31 31 == 1 && decide (s.rf (creditCfg d k) 8 0 ≤ 256)

/-- Global index of a station in the span of its die (R129). -/
def State.origin (s : State) (d j : Nat) : Nat := if s.package d then 34 * d + j else j

/-- The stream that a CONTRIB names, where it is open. -/
def State.streamOf (s : State) (d : Nat) (x : ContribI) : Option AccStream :=
  let d' := if s.package d then x.origin / 34 else d
  let lane : Lane := if x.lane = 1 then .ccw else .cw
  (s.station d' (x.origin % 34)).accs.find? (fun a => a.lane == lane)

def State.streamOpen (s : State) (d : Nat) (x : ContribI) : Bool := (s.streamOf d x).isSome

/-- Rows that a CONTRIB covers: those of its stream's flits where the stream is open. -/
def State.contribRows (s : State) (d : Nat) (x : ContribI) : Nat :=
  match s.streamOf d x with
  | some a => (a.flits + 1) / 2
  | none => 1

def Array.bankInfo (a : Array) (b : Nat) : BankInfo := if b = 0 then a.bank0 else a.bank1
def Array.setBankInfo (a : Array) (b : Nat) (x : BankInfo) : Array :=
  if b = 0 then { a with bank0 := x } else { a with bank1 := x }

def Core.slot (c : Core) (i : Nat) : Slot := Tab.read {} c.slots i
def Core.setSlot (c : Core) (i : Nat) (x : Slot) : Core := { c with slots := Tab.write {} c.slots i x }
def Core.slotValid (c : Core) (i : Nat) : Bool := bit c.inbox.toNat i

/-- What an instruction needs, and the faults of its fields. -/
def State.needsOf (s : State) (d p w : Nat) : Needs :=
  let c := s.core d p
  match insnClass w with
  | 0 => if insnOp w = 3 ∧ s.stampFree (ctrlStamp w) = true then { core := [cfVersion] } else {}
  | 1 => let x := decPass w; x.needs ((c.array x.array).bankInfo x.bank).fmt
  | 2 => let x := decWload w; x.needs (c.slot (x.slot.getD 0)).addr
  | 3 => let x := decFeed w; x.needs (c.slot (x.slot.getD 0)).addr
  | 4 => (decRow w).needs
  | 5 => (decDrain w).needs
  | 6 => let x := decInject w; x.needs d (s.package d) (s.stampFree x.stamp) (!s.creditOn d x.cstream)
  | 7 => let x := decAccum w; x.needs (s.package d) (s.stampFree x.stamp || (s.step.evalRunning && x.gradbuf))
  | 8 => let x := decContrib w; x.needs (s.contribRows d x)
  | 10 => let x := decDep w; let r := s.depRegions x; x.needs r.1 r.2
  | _ => let x := decMem w; x.needs (s.stampFree x.stamp || (s.step.evalRunning && x.escrow))

/-- Free places in each unit that an instruction needs (R108, R109). -/
def State.unitsOf (s : State) (d p w : Nat) : List (Nat × Nat) :=
  let c := s.core d p
  let trans : Nat × Nat :=
    (21, if c.transBusy ≤ s.edge && c.load.all (fun l => l.trans.isEmpty) then 1 else 0)
  match insnClass w with
  | 0 => []
  | 1 => let i := (decPass w).array; [(10 + i, 4 - (c.array i).queue.length)]
  | 2 => (20, if c.load.isNone then 1 else 0) :: (if (decWload w).transposed.isEmpty then [] else [trans])
  | 3 => if (decFeed w).trans then [trans] else []
  | 4 => [(30, 8 - c.rowLevel s.edge)]
  | 5 => let i := (decDrain w).array; [(40 + i, if (c.array i).drainBusy ≤ s.edge then 1 else 0)]
  | 6 => [(50, if s.ringOn d then 8 - (s.station d p).injQ.length else 0)]
  | 7 => [(51, if s.ringOn d then 1 else 0)]
  | 8 => [(52, if s.ringOn d then 1 else 0)]
  | 10 => [(60, if s.dep.reading && s.dep.opening == some (decDep w).stream then 0 else s.queueRoom d p)]
  | _ => [(60, s.queueRoom d p)]

def rowStateAt (c : Core) (i r : Nat) : RowState := Tab.read .empty (c.array i).rowState r

/-- Some row of a range is in a state. -/
def Core.anyRow (c : Core) (x : Nat × Nat × Nat) (t : RowState → Bool) : Bool :=
  (upFrom x.2.1 (min x.2.2 (512 - x.2.1))).any (fun r => t (rowStateAt c x.1 r))

/-- CORE_FAULT bits of an instruction that is considered for issue: of its fields, of its slot, of the rows it reads, of its
ranges (R88, R98, R106, R107, R348). -/
def State.faultsOf (s : State) (d p : Nat) (n : Needs) : List Nat :=
  let c := s.core d p
  n.core ++
  when' (n.slot.any (fun i => !c.slotValid i && !(c.slot i).delivering)) cfSlot ++
  when' (n.reads.any (fun x => !s.storeAllowed d p false false x) ||
         n.writes.any (fun x => !s.storeAllowed d p true false x)) cfRange ++
  when' ((n.valid ++ n.present).any (fun x => c.anyRow x (fun t => t == .empty))) cfEmpty

/-- Two ranges of bytes meet. -/
def overlaps (x : Nat × Nat) (lo hi : Nat) : Bool := decide (0 < x.2) && decide (x.1 < hi) && decide (lo < x.1 + x.2)

/-- The readiness rules of R108 that need no unit. -/
def State.readyOf (s : State) (d p : Nat) (st : StreamId) (n : Needs) : Bool :=
  let c := s.core d p
  n.slot.all (fun i => c.slotValid i) &&
  n.valid.all (fun x => !c.anyRow x (fun t => t != .valid)) &&
  n.fills.all (fun i => !(c.array i).fills.any (fun f => f.stream == st)) &&
  !(c.ops.any (fun o => o.stream == st && n.reads.any (fun x => overlaps x o.lo o.hi)))

/-- The head of a stream that the picker may consider: the core runs, nothing has stopped the stream, and in SCHEDULED mode
its edge has come (R108 to R112, R115, R121, R352, R549). -/
def State.head? (s : State) (d p : Nat) (st : StreamId) : Option FetchEntry :=
  let c := s.core d p
  let x := c.stream st
  match x.buf with
  | [] => none
  | e :: _ =>
    if s.alive && c.active && !c.off && (s.domain (domCore d p)).awake && s.coreRun d p && !c.halted && s.streamEn d p st &&
       !x.ended && !x.barrier && x.wait.all (fun m => s.markSet m) &&
       !(s.scheduled d p && decide (s.edge < x.window + insnSched e.word.toNat))
    then some e else none

/-- Whether an instruction has a defined version, class and opcode (R347, R348, R351). -/
def insnOk (w : Nat) : Bool := insnVersion w == 1 && insnDefined (insnClass w) (insnOp w)

/-- The count fault of an injection or accumulate instruction (R154, R360, R361). -/
def countFault (w : Nat) (package : Bool) : List Nat :=
  let top := if package then 136 else 34
  let n := if insnClass w = 6 then (decInject w).count else if insnClass w = 7 then (decAccum w).k else 1
  when' (n == 0 || decide (top < n)) rfCirc

/-- A ring instruction while the ring's ENABLE is 0: it is held, and not faulted (R108, R159). -/
def State.ringHolds (s : State) (d w : Nat) : Bool := insnRing w && !s.ringOn d

/-- The faults of a head (R112, R154, R347, R366): CORE_FAULT bits and RING_FAULT bits. -/
def State.headFaults (s : State) (d p : Nat) (e : FetchEntry) : List Nat × List Nat :=
  let w := e.word.toNat
  if e.outside || e.uncorrectable then (when' e.outside cfRange ++ when' e.uncorrectable cfUe, [])
  else if s.ringHolds d w then ([], [])
  else if !insnOk w then (if insnRing w then ([], rfVersion :: countFault w (s.package d)) else ([cfVersion], []))
  else
    let n := s.needsOf d p w
    (s.faultsOf d p n, n.ring)

/-- The head is ready (R108). -/
def State.headReady (s : State) (d p : Nat) (st : StreamId) (w : Nat) : Bool :=
  s.readyOf d p st (s.needsOf d p w) && (s.unitsOf d p w).all (fun u => decide (0 < u.2))

def streamOther : StreamId → StreamId
  | .fwd => .bwd
  | .bwd => .fwd

/-- The head of the other stream is ready too, needs the last place of a unit that this one needs, and goes first (R109). -/
def State.yields (s : State) (d p : Nat) (st : StreamId) (w : Nat) : Bool :=
  match s.head? d p (streamOther st) with
  | none => false
  | some e =>
    let v := e.word.toNat
    ((s.core d p).stream (streamOther st)).issuedAt != some s.edge && s.headFaults d p e == ([], []) && s.headReady d p (streamOther st) v &&
      (s.unitsOf d p w).any (fun u => u.2 == 1 && (s.unitsOf d p v).any (fun t => t.1 == u.1)) &&
      (decide (insnSched v < insnSched w) || (insnSched v == insnSched w && st == .fwd))

/-- A stream is idle: it has ended, waits on a mark, holds at its barrier, or its head waits on a tile that is being delivered
(R111). -/
def State.streamIdle (s : State) (d p : Nat) (st : StreamId) : Bool :=
  let c := s.core d p
  let x := c.stream st
  x.ended || x.barrier || x.wait.any (fun m => !s.markSet m) ||
    (match x.buf with
     | [] => false
     | e :: _ => (s.needsOf d p e.word.toNat).slot.any (fun i => !c.slotValid i && (c.slot i).delivering))

end Sys2Proof.Machine
end

