-- ==== Sys2Proof/Machine/Privilege.lean ====
section
/-! DEFINITION. Who may write a register field (R494), and wake conditions (R413). -/

namespace Sys2Proof.Machine

/-- FMC_ACCESS.HOST_WR (R488, R510). -/
def State.hostWr (s : State) : Bool := s.rf 0x10 2 2 == 1

/-- A write of a field of its own behaviour: firmware may always make it; the host driver where `host` names the field as one
it may write, or while HOST_WR is 1. A host write of another field is discarded and journalled (R494). No register answers
while power is off (R15, R539). -/
def State.gate (s : State) (by_ : Writer) (host : Bool) (off : Nat) (k : State → State) : State :=
  if s.power.phase != .on then s
  else
    match by_ with
    | .firmware => k s
    | .host => if host || s.hostWr then k s else s.ignored off

/-- A wake condition of a domain is seen: its wake begins where the domain sleeps (R413). -/
def State.wakeSeen (s : State) (i : Nat) : State :=
  let x := s.domain i
  if x.awake || x.wakeAt.isSome then s else s.setDomain i { x with wakeAt := some s.edge }

/-- Kind of a domain's die (0 compute, 1 memory side, 2 I/O), its die, and its index there (R412). -/
def domAt (i : Nat) : Nat × Nat × Nat :=
  if i < 156 then (0, i / 39, i % 39)
  else if i < 196 then (1, (i - 156) / 10, (i - 156) % 10)
  else (2, (i - 196) / 16, (i - 196) % 16)

/-- Hold stages that a wake is padded by (R339, R341): WAKE_CORE, WAKE_RING and WAKE_SLICE. -/
def State.wakeHold (s : State) (i : Nat) : Nat :=
  let x := domAt i
  if 228 ≤ i then 0
  else if x.1 = 0 then (if x.2.2 < 34 then s.hold 8 else s.hold 9)
  else if x.1 = 1 then s.hold 10
  else 0

/-- The domain gate passes edges: the domain serves, or its wake has reached the opening of the gate (R414, R434). -/
def State.gateOpen (s : State) (i : Nat) : Bool :=
  let x := s.domain i
  x.awake || x.wakeAt.any (fun e => decide (e + domGate i + s.wakeHold i ≤ s.edge))

/-- A domain's gate opens (R414): it takes S, the edge count and the point of its die control. -/
def State.openGate (s : State) (i : Nat) : State :=
  let c := domAt i
  let ctl := s.domain (if c.1 = 0 then domCdCtl c.2.1 else if c.1 = 1 then domMd c.2.1 9 else domXd c.2.1 15)
  let s1 := s.modDomain i (fun x =>
    { x with awake := true, wakeAt := none, rested := 0, swallowed := ctl.swallowed, deferred := 0, opIndex := ctl.opIndex,
             wakes := min (x.wakes + 1) 0xFFFF })
  if c.1 = 0 ∧ 34 ≤ c.2.2 then s1.modRing c.2.1 (fun r => { r with awakeAt := max r.awakeAt s.edge }) else s1

end Sys2Proof.Machine
end

