-- ==== Sys2Proof/Machine/Passes.lean ====
section
/-! DEFINITION. Passes in progress: what enters an array and what it writes as edges pass (R64 to R67, R86 to R90, R93, R96 to
R99). -/

namespace Sys2Proof.Machine

/-! ### Elements in bytes (R57) -/

/-- Element `i` of width `w` of packed elements read as one little-endian integer. -/
def element (v w i : Nat) : Nat := v / 2 ^ (w * i) % 2 ^ w

/-- The first `n` elements of width `w`. -/
def elements (v w n : Nat) : List Nat := (List.range n).map (element v w)

/-- Elements packed into one little-endian integer. -/
def packElements (w : Nat) : List Nat → Nat
  | [] => 0
  | x :: xs => x % 2 ^ w + 2 ^ w * packElements w xs

/-! ### Timing (R87, R89, R90) -/

def Pass.fa (x : Pass) : Fmt := (fmtOfCode x.afmt).getD .fp32
def Pass.fw (x : Pass) : Fmt := (fmtOfCode x.wfmt).getD .fp32
def Pass.s (x : Pass) : Nat := stepLength x.fa
def Pass.n (x : Pass) : Nat := stepCount x.fa x.len
/-- The edge at which a pass that starts at an edge is complete (R89). -/
def Pass.complete (x : Pass) (start : Nat) : Nat := start + x.s * (x.n + 255)

/-- Activation rows that enter in a step: two in the packed class, but for the last of an odd number (R87). -/
def Pass.stepRows (x : Pass) (u : Nat) : List Nat :=
  if x.fa.alwaysScaled then (if 2 * u + 1 < x.len then [2 * u, 2 * u + 1] else [2 * u]) else [u]

/-- The step in which an activation row enters. -/
def Pass.stepOf (x : Pass) (i : Nat) : Nat := if x.fa.alwaysScaled then i / 2 else i

/-- The `k` with `a ≤ base + s × k < b` and `k < m`. -/
def edgeWindow (base s a b m : Nat) : List Nat :=
  let lo := if a ≤ base then 0 else (a - base + s - 1) / s
  let hi := if b ≤ base then 0 else (b - base + s - 1) / s
  upFrom lo (min hi m - lo)

/-! ### What enters (R86, R89, R93) -/

/-- The codes of activation row `i` as the lines of the feed buffer hold them. -/
def Pass.rowBits (x : Pass) (feed : Tab FeedLine) (i : Nat) : Nat :=
  let n := linesPerRow x.fa
  (List.range n).foldl (fun m k => m + 2 ^ (1024 * k) * (Tab.read {} feed (x.feedb + i * n + k)).data.toNat) 0

/-- The scale bytes of activation row `i`, in the first of its lines. -/
def Pass.rowScale (x : Pass) (feed : Tab FeedLine) (i : Nat) : Nat :=
  (Tab.read {} feed (x.feedb + i * linesPerRow x.fa)).scale.toNat

/-- Elements of step `u` that enter from edge `a` to before edge `b`, element r at edge s × (u + r) of the pass; the scale of a
block enters with the block's first element. -/
def PassRun.enterStep (r : PassRun) (feed : Tab FeedLine) (a b : Nat) (u : Nat) : PassRun :=
  let rs := edgeWindow (r.start + r.pass.s * u) r.pass.s a b 128
  if rs.isEmpty then r
  else
    (r.pass.stepRows u).foldl (fun x i =>
      let v := x.pass.rowBits feed i
      let sc := x.pass.rowScale feed i
      { x with acts := rs.foldl (fun t k => Tab.write 0 t (128 * i + k) (BitVec.ofNat 32 (element v x.pass.fa.width k))) x.acts,
               ascales := (rs.filter (fun k => k % 32 == 0)).foldl (fun t k =>
                 Tab.write 0 t (4 * i + k / 32) (BitVec.ofNat 8 (sc / 256 ^ (k / 32)))) x.ascales }) r

/-! ### What is written (R64 to R67, R89, R97, R99) -/

/-- The codes and scales of activation row `i` that have entered; the implicit scale where the pass names none (R60). -/
def PassRun.row (r : PassRun) (i : Nat) : List Nat := (List.range 128).map (fun k => (Tab.read 0 r.acts (128 * i + k)).toNat)
def PassRun.rowScales (r : PassRun) (i : Nat) : List (Option Nat) :=
  (List.range 4).map (fun k => if r.pass.ascale then some (Tab.read 0 r.ascales (4 * i + k)).toNat else none)

/-- The weights of column `c`, and their scales: code 0x80, the implicit scale 1, where none is listed (R60). -/
def PassRun.col (r : PassRun) (c : Nat) : List Nat :=
  (List.range 128).map (fun i => (Tab.read 0 r.weights (128 * i + c)).toNat)
def PassRun.colScales (r : PassRun) (c : Nat) : List (Option Nat) :=
  (List.range 4).map (fun k => some (Tab.read 0x80 r.wscales (128 * k + c)).toNat)

/-- The result of column `c` for activation row `i` (R64 to R66). -/
def PassRun.result (r : PassRun) (i c : Nat) : CodeF :=
  column r.pass.fa r.pass.fw (r.row i) (r.col c) (r.rowScales i) (r.colScales c)

/-- One column result enters the accumulator buffer: it replaces the entry, or is added to it (R97). -/
def accPut (accumulate : Bool) (acc : Tab Word) (key : Nat) (v : CodeF) : Tab Word × Nat :=
  let r : CodeF := if accumulate then addF32 (Tab.read 0 acc key).toNat v.1 else (v.1, 0)
  (Tab.write 0 acc key (BitVec.ofNat 32 r.1), v.2 ||| r.2)

/-- Columns of step `u` that are written from edge `a` to before edge `b`, column c at edge s × (u + c + 129) of the pass, with
the flags they raise. -/
def PassRun.writeStep (r : PassRun) (a b : Nat) (m : Tab Word × Nat) (u : Nat) : Tab Word × Nat :=
  let cs := edgeWindow (r.start + r.pass.s * (u + 129)) r.pass.s a b 128
  if cs.isEmpty then m
  else
    (r.pass.stepRows u).foldl (fun m i =>
      cs.foldl (fun m c =>
        let x := accPut r.pass.accumulate m.1 (128 * (r.pass.accb + i) + c) (r.result i c)
        (x.1, m.2 ||| x.2)) m) m

/-- Before an edge, a pass in progress has written column 127 of an accumulator row; a row that it does not write counts as
written. -/
def PassRun.wrote (r : PassRun) (edge row : Nat) : Bool :=
  !(decide (r.pass.accb ≤ row) && decide (row < r.pass.accb + r.pass.len)) ||
    decide (r.start + r.pass.s * (r.pass.stepOf (row - r.pass.accb) + 256) < edge)

/-- Every pass issued for a row has written its column 127 before an edge (R98). -/
def Array.rowWritten (a : Array) (edge row : Nat) : Bool :=
  !a.queue.any (fun y => decide (y.accb ≤ row) && decide (row < y.accb + y.len)) && a.running.all (fun r => r.wrote edge row)

/-- Rows of a pass that it completes from edge `a` to before edge `b`. -/
def PassRun.rowsDone (r : PassRun) (a b : Nat) : List Nat :=
  (edgeWindow (r.start + r.pass.s * 256) r.pass.s a b r.pass.n).flatMap (fun u => (r.pass.stepRows u).map (fun i => r.pass.accb + i))

/-! ### Gating (R96) -/

/-- Whether a cell gates its multiplier for two operands. -/
def gates (fa fw : Fmt) (a w : Nat) : Bool :=
  let x := fa.decode a
  let y := fw.decode w
  let fin (v : Num) : Bool := !v.isNan && !v.isInf
  (x.isZero && fin y) || (y.isZero && fin x)

/-- Cell-steps of a pass that are gated: in a packed step, both products of the cell (R87, R96). -/
def PassRun.gated (r : PassRun) : Nat :=
  let cols := (List.range 128).map r.col
  (List.range r.pass.n).foldl (fun n u =>
    let rows := (r.pass.stepRows u).map r.row
    cols.foldl (fun n w =>
      n + countWhere (fun i => rows.all (fun a => gates r.pass.fa r.pass.fw (a.getD i 0) (w.getD i 0))) (List.range 128)) n) 0

/-! ### An array as edges pass -/

/-- The elements that enter a pass in progress before an edge. -/
def PassRun.enter (r : PassRun) (feed : Tab FeedLine) (edge : Nat) : PassRun :=
  (List.range r.pass.n).foldl (fun x u => x.enterStep feed r.upTo edge u) r

/-- The columns that a pass in progress writes before an edge. -/
def PassRun.write (r : PassRun) (edge : Nat) (m : Tab Word × Nat) : Tab Word × Nat :=
  (List.range r.pass.n).foldl (r.writeStep r.upTo edge) m

/-- A pass in progress is complete before an edge (R89). -/
def PassRun.over (r : PassRun) (edge : Nat) : Bool := decide (r.pass.complete r.start < edge)

/-- What an array does before an edge: elements enter, columns are written in queue order (R99), rows whose last pass has
written them become VALID (R98), and complete passes leave. Its flags are returned beside it. -/
def Array.advance (a : Array) (edge : Nat) : Array × Nat :=
  if a.running.isEmpty then (a, 0)
  else
    let runs := a.running.map (fun r => r.enter a.feed edge)
    let w := runs.foldl (fun m r => r.write edge m) (a.acc, 0)
    let b : Array := { a with running := runs, acc := w.1 }
    let done := (runs.flatMap (fun r => r.rowsDone r.upTo edge)).filter (b.rowWritten edge)
    let last := (runs.filter (fun r => r.over edge)).getLast?
    ({ b with rowState := done.foldl (fun t i => Tab.write .empty t i .valid) a.rowState,
              running := (runs.filter (fun r => !r.over edge)).map (fun r => { r with upTo := max r.upTo edge }),
              doneAt := (last.map (fun r => r.pass.complete r.start)).getD a.doneAt }, w.2)

/-- The passes of an array that are complete before an edge, with the edges that each ran since the one before it and its gated
cell-steps (R96, R518). -/
def Array.ending (a : Array) (edge : Nat) : List (Nat × Nat) :=
  ((a.running.filter (fun r => r.over edge)).foldl (fun (m : Nat × List (Nat × Nat)) r =>
    let due := r.pass.complete r.start
    (due, m.2 ++ [(due - max r.start m.1, (r.enter a.feed edge).gated)])) (a.doneAt, [])).2

/-- Array `i` of a core as edges pass: its flags enter its flag word, and Tally counts the passes that end. -/
def State.advanceArray (s : State) (d p edge i : Nat) : State :=
  let a := (s.core d p).array i
  if a.running.isEmpty then s
  else
    let x := a.advance edge
    let s1 := s.modCore d p (fun c => c.setArray i x.1)
    let s2 := if x.2 = 0 then s1 else s1.orReg (coreBase d p + 0x14 + 4 * i) x.2
    (a.ending edge).foldl (fun t e =>
      let t1 := t.count (blkCd d) 0x10 p e.1
      if s.rf (coreBase d p + 4) 2 2 = 1 then t1.count (blkCd d) 0x11 p e.2 else t1) s2

/-- A core that is stopping has stopped once it is quiet at the end of an edge (R116). -/
def State.settleStop (s : State) (d p : Nat) : State :=
  if (s.core d p).stopping && s.quiet d p then s.modCore d p (fun c => { c with stopping := false }) else s

/-- The arrays and the store of every core before an edge, and cores whose stopping completes. -/
def State.advanceCores (s : State) (edge : Nat) : State :=
  (s.cores.map (·.1)).foldl (fun t k =>
    let c := s.core (k / 34) (k % 34)
    if c.arrays.all (fun a => a.running.isEmpty) && c.arriving.isEmpty && !c.stopping then t
    else
      let t1 := (List.range 4).foldl (fun t i => t.advanceArray (k / 34) (k % 34) edge i) t
      (t1.modCore (k / 34) (k % 34) (fun c => c.land edge)).settleStop (k / 34) (k % 34)) s

end Sys2Proof.Machine
end

