-- ==== Sys2Proof/Machine/Rest.lean ====
section
/-! DEFINITION. The conditions under which clock domains may sleep, the barrier condition of a ring among them (R111, R148, R152, R320,
R412), and how long each has held (R413). -/

namespace Sys2Proof.Machine

/-! ### A drained ring (R148, R549) -/

/-- Stations whose core is active take part (R24). -/
def State.active (s : State) (d j : Nat) : Bool := (s.core d j).active

/-- Dies of the ring that a die belongs to. -/
def State.ringDies (s : State) (d : Nat) : List Nat := if s.package d then [0, 1, 2, 3] else [d]

/-- Every enabled stream of a station's core has issued its BARRIER (R549). -/
def State.barrierIssued (s : State) (d j : Nat) : Bool :=
  let c := s.core d j
  (!s.streamEn d j .fwd || c.fwd.barrier) && (!s.streamEn d j .bwd || c.bwd.barrier)

/-- No flit on the lanes, and no flit or instruction of the layer in the buffers and queues of the stations (R148). -/
def Ring.empty (r : Ring) : Bool :=
  r.hops.all (fun h => h.2.isEmpty) &&
  r.stations.all (fun t => t.2.takeCw.isEmpty && t.2.takeCcw.isEmpty && t.2.accCw.isEmpty && t.2.accCcw.isEmpty &&
    t.2.injQ.all (fun i => i.nextWindow))

def State.creditInit (s : State) (d k : Nat) : Nat := s.rf (creditCfg d k) 8 0
def State.credits (s : State) (d k : Nat) : Nat := if s.creditOn d k then Tab.read 0 (s.ring d).counts k else 0

/-- RING_STATUS.DRAINED (R148). -/
def State.drained (s : State) (d : Nat) : Bool :=
  (s.ring d).empty &&
  (!s.ringOn d ||
    ((List.range 4).all (fun k => !s.creditOn d k || s.credits d k == s.creditInit d k) &&
     (List.range 34).all (fun j => !s.active d j || s.barrierIssued d j)))

/-! ### Sleep conditions (R111, R412) -/

/-- Requests that the Depository holds on a slice: those waiting there, and those held before it (R311, R313, R314). -/
def State.depHeldOn (s : State) (d : Nat) : Nat :=
  (s.slice d).waiting.length + countWhere (fun q =>
    let desc := (s.depDesc? q.stream).getD 0
    (q.stream + q.plane * bits desc 69 48 + q.pos / (32 * bits desc 31 24)) % 4 == d) s.dep.held

/-- A slice has no request and no transfer (R320). -/
def Slice.resting (x : Slice) : Bool := x.waiting.isEmpty && x.moves.isEmpty

/-- QLEVEL: records queued or in progress (R240). -/
def Teller.level (t : Teller) : Nat := t.queue.length + (if t.current.isSome then 1 else 0)

/-- A CXL port is unpopulated (R286). -/
def State.cxlEmpty (s : State) (c : Nat) : Bool := (s.mem.cxl[c]?).getD 0 == 0

/-- The sleep condition of a core (R111). -/
def State.coreIdle (s : State) (d p : Nat) : Bool :=
  s.rf (coreBase d p + 4) 1 1 == 1 && s.quiet d p &&
    (!s.coreRun d p || (s.core d p).halted || (s.streamIdle d p .fwd && s.streamIdle d p .bwd))

/-- The sleep condition of a domain (R412). -/
def State.mayRest (s : State) (i : Nat) : Bool :=
  let x := domAt i
  let n := x.2.1
  let j := x.2.2
  if 228 ≤ i then false
  else if x.1 = 0 then
    if j < 34 then s.coreIdle n j
    else if j < 38 then
      (s.ringDies n).all (fun m => s.rf (ringBase m + 4) 2 2 == 1 && s.drained m &&
        (s.ring m).stations.all (fun t => t.2.injQ.isEmpty))
    else false
  else if x.1 = 1 then j == 7 && s.rf (depBase 0 + 4) 2 2 == 1 && (s.slice n).resting && s.depHeldOn n == 0
  else if j < 9 then s.rf (vlBase n + 0x100 + 0x20 * j) 0 0 == 0
  else if j = 9 then s.rf (tlrBase n + 4) 1 1 == 1 && (s.step.teller n).level == 0
  else if j = 10 then true
  else if j = 12 then n == 1 && s.cxlEmpty 2
  else if j = 13 then (if n = 0 then s.cxlEmpty 0 && s.cxlEmpty 1 else s.cxlEmpty 3)
  else false

/-- Edges, 64 at most, for which a domain's sleep condition has held without a break, when `n` more pass on which the state stands as it
is (R413). -/
def State.restFor (s : State) (i n : Nat) : Nat := if s.mayRest i then min 64 ((s.domain i).rested + n) else 0

/-- The die controls count how long the sleep conditions of the awake domains hold (R413). -/
def State.restOver (s : State) (n : Nat) : State :=
  (List.range 228).foldl (fun t i =>
    if !(s.domain i).awake || !domSleepable i || s.restFor i n == (s.domain i).rested then t
    else t.modDomain i (fun x => { x with rested := s.restFor i n })) s

end Sys2Proof.Machine
end

