-- ==== Sys2Proof/Machine/Edges.lean ====
section
/-! DEFINITION. Edges that pass (log 3), and the events of Tally that a standing state delivers at each of them (R514, R517 to
R520; log 22). -/

namespace Sys2Proof.Machine

/-- Whether a head that the picker may consider is not ready (R108), for each stream of a core. -/
def State.heldHeads (s : State) (d p : Nat) : List Nat :=
  ([.fwd, .bwd] : List StreamId).filterMap (fun st =>
    match s.head? d p st with
    | none => none
    | some e =>
      let w := e.word.toNat
      if s.headFaults d p e == ([], []) && !s.headReady d p st w then some w else none)

/-- A local flit that a station has ready and has not sent (R127): one that it adds to, originates or injects. -/
def State.localWaits (s : State) (d j : Nat) (lane : Lane) : Bool :=
  let t := s.station d j
  let acc := match lane with
    | .cw => t.accCw
    | .ccw => t.accCcw
  let open_ := t.accs.any (fun a => a.lane == lane && decide (a.sent < a.flits))
  let tile := match t.injQ.find? (fun x => x.lane == lane) with
    | none => false
    | some x => !x.nextWindow &&
        (if x.fromMem then x.arrived.any (fun a => !x.sent.contains a.1 && decide (Tab.read 0 x.dueAt a.1 ≤ s.edge)) else decide (x.sent.length < x.lines))
  !acc.isEmpty || open_ || tile

/-- The head of an injection queue of the die waits for credits of a stream (R139). -/
def State.creditWaits (s : State) (d k : Nat) : Bool :=
  (List.range 34).any (fun j =>
    match (s.station d j).injQ.find? (fun x => x.fromMem && !x.issued) with
    | none => false
    | some x => x.cstream == k && !x.nextWindow &&
        x.mask.any (fun n => decide ((if s.creditOn n k then Tab.read 0 (s.ring n).counts k else 0) < (x.lines + 15) / 16)))

/-- Instances of an event that a state delivers, by block and code; 0x1FF for an event without units. -/
def levelUnits (b ev : Nat) : List Nat :=
  if ev = 1 then [0x1FF]
  else if b < 4 then
    match ev with
    | 0x12 | 0x17 | 0x19 | 0x1A => List.range 34
    | 0x21 | 0x22 | 0x23 => List.range 34 ++ upFrom 64 34
    | 0x24 | 0x26 => List.range 4
    | _ => []
  else if b < 8 then
    match ev with
    | 0x1A => List.range 256
    | 0x2D => [0x1FF]
    | _ => []
  else
    match ev with
    | 0x12 => (List.range 4).flatMap (fun c => upFrom (16 * c) 9)
    | 0x18 | 0x1A => [0x1FF]
    | _ => []

/-- The value of an event at an edge on which the state stands as it is; a unit that sleeps delivers nothing (R514). -/
def State.levelOf (s : State) (b ev unit : Nat) : Nat :=
  if ev = 1 then 1
  else if b < 4 then
    let c := s.core b unit
    let j := unit % 64
    let lane : Lane := if unit < 64 then .cw else .ccw
    let t := s.station b j
    let core := (s.domain (domCore b unit)).awake
    match ev with
    | 0x12 => if core then countWhere (fun (a : Array) => !a.queue.isEmpty) c.arrays else 0
    | 0x17 => (s.heldHeads b unit).length
    | 0x19 => b2n ((s.heldHeads b unit).any (fun w => (s.unitsOf b unit w).any (fun u => u.1 == 60 && u.2 == 0)))
    | 0x1A => b2n (!core)
    | 0x21 => b2n (s.localWaits b j lane)
    | 0x22 => match lane with
      | .cw => t.takeCw.length
      | .ccw => t.takeCcw.length
    | 0x23 => match lane with
      | .cw => t.accCw.length
      | .ccw => t.accCcw.length
    | 0x24 => b2n (s.creditWaits b unit)
    | 0x26 => b2n (!(s.domain (domSegment b unit)).awake)
    | _ => 0
  else if b < 8 then
    match ev with
    | 0x1A => b2n (decide (128 ≤ countWhere (fun (q : HbmRead) => q.channel == unit) (s.die (b - 4)).queue))
    | 0x2D => s.depHeldOn (b - 4)
    | _ => 0
  else
    let x := s.port (9 * (b - 8) + unit % 16)
    match ev with
    | 0x12 => b2n (!(Tab.read [] x.egress (unit / 16)).isEmpty && Tab.read 0 x.credits (unit / 16) == 0)
    | 0x18 => b2n (s.step.teller (b - 8)).current.isSome
    | 0x1A => b2n ((s.step.teller (b - 8)).current.isSome && (s.step.teller (b - 8)).matrix)
    | _ => 0

/-- What counter `k` of a block is sent over `n` edges from an edge on, on which the state stands (R514), under a selection. Of the
value of each edge, all but those of the last four have been counted when the edges have passed (R515). -/
def State.levelCount (s : State) (sel : Nat → Nat → Nat) (from_ n b : Nat) (t : Tally) (k : Nat) : Tally :=
  let w := sel b k
  let ev := bits w 15 0
  let units := levelUnits b ev
  if bit w 31 && !units.isEmpty && decide (0 < n) then
    let mine := if bits w 24 16 = 0x1FF then units else units.filter (fun u => u == bits w 24 16)
    let v := (mine.map (s.levelOf b ev)).foldl (· + ·) 0
    if v = 0 then t
    else
      let last := Tab.read 0 t.lastEvent (16 * b + k)
      let t1 : Tally := { t with lastEvent := Tab.write 0 t.lastEvent (16 * b + k) (from_ + n) }
      if bit w 30 then (if last = from_ ∨ last = from_ + 1 then t1 else t1.send b k 1 from_)
      else
        (List.range (min n 4)).foldl (fun t i => t.send b k v (from_ + n - 1 - i)) (t1.bump b k (v * (n - min n 4)))
  else t

/-- The counters of every block over `n` edges from an edge on. -/
def State.levelsBy (s : State) (sel : Nat → Nat → Nat) (from_ n : Nat) (t : Tally) : Tally :=
  (List.range 10).foldl (fun t b => (List.range 16).foldl (s.levelCount sel from_ n b) t) t

/-- Tally over `n` edges on which the state stands: nothing while ENABLE is 0 or FREEZE is 1, and a selection written in the present
edge counts from the next (R516); increments that fall due are counted. -/
def State.levels (s : State) (n : Nat) : Tally :=
  let t :=
    if s.tallyOn = true ∧ s.rf (tlyBase + 4) 2 2 = 0 then
      s.levelsBy (fun b k => (s.reg (tlySel b k)).toNat) (s.edge + min n 1) (n - 1) (s.levelsBy s.selNow s.edge (min n 1) s.tally)
    else s.tally
  t.land s.tallyOn (s.edge + n)

/-- `n` edges pass: the passes in progress move on (R89), and domains that rest are timed (R413). -/
def State.pass (s : State) (n : Nat) : State :=
  let s1 : State := { s.restOver n with tally := s.levels n }
  let s2 := if s.alive then s1.advanceCores (s.edge + n) else s1
  { s2 with edge := s.edge + n }

/-- Move the edge count forward to the edge at which an event falls; it never moves back. -/
def State.at (s : State) (due : Nat) : State := if due ≤ s.edge then s else s.pass (due - s.edge)

/-- What passes while no command waits: one edge, where the module has power (log 1). -/
def State.idle (s : State) : State := if s.power.phase == .on then s.pass 1 else s

end Sys2Proof.Machine
end

