-- ==== Sys2Proof/Machine/Issue.lean ====
section
/-! DEFINITION. Issuing at the picker: rejection, the issue of a head, fetching (R108, R109, R112, R154, R366), and the CTRL
instructions (R351, R352, R549). -/

namespace Sys2Proof.Machine

/-- An instruction is rejected: it does not execute, its faults are set and both streams stop (R112, R154). -/
def State.reject (s : State) (d p : Nat) (f : List Nat × List Nat) : State :=
  ((s.halt d p).coreFault d p f.1).ringFault d p f.2

/-- UNIT of a slip entry (R343). -/
def slipUnit (d p : Nat) (st : StreamId) : Nat := p + 64 * d + (if st = .bwd then 256 else 0)

/-- The head leaves its stream as it issues: Tally counts it, and a slip is counted and journalled once in its window
(R343, R518). -/
def State.took (s : State) (d p : Nat) (st : StreamId) (w : Nat) : State :=
  let c := s.core d p
  let x := c.stream st
  let slip := decide (x.window + insnSched w < s.edge)
  let y : Stream :=
    { x with buf := x.buf.tail, head := x.head + 32, wait := none, slipped := x.slipped || slip, issuedAt := some s.edge }
  let s1 := (s.setCore d p (c.setStream st y)).count (blkCd d) (if st = .fwd then 0x14 else 0x15) p 1
  if slip then
    let s2 := s1.count (blkCd d) 0x16 p 1
    if x.slipped then s2
    else s2.notice (Err.of .notice 0x121 (domCore d p) (slipUnit d p st) ((s.edge - x.window) % 2 ^ 32) (insnSched w))
  else s1

/-- The state at the first edge at which a stream may issue: the edge after its last issue, where that was in the present one
(R109). -/
def State.pickEdge (s : State) (d p : Nat) (st : StreamId) : State :=
  if ((s.core d p).stream st).issuedAt = some s.edge then s.at (s.edge + 1) else s

/-- Issue the head of a stream where it is an instruction of a class and opcode: a head with a fault is rejected; one that is
not ready, that yields to the other stream, or of another class stays (R108, R109, R112, R366). -/
def State.issue (s : State) (d p : Nat) (st : StreamId) (mine : Nat → Bool) (effect : State → Nat → State) : State :=
  let t := s.pickEdge d p st
  match t.head? d p st with
  | none => s
  | some e =>
    let w := e.word.toNat
    let bad := e.outside || e.uncorrectable || !insnOk w
    if !bad && !mine w then s
    else
      let f := t.headFaults d p e
      if f != ([], []) then t.reject d p f
      else if !t.headReady d p st w || t.yields d p st w then s
      else effect (t.took d p st w) w

/-- An instruction of a class and opcode. -/
def isInsn (cls op w : Nat) : Bool := insnClass w == cls && insnOp w == op

/-! ### Fetch (R366) -/

/-- The entry that a fetch at an address makes: an address beyond the store or outside every INSTR range is only marked, and
so are bytes that read as uncorrectable. -/
def State.fetched (s : State) (d p a : Nat) : FetchEntry :=
  let c := s.seen d p
  if 2 ^ 22 ≤ a ∨ s.storeAllowed d p false true (a, 32) = false then
    { word := 0, addr := a, outside := true, uncorrectable := false }
  else { word := BitVec.ofNat 256 (c.store.num a 32), addr := a, outside := false, uncorrectable := c.readsUe a 32 }

/-- An entry past which nothing is fetched: an END, or an address beyond the store. -/
def FetchEntry.last (e : FetchEntry) : Bool :=
  decide (2 ^ 22 ≤ e.addr) || (!e.outside && !e.uncorrectable && insnVersion e.word.toNat == 1 && isInsn 0 4 e.word.toNat)

/-- Bit errors that have arisen in words of a core store since the last fetch: `true` marks two in one word (R104). -/
def Core.upset (c : Core) (l : List (Fin 524288 × Bool)) : Core :=
  { c with marks := l.foldl (fun t x => Tab.put t x.1.val (x.2 || (Tab.find? t x.1.val).isSome)) c.marks }

/-- INSTRUCTION_FETCH (R104, R108, R366): bit errors that have arisen in the store first come to stand there (log 79). -/
def execInstructionFetch (die : Fin 4) (phys : Fin 34) (st : StreamId) (s0 : State) (upsets : List (Fin 524288 × Bool) := []) : Out :=
  let d := die.val
  let p := phys.val
  let s := if upsets.isEmpty then s0 else s0.modCore d p (fun c => c.upset upsets)
  let c := s.core d p
  let x := c.stream st
  if s.alive && c.active && !c.off && (s.domain (domCore d p)).awake && s.coreRun d p && !x.ended && !x.stopFetch &&
      decide (x.buf.length < 8) then
    let e := s.fetched d p x.fetchAt
    let y : Stream := { x with buf := x.buf ++ [e], fetchAt := x.fetchAt + 32, stopFetch := e.last }
    let s1 := s.setCore d p (c.setStream st y)
    .next (if e.outside then s1
           else ((s.seen d p).marked x.fetchAt 32 false).foldl (fun t w => t.storeCorrected d p w) s1)
  else .next s

/-! ### CTRL (R351, R352, R198, R549) -/

/-- CTRL NOP (R351). -/
def execCtrlNop (die : Fin 4) (phys : Fin 34) (st : StreamId) (s : State) : Out :=
  .next (s.issue die.val phys.val st (isInsn 0 0) (fun s _ => s))

def State.modStream (s : State) (d p : Nat) (st : StreamId) (f : Stream → Stream) : State :=
  s.modCore d p (fun c => c.setStream st (f (c.stream st)))

/-- CTRL WAIT (R352): the stream is idle until the mark is set; the mark is cleared at the barrier that closes the window
(R399). -/
def execCtrlWait (die : Fin 4) (phys : Fin 34) (st : StreamId) (s : State) : Out :=
  .next (s.issue die.val phys.val st (isInsn 0 1) (fun s w =>
    s.modStream die.val phys.val st (fun x => { x with wait := some (ctrlMark w), waited := x.waited ++ [ctrlMark w] })))

/-- CTRL BARRIER (R549): the stream issues nothing further until the barrier edge. -/
def execCtrlBarrier (die : Fin 4) (phys : Fin 34) (st : StreamId) (s : State) : Out :=
  .next (s.issue die.val phys.val st (isInsn 0 2) (fun s _ =>
    (s.modStream die.val phys.val st (fun x => { x with barrier := true })).modRing die.val
      (fun r => { r with eventAt := max r.eventAt s.edge })))

/-- Key of an Escrow index entry: stamp entry and ETILE (R194). -/
def escKey (stamp etile : Nat) : Nat := 2 ^ 24 * stamp + etile

/-- A stream goes on after `n` instructions that it skips, whether they stand in its fetch buffer or not. -/
def Stream.skip (x : Stream) (n : Nat) : Stream :=
  { x with buf := x.buf.drop n, head := x.head + 32 * n, fetchAt := max x.fetchAt (x.head + 32 * n) }

/-- CTRL SKIP_IF_KEPT (R198, R352): unless the tile is marked dropped, the next SKIP instructions are skipped. -/
def execSkipIfKept (die : Fin 4) (phys : Fin 34) (st : StreamId) (s : State) : Out :=
  .next (s.issue die.val phys.val st (isInsn 0 3) (fun s w =>
    if Tab.find? s.step.escrow (escKey (ctrlStamp w) (ctrlEtile w)) = some .dropped then s
    else s.modStream die.val phys.val st (fun x => x.skip (ctrlSkip w))))

/-- CTRL END (R352): the stream is idle until RUN is set again. -/
def execCtrlEnd (die : Fin 4) (phys : Fin 34) (st : StreamId) (s : State) : Out :=
  .next (s.issue die.val phys.val st (isInsn 0 4) (fun s _ =>
    s.modStream die.val phys.val st (fun x => { x with ended := true, buf := [] })))

end Sys2Proof.Machine
end

