-- ==== Sys2Proof/Machine/Inbox.lean ====
section
/-! DEFINITION. The tile inbox and the release of tiles (R107, R140). -/

namespace Sys2Proof.Machine

/-- CD–CD bridges on a tile's way from the die of its origin to another die. -/
def bridgesTo (lane : Lane) (a b : Nat) : Nat :=
  match lane with
  | .cw => (b + 4 - a) % 4
  | .ccw => (a + 4 - b) % 4

/-- A tile has been released by one more of its takers, on die `rel`: after the last, its credits return 4 edges later, and in
PACKAGE span 8 more for each bridge, at most 28 (R140). -/
def TileOut.releasedBy (t : TileOut) (package : Bool) (home rel edge : Nat) : TileOut :=
  let left := t.toRelease - 1
  let delay := if package then min 28 (4 + 8 * bridgesTo t.lane home rel) else 4
  { t with toRelease := left, due := if left = 0 then some (edge + delay) else t.due }

def Ring.released (r : Ring) (id : Nat) (package : Bool) (home rel edge : Nat) : Ring :=
  { r with tiles := r.tiles.map (fun t => if t.id = id then t.releasedBy package home rel edge else t) }

/-- One more station, on die `rel`, has released a tile, or counts as having released it (R140). -/
def State.tileReleased (s : State) (id rel : Nat) : State :=
  (List.range 4).foldl (fun s d => s.modRing d (fun r => r.released id (s.package d) d rel s.edge)) s

/-- A slot is released: its valid bit clears, and its tile counts one release (R107, R140). -/
def State.releaseSlot (s : State) (d p i : Nat) : State :=
  let c := s.core d p
  let c1 := { c with inbox := c.inbox &&& ~~~(BitVec.ofNat 16 (2 ^ i)) }
  (s.setCore d p c1).tileReleased (c.slot i).tile d

def State.releaseSlot? (s : State) (d p : Nat) (i : Option Nat) : State :=
  match i with
  | some i => s.releaseSlot d p i
  | none => s

end Sys2Proof.Machine
end

