-- ==== Sys2Proof/Machine/Arrays.lean ====
section
/-! DEFINITION. The arrays: passes, weight loads and feed fills (R86 to R100, R353 to R355). -/

namespace Sys2Proof.Machine

/-! ### PASS (R88, R98, R355) -/

/-- Set the state of rows. -/
def Array.setRows (a : Array) (b n : Nat) (x : RowState) : Array :=
  { a with rowState := (upFrom b n).foldl (fun t r => Tab.write .empty t r x) a.rowState }

def PassI.toPass (x : PassI) (st : StreamId) (loadId : Nat) : Pass :=
  { stream := st, bank := x.bank, accumulate := x.accumulate, afmt := x.afmt, wfmt := x.wfmt, len := x.len,
    accb := x.accb, feedb := x.feedb, ascale := x.ascale, loadId := loadId }

/-- A pass enters its array's queue, and its rows become PENDING (R98). -/
def State.queuePass (s : State) (d p : Nat) (st : StreamId) (x : PassI) : State :=
  s.modCore d p (fun c => c.modArray x.array (fun a =>
    let a := a.setRows x.accb x.len .pending
    { a with queue := a.queue ++ [x.toPass st (a.bankInfo x.bank).loadId] }))

/-- PASS (R88, R108, R355). -/
def execPass (die : Fin 4) (phys : Fin 34) (st : StreamId) (s : State) : Out :=
  .next (s.issue die.val phys.val st (isInsn 1 0) (fun s w => s.queuePass die.val phys.val st (decPass w)))

/-! ### Timing of passes and loads (R90, R91, R95) -/

/-- The earliest start after the pass before it in the array (R89, R90). -/
def Array.afterLast (a : Array) (x : Pass) : Nat :=
  match a.running.getLast? with
  | none => 0
  | some r => if r.pass.s = x.s then r.start + x.s * r.pass.n else r.pass.complete r.start + 1

/-- An edge of the array's steps: while a pass of the same step length is in progress, data moves once per step of that pass (R87),
so the next pass starts a whole number of steps after it (R92; log 78). -/
def Array.onStep (a : Array) (x : Pass) (edge : Nat) : Nat :=
  match a.running.getLast? with
  | none => edge
  | some r => if r.pass.s = x.s then edge + (x.s - (edge - r.start) % x.s) % x.s else edge

/-- Edges between two rows that the weight-load unit writes (R91). -/
def WeightLoad.pace (l : WeightLoad) : Nat := if fmtOfCode l.fmt = some .fp32 then 2 else 1

/-- Rows that a load delivers: 128, and for a split load 128 direct and 128 transposed (R95). -/
def WeightLoad.total (l : WeightLoad) : Nat := if l.direct.isEmpty ∨ l.trans.isEmpty then 128 else 256

/-- Arrays that receive the row delivered `k`-th. -/
def WeightLoad.targets (l : WeightLoad) (k : Nat) : List Nat :=
  if l.direct.isEmpty then l.trans else if k < 128 then l.direct else l.trans

/-- Whether the row delivered `k`-th comes through the transposer. -/
def WeightLoad.viaTrans (l : WeightLoad) (k : Nat) : Bool := l.direct.isEmpty || decide (128 ≤ k)

/-- The edge from which the source has the row delivered `k`-th (R95). -/
def WeightLoad.available (l : WeightLoad) (k : Nat) : Nat :=
  l.issue + 1 + l.pace * (if l.direct.isEmpty then 128 + k else k)

/-- The bank row is free in an array: no pass of another load waits to use the bank, and each that runs has operated on every
cell of the row at the edge returned (R91). `none` while such a pass has not started. -/
def Array.rowFree (a : Array) (bank loadId r : Nat) : Option Nat :=
  if a.queue.any (fun x => x.bank == bank && x.loadId != loadId) then none
  else if !(a.bankInfo bank).used then some 0
  else some ((a.running.filter (fun x => x.pass.bank == bank && x.pass.loadId != loadId)).foldl
    (fun m x => max m (x.start + x.pass.s * (x.pass.n + r + 127))) 0)

/-- The edge at which the row delivered `k`-th is written, `last` being the edge of the row before it (R91). -/
def Core.rowWriteEdge (c : Core) (l : WeightLoad) (k last : Nat) : Option Nat :=
  let r := k % 128
  (l.targets k).foldl (fun m i =>
    match m, (c.array i).rowFree l.bank l.id r with
    | some x, some y => some (max x y)
    | _, _ => none) (some (max (l.available k) (if k = 0 then 0 else last + l.pace)))

/-- Edges of the rows still to be written, from the row delivered `k`-th, with their row numbers. -/
def Core.rowPlan (c : Core) (l : WeightLoad) : Nat → Nat → Nat → Option (List (Nat × Nat))
  | 0, _, _ => some []
  | m + 1, k, last =>
    match c.rowWriteEdge l k last with
    | none => none
    | some e => (c.rowPlan l m (k + 1) e).map (fun t => (k, e) :: t)

/-- The earliest start of a pass by the rows of its bank: its first step reaches row r after the row is written (R90, R91). -/
def Core.bankReady (c : Core) (i : Nat) (x : Pass) : Option Nat :=
  match c.load with
  | none => some 0
  | some l =>
    if l.id = x.loadId ∧ l.bank = x.bank then
      (c.rowPlan l (l.total - l.delivered) l.delivered l.last).map (fun plan =>
        let mine := plan.filter (fun q => (l.targets q.1).contains i)
        let done := (c.array i).bankInfo x.bank |>.rows
        let first := if done = 0 then 0 else l.last + 1 - x.s * (done - 1)
        mine.foldl (fun m q => max m (q.2 + 1 - x.s * (q.1 % 128))) first)
    else some 0

/-! ### PASS_START (R89, R90) -/

/-- The cells of a weight bank, by row and column. -/
def Array.bankWeights (a : Array) (b : Nat) : Tab Word :=
  (a.weights.filter (fun x => x.1 / 16384 == b)).map (fun x => (x.1 % 16384, x.2))
def Array.bankScales (a : Array) (b : Nat) : Tab Byte :=
  (a.wscales.filter (fun x => x.1 / 512 == b)).map (fun x => (x.1 % 512, x.2))

/-- A pass starts at an edge. -/
def Array.startPass (a : Array) (x : Pass) (start : Nat) : Array :=
  let run : PassRun :=
    { pass := x, start := start, upTo := start, weights := a.bankWeights x.bank, wscales := a.bankScales x.bank, acts := [],
      ascales := [] }
  let a := a.setBankInfo x.bank { a.bankInfo x.bank with used := true }
  { a with queue := a.queue.tail, running := a.running ++ [run] }

/-- PASS_START (R90): the pass at the head of the queue starts at the first edge at which its array and its bank are ready. -/
def execPassStart (die : Fin 4) (phys : Fin 34) (array : Fin 4) (s : State) : Out :=
  let c := s.core die.val phys.val
  let a := c.array array.val
  match a.queue with
  | [] => .next s
  | x :: _ =>
    if !s.alive then .next s
    else
    match c.bankReady array.val x with
    | none => .next s
    | some b =>
      let start := a.onStep x (max s.edge (max (a.afterLast x) b))
      .next ((s.at start).modCore die.val phys.val (fun c => c.modArray array.val (fun a => a.startPass x start)))

/-! ### PASS_COMPLETE (R89) -/

/-- PASS_COMPLETE (R89): edges pass until the oldest pass of the array has written its last column. -/
def execPassComplete (die : Fin 4) (phys : Fin 34) (array : Fin 4) (s : State) : Out :=
  match ((s.core die.val phys.val).array array.val).running with
  | [] => .next s
  | r :: _ => if s.alive then .next (s.at (r.pass.complete r.start + 1)) else .next s

/-! ### WLOAD and WEIGHT_ROW_WRITE (R91, R95, R353) -/

/-- A load begins: each array it names is tagged with the format, and the transposer is taken where it is used. -/
def Core.beginLoad (c : Core) (x : Wload) (st : StreamId) (edge : Nat) : Core :=
  let id := c.nextId
  let l : WeightLoad :=
    { id := id, stream := st, direct := x.direct, trans := x.transposed, bank := x.bank, fmt := x.wfmt, scaled := x.scaled,
      addr := (match x.slot with | some i => (c.slot i).addr | none => x.addr), slot := x.slot, release := x.release,
      delivered := 0, issue := edge, last := 0, taken := [], takenScales := [] }
  let tag (c : Core) (i : Nat) : Core := c.modArray i (fun a =>
    a.setBankInfo x.bank { fmt := some x.wfmt, scaled := x.scaled, loadId := id, rows := 0,
                           used := (a.bankInfo x.bank).used })
  let c1 := (x.direct ++ x.transposed).foldl tag c
  { c1 with load := some l, nextId := id + 1 }

/-- WLOAD (R108, R353). -/
def execWload (die : Fin 4) (phys : Fin 34) (st : StreamId) (s : State) : Out :=
  .next (s.issue die.val phys.val st (isInsn 2 0) (fun s w =>
    s.modCore die.val phys.val (fun c => c.beginLoad (decWload w) st s.edge)))

/-- Bytes of a tile row in the core store. -/
def WeightLoad.rowBytes (l : WeightLoad) : Nat := Machine.rowBytes (fmtOfCode l.fmt)

/-- Rows of the source that are read for the row delivered `k`-th: of a direct delivery the row itself, of a load through the
transposer alone the whole block before its first delivery (R95). -/
def WeightLoad.reads (l : WeightLoad) (k : Nat) : List Nat :=
  if l.direct.isEmpty then (if k = 0 then List.range 128 else []) else if k < 128 then [k] else []

/-- Bytes of the core store that a row of the source and its scales lie in. -/
def WeightLoad.source (l : WeightLoad) (r : Nat) : Nat × Nat := (l.addr + r * l.rowBytes, l.rowBytes)
def WeightLoad.scaleSource (l : WeightLoad) (r : Nat) : Nat × Nat :=
  (l.addr + 128 * l.rowBytes + 4 * r, if l.scaled && r % 32 == 0 then 128 else 0)

/-- The one read of a row of the source (R95); a row that reads as uncorrectable is not taken (R104). -/
def Core.takeRow (c : Core) (l : WeightLoad) (r : Nat) : WeightLoad :=
  let src := l.source r
  let sc := l.scaleSource r
  if c.readsUe src.1 src.2 || c.readsUe sc.1 sc.2 then l
  else { l with taken := Tab.put l.taken r (c.store.num src.1 src.2),
                takenScales := if sc.2 = 0 then l.takenScales else Tab.put l.takenScales (r / 32) (c.store.num sc.1 sc.2) }

/-- The 128 codes that array row `k` mod 128 receives: that row of the source, or through the transposer that column (R86, R95);
none where a row that it needs was not taken. -/
def WeightLoad.codes (l : WeightLoad) (k : Nat) : Option (List Nat) :=
  let w := ((fmtOfCode l.fmt).map Fmt.width).getD 0
  let r := k % 128
  if l.viaTrans k then
    (if l.taken.length < 128 then none
     else some ((List.range 128).map (fun c => element (Tab.read 0 l.taken c) w r)))
  else (Tab.find? l.taken r).map (fun v => elements v w 128)

/-- The 128 scale bytes of the block that begins at array row `k` mod 128 (R353). -/
def WeightLoad.scales (l : WeightLoad) (k : Nat) : List Byte := bytesOfNum 128 (Tab.read 0 l.takenScales (k % 128 / 32))

/-- A weight row, and at rows 0, 32, 64 and 96 the scales of its block, enter a bank (R91, R353). -/
def Array.writeRow (a : Array) (l : WeightLoad) (r : Nat) (codes : List Nat) (scales : List Byte) : Array :=
  let put (base : Nat) (t : Tab Word) : Tab Word :=
    codes.zipIdx.foldl (fun t v => Tab.write 0 t (base + 128 * r + v.2) (BitVec.ofNat 32 v.1)) t
  let putS (base : Nat) (t : Tab Byte) : Tab Byte :=
    if r % 32 = 0 then
      (List.range 128).foldl (fun t c => Tab.write 0x80 t (base + 4 * r + c)
        (if l.scaled then scales.getD c 0 else 0x80)) t
    else t
  let run (x : PassRun) : PassRun :=
    if x.pass.bank = l.bank ∧ x.pass.loadId = l.id then { x with weights := put 0 x.weights, wscales := putS 0 x.wscales } else x
  let info := a.bankInfo l.bank
  let a1 := a.setBankInfo l.bank { info with rows := if info.loadId = l.id then r + 1 else info.rows }
  { a1 with weights := put (16384 * l.bank) a.weights, wscales := putS (512 * l.bank) a.wscales,
            running := a.running.map run }

/-- A row is written into the banks of its arrays. -/
def Core.writeRow (c : Core) (l : WeightLoad) (k : Nat) : Core :=
  match l.codes k with
  | none => c
  | some codes => (l.targets k).foldl (fun c i => c.modArray i (fun a => a.writeRow l (k % 128) codes (l.scales k))) c

/-- The delivery at which a load reads its source for the last time: through the transposer alone, its first. -/
def WeightLoad.lastRead (l : WeightLoad) : Nat := if l.direct.isEmpty then 0 else 127

/-- WEIGHT_ROW_WRITE (R91): the next row of the load in progress is written at the first edge at which it is free in every
array and available from its source. -/
def execWeightRowWrite (die : Fin 4) (phys : Fin 34) (s : State) : Out :=
  let d := die.val
  let p := phys.val
  let c := s.core d p
  match c.load with
  | none => .next s
  | some l =>
    match c.rowWriteEdge l l.delivered l.last with
    | none => .next s
    | some due =>
      if !s.alive then .next s
      else
      let k := l.delivered
      let s1 := (l.reads k).foldl (fun t r =>
        let t1 := t.storeRead d p (l.source r).1 (l.source r).2
        t1.storeRead d p (l.scaleSource r).1 (l.scaleSource r).2) (s.at due)
      let l1 := (l.reads k).foldl (fun l r => ((s.at due).seen d p).takeRow l r) l
      let l2 := { l1 with delivered := k + 1, last := due }
      let s2 := s1.modCore d p (fun c =>
        let c1 := c.writeRow l1 k
        { c1 with load := if k + 1 = l.total then none else some l2,
                  transBusy := if k + 1 = l.total && !l.trans.isEmpty then due else c1.transBusy })
      .next (if l.release && k == l.lastRead then s2.releaseSlot? d p l.slot else s2)

/-! ### FEED (R93 to R95, R354) -/

/-- Row `j` of a fill: its codes as one integer, from the source rows or from the transposed block. -/
def Feed.rowValue (x : Feed) (store : Mem) (addr j : Nat) : Nat :=
  let f := fmtOfCode x.fmt
  let w := (f.map Fmt.width).getD 0
  if x.trans then
    packElements w ((List.range 128).map (fun i => element (store.num (addr + i * x.stride) (rowBytes f)) w j))
  else store.num (addr + j * x.stride) (rowBytes f)

/-- Rows enter the feed buffer; the scales of a row enter the scale bytes of its first line (R93). -/
def Feed.fill (x : Feed) (store : Mem) (addr : Nat) (feed : Tab FeedLine) : Tab FeedLine :=
  let n := ((fmtOfCode x.fmt).map linesPerRow).getD 1
  (List.range x.rows).foldl (fun t j =>
    let v := x.rowValue store addr j
    let sc := store.num (addr + x.scaleOff + 4 * j) 4
    (List.range n).foldl (fun t k =>
      let line := x.line + n * j + k
      let old := Tab.read {} t line
      let new : FeedLine :=
        { data := BitVec.ofNat 1024 (v / 2 ^ (1024 * k)),
          scale := if x.scaled && k == 0 then BitVec.ofNat 32 sc else old.scale }
      Tab.write {} t line new) t) feed

/-- Edges of a fill: 256 bytes an edge, or the transposer's time (R94, R95). -/
def Feed.edges (x : Feed) : Nat :=
  if x.trans then (if fmtOfCode x.fmt = some .fp32 then 512 else 256)
  else (x.srcRows * x.stride + (if x.scaled then 4 * x.srcRows else 0) + 255) / 256

/-- A fill begins: its bytes are read, and it is complete after its edges. -/
def State.beginFeed (s : State) (d p : Nat) (st : StreamId) (x : Feed) : State :=
  let r := s.seen d p
  let addr := match x.slot with
    | some i => (r.slot i).addr
    | none => x.addr
  let body : Nat × Nat := (addr, x.srcRows * x.stride)
  let sc : Nat × Nat := (addr + x.scaleOff, if x.scaled then 4 * x.srcRows else 0)
  let ue := r.readsUe body.1 body.2 || r.readsUe sc.1 sc.2
  let due := s.edge + x.edges
  let fill : Fill := { stream := st, due := due, release := if x.release then x.slot else none }
  let s1 := (s.storeRead d p body.1 body.2).storeRead d p sc.1 sc.2
  s1.modCore d p (fun c =>
    let c1 := c.modArray x.array (fun a =>
      { a with feed := if ue then a.feed else x.fill r.store addr a.feed, fills := a.fills ++ [fill] })
    { c1 with transBusy := if x.trans then due else c1.transBusy })

/-- FEED (R108, R354). -/
def execFeed (die : Fin 4) (phys : Fin 34) (st : StreamId) (s : State) : Out :=
  .next (s.issue die.val phys.val st (isInsn 3 0) (fun s w => s.beginFeed die.val phys.val st (decFeed w)))

/-- The fill of a list that completes first. -/
def firstDue : List Fill → Option Fill
  | [] => none
  | f :: t =>
    match firstDue t with
    | none => some f
    | some g => if f.due ≤ g.due then some f else some g

/-- FEED_FILL_COMPLETE (R94): a fill of an array completes, which releases the passes held on it and its slot. -/
def execFeedFillComplete (die : Fin 4) (phys : Fin 34) (array : Fin 4) (s : State) : Out :=
  let d := die.val
  let p := phys.val
  match firstDue ((s.core d p).array array.val).fills with
  | none => .next s
  | some f =>
    if !s.alive then .next s
    else
    let s1 := (s.at f.due).modCore d p (fun c => c.modArray array.val (fun a => { a with fills := a.fills.erase f }))
    .next (s1.releaseSlot? d p f.release)

end Sys2Proof.Machine
end

