-- ==== Sys2Proof/Machine/RowUnit.lean ====
section
/-! DEFINITION. The row unit and the drain converter (R100 to R102, R356 to R359): operands, operations, reductions, timing. -/

namespace Sys2Proof.Machine

/-! ### Operands (R359) -/

/-- The first `n` elements of a source, of width `w`: a register, accumulator rows, core-store bytes, or the immediate. -/
def Core.operand (c : Core) (o : Operand) (w n imm : Nat) : List Nat :=
  if o.kind = 0 then elements (c.rowRegs.num (1024 * o.index) (n * w / 8)) w n
  else if o.kind = 1 then
    (List.range n).map (fun i => (Tab.read 0 (c.array o.accArray).acc (128 * o.accRow + i)).toNat)
  else if o.kind = 2 then elements (c.store.num (16 * o.index) (n * w / 8)) w n
  else List.replicate n imm

/-- Write the bytes of a destination: a register or the core store. -/
def Core.putOperand (c : Core) (o : Operand) (bs : List Byte) : Core :=
  if o.kind = 0 then { c with rowRegs := c.rowRegs.setBytes (1024 * o.index) bs }
  else if o.kind = 2 then c.write (16 * o.index) bs
  else c

/-- Elements as bytes. -/
def elementBytes (w : Nat) (xs : List Nat) : List Byte := bytesOfNum (xs.length * w / 8) (packElements w xs)

/-- Accumulator sources with REL set become EMPTY after the read (R359). -/
def Core.releaseOperand (c : Core) (u : Use) : Core :=
  if !u.dest && u.o.kind == 1 && u.o.rel then
    c.modArray u.o.accArray (fun a => a.setRows u.o.accRow u.accRows .empty)
  else c

/-! ### Operations (R358) -/

/-- Whether a predicate of CMP holds, and its flags (R78, R358): codes 0x0A to 0x0D are signalling. -/
def cmpNum (pred : Nat) (a b : Num) : Bool × Nat :=
  let un := a.isNan || b.isNan
  let lt := !un && ltNum a b
  let gt := !un && ltNum b a
  let eq := !un && !lt && !gt
  let holds :=
    if pred = 0 then eq else if pred = 1 then !eq
    else if pred = 2 ∨ pred = 0xA then lt
    else if pred = 3 ∨ pred = 0xB then lt || eq
    else if pred = 4 ∨ pred = 0xC then gt
    else if pred = 5 ∨ pred = 0xD then gt || eq
    else un
  (holds, if un && decide (0xA ≤ pred) then fInvalid else snanFlag [a, b])

/-- The sign bit of a format. -/
def Fmt.signBit (f : Fmt) : Nat := 2 ^ (f.width - 1)

/-- A signed 32-bit exponent. -/
def signed32 (v : Nat) : Int := if v < 2 ^ 31 then (v : Int) else (v : Int) - 2 ^ 32

/-- An exponent far outside every format, cut to where the result is the same. -/
def cutExp (k : Int) : Int := max (-1000) (min 1000 k)

/-- One element of an operation other than conversions and reductions. -/
def rowElem (op : RowOp) (f : Fmt) (mode : Rnd) (pred imm a b c : Nat) : CodeF :=
  match op with
  | .add => f.add mode a b
  | .sub => f.sub mode a b
  | .mul => f.mul mode a b
  | .fma => f.fma mode a b c
  | .min => f.min a b
  | .max => f.max a b
  | .cmp =>
    let r := cmpNum pred (f.decode a) (f.decode b)
    (if r.1 then (f.encode .rne oneNum).1 else 0, r.2)
  | .sel =>
    let z := f.decode c
    (if !z.isNan && !z.isZero then a else b, 0)
  | .abs => (a % f.signBit, 0)
  | .neg => (if f.signBit ≤ a then a - f.signBit else a + f.signBit, 0)
  | .copy => (a, 0)
  | .scale2 => f.scale2 mode a (cutExp (signed32 imm))
  | .exp => f.exp mode a
  | .rcp => f.rcp mode a
  | .rsqrt => f.rsqrt mode a
  | .div => f.div mode a b
  | .sqrt => f.sqrt mode a
  | _ => (a, 0)

/-- The rounding mode of an element: RMODE 4 draws the bits of draw `i` of a Mint lane (R70, R72, R357). -/
def State.rowMode (s : State) (lane rmode i : Nat) : Rnd :=
  if rmode = 1 then .rtz else if rmode = 2 then .rup else if rmode = 3 then .rdn
  else if rmode = 4 then s.mintMode lane i else .rne

/-! ### Reductions (R102) -/

/-- Operations of a reduction by code (R358). -/
def redStep (code : Nat) (a b : CodeF) : CodeF :=
  let r : CodeF :=
    if code = 1 then Fmt.fp32.max a.1 b.1 else if code = 2 then Fmt.fp32.min a.1 b.1 else addF32 a.1 b.1
  (r.1, a.2 ||| b.2 ||| r.2)

/-- What enters a reduction: elements, squares, or products rounded to FP32 (R102). -/
def redElem (code : Nat) (a b : Nat) : CodeF :=
  if code = 3 then Fmt.fp32.mul .rne a a else if code = 4 then Fmt.fp32.mul .rne a b else (a, 0)

/-- One halving: element i is combined with element i + h where that is present. -/
def redFold (code h : Nat) (t : List CodeF) : List CodeF :=
  let lo := t.take h
  let hi := t.drop h
  lo.zipIdx.map (fun x =>
    match hi[x.2]? with
    | some y => redStep code x.1 y
    | none => x.1)

/-- One chunk of up to 128 elements. -/
def redChunk (code : Nat) (t : List CodeF) : CodeF :=
  ([64, 32, 16, 8, 4, 2, 1].foldl (fun t h => redFold code h t) t).headD (0, 0)

/-- Chunks of 128. -/
def chunks128 : Nat → List CodeF → List (List CodeF)
  | 0, _ => []
  | n + 1, l => l.take 128 :: chunks128 n (l.drop 128)

/-- A reduction in the fixed order (R102). -/
def reduce (code : Nat) (a b : List Nat) : CodeF :=
  let xs := a.zipIdx.map (fun x => redElem code x.1 (b.getD x.2 0))
  match (chunks128 ((xs.length + 127) / 128) xs).map (redChunk code) with
  | [] => (0, 0)
  | x :: rest => rest.foldl (redStep code) x

/-! ### Timing (R101) -/

/-- Lanes an edge and latency of an operation. -/
def rowTiming (op : RowOp) (f g : Fmt) : Nat × Nat :=
  let wide := f == .fp64 || g == .fp64
  match op with
  | .rsqrt => if wide then (8, 24) else (64, 12)
  | .div | .sqrt => if wide then (8, 24) else (32, 16)
  | .exp | .rcp => (64, 12)
  | .red | .red2 => (256, 12)
  | .cvt | .cvts => if wide then (64, 6) else (256, 6)
  | _ => if wide then (64, 6) else (256, 4)

/-- An instruction enters the row-unit queue: it starts after the one before it has entered its last elements, and holds its
entry until its result is written (R101). -/
def Core.rowEnter (c : Core) (edge n lanes latency : Nat) : Core × Nat :=
  let start := max edge c.rowDone
  let span := max 1 ((n + lanes - 1) / lanes)
  let finish := start + span - 1 + latency
  ({ c with rowQueue := c.rowQueue.filter (fun e => decide (edge < e)) ++ [finish], rowDone := start + span },
   finish - start)

/-! ### Results -/

/-- Results of an instruction: bytes for DST, bytes for C, flags, and draws of the Mint. -/
structure RowRes where
  dst : List Byte
  third : List Byte := []
  flags : Nat
  draws : Nat := 0

def orFlags (xs : List CodeF) : Nat := xs.foldl (fun m x => m ||| x.2) 0

/-- A plain conversion of elements, each with the scale of its block where it has one (R76, R358). -/
def State.rowCvt (s : State) (lane : Nat) (x : RowI) (f g : Fmt) (a : List Nat) (scales : List Nat) : List CodeF :=
  a.zipIdx.map (fun e =>
    let sc : Option Nat := if x.scalesFromC then some (scales.getD (e.2 / 32) 0) else none
    g.encode (s.rowMode lane x.rmode e.2) (scaledValue f e.1 sc))

/-- Blocks narrowed with scales (R61): scale codes, element codes, flags. -/
def State.narrowRow (s : State) (lane : Nat) (stoch : Bool) (f : Fmt) (a : List Nat) (base : Nat) :
    List Nat × List Nat × Nat :=
  (chunks32 (a.length / 32) a).zipIdx.foldl (fun m blk =>
    let mode (i : Nat) : Rnd := if stoch then s.mintMode lane (base + 32 * blk.2 + i) else .rne
    let r := narrowBlock f mode (blk.1.map Fmt.fp32.decode)
    (m.1 ++ [r.1], m.2.1 ++ r.2.1, m.2.2 ||| r.2.2)) ([], [], 0)

/-- Edges of the write port that a ROW instruction's results take, 256 bytes an edge (R105). -/
def RowI.portEdges (x : RowI) : Nat := (x.needs.writes.map (fun w => (w.2 + 255) / 256)).foldl (· + ·) 0

/-- The write port is taken from an edge up to another (R105). -/
def Core.holdPort (c : Core) (now a b : Nat) : Core :=
  if a < b then { c with portBusy := c.portBusy.filter (fun i => decide (now < i.2)) ++ [(a, b)] } else c

/-- The results of a ROW instruction on a core. -/
def State.rowResult (s : State) (d p : Nat) (x : RowI) : RowRes :=
  let c := s.seen d p
  let lane := laneCore d p 4
  let f := x.src?.getD .fp32
  let g := x.dst?.getD .fp32
  let a := c.operand x.a f.width x.n x.imm
  let b := if x.usesB then c.operand x.b f.width x.n x.imm else []
  let draws := if x.rmode = 4 then x.n else 0
  match x.op with
  | .cvt =>
    let scales := if x.scalesFromC then c.operand x.c 8 x.count 0 else []
    let r := s.rowCvt lane x f g a scales
    { dst := elementBytes g.width (r.map (·.1)), flags := orFlags r, draws := draws }
  | .cvts =>
    let r := s.narrowRow lane (x.rmode == 4) g a 0
    { dst := elementBytes g.width r.2.1, third := elementBytes 8 r.1, flags := r.2.2, draws := draws }
  | .red =>
    let r := reduce x.pred a b
    { dst := bytesOfNum 4 r.1, flags := r.2 }
  | .red2 =>
    let r := reduce x.pred a b
    let t := reduce x.pred2 a b
    { dst := bytesOfNum 4 r.1, third := bytesOfNum 4 t.1, flags := r.2 ||| t.2 }
  | op =>
    let cs := if x.usesC then c.operand x.c f.width x.n x.imm else []
    let r := a.zipIdx.map (fun e =>
      rowElem op f (s.rowMode lane x.rmode e.2) x.pred x.imm e.1 (b.getD e.2 0) (cs.getD e.2 0))
    { dst := elementBytes f.width (r.map (·.1)), flags := orFlags r }

/-- A ROW instruction runs: it takes a queue entry, reads its operands, writes its results, sets its flags, and releases the
accumulator rows it names (R101, R357 to R359). Where its operands read as uncorrectable, nothing is delivered (R104). -/
def State.rowRun (s : State) (d p : Nat) (x : RowI) : State :=
  let f := x.src?.getD .fp32
  let g := x.dst?.getD .fp32
  let t := rowTiming x.op f g
  let c := s.core d p
  let q := c.rowEnter s.edge x.n t.1 t.2
  let reads := x.needs.reads
  let ue := reads.any (fun r => (s.seen d p).readsUe r.1 r.2)
  let s1 := (s.setCore d p q.1).count (blkCd d) 0x13 p q.2
  let s2 := reads.foldl (fun s r => s.storeRead d p r.1 r.2) s1
  if ue then s2
  else
    let r := s.rowResult d p x
    let s3 := s2.modStore d p (fun c =>
      (x.uses.foldl Core.releaseOperand ((c.putOperand x.dst r.dst).putOperand x.c r.third)).holdPort s.edge
        (s.edge + q.2 - x.portEdges) (s.edge + q.2))
    (s3.orReg (coreBase d p + 0x10) r.flags).mintAdvance (laneCore d p 4) r.draws

/-- A ROW instruction of an opcode issues. -/
def State.rowIssue (s : State) (die : Fin 4) (phys : Fin 34) (st : StreamId) (op : RowOp) : State :=
  s.issue die.val phys.val st (isInsn 4 op.code) (fun s w => s.rowRun die.val phys.val (decRow w))

/-- ROW ADD (R358): A + B. -/
def execRowAdd (die : Fin 4) (phys : Fin 34) (st : StreamId) (s : State) : Out := .next (s.rowIssue die phys st .add)
/-- ROW SUB (R358): A - B. -/
def execRowSub (die : Fin 4) (phys : Fin 34) (st : StreamId) (s : State) : Out := .next (s.rowIssue die phys st .sub)
/-- ROW MUL (R358): A × B. -/
def execRowMul (die : Fin 4) (phys : Fin 34) (st : StreamId) (s : State) : Out := .next (s.rowIssue die phys st .mul)
/-- ROW FMA (R358): A × B + C, rounded once. -/
def execRowFma (die : Fin 4) (phys : Fin 34) (st : StreamId) (s : State) : Out := .next (s.rowIssue die phys st .fma)
/-- ROW MIN (R79). -/
def execRowMin (die : Fin 4) (phys : Fin 34) (st : StreamId) (s : State) : Out := .next (s.rowIssue die phys st .min)
/-- ROW MAX (R79). -/
def execRowMax (die : Fin 4) (phys : Fin 34) (st : StreamId) (s : State) : Out := .next (s.rowIssue die phys st .max)
/-- ROW CMP (R78, R358): 1.0 where A PRED B holds, +0 elsewhere. -/
def execRowCmp (die : Fin 4) (phys : Fin 34) (st : StreamId) (s : State) : Out := .next (s.rowIssue die phys st .cmp)
/-- ROW SEL (R49, R358): A where C is a non-zero number, otherwise B. -/
def execRowSel (die : Fin 4) (phys : Fin 34) (st : StreamId) (s : State) : Out := .next (s.rowIssue die phys st .sel)
/-- ROW ABS (R49): the sign bit is cleared. -/
def execRowAbs (die : Fin 4) (phys : Fin 34) (st : StreamId) (s : State) : Out := .next (s.rowIssue die phys st .abs)
/-- ROW NEG (R49): the sign bit is inverted. -/
def execRowNeg (die : Fin 4) (phys : Fin 34) (st : StreamId) (s : State) : Out := .next (s.rowIssue die phys st .neg)
/-- ROW COPY (R49). -/
def execRowCopy (die : Fin 4) (phys : Fin 34) (st : StreamId) (s : State) : Out := .next (s.rowIssue die phys st .copy)
/-- ROW SCALE2 (R358): A × 2^IMM. -/
def execRowScale2 (die : Fin 4) (phys : Fin 34) (st : StreamId) (s : State) : Out := .next (s.rowIssue die phys st .scale2)
/-- ROW CVT (R76, R358). -/
def execRowCvt (die : Fin 4) (phys : Fin 34) (st : StreamId) (s : State) : Out := .next (s.rowIssue die phys st .cvt)
/-- ROW CVTS (R61, R358). -/
def execRowCvts (die : Fin 4) (phys : Fin 34) (st : StreamId) (s : State) : Out := .next (s.rowIssue die phys st .cvts)
/-- ROW EXP (R80). -/
def execRowExp (die : Fin 4) (phys : Fin 34) (st : StreamId) (s : State) : Out := .next (s.rowIssue die phys st .exp)
/-- ROW RCP (R80). -/
def execRowRcp (die : Fin 4) (phys : Fin 34) (st : StreamId) (s : State) : Out := .next (s.rowIssue die phys st .rcp)
/-- ROW RSQRT (R80). -/
def execRowRsqrt (die : Fin 4) (phys : Fin 34) (st : StreamId) (s : State) : Out := .next (s.rowIssue die phys st .rsqrt)
/-- ROW DIV (R358): A ÷ B. -/
def execRowDiv (die : Fin 4) (phys : Fin 34) (st : StreamId) (s : State) : Out := .next (s.rowIssue die phys st .div)
/-- ROW SQRT (R358). -/
def execRowSqrt (die : Fin 4) (phys : Fin 34) (st : StreamId) (s : State) : Out := .next (s.rowIssue die phys st .sqrt)
/-- ROW RED (R102, R358). -/
def execRowRed (die : Fin 4) (phys : Fin 34) (st : StreamId) (s : State) : Out := .next (s.rowIssue die phys st .red)
/-- ROW RED2 (R102, R358). -/
def execRowRed2 (die : Fin 4) (phys : Fin 34) (st : StreamId) (s : State) : Out := .next (s.rowIssue die phys st .red2)

/-! ### DRAIN (R100, R356) -/

/-- One row drained: its codes, its four scale codes where it is scaled, and its flags. FP32 copies. -/
def State.drainRow (s : State) (lane : Nat) (x : Drain) (f : Fmt) (row : List Nat) (j : Nat) : List Nat × List Nat × Nat :=
  if f = .fp32 then (row, [], 0)
  else if x.scaled then
    let r := s.narrowRow lane x.stochastic f row (128 * j)
    (r.2.1, r.1, r.2.2)
  else
    let r := row.zipIdx.map (fun e =>
      f.encode (if x.stochastic then s.mintMode lane (128 * j + e.2) else .rne) (Fmt.fp32.decode e.1))
    (r.map (·.1), [], orFlags r)

/-- Row `j` of a drain is written. -/
def Core.drainWrite (c : Core) (x : Drain) (f : Fmt) (r : List Nat × List Nat × Nat) (j : Nat) : Core :=
  let c := c.write (x.dst + j * x.stride) (elementBytes f.width r.1)
  if x.scaled then c.write (x.scaleAddr + 4 * j) (elementBytes 8 r.2.1) else c

/-- A drain runs: the rows are read, converted, written and released where it says so, all in the edge of issue (DESIGN CHOICE, log
21); its flags enter the row unit's word. The converter, and the write port, are busy for one edge a row. -/
def State.drainRun (s : State) (d p : Nat) (x : Drain) : State :=
  let f := (fmtOfCode x.fmt).getD .fp32
  let lane := laneCore d p x.array
  let acc := ((s.core d p).array x.array).acc
  let rows := (List.range x.rows).map (fun j =>
    s.drainRow lane x f ((List.range 128).map (fun k => (Tab.read 0 acc (128 * (x.accb + j) + k)).toNat)) j)
  let s1 := s.modStore d p (fun c =>
    let c1 := rows.zipIdx.foldl (fun c r => c.drainWrite x f r.1 r.2) c
    (c1.modArray x.array (fun a =>
      let a1 := if x.release then a.setRows x.accb x.rows .empty else a
      { a1 with drainBusy := s.edge + x.rows })).holdPort s.edge s.edge (s.edge + x.rows))
  let s2 := s1.orReg (coreBase d p + 0x10) (rows.foldl (fun m r => m ||| r.2.2) 0)
  s2.mintAdvance lane (if x.stochastic && f != .fp32 then 128 * x.rows else 0)

/-- DRAIN (R100, R108, R356). -/
def execDrain (die : Fin 4) (phys : Fin 34) (st : StreamId) (s : State) : Out :=
  .next (s.issue die.val phys.val st (isInsn 5 0) (fun s w => s.drainRun die.val phys.val (decDrain w)))

end Sys2Proof.Machine
end

