-- ==== Sys2Proof/Machine/Ring.lean ====
section
/-! DEFINITION. The ring of each compute die: injection, circulation, credits, ring accumulate and the layer barrier (R124 to
R156, R360 to R362). -/

namespace Sys2Proof.Machine

/-! ### Lanes and hops (R124 to R129) -/

def laneNum : Lane → Nat
  | .cw => 0
  | .ccw => 1
def laneOf (n : Nat) : Lane := if n = 0 then .cw else .ccw

/-- The next station on a lane: die, station, and the edges of the hop (R125, R128, R129, R341). -/
def State.nextHop (s : State) (d j : Nat) (lane : Lane) : Nat × Nat × Nat :=
  let near := 2 + s.hold 5
  let far := 8 + s.hold 6
  match lane with
  | .cw =>
    if j < 33 then (d, j + 1, near) else if s.package d then ((d + 1) % 4, 0, far) else (d, 0, near)
  | .ccw =>
    if 0 < j then (d, j - 1, near) else if s.package d then ((d + 3) % 4, 33, far) else (d, 33, near)

def hopKey (j : Nat) (lane : Lane) : Nat := 34 * laneNum lane + j

def State.hop (s : State) (d j : Nat) (lane : Lane) : List RingFlit := Tab.read [] (s.ring d).hops (hopKey j lane)
def State.setHop (s : State) (d j : Nat) (lane : Lane) (l : List RingFlit) : State :=
  s.modRing d (fun r => { r with hops := Tab.write [] r.hops (hopKey j lane) l })

def Station.laneFree (t : Station) : Lane → Nat
  | .cw => t.laneCw
  | .ccw => t.laneCcw
def Station.useLane (t : Station) (lane : Lane) (e : Nat) : Station :=
  match lane with
  | .cw => { t with laneCw := max t.laneCw (e + 1) }
  | .ccw => { t with laneCcw := max t.laneCcw (e + 1) }
def Station.take (t : Station) : Lane → List RingFlit
  | .cw => t.takeCw
  | .ccw => t.takeCcw
def Station.setTake (t : Station) (lane : Lane) (l : List RingFlit) : Station :=
  match lane with
  | .cw => { t with takeCw := l }
  | .ccw => { t with takeCcw := l }
def Station.accBuf (t : Station) : Lane → List RingFlit
  | .cw => t.accCw
  | .ccw => t.accCcw
def Station.setAccBuf (t : Station) (lane : Lane) (l : List RingFlit) : Station :=
  match lane with
  | .cw => { t with accCw := l }
  | .ccw => { t with accCcw := l }

/-- An event of a die's part of the ring falls at an edge (R149). -/
def State.ringEvent (s : State) (d e : Nat) : State := s.modRing d (fun r => { r with eventAt := max r.eventAt e })

/-- A flit leaves a station on a lane at an edge (R125, R127): the hop is counted by Tally and by the ring port of R521. -/
def State.sendFlit (s : State) (d j : Nat) (lane : Lane) (f : RingFlit) (e : Nat) : State :=
  let n := s.nextHop d j lane
  let s1 := s.modStation d j (fun t => t.useLane lane e)
  let s2 := s1.setHop n.1 n.2.1 lane (s1.hop n.1 n.2.1 lane ++ [{ f with due := e + n.2.2 }])
  let s3 := s2.count (blkCd d) 0x20 (j + 64 * laneNum lane) 1
  if (lane = .cw ∧ j = 33) ∨ (lane = .ccw ∧ j = 0) then s3.units (tlyBase + 0x1300 + 4 * (2 * d + laneNum lane)) 1 else s3

/-- RING_FAULT bits that are not yet set are set and journalled. -/
def State.ringFaultNew (s : State) (d j b : Nat) : State :=
  if s.rf (ringBase d + 0xC) b b = 1 then s else s.ringFault d j [b]

/-- New injections and accumulate streams may start: the ring runs and no ring fault stops it (R130, R155). -/
def State.ringRuns (s : State) (d : Nat) : Bool :=
  (s.ringDies d).all (fun n => s.ringOn n && s.package n == s.package d && s.rf (ringBase n + 0xC) 31 0 == 0)

/-- The ring segments of a die are awake (R152). -/
def State.segmentsAwake (s : State) (d : Nat) : Bool := (List.range 4).all (fun i => (s.domain (domSegment d i)).awake)

/-! ### Who sends on a lane in an edge (R127) -/

/-- The edge at which a flit that is forwarded unchanged leaves: that of its arrival, or the first after it in which the segments are
awake and the lane is free. -/
def State.forwardEdge (s : State) (d j : Nat) (lane : Lane) (f : RingFlit) : Nat :=
  max f.due (max ((s.station d j).laneFree lane) (s.ring d).awakeAt)

/-- Whether a station forwards a flit unchanged: one that still has takers, or contributions to pass it by. -/
def State.forwards (s : State) (d j : Nat) (f : RingFlit) : Bool :=
  f.origin != s.origin d j &&
    (match f.kind with
     | .acc => !s.active d j
     | _ => decide ((if s.active d j then 1 else 0) < f.count))

/-- Every flit on a hop of the ring that a die belongs to. -/
def State.flying (s : State) (d : Nat) : List RingFlit := (s.ringDies d).flatMap (fun n => (s.ring n).hops.flatMap (·.2))

/-- The first edge, not before `from_`, in which a flit of the station itself can leave on a lane: forwarded traffic goes first
(R127). None while a flit of the ring has an earlier event to come: the events of a ring come in the order of their edges
(log 80). -/
def State.localEdge (s : State) (d j : Nat) (lane : Lane) (from_ : Nat) : Option Nat :=
  let l := s.hop d j lane
  let base := max from_ (max s.edge ((s.station d j).laneFree lane))
  match (upFrom base (l.length + 1)).find? (fun e => !l.any (fun f => s.forwards d j f && s.forwardEdge d j lane f == e)) with
  | none => none
  | some e => if (s.flying d).any (fun f => decide (f.due < e)) then none else some e

/-- An injection or accumulate instruction wakes the segments of its ring (R152). -/
def State.wakeRing (s : State) (d : Nat) : State :=
  (s.ringDies d).foldl (fun s n => (List.range 4).foldl (fun s i => s.wakeSeen (domSegment n i)) s) s

/-! ### INJECT (R131, R139, R360) -/

/-- The offset of a version: VER of a stamp × VERSION_STRIDE (R187); in an evaluation slot, which has no stamps, that of the active
version (R200, log 93). -/
def State.versionOffset (s : State) (stamp : Nat) : Nat :=
  (if s.step.evalRunning then s.activeVer else ((s.stamp? stamp).map stampVer).getD 0) *
    ((s.step.job.map (·.versionStride)).getD 0)

/-- The entry that an injection makes in a queue. -/
def InjectI.entry (x : InjectI) (s : State) (d id : Nat) : Inj :=
  { id := id, group := id, fromMem := !x.fromCore, lane := laneOf x.lane, count := x.count, slot := x.slot,
    slotAddr := x.slotAddr, cstream := x.cstream, lines := x.lines,
    addr := if x.fromCore then x.srcAddr % 2 ^ 22 else x.srcAddr + (if x.versioned then s.versionOffset x.stamp else 0),
    hint := x.hint, spendN := x.spendn, reblock := if x.reblock then some x.rbfmt else none,
    mask := if x.fromCore then [d] else bitList x.diemask 4, lead := true, issued := false, nextWindow := false,
    arrived := [], dueAt := [], sent := [] }

/-- INJECT (R131, R360): the instruction enters the station's injection queue. -/
def execInject (die : Fin 4) (phys : Fin 34) (st : StreamId) (s : State) : Out :=
  .next (s.issue die.val phys.val st (isInsn 6 0) (fun s w =>
    let f := s.fresh
    let e := (decInject w).entry s die.val f.1
    (f.2.modStation die.val phys.val (fun t => { t with injQ := t.injQ ++ [e] })).wakeRing die.val))

/-- Credits of a tile (R139). -/
def Inj.credits (x : Inj) : Nat := (x.lines + 15) / 16

/-- Bridges between two compute dies on the credit sideband (R141). -/
def sideBridges (a b : Nat) : Nat := min ((a + 4 - b) % 4) ((b + 4 - a) % 4)

/-- The dies whose credits a tile takes: its own, and of a multicast stream that this die leads those members that the tile goes to
(R139, R141, R164). -/
def State.creditDies (s : State) (d : Nat) (x : Inj) : List Nat :=
  let cfg := s.rf (creditCfg d x.cstream) 31 0
  d :: (if bit cfg 30 && bits cfg 29 28 == d then x.mask.filter (fun n => n != d && bit (bits cfg 27 24) n) else [])

/-- The count of a stream on die `n` as die `d` sees it at an edge: reports take 8 edges for each bridge (R141). -/
def State.creditView (s : State) (d n k edge : Nat) : Nat :=
  s.credits n k - ((s.ring n).gains.foldl (fun a g => if g.1 = k ∧ edge < g.2.1 + 8 * sideBridges d n then a + g.2.2 else a) 0)

/-- A tile's credits are covered, as its die sees the counts at an edge (R139, R141). -/
def State.creditsCover (s : State) (d : Nat) (x : Inj) (edge : Nat) : Bool :=
  (s.creditDies d x).all (fun n => decide (x.credits ≤ s.creditView d n x.cstream edge))

/-- The first edge at which a tile's credits are covered (R139 to R141). -/
def State.creditEdge (s : State) (d : Nat) (x : Inj) : Option Nat :=
  let later := (s.creditDies d x).flatMap (fun n =>
    ((s.ring n).gains.filter (fun g => g.1 == x.cstream)).map (fun g => g.2.1 + 8 * sideBridges d n))
  (s.edge :: later).foldl (fun m e =>
    if s.edge ≤ e && s.creditsCover d x e then some (match m with | none => e | some y => min y e) else m) none

/-- A count rises, and the die can take the credits from an edge on; reports to other dies arrive within 16 edges (R140, R141). -/
def Ring.gain (r : Ring) (k from_ n : Nat) : Ring :=
  { r with counts := Tab.write 0 r.counts k (Tab.read 0 r.counts k + n),
           gains := r.gains.filter (fun g => decide (from_ < g.2.1 + 17)) ++ [(k, from_, n)] }

/-- A die takes the credits of a tile. -/
def Ring.takeCredits (r : Ring) (x : Inj) (id origin : Nat) : Ring :=
  { r with counts := Tab.write 0 r.counts x.cstream (Tab.read 0 r.counts x.cstream - x.credits),
           tiles := r.tiles ++ [{ id := id, stream := x.cstream, credits := x.credits, toRelease := x.count,
                                  origin := origin, lane := x.lane, due := none, fitted := false }] }

/-- The line reads of a tile. -/
def Inj.reads (x : Inj) (die station : Fin 4 × Fin 34) (group leave : Nat) : List LineReq :=
  (List.range x.lines).map (fun i =>
    { src := .station die.1 station.2, kind := .read, addr := x.addr + 256 * i, hint := hintOf x.hint x.spendN, data := 0,
      poison := false, dest := .tile die.1.val station.2.val group i, leave := leave })

/-- A copy of a multicast waits at the bridge of each member die other than the lead (R137). -/
def State.multicast (s : State) (d j : Nat) (x : Inj) : State :=
  (x.mask.filter (fun n => n != d)).foldl (fun s n =>
    let f := s.fresh
    let y := { x with id := f.1, issued := true, lead := false, nextWindow := false }
    let s1 := if (s.creditDies d x).contains n then f.2.modRing n (fun r => r.takeCredits x f.1 (34 * n + j)) else f.2
    s1.modStation n j (fun t => { t with mcast := t.mcast ++ [y] })) s

/-- INJECT_READ_ISSUE (R131, R139, R141): the first memory injection of the queue that waits for its read. -/
def execInjectReadIssue (die : Fin 4) (station : Fin 34) (s : State) : Out :=
  let d := die.val
  let j := station.val
  match (s.station d j).injQ.find? (fun x => x.fromMem && !x.issued) with
  | none => .next s
  | some x =>
    match (if s.alive && s.ringRuns d && !x.nextWindow then s.creditEdge d x else none) with
    | none => .next s
    | some e =>
      let s1 := s.at e
      let s2 := s1.modStation d j (fun t =>
        { t with injQ := t.injQ.map (fun y => if y.id = x.id then { y with issued := true } else y) })
      let s3 := s2.modRing d (fun r => r.takeCredits x x.id (34 * d + j))
      let s4 := { s3 with mem := { s3.mem with reqs := s3.mem.reqs ++ x.reads (die, station) (die, station) x.group s3.edge } }
      .next (s4.multicast d j x)

/-- MULTICAST_DELIVERY (R137, R148, R150): a copy held at the bridge enters the queue once an entry is free; where the station has
issued its barrier instruction by then, it belongs to the next layer. -/
def execMulticastDelivery (die : Fin 4) (station : Fin 34) (s : State) : Out :=
  let t := s.station die.val station.val
  match t.mcast with
  | [] => .next s
  | x :: rest =>
    if s.alive && decide (t.injQ.length < 8) then
      let y := { x with nextWindow := s.barrierIssued die.val station.val }
      .next ((s.modStation die.val station.val (fun t => { t with mcast := rest, injQ := t.injQ ++ [y] })).wakeRing die.val)
    else .next s

/-! ### Taking a tile (R132 to R135, R140, R153) -/

/-- A delivery that is discarded at a station (R135): `n` flits have passed so far; after the tile's last it counts as released
(R140). -/
def State.lose (s : State) (d j : Nat) (tile lines n : Nat) : State :=
  let s1 := s.modStation d j (fun t => { t with lost := t.lost.filter (fun x => x.1 != tile) })
  if lines ≤ n then s1.tileReleased tile d
  else s1.modStation d j (fun t => { t with lost := t.lost ++ [(tile, n)] })

/-- A slot whose tile will never be valid is left once the tile's last flit has passed, and counts as released (R140). -/
def State.leaveBad (s : State) (d j i lines : Nat) : State :=
  let c := s.core d j
  let x := c.slot i
  if x.delivering && x.bad && decide (lines ≤ x.arrived) then
    (s.setCore d j (c.setSlot i { x with delivering := false })).tileReleased x.tile d
  else s

/-- A flit of a tile arrives at an active station with count above zero: it goes into the take buffer, or is dropped at a full one
(R134); a tile with a flit dropped or poisoned never becomes valid (R140, R153), and one that finds its slot valid is discarded
whole (R135). `due` is its edge of arrival. -/
def State.takeFlit (s : State) (d j : Nat) (lane : Lane) (f : RingFlit) : State :=
  let c := s.core d j
  let t := s.station d j
  match t.lost.find? (fun x => x.1 == f.tile) with
  | some x => s.lose d j f.tile f.lines (x.2 + 1)
  | none =>
    let x := c.slot f.slot
    let mine := x.delivering && x.tile == f.tile
    if !mine && c.slotValid f.slot then
      (s.coreFault d j [cfOverrun]).lose d j f.tile f.lines 1
    else
      let full := decide (64 ≤ (t.take lane).length)
      let old : Slot := if mine then x
        else { addr := f.addr, tile := f.tile, delivering := true, arrived := 0, written := [], bad := false }
      let s1 := s.setCore d j (c.setSlot f.slot { old with arrived := old.arrived + 1, bad := old.bad || f.poison || full })
      let s2 := if full then s1.ringFaultNew d j rfTake else s1.modStation d j (fun t => t.setTake lane (t.take lane ++ [f]))
      s2.leaveBad d j f.slot f.lines

/-- The first edge, not before `e`, in which the write port is free for the inbox (R105). -/
def Core.takeEdge (c : Core) (e : Nat) : Nat :=
  let on (e : Nat) : Nat := c.portBusy.foldl (fun e i => if i.1 ≤ e ∧ e < i.2 then i.2 else e) e
  (List.range c.portBusy.length).foldl (fun e _ => on e) (max e c.takeFree)

/-- TAKE_WRITE (R105 to R107, R134): the oldest flit of a take buffer is written in the edge after its arrival, or the first after it
in which the write port is free, once the core is awake; the slot becomes valid with the tile's last flit. Edges that the port makes it
wait are counted (R518). -/
def execTakeWrite (die : Fin 4) (station : Fin 34) (lane : Lane) (s : State) : Out :=
  let d := die.val
  let j := station.val
  match (s.station d j).take lane with
  | [] => .next s
  | f :: rest =>
    if !s.alive then .next s
    else if !(s.domain (domCore d j)).awake then .next (s.wakeSeen (domCore d j))
    else
      let e := (s.core d j).takeEdge (f.due + 1)
      let s1 := (((s.at e).count (blkCd d) 0x18 j (e - (f.due + 1))).modStation d j (fun t => t.setTake lane rest)).ringEvent d e
      let s2 := s1.modCore d j (fun c => { c with takeFree := e + 1 })
      let x := (s2.core d j).slot f.slot
      let mine := x.delivering && x.tile == f.tile
      if !s2.storeAllowed d j true false (f.addr + 256 * f.index, 256) then
        let s3 := s2.coreFault d j [cfRange]
        .next (if mine then (s3.modCore d j (fun c => c.setSlot f.slot { x with bad := true })).leaveBad d j f.slot f.lines else s3)
      else
        let s3 := s2.modStore d j (fun c => c.writeLine (f.addr + 256 * f.index) f.payload f.poison)
        let written := x.written ++ [f.index]
        if !mine then .next s3
        else if f.lines ≤ written.length ∧ x.bad = false then
          .next (s3.modCore d j (fun c =>
            { c.setSlot f.slot { x with written := written, delivering := false } with
              inbox := c.inbox ||| BitVec.ofNat 16 (2 ^ f.slot) }))
        else .next (s3.modCore d j (fun c => c.setSlot f.slot { x with written := written }))

/-- A flit goes on with its count, or is retired at the last taker (R132). -/
def State.passFlit (s : State) (d j : Nat) (lane : Lane) (f : RingFlit) (count e : Nat) : State :=
  if count = 0 then s else s.sendFlit d j lane { f with count := count } e

/-! ### Contributions to ring accumulate (R143 to R146, R362) -/

/-- The contribution that serves a stream at a station: the first named for its lane and origin. -/
def Station.contribFor (t : Station) (lane : Lane) (origin : Nat) : Option Contrib :=
  t.contribs.find? (fun x => x.lane == lane && x.origin == origin)

/-- The row of flit `i` of a contribution, and whether it is VALID. -/
def Core.contribReady (c : Core) (x : Contrib) (i : Nat) : Bool := rowStateAt c x.array (x.accb + i / 2) == .valid

/-- Faults of a contribution's rows once the number of its stream's flits is known: rows beyond 511, and rows that are EMPTY
(R98, R362). -/
def Core.contribFaults (c : Core) (x : Contrib) (flits : Nat) : List Nat :=
  let rows := (flits + 1) / 2
  when' (decide (512 < x.accb + rows)) cfAcc ++ when' (c.anyRow (x.array, x.accb, rows) (fun t => t == .empty)) cfEmpty

/-- The stream that a station originates on a lane and the contribution that feeds it, where its next flit is ready (R144); of
several streams open, the one opened first, to its end (log 81). -/
def State.originReady (s : State) (d j : Nat) (lane : Lane) : Option (AccStream × Contrib) :=
  match (s.station d j).accs.find? (fun a => a.lane == lane && decide (a.sent < a.flits)) with
  | none => none
  | some a =>
    match (s.station d j).contribFor lane (s.origin d j) with
    | none => none
    | some x =>
      if x.checked && (s.core d j).contribReady x a.sent && !(a.sent == 0 && !s.ringRuns d) then some (a, x) else none

/-- The ACC flits that wait at a station: those of its accumulate buffer, and those on its hop after them. -/
def State.accWaiting (s : State) (d j : Nat) (lane : Lane) : List RingFlit :=
  (s.station d j).accBuf lane ++ (s.hop d j lane).filter (fun f => f.kind == .acc)

/-- The next station downstream whose core is active, at most 136 hops on. -/
def State.nextActive (s : State) (d j : Nat) (lane : Lane) : Nat → Nat × Nat
  | 0 => (d, j)
  | n + 1 =>
    let h := s.nextHop d j lane
    if s.active h.1 h.2.1 then (h.1, h.2.1) else s.nextActive h.1 h.2.1 lane n

/-- The accumulate buffer of the next active station has room for a flit sent on, those on their way to it counted; otherwise the
flit waits here (R146). -/
def State.accRoom (s : State) (d j : Nat) (lane : Lane) (f : RingFlit) : Bool :=
  let n := s.nextActive d j lane 136
  f.count == 0 || decide (((s.station n.1 n.2).accBuf lane).length + countWhere (fun g => g.kind == .acc) (s.flying d) < 256)

/-- The edge from which a flit that is added to can leave: 4 edges through the station, 2 of them the hop, with the holds of a station
in place of those of the hop (R125, R341; log 82). -/
def State.addEdge (s : State) (d j : Nat) (lane : Lane) (f : RingFlit) : Nat :=
  let bridged := s.package d && (match lane with | .cw => j == 0 | .ccw => j == 33)
  max f.due (f.due + 2 + s.hold 7 - (if bridged then 0 else s.hold 5))

/-- The first waiting flit that the station can add to: its stream has none before it, its contribution's row is VALID, and there is
room for it (R144, R146). -/
def State.addReady (s : State) (d j : Nat) (lane : Lane) : Option (RingFlit × Contrib) :=
  if !s.active d j then none
  else
    let l := s.accWaiting d j lane
    (l.zipIdx.findSome? (fun (e : RingFlit × Nat) =>
      let f := e.1
      if f.origin == s.origin d j || (l.take e.2).any (fun g => g.tile == f.tile) then none
      else
        match (s.station d j).contribFor lane f.origin with
        | none => none
        | some x =>
          if x.checked && (s.core d j).contribReady x f.index && s.accRoom d j lane { f with count := f.count - 1 } then some (f, x)
          else none))

/-- The first edge in which an ACC flit of the station itself can leave on a lane (R127). -/
def State.accLocalEdge (s : State) (d j : Nat) (lane : Lane) : Option Nat :=
  let a := (s.addReady d j lane).bind (fun x => s.localEdge d j lane (s.addEdge d j lane x.1))
  let b := (s.originReady d j lane).bind (fun _ => s.localEdge d j lane s.edge)
  match a, b with
  | some x, some y => some (min x y)
  | some x, none => some x
  | none, y => y

/-! ### INJECT_FLIT_SEND (R127, R131, R136) -/

/-- The line that arrives first, of those on a list. -/
def firstArrival (t : Tab Nat) : List (Nat × Line × Bool) → Option (Nat × Line × Bool)
  | [] => none
  | a :: l =>
    match firstArrival t l with
    | some b => if Tab.read 0 t b.1 < Tab.read 0 t a.1 then some b else some a
    | none => some a

/-- The line of a memory tile that is sent next: the first to arrive of those not yet sent. -/
def Inj.memLine (x : Inj) : Option (Nat × Line × Bool) := firstArrival x.dueAt (x.arrived.filter (fun a => !x.sent.contains a.1))

/-- The edge from which the next line of a tile can be sent. -/
def Inj.lineFrom (x : Inj) : Nat := if x.fromMem then ((x.memLine).map (fun a => Tab.read 0 x.dueAt a.1)).getD 0 else 0

/-- The next line of a tile that may be sent: its index, data and poison. -/
def Inj.nextLine (x : Inj) (c : Core) : Option (Nat × Line × Bool) :=
  if x.fromMem then x.memLine
  else
    ((List.range x.lines).find? (fun i => !x.sent.contains i)).map (fun i => (i, c.store.line (x.addr + 256 * i), false))

/-- A tile may send on its station's lane: the segments are awake, it belongs to the window, a tile that has sent nothing starts only
while the ring runs, and a tile to be re-blocked has passed the converter whole. -/
def State.tileMaySend (s : State) (d : Nat) (x : Inj) : Bool :=
  s.alive && !x.nextWindow && s.segmentsAwake d && !(x.sent.isEmpty && !s.ringRuns d) &&
    !(x.fromMem && x.reblock.isSome && decide (x.arrived.length < x.lines))

/-- The edge at which a station's tile sends a flit, not before `from_`: forwarded flits and ACC flits of the station go first
(R127). -/
def State.tileEdge (s : State) (d j : Nat) (lane : Lane) (from_ : Nat) : Option Nat :=
  (s.localEdge d j lane (max s.edge from_)).bind (fun e => if (s.accLocalEdge d j lane).any (fun a => decide (a ≤ e)) then none else some e)

/-- One flit of the tile that a station serves leaves at an edge. The injecting station is the first taker (R132). -/
def State.sendTile (s : State) (d j : Nat) (lane : Lane) (x : Inj) (ln : Nat × Line × Bool) (e : Nat) : State :=
  let s1 := if x.fromMem then s else s.storeRead d j (x.addr + 256 * ln.1) 256
  let y := { x with sent := x.sent ++ [ln.1] }
  let s2 := (s1.modStation d j (fun t =>
    { t with injQ := if x.lines ≤ y.sent.length then t.injQ.filter (fun z => z.id != x.id)
                     else t.injQ.map (fun z => if z.id = x.id then y else z) })).ringEvent d e
  let f : RingFlit :=
    { kind := .tile, stream := x.cstream, slot := x.slot, index := ln.1, count := x.count, origin := s.origin d j,
      payload := ln.2.1, poison := ln.2.2, tile := x.id, lines := x.lines, addr := x.slotAddr, due := e }
  if s.active d j then (s2.takeFlit d j lane f).passFlit d j lane f (x.count - 1) e
  else s2.passFlit d j lane f x.count e

/-- INJECT_FLIT_SEND: the tile that the station serves on a lane sends one flit, in the first edge in which the lane is free to it. -/
def execInjectFlitSend (die : Fin 4) (station : Fin 34) (lane : Lane) (s : State) : Out :=
  let d := die.val
  let j := station.val
  match (s.station d j).injQ.find? (fun x => x.lane == lane) with
  | none => .next s
  | some x =>
    match (if s.tileMaySend d x then s.tileEdge d j lane x.lineFrom else none) with
    | none => .next s
    | some e =>
      let t := s.at e
      match x.nextLine (t.seen d j) with
      | none => .next s
      | some ln =>
        if !x.fromMem && (t.seen d j).readsUe (x.addr + 256 * ln.1) 256 then .next (t.storeRead d j (x.addr + 256 * ln.1) 256)
        else .next (t.sendTile d j lane x ln e)

/-! ### RING_FLIT_ARRIVAL (R126, R132, R133, R153) -/

/-- The ring segment of a station (R152). -/
def segmentOf (j : Nat) : Nat := if j < 9 then 0 else if j < 18 then 1 else if j < 26 then 2 else 3

/-- A flit's payload as its code reads it: words with one wrong bit are corrected and counted once for the flit; a word with
two poisons it (R126, R153). -/
def State.flitEcc (s : State) (d j : Nat) (f : RingFlit) (words : List (Fin 32 × Bool)) : State × RingFlit :=
  if words.any (fun w => w.2) then
    (s.ringFaultNew d j rfFlitUe, { f with poison := true })
  else if words.isEmpty then (s, f)
  else
    let s1 := s.countRf (ringBase d + 0x40) 15 0 1
    (s1.corrected (Err.of .corrected 0x220 (domSegment d (segmentOf j)) j) (s1.rf (ringBase d + 0x40) 15 0) 0xFFFF, f)

/-- The first flit of a kind on a hop, and the hop without it. -/
def pickFlit (k : FlitKind) : List RingFlit → Option (RingFlit × List RingFlit)
  | [] => none
  | f :: t => if f.kind = k then some (f, t) else (pickFlit k t).map (fun x => (x.1, f :: x.2))

/-- A tile has come back to its injector with takers to spare: those that it never reached have nothing to release (R133, R140). -/
def TileOut.comeBack (t : TileOut) (left edge : Nat) : TileOut :=
  if t.fitted then t
  else
    let n := t.toRelease - left
    { t with fitted := true, toRelease := n, due := if n = 0 ∧ t.due = none then some (edge + 4) else t.due }

def Ring.comeBack (r : Ring) (id left edge : Nat) : Ring :=
  { r with tiles := r.tiles.map (fun t => if t.id = id then t.comeBack left edge else t) }

/-- RING_FLIT_ARRIVAL: the next TILE flit on a hop arrives; an active station takes it, and it goes on in the same edges or is
retired (R132 to R134). While the segments of the die sleep, it waits and wakes them (R152). -/
def execRingFlitArrival (die : Fin 4) (station : Fin 34) (lane : Lane) (words : List (Fin 32 × Bool)) (s : State) : Out :=
  let d := die.val
  let j := station.val
  match pickFlit .tile (s.hop d j lane) with
  | none => .next s
  | some (f0, rest) =>
    if !s.alive then .next s
    else if !s.segmentsAwake d then .next (s.wakeRing d)
    else
      let e := s.forwardEdge d j lane f0
      let s1 := ((s.at e).setHop d j lane rest).ringEvent d e
      let p := s1.flitEcc d j f0 words
      let s2 := p.1
      let f := { p.2 with due := e }
      if f.origin = s.origin d j then .next ((s2.ringFaultNew d j rfCirc).modRing d (fun r => r.comeBack f.tile f.count e))
      else if s.active d j then .next ((s2.takeFlit d j lane f).passFlit d j lane f (f.count - 1) e)
      else .next (s2.passFlit d j lane f f.count e)

/-! ### Ring accumulate (R143 to R147) -/

/-- The gradient-buffer offset of a stamp's step: (STEP mod 2) × GRAD_STRIDE (R361). -/
def State.gradOffset (s : State) (stamp : Nat) : Nat :=
  ((s.stamp? stamp).map stampStep).getD 0 % 2 * ((s.step.job.map (·.gradStride)).getD 0)

/-- ACCUM (R143, R361): a stream opens at the station. -/
def execAccum (die : Fin 4) (phys : Fin 34) (st : StreamId) (s : State) : Out :=
  .next (s.issue die.val phys.val st (isInsn 7 0) (fun s w =>
    let x := decAccum w
    let f := s.fresh
    let ex := if x.toCore then x.exit % 2 ^ 22 else x.exit + (if x.gradbuf then s.gradOffset x.stamp else 0)
    let a : AccStream :=
      { id := f.1, lane := laneOf x.lane, k := x.k, flits := x.flits, toCore := x.toCore, add := x.add, exit := ex, sent := 0 }
    let e : AccExit := { id := f.1, toCore := x.toCore, add := x.add, exit := ex, poisoned := false }
    ((f.2.modStation die.val phys.val (fun t => { t with accs := t.accs ++ [a] })).modRing die.val
      (fun r => { r with exits := r.exits ++ [e] })).wakeRing die.val))

/-- CONTRIB (R146, R362): the rows that a station contributes are named. -/
def execContrib (die : Fin 4) (phys : Fin 34) (st : StreamId) (s : State) : Out :=
  .next (s.issue die.val phys.val st (isInsn 8 0) (fun s w =>
    let x := decContrib w
    s.modStation die.val phys.val (fun t => { t with contribs := t.contribs ++
      [{ array := x.array, accb := x.accb, release := x.release, lane := laneOf x.lane, origin := x.origin, done := 0,
         checked := s.streamOpen die.val x }] })))

/-- The 64 values that a contribution gives to flit `i` (R143). -/
def Core.contribution (c : Core) (x : Contrib) (i : Nat) : List Nat :=
  (List.range 64).map (fun k =>
    (Tab.read 0 (c.array x.array).acc (128 * (x.accb + i / 2) + 64 * (i % 2) + k)).toNat)

/-- A contribution has been read for a flit: its rows are released after their last read, and after the last flit it is done
(R362). -/
def State.contributed (s : State) (d j : Nat) (x : Contrib) (i flits : Nat) : State :=
  let last := decide (flits ≤ i + 1)
  let s1 := if x.release && (i % 2 == 1 || last) then
      s.modCore d j (fun c => c.modArray x.array (fun a => a.setRows (x.accb + i / 2) 1 .empty))
    else s
  let y := { x with done := x.done + 1 }
  s1.modStation d j (fun t =>
    { t with contribs := if last then t.contribs.erase x else t.contribs.map (fun z => if z = x then y else z) })

/-- Bits of 64 FP32 values as a line. -/
def lineOf (xs : List Nat) : Line := BitVec.ofNat 2048 (packElements 32 xs)
def lineWords (v : Line) : List Nat := elements v.toNat 32 64

/-- The addition that a station makes: each element of the flit plus the contribution (R144). -/
def addLines (a b : List Nat) : List CodeF := (a.zip b).map (fun x => addF32 x.1 x.2)

/-- What an accumulate stream's exit needs, by its id. -/
def State.accExit? (s : State) (id : Nat) : Option AccExit :=
  ((List.range 4).flatMap (fun n => (s.ring n).exits)).find? (fun e => e.id == id)

def State.modExit (s : State) (id : Nat) (f : AccExit → AccExit) : State :=
  (List.range 4).foldl (fun s n =>
    s.modRing n (fun r => { r with exits := r.exits.map (fun e => if e.id = id then f e else e) })) s
def State.dropExit (s : State) (id : Nat) : State :=
  (List.range 4).foldl (fun s n => s.modRing n (fun r => { r with exits := r.exits.filter (fun e => e.id != id) })) s

/-- A result leaves at the last contributor: to memory as an ADD or a WRITE, or to that contributor's core store (R147). A
poisoned stream delivers nothing (R153). -/
def State.accDeliver (s : State) (die : Fin 4) (station : Fin 34) (f : RingFlit) : State :=
  let d := die.val
  let j := station.val
  match s.accExit? f.tile with
  | none => s
  | some e =>
    let done (s : State) : State := if f.lines ≤ f.index + 1 then s.dropExit f.tile else s
    if f.poison || e.poisoned then done (s.modExit f.tile (fun e => { e with poisoned := true }))
    else
      let a := e.exit + 256 * f.index
      if e.toCore then
        if s.storeAllowed d j true false (a, 256) then done (s.modStore d j (fun c => c.writeLine a f.payload false))
        else done (s.coreFault d j [cfRange])
      else
        let r : LineReq :=
          { src := .station die station, kind := if e.add then .add else .write, addr := a, hint := .stream,
            data := f.payload, poison := false, dest := .none, leave := s.edge }
        done { s with mem := { s.mem with reqs := s.mem.reqs ++ [r] } }

/-- An ACC flit goes on to the next station, or is delivered where no contribution remains. -/
def State.accPass (s : State) (die : Fin 4) (station : Fin 34) (lane : Lane) (f : RingFlit) (e : Nat) : State :=
  if f.count = 0 then s.accDeliver die station f else s.sendFlit die.val station.val lane f e

/-- The originating station sends the next flit of a stream at an edge: its contribution exactly as read (R144). Of several streams
open on one lane the one opened first is sent, to its end (R143; DESIGN CHOICE, log 81). -/
def State.accOriginate (s : State) (die : Fin 4) (station : Fin 34) (lane : Lane) (a : AccStream) (x : Contrib) (e : Nat) : State :=
  let d := die.val
  let j := station.val
  let f : RingFlit :=
    { kind := .acc, stream := 0, slot := 0, index := a.sent, count := a.k - 1, origin := s.origin d j,
      payload := lineOf ((s.core d j).contribution x a.sent), poison := false, tile := a.id, lines := a.flits, addr := a.exit,
      due := e }
  let b := { a with sent := a.sent + 1 }
  let s1 := ((s.at e).modStation d j (fun t =>
    { t with accs := if a.flits ≤ b.sent then t.accs.erase a else t.accs.map (fun z => if z = a then b else z) })).ringEvent d e
  (s1.contributed d j x a.sent a.flits).accPass die station lane f e

/-- A contribution whose stream's flits are now counted: its rows are checked once, and one with a fault does not execute
(R98, R112, R362; log 83). -/
def State.checkContrib (s : State) (d j : Nat) (lane : Lane) (origin flits : Nat) : State :=
  match (s.station d j).contribFor lane origin with
  | none => s
  | some x =>
    if x.checked then s
    else
      let bad := (s.core d j).contribFaults x flits
      let s1 := s.modStation d j (fun t =>
        { t with contribs := if bad.isEmpty then t.contribs.map (fun z => if z = x then { z with checked := true } else z)
                             else t.contribs.erase x })
      if bad.isEmpty then s1 else s1.coreFault d j bad

/-- The contributions that a station's next flits name are checked: that of its own stream, and that of the first flit on its hop. -/
def State.checkContribs (s : State) (d j : Nat) (lane : Lane) : State :=
  let own := match (s.station d j).accs.find? (fun a => a.lane == lane) with
    | some a => s.checkContrib d j lane (s.origin d j) a.flits
    | none => s
  (s.accWaiting d j lane).foldl (fun t f => t.checkContrib d j lane f.origin f.lines) own

/-- Take a waiting ACC flit out of the accumulate buffer, or off the hop. -/
def State.accTake (s : State) (d j : Nat) (lane : Lane) (f : RingFlit) : State :=
  if ((s.station d j).accBuf lane).contains f then s.modStation d j (fun t => t.setAccBuf lane ((t.accBuf lane).erase f))
  else s.setHop d j lane ((s.hop d j lane).erase f)

/-- A waiting ACC flit is added to and leaves at an edge (R144). Errors are of the hop: a flit of the buffer has been read already. -/
def State.accAdd (s : State) (die : Fin 4) (station : Fin 34) (lane : Lane) (f0 : RingFlit) (x : Contrib)
    (words : List (Fin 32 × Bool)) (e : Nat) : State :=
  let d := die.val
  let j := station.val
  let held := ((s.station d j).accBuf lane).contains f0
  let p := ((s.at e).accTake d j lane f0).flitEcc d j f0 (if held then [] else words)
  let sum := addLines (lineWords p.2.payload) ((s.core d j).contribution x f0.index)
  let f := { p.2 with payload := lineOf (sum.map (·.1)), count := f0.count - 1 }
  let s1 := ((p.1.ringEvent d e).contributed d j x f0.index f0.lines).orReg (coreBase d j + 0x10) (orFlags sum)
  s1.accPass die station lane f e

/-- The next ACC flit on a hop arrives: forwarded unchanged by an inactive station, retired with CIRC_OVER at its origin (R133), or held
in the accumulate buffer while that has room (R146). -/
def State.accArrive (s : State) (d j : Nat) (lane : Lane) (f0 : RingFlit) (words : List (Fin 32 × Bool)) : State :=
  let e := s.forwardEdge d j lane f0
  let s1 := ((s.at e).accTake d j lane f0).ringEvent d e
  let p := s1.flitEcc d j f0 words
  if f0.origin = s.origin d j then
    let s2 := p.1.ringFaultNew d j rfCirc
    if f0.lines ≤ f0.index + 1 then s2.dropExit f0.tile else s2
  else if !s.active d j then p.1.sendFlit d j lane p.2 e
  else if 256 ≤ ((s.station d j).accBuf lane).length then s
  else p.1.modStation d j (fun t => t.setAccBuf lane (t.accBuf lane ++ [p.2]))

/-- The addition or the origination that a station makes next, with its edge: the earlier of the two, the addition on equal edges. -/
def State.accLocal (s : State) (d j : Nat) (lane : Lane) : Option ((RingFlit × Contrib) ⊕ (AccStream × Contrib)) × Nat :=
  let a := (s.addReady d j lane).bind (fun x => (s.localEdge d j lane (s.addEdge d j lane x.1)).map (fun e => (x, e)))
  let b := (s.originReady d j lane).bind (fun x => (s.localEdge d j lane s.edge).map (fun e => (x, e)))
  match a, b with
  | some x, some y => if x.2 ≤ y.2 then (some (.inl x.1), x.2) else (some (.inr y.1), y.2)
  | some x, none => (some (.inl x.1), x.2)
  | none, some y => (some (.inr y.1), y.2)
  | none, none => (none, 0)

/-- ACC_FLIT_ADD (R125, R127, R133, R144, R146, R147): the next event of ring accumulate at a station on a lane: the flit that arrives
next, unless an addition or the station's own stream can send before that edge. -/
def execAccFlitAdd (die : Fin 4) (station : Fin 34) (lane : Lane) (words : List (Fin 32 × Bool)) (s0 : State) : Out :=
  let d := die.val
  let j := station.val
  if !s0.alive then .next s0
  else if !s0.segmentsAwake d then .next (if (s0.accWaiting d j lane).isEmpty && (s0.originReady d j lane).isNone then s0
    else s0.wakeRing d)
  else
    let s := s0.checkContribs d j lane
    let own := s.accLocal d j lane
    match own, pickFlit .acc (s.hop d j lane) with
    | (none, _), none => .next s
    | (none, _), some (f, _) => .next (s.accArrive d j lane f words)
    | (some w, e), g =>
      match g with
      | some (f, _) =>
        if (match w with | .inl x => x.1 == f | .inr _ => false) || decide (e < s.forwardEdge d j lane f) then
          (match w with
           | .inl x => .next (s.accAdd die station lane x.1 x.2 words e)
           | .inr x => .next (s.accOriginate die station lane x.1 x.2 e))
        else .next (s.accArrive d j lane f words)
      | none =>
        match w with
        | .inl x => .next (s.accAdd die station lane x.1 x.2 words e)
        | .inr x => .next (s.accOriginate die station lane x.1 x.2 e)

/-! ### CREDIT_RETURN (R140) -/

/-- The tile of a stream whose credits return first. -/
def firstReturn (k : Nat) : List TileOut → Option (TileOut × Nat)
  | [] => none
  | t :: l =>
    let rest := firstReturn k l
    match (if t.stream = k then t.due else none), rest with
    | some e, some r => if e ≤ r.2 then some (t, e) else rest
    | some e, none => some (t, e)
    | none, _ => rest

/-- CREDIT_RETURN: a return that would raise the count above INIT is discarded and sets CREDIT_OVER. -/
def execCreditReturn (die : Fin 4) (stream : Fin 4) (s : State) : Out :=
  let d := die.val
  let k := stream.val
  match firstReturn k (s.ring d).tiles with
  | none => .next s
  | some (t, e) =>
    if !s.alive then .next s
    else
    let s1 := ((s.at e).modRing d (fun r => { r with tiles := r.tiles.erase t })).ringEvent d e
    if s.creditInit d k < Tab.read 0 (s.ring d).counts k + t.credits then .next (s1.ringFaultNew d (t.origin % 34) rfCreditOver)
    else .next (s1.modRing d (fun r => r.gain k (e + 1) t.credits))

/-! ### BARRIER_EDGE and BARRIER_TIMEOUT (R148 to R151, R197, R549) -/

/-- The window of a stream closes and the next opens at the edge. -/
def Stream.reopen (x : Stream) (edge : Nat) : Stream :=
  if x.barrier then { x with barrier := false, window := edge, slipped := false, waited := [] } else x

def Core.reopen (c : Core) (edge : Nat) : Core := { c with fwd := c.fwd.reopen edge, bwd := c.bwd.reopen edge }

/-- Marks on which a stream of some core has waited in a window that is still open. -/
def State.waitedMarks (s : State) : List Nat := s.cores.flatMap (fun c => c.2.fwd.waited ++ c.2.bwd.waited)

/-- Marks waited on in the windows that close, and in no other, are cleared (R399). Marks 0xFF00 to 0xFFFF of PUT messages
belong to firmware. -/
def State.clearMarks (s : State) (ms : List Nat) : State :=
  let keep := s.waitedMarks
  { s with link := { s.link with marks := s.link.marks.filter (fun m =>
      !(ms.contains m.1 && !keep.contains m.1 && decide (m.1 < 0xFF00))) } }

/-- Work in progress is to end at the next layer barrier: after a step fault (R197), or of the micro-batches that a skip abandons
(R192). -/
def State.abandoning (s : State) : Bool :=
  s.step.faulted || (s.step.post == 4 && s.step.stamps.any (fun e => stampStep e.2 == s.tlrStep + 1))

/-- Every credit count of a die takes its INIT at an edge (R139, R149): what it gains is reported as a return is (R141). -/
def State.refillCredits (s : State) (d edge : Nat) : State :=
  (List.range 4).foldl (fun s k =>
    let old := Tab.read 0 (s.ring d).counts k
    let new := if s.creditOn d k then s.creditInit d k else 0
    s.modRing d (fun r =>
      if old < new then r.gain k edge (new - old) else { r with counts := Tab.write 0 r.counts k new })) s

/-- The barrier edge on one die: LAYER_COUNT advances, credit counts take INIT, streams open their next windows, instructions
of the next layer may start, sleeping cores wake; after a step fault the die's work of the step is abandoned (R149, R197). -/
def State.barrierOn (s : State) (edge d : Nat) : State :=
  let closing := (s.cores.filter (fun (c : Nat × Core) => c.1 / 34 == d)).flatMap (fun (c : Nat × Core) =>
    (if c.2.fwd.barrier then c.2.fwd.waited else []) ++ (if c.2.bwd.barrier then c.2.bwd.waited else []))
  let s1 := s.setReg (ringBase d + 0x18) (s.reg (ringBase d + 0x18) + 1)
  let s2 := (s1.refillCredits d edge).modRing d (fun r =>
    { r with lastBarrier := edge,
             stations := r.stations.map (fun t =>
               (t.1, { t.2 with injQ := t.2.injQ.map (fun i => { i with nextWindow := false }) })) })
  let reopened := s2.cores.map (fun (c : Nat × Core) => if c.1 / 34 = d then (c.1, c.2.reopen edge) else c)
  let s3 : State := { s2 with cores := reopened }
  let s4 := s3.clearMarks closing
  let s5 := (List.range 34).foldl (fun s j => if s.active d j then s.wakeSeen (domCore d j) else s) s4
  let s6 := if s.abandoning then
      let ended (x : Stream) : Stream := { x with ended := true, buf := [] }
      let stop (c : Core) : Core := { c with fwd := ended c.fwd, bwd := ended c.bwd }
      let stopped := s5.cores.map (fun (c : Nat × Core) => if c.1 / 34 = d then (c.1, stop c.2) else c)
      { s5 with cores := stopped, step := { s5.step with abandonedDies := s5.step.abandonedDies ++ [d] } }
    else s5
  s6.count (blkCd d) 0x25 0x1FF 1

/-- The barrier edge of a ring that is drained: 4 edges after the last event of the die in DIE span, 28 after the last of the four dies
in PACKAGE span (R149). -/
def State.barrierEdge (s : State) (d : Nat) : Nat :=
  (s.ringDies d).foldl (fun m n => max m (s.ring n).eventAt) 0 + (if s.package d then 28 else 4)

/-- A backward layer pass that has ended is noted, and with its last one a micro-batch leaves the package and frees its stamp entry
(R183, R187, R205). -/
def Step.passEnd (x : Step) (e : PassEnd) : Step :=
  let note (t : Tab (List Nat)) (k mb : Nat) : Tab (List Nat) :=
    let old := Tab.read [] t k
    if old.contains mb then t else Tab.write [] t k (old ++ [mb])
  match e with
  | .layer record entry =>
    match Tab.find? x.stamps entry.val with
    | some st => { x with passes := note x.passes (65536 * (stampStep st % 2) + record.toNat) (stampMb st) }
    | none => x
  | .batch entry =>
    match Tab.find? x.stamps entry.val with
    | some st => { x with batches := note x.batches (stampStep st % 2) (stampMb st), stamps := Tab.del x.stamps entry.val }
    | none => x

/-- BARRIER_EDGE (R149). A ring fault keeps the barrier from being reached (R151, R197). `ends` names the backward layer passes that are
complete on the package at this edge: the binary's windows decide it, and nothing in them says so to the module (R184, log 30). -/
def execBarrierEdge (die : Fin 4) (s : State) (ends : List PassEnd := []) : Out :=
  let d := die.val
  let dies := s.ringDies d
  if s.alive && s.ringRuns d && dies.all (fun n => s.drained n) then
    let t := dies.foldl (fun t n => t.barrierOn (s.barrierEdge d) n) (s.at (s.barrierEdge d))
    .next { t with step := ends.foldl Step.passEnd t.step }
  else .next s

/-- BARRIER_TIMEOUT (R151). No station detects it; the entry has station index 0 (R155; DESIGN CHOICE, log 97). -/
def execBarrierTimeout (die : Fin 4) (s : State) : Out :=
  let d := die.val
  let limit := s.rf (ringBase d + 4) 19 4
  if s.alive && s.ringOn d && limit != 0 && !s.drained d then
    .next ((s.at ((s.ring d).lastBarrier + 65536 * limit + 1)).ringFaultNew d 0 rfBarrier)
  else .next s

/-! ### RING_CTL (R130, R142, R159) -/

/-- RING_CTL.ENABLE is set: the credit counts load, INIT values and spans are checked, and the barrier count starts from 0
(R130, R139, R142, R163). No station detects these faults; their entries have station index 0 (R155; DESIGN CHOICE, log 97). -/
def State.ringStart (s : State) (d : Nat) : State :=
  let s1 := s.setRf (ringBase d + 4) 0 0 1
  let s2 := s1.setReg (ringBase d + 0x18) 0
  let s3 := (s2.refillCredits d s.edge).modRing d (fun r => { r with lastBarrier := s.edge, eventAt := max r.eventAt s.edge })
  let s4 := if (List.range 4).any (fun k => decide (256 < s.creditInit d k)) then s3.ringFault d 0 [rfCreditRange] else s3
  let others := (List.range 4).filter (fun n => n != d && s.ringOn n && s.package n != s.package d)
  if others.isEmpty then s4 else (d :: others).foldl (fun s n => s.ringFault n 0 [rfSpan]) s4

/-- RING_ENABLE. -/
def execRingEnable (by_ : Writer) (die : Fin 4) (s : State) : Out :=
  let d := die.val
  .next (if s.ringOn d then s else s.gate by_ false (ringBase d + 4) (fun s => s.ringStart d))

/-- RING_DISABLE (R159): INJECT, ACCUM and CONTRIB are held at the picker; flits already sent drain. -/
def execRingDisable (by_ : Writer) (die : Fin 4) (s : State) : Out :=
  .next (if s.ringOn die.val then s.gate by_ false (ringBase die.val + 4) (fun s => s.setRf (ringBase die.val + 4) 0 0 0)
    else s)

/-- RING_SPAN_WRITE (R130): only while the ring is disabled and drained; otherwise ignored and journalled. -/
def execRingSpanWrite (by_ : Writer) (die : Fin 4) (package : Bool) (s : State) : Out :=
  let d := die.val
  .next (s.gate by_ false (ringBase d + 4) (fun s =>
    if !s.ringOn d && s.drained d then s.setRf (ringBase d + 4) 1 1 (b2n package) else s.ignored (ringBase d + 4)))

/-- RING_CE_CLR (R166). -/
def execRingCeClr (by_ : Writer) (die : Fin 4) (s : State) : Out :=
  .next (s.gate by_ true (ringBase die.val + 0x40) (fun s => s.clearRf (ringBase die.val + 0x40) 15 0))

end Sys2Proof.Machine
end

