-- ==== Sys2Proof/Machine/CoreCtl.lean ====
section
/-! DEFINITION. Writes of CORE_CTL and CORE_STORE_ECC (R115, R122). -/

namespace Sys2Proof.Machine

/-- A stream restarted at its base address; its first window opens at the edge of the restart (R115, R549). -/
def Stream.restart (base edge : Nat) : Stream :=
  { buf := [], fetchAt := base, stopFetch := false, head := base, ended := false, wait := none, waited := [],
    barrier := false, window := edge, slipped := false }

/-- RUN changes from 0 to 1: both streams restart at their base addresses, and the core issues again, whether or not CORE_FAULT
bits still stand (R112, R115; log 77). -/
def State.startCore (s : State) (d p : Nat) : State :=
  let fwd := (s.reg (coreBase d p + 0x28)).toNat
  let bwd := (s.reg (coreBase d p + 0x2C)).toNat
  let s1 := s.setRf (coreBase d p + 4) 0 0 1
  let s2 := s1.modCore d p (fun c =>
    { c with halted := false, stopping := false, fwd := Stream.restart fwd s.edge, bwd := Stream.restart bwd s.edge })
  if s.active d p then s2.wakeSeen (domCore d p) else s2

/-- CORE_RUN_START (R115): nothing while RUN is 1 already. -/
def execCoreRunStart (by_ : Writer) (die : Fin 4) (phys : Fin 34) (s : State) : Out :=
  let d := die.val
  let p := phys.val
  .next (if s.coreRun d p then s else s.gate by_ false (coreBase d p + 4) (fun s => s.startCore d p))

/-- RUN changes from 1 to 0; RUNNING follows once stopping has completed (R115, R116). -/
def State.stopCore (s : State) (d p : Nat) : State :=
  (s.setRf (coreBase d p + 4) 0 0 0).modCore d p (fun c => { c with stopping := true })

/-- CORE_RUN_STOP (R115): the picker issues nothing more; instructions already queued complete. -/
def execCoreRunStop (by_ : Writer) (die : Fin 4) (phys : Fin 34) (s : State) : Out :=
  let d := die.val
  let p := phys.val
  .next (if s.coreRun d p then s.gate by_ false (coreBase d p + 4) (fun s => s.stopCore d p) else s)

/-- The clear bits of CORE_CTL take effect only where RUN is 0 and QUIET is 1 in the edge before; otherwise they are ignored and
journalled (R115). A core that is stopping has not been quiet since RUN was cleared. -/
def State.whenQuiet (s : State) (by_ : Writer) (d p : Nat) (f : Core → Core) : State :=
  s.gate by_ false (coreBase d p + 4) (fun s =>
    if !s.coreRun d p && !(s.core d p).stopping && s.quiet d p then s.modCore d p f else s.ignored (coreBase d p + 4))

/-- CLEAR_INBOX (R115). -/
def execClearInbox (by_ : Writer) (die : Fin 4) (phys : Fin 34) (s : State) : Out :=
  .next (s.whenQuiet by_ die.val phys.val (fun c => { c with inbox := 0 }))

/-- Every row EMPTY and both weight banks unused. -/
def Array.clear (a : Array) : Array :=
  { a with rowState := [], bank0 := { a.bank0 with used := false }, bank1 := { a.bank1 with used := false } }

/-- CLEAR_ACC (R98, R115). -/
def execClearAcc (by_ : Writer) (die : Fin 4) (phys : Fin 34) (s : State) : Out :=
  .next (s.whenQuiet by_ die.val phys.val (fun c =>
    { c with array0 := c.array0.clear, array1 := c.array1.clear, array2 := c.array2.clear, array3 := c.array3.clear }))

/-- CORE_CE_CLR (R122). -/
def execCoreCeClr (by_ : Writer) (die : Fin 4) (phys : Fin 34) (s : State) : Out :=
  .next (s.gate by_ true (coreBase die.val phys.val + 0x3C) (fun s => s.clearRf (coreBase die.val phys.val + 0x3C) 15 0))

end Sys2Proof.Machine
end

