-- ==== Sys2Proof/Machine/Code.lean ====
section
/-! DEFINITION. The codes: the Reed–Solomon code of the HBM controller (R263, R264, R266), the Reed–Solomon code and the CRC of
Vyvan flits (R384), over one field GF(2^8). -/

namespace Sys2Proof.Machine

/-! ### GF(2^8), polynomial x^8 + x^4 + x^3 + x^2 + 1, α = 2 (R263) -/

/-- Multiply by α. -/
def gfTwo (x : Nat) : Nat := if 128 ≤ x then (2 * x) ^^^ 0x11D else 2 * x

/-- Multiply by α^n. -/
def gfShift (x : Nat) : Nat → Nat
  | 0 => x
  | n + 1 => gfShift (gfTwo x) n

/-- Product by the bits of the second factor, from bit `i` up, `n` bits. -/
def gfMulBits (y : Nat) : Nat → Nat → Nat → Nat
  | 0, _, _ => 0
  | n + 1, x, i => (if bit y i then x else 0) ^^^ gfMulBits y n (gfTwo x) (i + 1)

def gfMul (x y : Nat) : Nat := gfMulBits y 8 x 0

/-- One step of division by a monic generator: the remainder, highest coefficient first, takes one more symbol. -/
def rsStep (gen : List Nat) (rem : List Nat) (d : Nat) : List Nat :=
  let fb := d ^^^ rem.headD 0
  ((rem.drop 1 ++ [0]).zip gen).map (fun (x : Nat × Nat) => x.1 ^^^ gfMul fb x.2)

/-- The check symbols of data symbols, highest coefficient first (R263). -/
def rsCheck (gen : List Nat) (data : List Nat) : List Nat := data.foldl (rsStep gen) (gen.map (fun _ => 0))

/-- The syndrome c(α^i) of a codeword, highest coefficient first. -/
def rsSyndrome (code : List Nat) (i : Nat) : Nat := code.foldl (fun a c => gfShift a i ^^^ c) 0

/-! ### Sectors of a line (R263, R264) -/

/-- g(x) = (x + 1)(x + α)(x + α²)(x + α³) without its leading 1. -/
def hbmGen : List Nat := [15, 54, 120, 64]

/-- Check bytes e3, e2, e1, e0 of a sector. -/
def sectorCheck (data : List Nat) : List Nat := rsCheck hbmGen data

/-- What the controller finds in a sector. -/
inductive SectorRead where
  | clean
  | single (pos value : Nat)
  | bad
  deriving DecidableEq, Repr

/-- The syndromes decide (R264). -/
def sectorOutcome (code : List Nat) : SectorRead :=
  let s0 := rsSyndrome code 0
  let s1 := rsSyndrome code 1
  let s2 := rsSyndrome code 2
  let s3 := rsSyndrome code 3
  if s0 = 0 ∧ s1 = 0 ∧ s2 = 0 ∧ s3 = 0 then .clean
  else if s0 = 0 then .bad
  else
    match (List.range 68).find? (fun p => s1 == gfShift s0 p && s2 == gfShift s1 p && s3 == gfShift s2 p) with
    | some p => .single p s0
    | none => .bad

/-- A codeword with the symbol at position `p` of 68 changed: position 67 comes first. -/
def flipSymbol (code : List Nat) (p v : Nat) : List Nat :=
  code.zipIdx.map (fun (x : Nat × Nat) => if x.2 + p = 67 then x.1 ^^^ v else x.1)

/-! ### Vyvan flits (R383 to R385) -/

/-- x^(2^n - 1) times a power: repeated squaring of `x`, `n` times, multiplying each square in. -/
def gfSquares (x acc : Nat) : Nat → Nat
  | 0 => acc
  | n + 1 => let y := gfMul x x; gfSquares y (gfMul acc y) n

/-- The inverse: x^254. -/
def gfInv (x : Nat) : Nat := gfSquares x 1 7

/-- What the receiver makes of a codeword: the corrected codeword, and how many symbols were corrected. -/
abbrev RsRead := Option (List Nat × Nat)

/-- A codeword with a symbol changed at a position, counted from the last symbol. -/
def fixAt (code : List Nat) (p v : Nat) : List Nat :=
  code.zipIdx.map (fun (x : Nat × Nat) => if x.2 + p + 1 = code.length then x.1 ^^^ v else x.1)

/-- Up to two symbol errors are corrected (R384). -/
def rsDecode2 (code : List Nat) : RsRead :=
  let s0 := rsSyndrome code 0
  let s1 := rsSyndrome code 1
  let s2 := rsSyndrome code 2
  let s3 := rsSyndrome code 3
  let n := code.length
  if s0 = 0 ∧ s1 = 0 ∧ s2 = 0 ∧ s3 = 0 then some (code, 0)
  else
    match (if s0 = 0 then none else (List.range n).find? (fun p => s1 == gfShift s0 p && s2 == gfShift s1 p && s3 == gfShift s2 p)) with
    | some p => some (fixAt code p s0, 1)
    | none =>
      let det := gfMul s0 s2 ^^^ gfMul s1 s1
      if det = 0 then none
      else
        let k := gfInv det
        let a := gfMul k (gfMul s0 s3 ^^^ gfMul s1 s2)
        let b := gfMul k (gfMul s1 s3 ^^^ gfMul s2 s2)
        let isRoot (p : Nat) : Bool := let x := gfShift 1 p; gfMul x x ^^^ gfMul a x ^^^ b == 0
        match (List.range n).filter isRoot with
        | [p, q] =>
          let x := gfShift 1 p
          let y := gfShift 1 q
          let u := gfMul (gfInv (x ^^^ y)) (s1 ^^^ gfMul s0 y)
          some (fixAt (fixAt code p u) q (s0 ^^^ u), 2)
        | _ => none

/-- One bit of the CRC-32, reflected. -/
def crcBit (c : Nat) : Nat := if c % 2 = 1 then (c / 2) ^^^ 0xEDB88320 else c / 2

def crcBits (c : Nat) : Nat → Nat
  | 0 => c
  | n + 1 => crcBits (crcBit c) n

/-- The CRC-32 of IEEE 802.3 over bytes (R384). -/
def crc32 (bs : List Byte) : Nat := (bs.foldl (fun c b => crcBits (c ^^^ b.toNat) 8) 0xFFFFFFFF) ^^^ 0xFFFFFFFF

/-- Every second element of a list, from the first. -/
def evens {α : Type} : List α → List α
  | [] => []
  | [a] => [a]
  | a :: _ :: t => a :: evens t

/-- Two lists taken in turn. -/
def interleave {α : Type} : List α → List α → List α
  | a :: s, b :: t => a :: b :: interleave s t
  | s, _ => s

/-- The check bytes of one codeword in the order of their addresses: e0 first. -/
def flitCheck (data : List Nat) : List Nat := (rsCheck hbmGen data).reverse

/-- A flit on the lanes: header, payload, CRC, check bytes (R383, R384). -/
def flitBytes (header : Nat) (payload : Line) : List Byte :=
  let b := bytesOfNum 4 header ++ bytesOfNum 256 payload.toNat
  let body := b ++ bytesOfNum 4 (crc32 b)
  let n := body.map BitVec.toNat
  body ++ (interleave (flitCheck (evens n)) (flitCheck (evens (n.drop 1)))).map (BitVec.ofNat 8)

/-- The byte of a flit that symbol `k` of codeword `par` is: check symbols stand in reverse order (R384). -/
def symbolByte (par k : Nat) : Nat := 2 * (if k < 132 then k else 267 - k) + par

/-- Bytes of a flit that a codeword's decoding changed. -/
def fixedBytes (par : Nat) (got code : List Nat) : List Nat :=
  ((got.zip code).zipIdx.filter (fun x => x.1.1 != x.1.2)).map (fun x => symbolByte par x.2)

/-- What a receiver reads: header and payload, and the bytes that it corrected; `none` where the code or the CRC fails. -/
def flitRead (bs : List Byte) : Option (Nat × Line × List Nat) :=
  let n := bs.map BitVec.toNat
  let e := evens n
  let o := evens (n.drop 1)
  let even := e.take 132 ++ (e.drop 132).reverse
  let odd := o.take 132 ++ (o.drop 132).reverse
  match rsDecode2 even, rsDecode2 odd with
  | some x, some y =>
    let body := (interleave (x.1.take 132) (y.1.take 132)).map (BitVec.ofNat 8)
    if crc32 (body.take 260) = numOfBytes (body.drop 260) then
      some (numOfBytes (body.take 4), BitVec.ofNat 2048 (numOfBytes ((body.drop 4).take 256)), fixedBytes 0 even x.1 ++ fixedBytes 1 odd y.1)
    else none
  | _, _ => none

/-! ### SHAKE256 (FIPS 202, named by R476) -/

/-- The register that yields the round constants (FIPS 202, rc): one shift, with feedback into bits 0, 4, 5 and 6. -/
def roundBitStep (r : Nat) : Nat := if bit r 7 then (2 * r) ^^^ 0x171 else 2 * r

/-- The register after a number of shifts. -/
def roundBits : Nat → Nat
  | 0 => 1
  | n + 1 => roundBitStep (roundBits n)

/-- The constant of a round: bit 2^j - 1 is bit 0 of the register after 7 × round + j shifts. -/
def roundConstant (round : Nat) : BitVec 64 :=
  (List.range 7).foldl (fun v j => if bit (roundBits (7 * round + j)) 0 then v ||| BitVec.ofNat 64 (2 ^ (2 ^ j - 1)) else v) 0

/-- The lane visited by the walk (x, y) → (y, 2x + 3y) from (1, 0), as its index x + 5y: where ρ counts and where π moves. -/
def laneWalk : Nat → Nat
  | 0 => 1
  | t + 1 => laneWalk t / 5 + 5 * ((2 * (laneWalk t % 5) + 3 * (laneWalk t / 5)) % 5)

/-- The lanes of a state that share an x coordinate, combined. -/
def columnParity (lanes : List (BitVec 64)) (x : Nat) : BitVec 64 :=
  (lanes.zipIdx.filter (fun e => e.2 % 5 == x % 5)).foldl (fun p e => p ^^^ e.1) 0

/-- θ: every lane takes the parities of the columns beside it. -/
def mixColumns (lanes : List (BitVec 64)) : List (BitVec 64) :=
  let both := (List.range 5).map (fun x => columnParity lanes (x + 4) ^^^ (columnParity lanes (x + 1)).rotateLeft 1)
  lanes.zipIdx.map (fun e => e.1 ^^^ both.getD (e.2 % 5) 0)

/-- ρ and π: the lane at each place of the walk is rotated by its count and moved to the next place. -/
def walkLanes (lanes : List (BitVec 64)) : List (BitVec 64) :=
  (List.range 24).foldl (fun out t =>
    out.set (laneWalk (t + 1)) ((lanes.getD (laneWalk t) 0).rotateLeft ((t + 1) * (t + 2) / 2 % 64))) lanes

/-- χ on one row of five lanes. -/
def rowChi : List (BitVec 64) → List (BitVec 64)
  | [p, q, r, t, u] => [p ^^^ (r &&& ~~~q), q ^^^ (t &&& ~~~r), r ^^^ (u &&& ~~~t), t ^^^ (p &&& ~~~u), u ^^^ (q &&& ~~~p)]
  | other => other

/-- One round: θ, ρ and π, χ by rows, and the constant into lane 0. -/
def permuteRound (lanes : List (BitVec 64)) (round : Nat) : List (BitVec 64) :=
  let moved := walkLanes (mixColumns lanes)
  let rows := (List.range 5).flatMap (fun y => rowChi ((moved.drop (5 * y)).take 5))
  rows.set 0 (rows.headD 0 ^^^ roundConstant round)

/-- The 24 rounds. -/
def permute (lanes : List (BitVec 64)) : List (BitVec 64) := (List.range 24).foldl permuteRound lanes

/-- The next 136 bytes are combined with the first 17 lanes, and the state is permuted; `n` blocks. -/
def absorb : Nat → List (BitVec 64) → List Byte → List (BitVec 64)
  | 0, lanes, _ => lanes
  | n + 1, lanes, bs =>
    let mixed := lanes.zipIdx.map (fun e =>
      if e.2 < 17 then e.1 ^^^ BitVec.ofNat 64 (numOfBytes ((bs.drop (8 * e.2)).take 8)) else e.1)
    absorb n (permute mixed) (bs.drop 136)

/-- Bytes with the domain bits 1111 and the padding of SHAKE256. -/
def shakePad (bs : List Byte) : List Byte :=
  let r := 136 - bs.length % 136
  if r = 1 then bs ++ [0x9F] else bs ++ (0x1F :: (List.replicate (r - 2) 0 ++ [0x80]))

/-- The 256-bit SHAKE256 digest of bytes, as the little-endian number of its 32 bytes (R476). -/
def shake256 (bs : List Byte) : BitVec 256 :=
  let padded := shakePad bs
  let lanes := absorb (padded.length / 136) (List.replicate 25 0) padded
  BitVec.ofNat 256 (numOfBytes ((lanes.take 4).flatMap (fun v => bytesOfNum 8 v.toNat)))

end Sys2Proof.Machine
end

