-- ==== Sys2Proof/Machine/Near.lean ====
section
/-! DEFINITION. The device address map (R258 to R262), near memory behind its controller code (R263 to R269), the Vault's ways
(R274 to R280), scratchpad and tier contents, and where lines that are read go. -/

namespace Sys2Proof.Machine

/-! ### Addresses (R258 to R262) -/

/-- The fold P of R260 over a whole address. -/
def foldP (a : Nat) : Nat := (a / 2 ^ 8 ^^^ a / 2 ^ 18 ^^^ a / 2 ^ 28 ^^^ a / 2 ^ 38) % 1024

/-- The line index L × 1,024 + P of R261. -/
def lineIndex (p l : Nat) : Nat := 1024 * l + p

def inRange (q : Nat × Nat) (a : Nat) : Bool := decide (2 ^ 32 * q.1 ≤ a) && decide (a < 2 ^ 32 * (q.1 + q.2))

/-- P and L of an address in a QUADRANT range (R262). -/
def quadrant (q : Nat × Nat) (a : Nat) : Nat × Nat :=
  let quarter := 2 ^ 30 * q.2
  let off := a - 2 ^ 32 * q.1
  let b := off % quarter / 256
  (256 * (off / quarter) + (b ^^^ b / 2 ^ 8 ^^^ b / 2 ^ 16 ^^^ b / 2 ^ 24) % 256, 2 ^ 14 * q.1 + b / 256)

/-- P and L of a near-memory address, by the copied ranges (R260 to R262). -/
def placeOf (qs : List (Nat × Nat)) (a : Nat) : Nat × Nat :=
  match qs.find? (fun q => inRange q a) with
  | some q => quadrant q a
  | none => (foldP a, a / 2 ^ 18)

/-- The address of a line, from its place: the mapping is one to one (R261, R262). -/
def addressOf (qs : List (Nat × Nat)) (p l : Nat) : Nat :=
  match qs.find? (fun q => decide (2 ^ 14 * q.1 ≤ l) && decide (l < 2 ^ 14 * (q.1 + q.2))) with
  | some q =>
    let bh := l - 2 ^ 14 * q.1
    2 ^ 32 * q.1 + p / 256 * (2 ^ 30 * q.2) + 256 * (256 * bh + (p ^^^ bh ^^^ bh / 2 ^ 8 ^^^ bh / 2 ^ 16) % 256)
  | none => 2 ^ 18 * l + 256 * ((p ^^^ l ^^^ l / 2 ^ 10 ^^^ l / 2 ^ 20) % 1024)

/-- Where an address leads (R258). -/
inductive Where where
  | near (line : Nat)
  | tier (off : Nat)
  | scratch (die granule off : Nat)
  | unmapped
  deriving DecidableEq, Repr

/-- VLT_CTL.MODE is COMPAT (R284, R294). -/
def State.modeCompat (s : State) (d : Nat) : Bool := s.rf (vltBase d + 4) 1 1 == 1

def State.where_ (s : State) (a : Nat) : Where :=
  if a < 240 * 2 ^ 32 then (let p := placeOf s.mem.qranges a; .near (lineIndex p.1 p.2))
  else if 2 ^ 44 ≤ a ∧ a < 2 ^ 44 + 2 ^ 43 then .tier (a % 2 ^ 44)
  else if 2 ^ 45 ≤ a ∧ a < 2 ^ 45 + 4 * 2 ^ 30 then
    let o := a % 2 ^ 45
    if o % 2 ^ 30 < 152 * 2 ^ 20 ∧ s.modeCompat (o / 2 ^ 30) = false then
      .scratch (o / 2 ^ 30) (o % 2 ^ 30 / 2 ^ 20) (o % 2 ^ 20)
    else .unmapped
  else if 2 ^ 45 + 2 ^ 32 ≤ a ∧ a < 2 ^ 45 + 2 ^ 32 + 608 * 2 ^ 20 ∧
      (List.range 4).all (fun d => s.modeCompat d) = true then
    let k := (a % 2 ^ 32) / 2 ^ 20
    .scratch (k % 4) (k / 4) (a % 2 ^ 20)
  else .unmapped

/-- Die, stack and pseudo-channel of a near line (R261). -/
def lineDie (li : Nat) : Nat := li % 1024 / 256
def lineStack (li : Nat) : Nat := li % 1024 / 64
def lineChan (li : Nat) : Nat := li % 256

/-- The die that serves or refuses a request (R259). -/
def State.homeDie (s : State) (a : Nat) : Nat :=
  match s.where_ a with
  | .near li => lineDie li
  | .scratch d _ _ => d
  | _ => foldP a / 256

/-- HBM_CTL.ENABLE of a die, and of all four. -/
def State.hbmOn (s : State) (d : Nat) : Bool := s.rf (hbmBase d + 4) 0 0 == 1
def State.memUp (s : State) : Bool := s.alive && (List.range 4).all (fun d => s.hbmOn d)

/-! ### The Ledger's areas (R475) -/

def State.ldgOn (s : State) : Bool := s.rf (ldgBase + 4) 0 0 == 1

/-- The half that holds the current snapshot, and the parity area (R475). -/
def State.snapHalf (s : State) : Nat := s.rf (ldgBase + 8) 2 2
def State.parityBase (s : State) (h : Nat) : Nat :=
  2 ^ 32 * s.rf (ldgBase + 0x24) 15 0 + 2 ^ 8 * s.rf (ldgBase + 0x20) 31 8 + 256 * (h * (s.reg (ldgBase + 0x28)).toNat)
def State.copyBase (s : State) (h : Nat) : Nat :=
  2 ^ 32 * s.rf (ldgBase + 0x18) 15 0 + 2 ^ 8 * s.rf (ldgBase + 0x14) 31 8 + 256 * (h * (s.reg (ldgBase + 0x1C)).toNat)

/-- A line of the current held copy or parity half (R454). -/
def State.snapLine (s : State) (a : Nat) : Bool :=
  let within (b n : Nat) : Bool := decide (b ≤ a) && decide (a < b + 256 * n)
  s.rf (ldgBase + 8) 1 1 == 1 &&
    (within (s.copyBase s.snapHalf) (s.reg (ldgBase + 0x1C)).toNat ||
      (s.rf (ldgBase + 0x2C) 0 0 == 1 && within (s.parityBase s.snapHalf) (s.reg (ldgBase + 0x28)).toNat))

/-- An uncorrectable line in a current held copy or parity half ends the snapshot, and the package must secure (R454). -/
def State.copyUe (s : State) (a : Nat) : State :=
  if s.snapLine a then
    (((s.setRf (ldgBase + 8) 1 1 0).orReg (ldgBase + 0xC) 1).notice (Err.aon .notice 0x900 a)).sendSecure
  else s

/-! ### Error classes of a line (R436) -/

/-- A line of protected state: both versions of weights and state, and the tables (R376, R445). -/
def State.protected_ (s : State) (a : Nat) : Bool :=
  match s.step.job with
  | none => false
  | some j => j.ranges.any (fun r =>
      let within (b : Nat) : Bool := decide (b ≤ a) && decide (a < b + r.size)
      (r.kind == 0 && (within r.base || within (r.base + j.versionStride))) || (r.kind == 3 && within r.base))

def State.ueClass (s : State) (a : Nat) (scrub : Bool) : ErrClass :=
  if s.protected_ a then .restore else if scrub then .notice else .step

/-- A VLT_FAULT bit of class STEP is set and journalled by the die control (R259, R271, R283, R286). -/
def State.vltFault (s : State) (d b a : Nat) : State :=
  (s.orReg (vltBase d + 0xC) (2 ^ b)).report (Err.of .step (0x400 + b) (domMd d 9) 0 a)

/-! ### Lines in HBM (R255, R263 to R267, R269) -/

/-- The controller row and the line slot of a line within its pseudo-channel (R261). -/
def lineRow (li : Nat) : Nat := li / 1024 / 15
def lineSlot (li : Nat) : Nat := li / 1024 % 15

/-- The segment of its controller row, of 256, in which 16-byte part `i` of a line lies: parts 0 to 15 its data, 16 its check bytes
(R255, R270). -/
def partSegment (li i : Nat) : Nat := if i < 16 then 16 * lineSlot li + i else 240 + lineSlot li

/-- Where the repair reserve of a line's controller row stands in `Memories.reserve`. -/
def reserveAt (li : Nat) : Nat := 16 * (1024 * lineRow li + li % 1024)

/-- A 16-byte part of a stored line; a steered segment lies in the repair reserve (R270). -/
def Memories.part (m : Memories) (steer : Option Nat) (li i : Nat) : List Byte :=
  if steer = some (partSegment li i) then m.reserve.bytes (reserveAt li) 16
  else if i < 16 then m.near.bytes (256 * li + 16 * i) 16 else m.check.bytes (16 * li) 16

def Memories.putPart (m : Memories) (steer : Option Nat) (li i : Nat) (bs : List Byte) : Memories :=
  if steer = some (partSegment li i) then { m with reserve := m.reserve.setBytes (reserveAt li) bs }
  else if i < 16 then { m with near := m.near.setBytes (256 * li + 16 * i) bs }
  else { m with check := m.check.setBytes (16 * li) bs }

/-- The 68 symbols of a stored sector, position 67 first. -/
def Memories.codeword (m : Memories) (steer : Option Nat) (li k : Nat) : List Nat :=
  ((List.range 4).flatMap (fun i => m.part steer li (4 * k + i))).map BitVec.toNat ++
    ((((m.part steer li 16).drop (4 * k)).take 4).reverse).map BitVec.toNat

/-- Store a sector with its check bytes. -/
def Memories.putSector (m : Memories) (steer : Option Nat) (li k : Nat) (code : List Nat) : Memories :=
  let bs := code.map (BitVec.ofNat 8)
  let check := m.part steer li 16
  ((List.range 4).foldl (fun m i => m.putPart steer li (4 * k + i) ((bs.drop (16 * i)).take 16)) m).putPart steer li 16
    (check.take (4 * k) ++ (bs.drop 64).reverse ++ check.drop (4 * k + 4))

/-- Store a line with its code; a poisoned line with e0 and e1 of each sector XORed with 1 (R263, R266). -/
def Memories.putLine (m : Memories) (steer : Option Nat) (li : Nat) (v : Line) (poison : Bool) : Memories :=
  (List.range 4).foldl (fun m k =>
    let data := (bytesOfNum 64 (v.toNat / 2 ^ (512 * k))).map BitVec.toNat
    let code := data ++ sectorCheck data
    m.putSector steer li k (if poison then flipSymbol (flipSymbol code 0 1) 1 1 else code)) m

/-- The steered segment of a line's pseudo-channel (R270). -/
def State.steering (s : State) (li : Nat) : Option Nat := Tab.find? (s.die (lineDie li)).steered (lineChan li)

/-- HBM_RD or HBM_WR of a line (R519, R521). -/
def State.hbmTally (s : State) (li : Nat) (write : Bool) : State :=
  (s.count (blkMd (lineDie li)) (if write then 0x19 else 0x18) (lineChan li) 1).units
    (tlyBase + 0x1100 + 8 * lineStack li + 4 * b2n write) 1

/-- A line is written to HBM. -/
def State.hbmWrite (s : State) (li : Nat) (v : Line) (poison : Bool) : State :=
  { s.hbmTally li true with mem := s.mem.putLine (s.steering li) li v poison }

/-- A controller row is recorded as failing (R269). -/
def State.rowFails (s : State) (li : Nat) : State :=
  let d := lineDie li
  let x := (lineChan li, lineRow li)
  if s.rf (hbmBase d + 4) 1 1 = 0 ∨ (s.die d).ppr.contains x = true then s
  else if (s.die d).ppr.length < 16 then s.modDie d (fun m => { m with ppr := m.ppr ++ [x] })
  else (s.orReg (hbmBase d + 0xC) 4).notice (Err.of .notice 0x302 (domMd d (lineStack li % 4)) (lineChan li)
    (addressOf s.mem.qranges (li % 1024) (li / 1024)))

/-- A corrected symbol, by its place in the controller row: its row fails when it recurs (R269). -/
def State.symbolFixed (s : State) (li k pos : Nat) : State :=
  let d := lineDie li
  let x := (2 ^ 18 * lineChan li + lineRow li, (li / 1024 % 15 * 4 + k) * 68 + pos)
  if (s.die d).seen.contains x then s.rowFails li else s.modDie d (fun m => { m with seen := m.seen ++ [x] })

/-- An uncorrectable read is counted, its address captured, its fault set and journalled, its row recorded (R264, R269). -/
def State.hbmUe (s : State) (li a : Nat) (scrub : Bool) : State :=
  let d := lineDie li
  let s1 := s.countRf (hbmBase d + 0x14) 15 0 1
  let s2 := if s1.rf (hbmBase d + 0x18) 0 0 = 1 then s1
    else (s1.setReg (hbmBase d + 0x18) (BitVec.ofNat 32 (a / 256 * 256 + 1))).setReg (hbmBase d + 0x1C)
      (BitVec.ofNat 32 (a / 2 ^ 32))
  (((s2.orReg (hbmBase d + 0xC) 1).report
    (Err.of (s.ueClass a scrub) 0x300 (domMd d (lineStack li % 4)) (lineChan li) a)).copyUe a).rowFails li

/-- The sectors of a line as they return, with the symbols that changed on the way. -/
def State.returned (s : State) (li : Nat) (flips : List Flip) : List (List Nat) :=
  (List.range 4).map (fun k =>
    (flips.filter (fun f => f.sector.val == k)).foldl (fun c f => flipSymbol c f.pos.val f.value.toNat)
      (s.mem.codeword (s.steering li) li k))

/-- Symbols of a stored line come to stand wrong (log 79). -/
def State.hbmUpset (s : State) (li : Nat) (flips : List Flip) : State :=
  let m := (s.returned li flips).zipIdx.foldl (fun (m : Memories) x => m.putSector (s.steering li) li x.2 x.1) s.mem
  if flips.isEmpty then s else { s with mem := m }

/-- A sector with its single wrong symbol corrected. -/
def fixSector (c : List Nat) : List Nat :=
  match sectorOutcome c with
  | .single p v => flipSymbol c p v
  | _ => c

/-- What follows a single-symbol error in sector `k`: the correction is counted and the symbol noted (R264, R269, R441; log 85). -/
def State.sectorFixed (s : State) (li a k pos : Nat) : State :=
  let d := lineDie li
  let s1 := s.countRf (hbmBase d + 0x10) 15 0 1
  (s1.corrected (Err.of .corrected 0x320 (domMd d (lineStack li % 4)) (lineChan li) a)
    (s1.rf (hbmBase d + 0x10) 15 0) 0xFFFF).symbolFixed li k pos

/-- What the controller does with a line that returns (R264): the line, whether it is poisoned, and the state after corrections
and errors. Every sector is corrected on its own, and a line with a corrected sector is written back with the others as they are. -/
def State.hbmCheck (s : State) (li : Nat) (flips : List Flip) (scrub : Bool) : Line × Bool × State :=
  let a := addressOf s.mem.qranges (li % 1024) (li / 1024)
  let codes := s.returned li flips
  let outs := codes.map sectorOutcome
  let fixed := codes.map fixSector
  let v : Line := BitVec.ofNat 2048 (numOfBytes ((fixed.flatMap (fun c => c.take 64)).map (BitVec.ofNat 8)))
  let single (o : SectorRead) : Bool := match o with
    | .single _ _ => true
    | _ => false
  let s1 : State := if outs.any single then
      let m := (fixed.zip outs).zipIdx.foldl (fun (m : Memories) x =>
        if single x.1.2 then m.putSector (s.steering li) li x.2 x.1.1 else m) s.mem
      let t : State := { s with mem := m }
      let t1 := if scrub then t else t.hbmTally li true
      outs.zipIdx.foldl (fun s o =>
        match o.1 with
        | .single p _ => s.sectorFixed li a o.2 p
        | _ => s) t1
    else s
  if outs.contains .bad then (v, true, s1.hbmUe li a scrub) else (v, false, s1)

/-! ### The Vault's ways (R274 to R280) -/

/-- The set of a line (R274). -/
def setOf (li : Nat) : Nat :=
  let l := li / 1024
  (256 * (l % 64) + li % 256) ^^^ (l / 64 % 2 ^ 14) ^^^ (l / 2 ^ 20 % 4)

/-- VLT_STATUS.ENABLED: the Vault serves requests. -/
def State.vltOn (s : State) (d : Nat) : Bool := s.rf (vltBase d + 4) 0 0 == 1

/-- Near-memory requests go through the Vault: it is enabled in NATIVE mode (R275, R284, R548). -/
def State.caching (s : State) (d : Nat) : Bool := s.vltOn d && !s.modeCompat d

/-- Granules that are scratchpad: those of the partitions, or in COMPAT mode every one; its slot must hold a bank (R282 to
R284). -/
def State.isScratch (s : State) (d g : Nat) : Bool :=
  (Tab.find? (s.die d).slots (g / 4)).isSome &&
    (s.modeCompat d || (s.die d).parts.any (fun p => decide (p.first ≤ g) && decide (g < p.first + p.count)))

def MemDie.way? (m : MemDie) (li : Nat) : Option (Nat × VLine) :=
  List.find? (fun (w : Nat × VLine) => w.2.line == li) m.ways

/-- A held line, in a Vault that caches. -/
def State.held? (s : State) (li : Nat) : Option (Nat × VLine) :=
  if s.caching (lineDie li) then (s.die (lineDie li)).way? li else none

def State.setWay (s : State) (d k : Nat) (w : VLine) : State := s.modDie d (fun m => { m with ways := Tab.put m.ways k w })
def State.dropWay (s : State) (d k : Nat) : State := s.modDie d (fun m => { m with ways := Tab.del m.ways k })

/-- A line written into a way becomes the most recently used of its set. -/
def State.touchWay (s : State) (d k : Nat) (w : VLine) : State :=
  let n := (s.die d).clock + 1
  (s.modDie d (fun m => { m with clock := n })).setWay d k { w with age := n }

/-- Ways of a set with their slots. -/
def MemDie.setWays (m : MemDie) (set : Nat) : List (Nat × VLine) :=
  (m.ways.filter (fun w => w.1 / 38 == set)).map (fun w => (w.1 % 38, w.2))

/-- The limit of R277. -/
def State.keepLimit (s : State) (d : Nat) : Nat := min 38 (s.rf (vltBase d + 4) 13 8)

/-- Whether KEEP may be set on a line; a refusal is counted (R277). -/
def State.mayKeep (s : State) (li : Nat) (already : Bool) : Bool × State :=
  let d := lineDie li
  let n := countWhere (fun w => w.2.keep) ((s.die d).setWays (setOf li))
  if already then (true, s)
  else if s.keepLimit d ≤ n then (false, s.count (blkMd d) 0x13 0x1FF 1)
  else (true, s)

/-- The least recently used way of those that pass a test. -/
def oldest (p : VLine → Bool) : List (Nat × VLine) → Option (Nat × VLine)
  | [] => none
  | w :: t =>
    match oldest p t with
    | none => if p w.2 then some w else none
    | some x => if p w.2 && decide (w.2.age ≤ x.2.age) then some w else some x

/-- The victim of an allocation (R276): a slot, and the line that it holds. -/
def State.victim (s : State) (li : Nat) : Option (Nat × Option VLine) :=
  let d := lineDie li
  let set := setOf li
  let ways := (s.die d).setWays set
  let slots := ((s.die d).slots.map (·.1)).filter (fun k => !s.isScratch d (4 * k + set / 4096))
  match slots.find? (fun k => !ways.any (fun w => w.1 == k)) with
  | some k => some (k, none)
  | none =>
    let pick (p : VLine → Bool) : Option (Nat × Option VLine) := (oldest p ways).map (fun w => (w.1, some w.2))
    (pick (fun w => !w.dirty && !w.keep && w.count == 0)).orElse (fun _ =>
      (pick (fun w => w.dirty && !w.keep && w.count == 0)).orElse (fun _ =>
        pick (fun w => !w.keep && decide (0 < w.count))))

/-- The line of a way is written back to HBM; an uncorrectable word keeps its mark as poison (R276, R278, R280). -/
def State.writeBack (s : State) (d : Nat) (w : VLine) : State :=
  (s.count (blkMd d) 0x12 0x1FF 1).hbmWrite w.line w.data (w.poison || w.marks.any (·.2))

/-- Allocate a line; `none` where no way qualifies (R276). -/
def State.allocate (s : State) (w : VLine) : Option State :=
  let d := lineDie w.line
  match s.victim w.line with
  | none => none
  | some (k, old) =>
    let s1 := match old with
      | some v => if v.dirty then s.writeBack d v else s
      | none => s
    some (s1.touchWay d (38 * setOf w.line + k) w)

/-- One word of a Vault bank is corrected as it is read (R280, R441). -/
def State.vaultCorrected (s : State) (d dom bank a : Nat) : State :=
  let s1 := s.countRf (vltBase d + 0x24) 15 0 1
  s1.corrected (Err.of .corrected 0x420 dom bank a) (s1.rf (vltBase d + 0x24) 15 0) 0xFFFF

/-- The domain of a Vault bank (R412). -/
def bankDom (d bank : Nat) : Nat := domMd d (if bank < 20 then 4 else 5)

/-- A way is read: the line, whether it is poisoned, the line as it stays, and the state after corrections and errors (R280). -/
def State.readWay (s : State) (k : Nat) (w : VLine) : Line × Bool × VLine × State :=
  let d := lineDie w.line
  let bank := Tab.read 0 (s.die d).slots (k % 38)
  let a := addressOf s.mem.qranges (w.line % 1024) (w.line / 1024)
  let s1 := (w.marks.filter (fun m => !m.2)).foldl (fun s _ => s.vaultCorrected d (bankDom d bank) bank a) s
  let w1 := { w with marks := w.marks.filter (·.2) }
  if w1.marks.isEmpty then (w.data, w.poison, w1, s1)
  else (w.data, true, w1, (s1.orReg (vltBase d + 0xC) 8).report (Err.of (s1.ueClass a false) 0x403 (bankDom d bank) bank a))

/-- VLT_HIT or VLT_MISS of a request to a Vault that caches (R519). -/
def State.vltTally (s : State) (li : Nat) (hit : Bool) : State :=
  if s.caching (lineDie li) then s.count (blkMd (lineDie li)) (if hit then 0x10 else 0x11) 0x1FF 1 else s

/-- The sum of R175, elementwise; it sets no sticky flag. -/
def addedLine (a b : Line) : Line := lineOf ((addLines (lineWords a) (lineWords b)).map (·.1))

/-! ### What hints do to ways (R275) -/

/-- A held line that is read: the hint acts on its way (R275). -/
def State.readHint (s : State) (h : Hint) (k : Nat) (w : VLine) : State :=
  let d := lineDie w.line
  match h with
  | .stream => s.touchWay d k w
  | .keep => let m := s.mayKeep w.line w.keep; m.2.touchWay d k { w with keep := m.1 }
  | .spend n =>
    let c := if w.count = 0 then n - 1 else w.count - 1
    if c = 0 then (s.dropWay d k).count (blkMd d) 0x14 0x1FF 1 else s.touchWay d k { w with count := c }

/-- A held line that is written (R275). -/
def State.writeHint (s : State) (h : Hint) (k : Nat) (w : VLine) (v : Line) (poison : Bool) : State :=
  let d := lineDie w.line
  let w1 := { w with data := v, dirty := true, poison := poison, marks := [] }
  match h with
  | .stream => s.touchWay d k w1
  | .keep => let m := s.mayKeep w.line w.keep; m.2.touchWay d k { w1 with keep := m.1 }
  | .spend n => s.touchWay d k { w1 with count := n }

/-- What a READ that misses will allocate (R275). -/
def missAlloc : Hint → Fill?
  | .stream => .none
  | .keep => .keep
  | .spend n => if 1 < n then .count (n - 1) else .none

/-- A line that was read for a READ is allocated as its hint asks (R275, R277). -/
def State.fill (s : State) (li : Nat) (v : Line) (poison : Bool) (a : Fill?) : State :=
  let w : VLine :=
    { line := li, data := v, dirty := false, keep := false, count := 0, age := 0, poison := poison, marks := [] }
  if !s.caching (lineDie li) || ((s.die (lineDie li)).way? li).isSome then s
  else
    match a with
    | .none => s
    | .keep => let m := s.mayKeep li false; (m.2.allocate { w with keep := m.1 }).getD m.2
    | .count n => (s.allocate { w with count := n }).getD s

/-- A WRITE of a line that is not held (R275); where no way qualifies it goes as STREAM (R276). -/
def State.missWrite (s : State) (h : Hint) (li : Nat) (v : Line) (poison : Bool) : State :=
  let w : VLine :=
    { line := li, data := v, dirty := true, keep := false, count := 0, age := 0, poison := poison, marks := [] }
  let direct (s : State) : State := s.hbmWrite li v poison
  if !s.caching (lineDie li) then direct s
  else
    match h with
    | .stream => direct s
    | .keep => let m := s.mayKeep li false; (m.2.allocate { w with keep := m.1 }).getD (direct m.2)
    | .spend n => (s.allocate { w with count := n }).getD (direct s)

/-! ### Scratchpad (R282 to R284, R266, R280) -/

/-- Whether scratchpad serves a granule: the Vault is enabled and a partition, or COMPAT mode, holds it (R259, R283). -/
def State.scratchUp (s : State) (d g : Nat) : Bool := s.vltOn d && s.isScratch d g

/-- The partition identifier of a granule, which the Journal shows (R367); 0 where no partition holds it. -/
def MemDie.partId (m : MemDie) (g : Nat) : Nat :=
  ((m.parts.find? (fun p => decide (p.first ≤ g) && decide (g < p.first + p.count))).map (·.id)).getD 0

def scratchWords (t : Tab Bool) (a : Nat) (ue : Bool) : List Nat :=
  (t.filter (fun m => decide (a / 8 ≤ m.1) && decide (m.1 < a / 8 + 32) && m.2 == ue)).map (·.1)

/-- A scratchpad line is read. -/
def State.scratchRead (s : State) (d g o a : Nat) : Line × Bool × State :=
  let m := s.die d
  let x := 2 ^ 20 * g + o / 256 * 256
  let bank := Tab.read 0 m.slots (g / 4)
  let s1 := (scratchWords m.scratchMarks x false).foldl (fun s w =>
    (s.modDie d (fun m => { m with scratchMarks := Tab.del m.scratchMarks w })).vaultCorrected d (bankDom d bank) bank a) s
  let v := m.scratch.line x
  if (scratchWords m.scratchMarks x true).isEmpty then (v, m.scratchPoison.contains (x / 256), s1)
  else (v, true, (s1.orReg (vltBase d + 0xC) 8).report (Err.of (s.ueClass a false) 0x403 (bankDom d bank) bank a (m.partId g)))

/-- A scratchpad line is written. -/
def State.scratchWrite (s : State) (d g o : Nat) (v : Line) (poison : Bool) : State :=
  let x := 2 ^ 20 * g + o / 256 * 256
  s.modDie d (fun m =>
    let rest := m.scratchPoison.filter (fun y => y != x / 256)
    { m with scratch := m.scratch.setLine x v,
             scratchMarks := m.scratchMarks.filter (fun t => !(decide (x / 8 ≤ t.1) && decide (t.1 < x / 8 + 32))),
             scratchPoison := if poison then rest ++ [x / 256] else rest })

/-- A bit error comes to stand in word `word` of 524,288 of a Vault bank (R280, log 79): in the line that the bank holds there, or in
scratchpad; two in one word are uncorrectable. A bank that fills no slot, and a way that holds no line, have nothing to lose. -/
def State.bankUpset (s : State) (d bank word : Nat) (double : Bool) : State :=
  let line := word / 32
  match List.find? (fun (x : Nat × Nat) => x.2 == bank) (s.die d).slots with
  | none => s
  | some (k, _) =>
    let put (t : Tab Bool) (w : Nat) : Tab Bool := Tab.put t w (double || (Tab.find? t w).isSome)
    let g := 4 * k + line / 4096
    if s.isScratch d g then
      s.modDie d (fun m => { m with scratchMarks := put m.scratchMarks (2 ^ 17 * g + line % 4096 * 32 + word % 32) })
    else s.modDie d (fun m => { m with ways := m.ways.map (fun w =>
      if w.1 = 38 * line + k then (w.1, { w.2 with marks := put w.2.marks (word % 32) }) else w) })

/-! ### Expansion tier (R285 to R287) -/

/-- Bytes that the tier holds: the populated ports (R286). -/
def State.tierBytes (s : State) : Nat := 2 ^ 30 * (s.mem.cxl.foldl (· + ·) 0)

/-- The port that holds a GiB of the tier, over the populated ports one after another (R286). -/
def portWithin : List (Nat × Nat) → Nat → Option Nat
  | [], _ => none
  | (p, c) :: t, g => if g < c then some p else portWithin t (g - c)

/-- The port of a tier offset: interleaved at 4 KiB over four equal ports, otherwise the populated ports one after another; none
beyond the populated capacity (R286). -/
def State.tierPort? (s : State) (o : Nat) : Option Nat :=
  match s.mem.cxl with
  | [a, b, c, d] =>
    if a = b ∧ b = c ∧ c = d then (if o / 2 ^ 30 < 4 * a then some (o / 4096 % 4) else none)
    else portWithin [(0, a), (1, b), (2, c), (3, d)] (o / 2 ^ 30)
  | l => portWithin (l.zipIdx.map (fun x => (x.2, x.1))) (o / 2 ^ 30)

/-- CXL_RD or CXL_WR of lines (R520, R521). -/
def State.cxlTally (s : State) (port n : Nat) (write : Bool) : State :=
  (s.count (blkXd (port / 2)) (if write then 0x21 else 0x20) port n).units (tlyBase + 0x1200 + 8 * port + 4 * b2n write) n

/-- A tier line is read, whole or poisoned. -/
def State.tierLine (s : State) (o : Nat) : Line × Bool :=
  (s.mem.tier.line (o / 256 * 256), s.mem.tierPoison.contains (o / 256))

/-- A tier line is written. -/
def State.tierPut (s : State) (o : Nat) (v : Line) (poison : Bool) : State :=
  let rest := s.mem.tierPoison.filter (fun y => y != o / 256)
  let p := if poison then rest ++ [o / 256] else rest
  { s with mem := { s.mem with tier := s.mem.tier.setLine (o / 256 * 256) v, tierPoison := p } }

/-- A tier line reads poisoned from now on: the device has poisoned a read of it (R285). -/
def State.tierSpoil (s : State) (o : Nat) : State :=
  { s with mem := { s.mem with tierPoison := s.mem.tierPoison.filter (fun y => y != o / 256) ++ [o / 256] } }

/-! ### Where a line that is read goes (R108, R131, R137, R172) -/

/-- A line leaves for a core store and arrives there at an edge; its read has one line less to come. -/
def State.toStore (s : State) (d p a op : Nat) (v : Line) (poison : Bool) (due : Nat) : State :=
  s.modCore d p (fun c =>
    { c with arriving := arrive { due := due, addr := a, data := bytesOfNum 256 v.toNat, poison := poison } c.arriving,
             ops := c.ops.map (fun x =>
               if x.id = op then { x with remaining := x.remaining - 1, last := max x.last due } else x) })

/-- A tile of 128 × 128 elements with scales along i, re-blocked with scales along o (R172): its bytes, and the flags. -/
def reblockTile (f : Fmt) (v : Nat) : Nat × Nat :=
  let rb := 16 * f.width
  let scale (i c : Nat) : Nat := v / 2 ^ (8 * (128 * rb + 128 * (i / 32) + c)) % 256
  let rows := (List.range 128).map (fun i =>
    let wide := (elements (v / 2 ^ (8 * (i * rb)) % 2 ^ (8 * rb)) f.width 128).zipIdx.map (fun (e : Nat × Nat) =>
      widenF32 f e.1 (some (scale i e.2)))
    let blocks := (chunks32 4 (wide.map (·.1))).map (fun b => narrowBlock f (fun _ => .rne) (b.map Fmt.fp32.decode))
    (blocks, orFlags wide))
  let codes := rows.map (fun r => packElements f.width (r.1.flatMap (fun b => b.2.1)))
  let scales := (List.range 4).flatMap (fun o => rows.map (fun r => ((r.1[o]?).map (·.1)).getD 0x80))
  let flags := rows.foldl (fun m r => r.1.foldl (fun m b => m ||| b.2.2) (m ||| r.2)) 0
  (packElements (8 * rb) codes + 2 ^ (8 * 128 * rb) * packElements 8 scales, flags)

/-- A line of a tile leaves for an injection and arrives there at an edge; with the last, a tile to be re-blocked passes the converter
(R172, R279, R341). DESIGN CHOICE (log 96): RBFMT is the format of the stored tile as well as of the re-blocked one, as INJECT names no
other; InjectI.needs has refused an RBFMT without KFS scales. -/
def Inj.take (x : Inj) (index : Nat) (v : Line) (poison : Bool) (due : Nat) (convert : Nat) : Inj × Nat :=
  let arrived := Tab.put x.arrived index (v, poison)
  let dueAt := Tab.put x.dueAt index due
  match x.reblock.bind fmtOfCode with
  | none => ({ x with arrived := arrived, dueAt := dueAt }, 0)
  | some f =>
    if arrived.length < x.lines ∨ f.scalable = false then ({ x with arrived := arrived, dueAt := dueAt }, 0)
    else
      let r := reblockTile f (packElements 2048 (arrived.map (fun a => a.2.1.toNat)))
      let ready := dueAt.foldl (fun m a => max m a.2) 0 + convert
      ({ x with arrived := arrived.map (fun a => (a.1, (BitVec.ofNat 2048 (r.1 / 2 ^ (2048 * a.1)), a.2.2))),
                dueAt := dueAt.map (fun a => (a.1, ready)) }, r.2)

/-- Whether the line is the one that starts a re-blocking. -/
def Inj.converts (x : Inj) (index : Nat) : Bool :=
  x.reblock.isSome && !(x.arrived.any (fun a => a.1 == index)) && decide (x.lines ≤ x.arrived.length + 1)

/-- A line reaches every injection of its read: the tile's own and its copies at other dies (R131, R137). The re-block flags enter the
flag word of each die whose lines the tile holds (R81; log 86). -/
def State.toTiles (s : State) (j group index : Nat) (v : Line) (poison : Bool) (due : Nat) : State :=
  let all := (List.range 4).flatMap (fun d => (s.station d j).injQ ++ (s.station d j).mcast)
  let s1 := (List.range 4).foldl (fun t d => t.modStation d j (fun t =>
    let f (x : Inj) : Inj := if x.group = group then (x.take index v poison due s.convert).1 else x
    { t with injQ := t.injQ.map f, mcast := t.mcast.map f })) s
  match all.find? (fun x => x.group == group && x.converts index) with
  | none => s1
  | some x =>
    let dies := ((List.range x.lines).map (fun i => s.homeDie (x.addr + 256 * i))).dedup
    let flags := (x.take index v poison due s.convert).2
    dies.foldl (fun t d =>
      let n := countWhere (fun i => s.homeDie (x.addr + 256 * i) == d) (List.range x.lines)
      (t.orReg (vltBase d + 0x10) flags).count (blkMd d) 0x30 0x1FF n) s1

/-- A line that was read is delivered, and arrives at an edge. -/
def State.deliver (s : State) (t : Dest) (v : Line) (poison : Bool) (due : Nat) : State :=
  match t with
  | .none => s
  | .store d p a op => s.toStore d p a op v poison due
  | .tile _ j g i => s.toTiles j g i v poison due

end Sys2Proof.Machine
end

