-- ==== Sys2Proof/Machine/Vault.lean ====
section
/-! DEFINITION. Line requests at their home die (R271 to R278, R548), HBM reads, refresh and scrub (R257, R264, R267), the HBM
and Vault enables (R262, R283, R284, R294), and the expansion tier (R285 to R287). -/

namespace Sys2Proof.Machine

/-! ### The request that a command serves (R271, R272) -/

def Where.isTier : Where → Bool
  | .tier _ => true
  | _ => false

/-- Requests at the dies that are served by commands of their own: READ and WRITE of tier addresses. -/
def State.tierReq (s : State) (q : LineReq) : Bool :=
  (q.kind == .read || q.kind == .write) && (s.where_ q.addr).isTier

/-- The bridge by which a request arrives: that of its requester's compute die (R272). -/
def reqDie : Requester → Nat
  | .core d _ => d.val
  | .station d _ => d.val

/-- The edge at which a request reaches the memory-side dies (R341). -/
def State.arrival (s : State) (q : LineReq) : Nat := q.leave + s.bridge

/-- A request reaches the home die of its line before another: in an earlier edge, or in the same one by an earlier bridge
(R272). -/
def LineReq.before (x q : LineReq) : Bool :=
  decide (x.leave < q.leave) || (x.leave == q.leave && decide (reqDie x.src < reqDie q.src))

/-- Whether request `i` of a list is the first of its line to arrive; of those of one edge and bridge, the one that was issued
first. -/
def firstOfLine (l : List LineReq) (i : Nat) (q : LineReq) : Bool :=
  l.zipIdx.all (fun (x : LineReq × Nat) =>
    x.2 == i || x.1.addr != q.addr || (!x.1.before q && (q.before x.1 || decide (i < x.2))))

/-- A requester's oldest request of a kind with no earlier request to its line, and the requests without it. -/
def State.takeReq (s : State) (r : Requester) (k : LineKind) (tier : Bool) : Option (LineReq × List LineReq) :=
  let mine (q : LineReq) : Bool := q.src == r && q.kind == k && s.tierReq q == tier
  match s.mem.reqs.findIdx? mine with
  | none => none
  | some i =>
    match s.mem.reqs[i]? with
    | none => none
    | some q => if firstOfLine s.mem.reqs i q then some (q, s.mem.reqs.eraseIdx i) else none

/-! ### Near-memory requests (R275, R548) -/

/-- The edge at which a line that the Vault serves reaches its requester (R273, R341). -/
def State.hitDue (s : State) (q : LineReq) : Nat := max s.edge (q.leave + s.vaultHit)

/-- A READ of a held line (R275). -/
def State.hitRead (s : State) (q : LineReq) (k : Nat) (w : VLine) : State :=
  let r := s.readWay k w
  (r.2.2.2.readHint q.hint k r.2.2.1).deliver q.dest r.1 r.2.1 (s.hitDue q)

/-- An ADD of a held line (R175, R275). -/
def State.hitAdd (s : State) (q : LineReq) (k : Nat) (w : VLine) : State :=
  let r := s.readWay k w
  r.2.2.2.writeHint .stream k w (addedLine r.1 q.data) (r.2.1 || q.poison)

/-- A READ_CLEAR of a held line (R275). -/
def State.hitReadClear (s : State) (q : LineReq) (k : Nat) (w : VLine) : State :=
  let r := s.readWay k w
  (r.2.2.2.writeHint .stream k w 0 false).deliver q.dest r.1 r.2.1 (s.hitDue q)

/-- A request for a held line. -/
def State.hit (s : State) (q : LineReq) (k : Nat) (w : VLine) : State :=
  match q.kind with
  | .read => s.hitRead q k w
  | .write => s.writeHint q.hint k w q.data q.poison
  | .add => s.hitAdd q k w
  | .readClear => s.hitReadClear q k w
  | .release => s.setWay (lineDie w.line) k { w with keep := false }

/-- Requests in a pseudo-channel's queue (R271). -/
def State.channelLoad (s : State) (li : Nat) : Nat :=
  countWhere (fun x => x.channel == lineChan li) (s.die (lineDie li)).queue

/-- The HBM line that a WRITE of a line not held writes at once: itself, or a dirty victim (R275, R276). -/
def State.missWrites (s : State) (h : Hint) (li : Nat) : Option Nat :=
  if !s.caching (lineDie li) || h == .stream then some li
  else
    match s.victim li with
    | none => some li
    | some (_, some v) => if v.dirty then some v.line else none
    | some (_, none) => none

/-- A request for a line that is not held: `none` where its pseudo-channel's queue of 128 is full (R271). -/
def State.miss (s : State) (q : LineReq) (li : Nat) : Option State :=
  let d := lineDie li
  let queued (a : Fill?) : Option State :=
    if 128 ≤ s.channelLoad li then none
    else some (s.modDie d (fun m => { m with queue := m.queue ++ [{ req := q, channel := lineChan li, alloc := a }] }))
  match q.kind with
  | .read => queued (if s.caching d then missAlloc q.hint else .none)
  | .write =>
    if (s.missWrites q.hint li).any (fun x => decide (128 ≤ s.channelLoad x)) then none
    else some (s.missWrite q.hint li q.data q.poison)
  | .add | .readClear => queued .none
  | .release => some s

/-- A near-memory request at its home die: `none` where it waits, for HBM_CTL.ENABLE, for an HBM read of its line, or for room
(R271, R272, R548). -/
def State.serveNear (s : State) (q : LineReq) (li : Nat) : Option State :=
  let d := lineDie li
  if !s.hbmOn d then none
  else if (s.die d).queue.any (fun x => s.where_ x.req.addr == .near li) then none
  else
    let tally (hit : Bool) : State := if q.kind = .release then s else s.vltTally li hit
    match s.held? li with
    | some (k, w) => some ((tally true).hit q k w)
    | none => (tally false).miss q li

/-- A request to scratchpad (R271, R282, R283). An ADD or a READ_CLEAR is of a kind that scratchpad does not serve: that fault alone is
set, whether the granule is in service or not (DESIGN CHOICE, log 87). -/
def State.serveScratch (s : State) (q : LineReq) (d g o : Nat) : State :=
  match q.kind with
  | .read =>
    if s.scratchUp d g then (let r := s.scratchRead d g o q.addr; r.2.2.deliver q.dest r.1 r.2.1 (s.hitDue q))
    else (s.vltFault d 2 q.addr).deliver q.dest 0 true (s.hitDue q)
  | .write => if s.scratchUp d g then s.scratchWrite d g o q.data q.poison else s.vltFault d 2 q.addr
  | .add => s.vltFault d 7 q.addr
  | .readClear => (s.vltFault d 7 q.addr).deliver q.dest 0 true (s.hitDue q)
  | .release => s

/-- A request that no unit performs sets a fault; a read delivers a poisoned line (R259, R271, R286). -/
def State.refuse (s : State) (q : LineReq) (b : Nat) : State :=
  let s1 := s.vltFault (s.homeDie q.addr) b q.addr
  if q.kind = .read ∨ q.kind = .readClear then s1.deliver q.dest 0 true (s.hitDue q) else s1

/-- A request other than a tier READ or WRITE is served, or waits. -/
def State.serve (s : State) (q : LineReq) : Option State :=
  match s.where_ q.addr with
  | .near li => s.serveNear q li
  | .scratch d g o => some (s.serveScratch q d g o)
  | .tier _ => some (if q.kind = .release then s else s.refuse q 7)
  | .unmapped => some (s.refuse q 4)

/-- A requester's oldest request of a kind is served, at the edge of its arrival or later. -/
def State.vaultRow (s : State) (r : Requester) (k : LineKind) : State :=
  if !s.alive then s
  else
    match s.takeReq r k false with
    | none => s
    | some (q, rest) =>
      let t := s.at (s.arrival q)
      (({ t with mem := { t.mem with reqs := rest } } : State).serve q).getD s

/-- VAULT_READ (R275): bit errors that have arisen in words of the Vault's banks first come to stand there (R280, log 79). -/
def execVaultRead (r : Requester) (s : State) (upsets : List (Fin 4 × Fin 40 × Fin 524288 × Bool) := []) : Out :=
  .next ((upsets.foldl (fun s x => s.bankUpset x.1.val x.2.1.val x.2.2.1.val x.2.2.2) s).vaultRow r .read)

/-- VAULT_WRITE (R275). -/
def execVaultWrite (r : Requester) (s : State) : Out := .next (s.vaultRow r .write)

/-- VAULT_ADD (R175, R275). -/
def execVaultAdd (r : Requester) (s : State) : Out := .next (s.vaultRow r .add)

/-- VAULT_READ_CLEAR (R275). -/
def execVaultReadClear (r : Requester) (s : State) : Out := .next (s.vaultRow r .readClear)

/-- VAULT_RELEASE (R275, R277). -/
def execVaultRelease (r : Requester) (s : State) : Out := .next (s.vaultRow r .release)

/-! ### HBM reads, refresh and scrub (R257, R264, R267) -/

/-- An HBM read returns: the line is checked, and its request completes; it crosses the bridge to its requester. -/
def State.hbmReturn (s : State) (x : HbmRead) (flips : List Flip) : State :=
  match s.where_ x.req.addr with
  | .near li =>
    let r := (s.hbmTally li false).hbmCheck li flips false
    let due := s.edge + s.bridge
    match x.req.kind with
    | .add => r.2.2.hbmWrite li (addedLine r.1 x.req.data) (r.2.1 || x.req.poison)
    | .readClear => (r.2.2.hbmWrite li 0 false).deliver x.req.dest r.1 r.2.1 due
    | _ => (r.2.2.fill li r.1 r.2.1 x.alloc).deliver x.req.dest r.1 r.2.1 due
  | _ => s

/-- A read leaves its pseudo-channel's queue and returns. -/
def State.hbmNext (s : State) (d : Nat) (x : HbmRead) (flips : List Flip) : State :=
  (s.modDie d (fun m => { m with queue := m.queue.erase x })).hbmReturn x flips

/-- HBM_READ_COMPLETE (R264): the oldest read of a pseudo-channel. -/
def execHbmReadComplete (die : Fin 4) (channel : Fin 256) (flips : List Flip) (s : State) : Out :=
  let d := die.val
  match (s.die d).queue.find? (fun x => x.channel == channel.val) with
  | none => .next s
  | some x => if !s.alive || !s.hbmOn d then .next s else .next (s.hbmNext d x flips)

/-- HBM_REFRESH (R257): the banks of a pseudo-channel are refreshed; the wait it costs is timing. Symbols of its lines that have come to
stand wrong are named here (log 79). -/
def execHbmRefresh (die : Fin 4) (channel : Fin 256) (s : State) (upsets : List (BitVec 22 × Flip) := []) : Out :=
  let d := die.val
  .next (if s.power.phase = .on then
      let s1 := upsets.foldl (fun s x =>
        if x.1.toNat < 3932160 then s.hbmUpset (lineIndex (256 * d + channel.val) x.1.toNat) [x.2] else s) s
      s1.modDie d (fun m => { m with refreshed := Tab.put m.refreshed channel.val s.edge })
    else s)

/-- SCRUB_READ (R267, R278): a line slot is read, unless scrub is off or a request for the line is pending. -/
def execScrubRead (die : Fin 4) (channel : Fin 256) (line : BitVec 22) (flips : List Flip) (s : State) : Out :=
  let d := die.val
  let li := lineIndex (256 * d + channel.val) line.toNat
  if !s.alive || !s.hbmOn d || s.rf (hbmBase d + 4) 31 24 == 0 || decide (3932160 ≤ line.toNat) ||
      (s.die d).queue.any (fun x => s.where_ x.req.addr == .near li) then .next s
  else .next ((s.count (blkMd d) 0x1D (lineStack li % 4) 1).hbmCheck li flips true).2.2

/-! ### The expansion tier (R285 to R287) -/

/-- A tier request at its die goes to its port, and the requests that remain; `none` where it waits behind an earlier WRITE to its
line, or at a port that is lost (R287). Beyond the populated capacity it is refused (R286). -/
def State.toPort (s : State) (q : LineReq) (rest : List LineReq) : Option State :=
  let s1 : State := { s with mem := { s.mem with reqs := rest } }
  match s.tierPort? (q.addr % 2 ^ 44) with
  | none => some (s1.refuse q 5)
  | some p =>
    if s.mem.xtLost.contains p || s.mem.xt.any (fun x => x.req.kind == .write && x.req.addr == q.addr) then none
    else some { s1 with mem := { s1.mem with xt := s1.mem.xt ++ [{ req := q, port := p, order := s1.nextId }] }, nextId := s1.nextId + 1 }

/-- A requester's oldest tier request of a kind is issued to its port, at the edge of its arrival at its die or later. -/
def State.xtRow (s : State) (r : Requester) (k : LineKind) : State :=
  if !s.alive then s
  else
    match s.takeReq r k true with
    | none => s
    | some (q, rest) => ((s.at (s.arrival q)).toPort q rest).getD s

/-- XT_READ (R287). -/
def execXtRead (r : Requester) (s : State) : Out := .next (s.xtRow r .read)

/-- XT_WRITE (R287). -/
def execXtWrite (r : Requester) (s : State) : Out := .next (s.xtRow r .write)

/-- A tier request completes; a read crosses two bridges to its requester. A line that the device poisons stays poisoned (R285). -/
def State.xtDone (s : State) (x : XtReq) (poison : Bool) : State :=
  let s1 : State := { s with mem := { s.mem with xt := s.mem.xt.erase x } }
  let o := x.req.addr % 2 ^ 44
  if x.req.kind = .write then (s1.cxlTally x.port 1 true).tierPut o x.req.data x.req.poison
  else
    let s2 : State := if poison then s1.tierSpoil o else s1
    let v := s2.tierLine o
    (s2.cxlTally x.port 1 false).deliver x.req.dest v.1 v.2 (s.edge + 2 * s.bridge)

/-- A page transfer that reached a port before a request is served there first (R42). -/
def State.behindPage (s : State) (x : XtReq) : Bool :=
  (List.range 4).any (fun d => (s.slice d).moves.any (fun m => m.ports.contains x.port && decide (m.order < x.order)))

/-- XT_COMPLETION (R42, R287): the oldest request of a port completes, unless a page transfer is before it; a read that the device
poisons is delivered poisoned (R285). -/
def execXtCompletion (port : Fin 4) (poison : Bool) (s : State) : Out :=
  match s.mem.xt.find? (fun x => x.port == port.val) with
  | none => .next s
  | some x => if !s.alive || s.mem.xtLost.contains port.val || s.behindPage x then .next s else .next (s.xtDone x poison)

/-- The domain that holds a CXL port (R412). -/
def cxlDomain (p : Nat) : Nat := if p < 2 then domXd 0 13 else if p = 2 then domXd 1 12 else domXd 1 13

/-- CXL_PORT_LOST (R287, R37): a populated port is lost, and the package leaves the job. -/
def execCxlPortLost (port : Fin 4) (s : State) : Out :=
  let p := port.val
  .next (if s.alive && decide (0 < s.mem.cxl.getD p 0) && !s.mem.xtLost.contains p then
      ({ s with mem := { s.mem with xtLost := s.mem.xtLost ++ [p] } } : State).report (Err.of .depart 0x423 (cxlDomain p) p)
    else s)

/-! ### Lines for agents other than cores and stations: the Teller, the Depository, the Ledger and the host path

Their lines are served within the commands of their units (log 3): each takes its place behind the requests for its line that have
reached the home die (R272, R287), finds room in the queue of its pseudo-channel (R271), and is admitted under R334. -/

/-- The first pending request for a line that has reached the dies. -/
def State.firstAt (s : State) (a : Nat) : Option (LineReq × List LineReq) :=
  match s.mem.reqs.zipIdx.find? (fun x => x.1.addr == a && decide (s.arrival x.1 ≤ s.edge) && firstOfLine s.mem.reqs x.2 x.1) with
  | none => none
  | some x => some (x.1, s.mem.reqs.eraseIdx x.2)

/-- A full pseudo-channel queue has its oldest read return first (R271). -/
def State.makeRoom (s : State) (li : Nat) : State :=
  if s.channelLoad li < 128 then s
  else
    match (s.die (lineDie li)).queue.find? (fun x => x.channel == lineChan li) with
    | some x => s.hbmNext (lineDie li) x []
    | none => s

/-- One pending request for a line moves on: its HBM read returns, its tier request completes, or it is served at its die. -/
def State.settleStep (s : State) (a : Nat) : State :=
  match (s.die (s.homeDie a)).queue.find? (fun x => x.req.addr == a) with
  | some x => s.hbmNext (s.homeDie a) x []
  | none =>
    match s.mem.xt.find? (fun x => x.req.addr == a) with
    | some x => s.xtDone x false
    | none =>
      match s.firstAt a with
      | none => s
      | some (q, rest) =>
        if s.tierReq q then (s.toPort q rest).getD s
        else
          let t := match s.where_ a with
            | .near li => s.makeRoom li
            | _ => s
          (({ t with mem := { t.mem with reqs := rest } } : State).serve q).getD s

/-- The requests for a line that have reached its die complete, in their order (R272, R287). -/
def State.settleLine (s : State) (a : Nat) : State :=
  (List.range (2 * countWhere (fun q => q.addr == a) s.allReqs)).foldl (fun s _ => s.settleStep a) s

/-- 128 line times of R334, 1,092.3 ns, in edges of the operating point in force. -/
def State.bgWindow (s : State) : Nat :=
  let p := (s.domain (domXd 0 15)).opIndex
  if p = 0 then 765 else if p = 1 then 929 else 1093

/-- A line of unscheduled traffic enters its pseudo-channel's queue: at most BG_LINES of them in any window of 128 line times, and it
waits in its requester until the window has room (R334, R519). -/
def State.windowIn (s : State) (li : Nat) : State :=
  match s.step.job with
  | none => s
  | some j =>
    let d := lineDie li
    let w := s.bgWindow
    let recent := (Tab.read [] (s.die d).admitted (lineChan li)).filter (fun e => decide (s.edge < e + w))
    let e := if recent.length < j.bgLines then s.edge else recent.getD (recent.length - j.bgLines) s.edge + w
    let s1 := s.at e
    (if s.edge < e then s1.count (blkMd d) 0x1C (lineChan li) (e - s.edge) else s1).modDie d (fun m =>
      { m with admitted := Tab.write [] m.admitted (lineChan li) (recent.filter (fun x => decide (e < x + w)) ++ [e]) })

/-- Units other than cores and stations reach near memory: every controller is enabled, and a loaded job admits unscheduled lines
(R334, R548). -/
def State.memFree (s : State) : Bool := s.memUp && s.step.job.all (fun j => decide (0 < j.bgLines))

/-- A line of HBM is used by such a unit: it finds room, and is admitted. -/
def State.enter (s : State) (li : Nat) : State := (s.makeRoom li).windowIn li

/-- A READ of one line, at once: the line and whether it is poisoned. -/
def State.readLine (s0 : State) (a : Nat) (h : Hint := .stream) : Line × Bool × State :=
  let s := s0.settleLine a
  match s.where_ a with
  | .near li =>
    match s.held? li with
    | some (k, w) =>
      let r := (s.vltTally li true).readWay k w
      (r.1, r.2.1, r.2.2.2.readHint h k r.2.2.1)
    | none =>
      let r := (((s.enter li).vltTally li false).hbmTally li false).hbmCheck li [] false
      (r.1, r.2.1, r.2.2.fill li r.1 r.2.1 (missAlloc h))
  | .scratch d g o =>
    if s.scratchUp d g then s.scratchRead d g o a else (0, true, s.vltFault d 2 a)
  | .tier o =>
    match s.tierPort? o with
    | some p => let r := s.tierLine o; (r.1, r.2, s.cxlTally p 1 false)
    | none => (0, true, s.vltFault (s.homeDie a) 5 a)
  | .unmapped => (0, true, s.vltFault (s.homeDie a) 4 a)

/-- A WRITE of one line, at once. -/
def State.writeLine (s0 : State) (a : Nat) (v : Line) (poison : Bool) (h : Hint := .stream) : State :=
  let s := s0.settleLine a
  match s.where_ a with
  | .near li =>
    match s.held? li with
    | some (k, w) => (s.vltTally li true).writeHint h k w v poison
    | none => ((s.enter li).vltTally li false).missWrite h li v poison
  | .scratch d g o => if s.scratchUp d g then s.scratchWrite d g o v poison else s.vltFault d 2 a
  | .tier o =>
    match s.tierPort? o with
    | some p => (s.cxlTally p 1 true).tierPut o v poison
    | none => s.vltFault (s.homeDie a) 5 a
  | .unmapped => s.vltFault (s.homeDie a) 4 a

/-- Whether an address serves ADD and READ_CLEAR (R271). -/
def Where.isNear : Where → Bool
  | .near _ => true
  | _ => false

/-- A kind that an address does not serve (R271): scratchpad and tier addresses set KIND_UNSUPPORTED, others ADDR_UNMAPPED. -/
def State.kindFault (s : State) (a : Nat) : State :=
  match s.where_ a with
  | .unmapped => s.vltFault (s.homeDie a) 4 a
  | _ => s.vltFault (s.homeDie a) 7 a

/-- An ADD of one line, at once (R175). -/
def State.addLine (s : State) (a : Nat) (v : Line) (poison : Bool) : State :=
  if (s.where_ a).isNear then
    let r := s.readLine a
    r.2.2.writeLine a (addedLine r.1 v) (r.2.1 || poison)
  else s.kindFault a

/-- A READ_CLEAR of one line, at once (R208). -/
def State.readClearLine (s : State) (a : Nat) : Line × Bool × State :=
  if (s.where_ a).isNear then
    let r := s.readLine a
    (r.1, r.2.1, r.2.2.writeLine a 0 false)
  else (0, true, s.kindFault a)

/-- Consecutive lines from an address, each with its poison. -/
def State.readLines (s : State) (h : Hint) (a : Nat) : Nat → List (Line × Bool) × State
  | 0 => ([], s)
  | n + 1 =>
    let r := s.readLine a h
    let t := r.2.2.readLines h (a + 256) n
    ((r.1, r.2.1) :: t.1, t.2)

/-- The number that lines spell, little-endian, and whether one of them is poisoned. -/
def linesNum (l : List (Line × Bool)) : Nat := packElements 2048 (l.map (fun x => x.1.toNat))
def linesBad (l : List (Line × Bool)) : Bool := l.any (·.2)

/-- `n` bytes from an address, read in lines: the number they spell, whether any line is poisoned. -/
def State.readBytes (s : State) (a n : Nat) : Nat × Bool × State :=
  let r := s.readLines .stream (a / 256 * 256) ((a % 256 + n + 255) / 256)
  (linesNum r.1 / 2 ^ (8 * (a % 256)) % 2 ^ (8 * n), linesBad r.1, r.2)

/-- Bytes written from an address, a line at a time; a line that is written in part is read first. -/
def State.writeBytes (s : State) (h : Hint) (a : Nat) (bs : List Byte) : Nat → State
  | 0 => s
  | f + 1 =>
    if bs.isEmpty then s
    else
      let o := a % 256
      let here := bs.take (256 - o)
      let n := here.length
      let old : Line × Bool × State := if n = 256 then (0, false, s) else s.readLine (a - o) h
      let v := setBits old.1.toNat (8 * (o + n) - 1) (8 * o) (numOfBytes here)
      (old.2.2.writeLine (a - o) (BitVec.ofNat 2048 v) old.2.1 h).writeBytes h (a + n) (bs.drop n) f

/-- Bytes written from an address. -/
def State.putBytes (s : State) (a : Nat) (bs : List Byte) (h : Hint := .stream) : State :=
  s.writeBytes h a bs (bs.length / 256 + 2)

/-! ### HBM_CTL (R262, R289, R291) -/

/-- The enabled QUADRANT ranges of MD0's registers. -/
def State.qrangeRegs (s : State) : List (Nat × Nat) :=
  (List.range 4).filterMap (fun q =>
    let o := hbmBase 0 + 0x40 + 4 * q
    if s.rf o 31 31 = 1 then some (s.rf o 7 0, s.rf o 15 8) else none)

def qrangesMeet : List (Nat × Nat) → Bool
  | [] => false
  | q :: t => t.any (fun x => decide (q.1 < x.1 + x.2) && decide (x.1 < q.1 + q.2)) || qrangesMeet t

/-- A setting that R262 refuses. -/
def qrangesBad (qs : List (Nat × Nat)) : Bool :=
  qs.any (fun q => q.2 == 0 || decide (240 < q.1 + q.2)) || qrangesMeet qs

def MemCount.reg (d : Nat) : MemCount → Nat
  | .hbmCe => hbmBase d + 0x10
  | .hbmUe => hbmBase d + 0x14
  | .vltCe => vltBase d + 0x24

/-- HBM_CE_CLR (R291). -/
def execHbmCeClr (by_ : Writer) (die : Fin 4) (which : MemCount) (s : State) : Out :=
  .next (s.gate by_ true (MemCount.reg die.val which) (fun s => s.clearRf (MemCount.reg die.val which) 15 0))

/-! ### VLT_CTL (R277, R282 to R284, R294) -/

/-- A partition record (R367): version, die, first granule, count, identifier. -/
structure PartRecord where
  version : Nat
  die : Nat
  first : Nat
  count : Nat
  id : Nat
  deriving DecidableEq, Repr

def decPart (w : Nat) : PartRecord :=
  { version := bits w 7 0, die := bits w 15 8, first := bits w 23 16, count := bits w 31 24, id := bits w 47 32 }

/-- A record fails the check of a die (R283). -/
def PartRecord.bad (x : PartRecord) (m : MemDie) : Bool :=
  x.version != 1 || decide (3 < x.die) || x.count == 0 || decide (152 < x.first + x.count) ||
    (upFrom x.first x.count).any (fun g => (Tab.find? m.slots (g / 4)).isNone)

def PartRecord.meets (x y : PartRecord) : Bool :=
  decide (x.first < y.first + y.count) && decide (y.first < x.first + x.count)

/-- The records of the partition table of a die. -/
def State.partTable (s : State) (d : Nat) : List PartRecord × State :=
  let n := min 64 (s.rf (vltBase d + 0x14) 6 0)
  let a := 2 ^ 32 * s.rf (vltBase d + 0x18) 15 0 + 2 ^ 8 * s.rf (vltBase d + 0x14) 31 8
  let r := s.readBytes a (16 * n)
  (((elements r.1 128 n).map decPart), r.2.2)

/-- The Vault starts service with its scratchpad +0 (R282). -/
def State.vaultStart (s : State) (d : Nat) (ps : List Partition) : State :=
  (s.setRf (vltBase d + 4) 0 0 1).modDie d (fun m =>
    { m with parts := ps, ways := [], scratch := [], scratchMarks := [], scratchPoison := [] })

/-- The identifier of a record that fails its check, or that shares a granule with a later one. -/
def firstBad (l : List PartRecord) (m : MemDie) : Option Nat := (l.find? (fun x => x.bad m)).map (·.id)
def firstMeeting : List PartRecord → Option Nat
  | [] => none
  | x :: t => if t.any (fun y => x.meets y) then some x.id else firstMeeting t

/-- The checks of R283 and R284 at enable; the table is read once its lines can be served (R548). The Journal shows the identifier of
the record that fails (R367). -/
def State.vaultTry (s0 : State) (d : Nat) : State :=
  let s := s0.modDie d (fun m => { m with enabling := false })
  let fail (s : State) (b id : Nat) : State :=
    (s.orReg (vltBase d + 0xC) (2 ^ b)).notice (Err.of .notice (0x400 + b) (domMd d 9) 0 0 id)
  if !(List.range 4).all (fun n => s.modeCompat n == s.modeCompat d) then fail s 6 0
  else if s.modeCompat d then s.vaultStart d []
  else if s.rf (vltBase d + 0x14) 6 0 = 0 then s.vaultStart d []
  else if !s.memFree then s.modDie d (fun m => { m with enabling := true })
  else
    let t := s.partTable d
    let mine := t.1.filter (fun x => x.die == d || x.version != 1 || decide (3 < x.die))
    let range := firstBad mine (s.die d)
    let twice := firstMeeting (mine.filter (fun x => x.version == 1 && x.die == d))
    let s1 := match range with
      | some id => fail t.2 0 id
      | none => t.2
    let s2 := match twice with
      | some id => fail s1 1 id
      | none => s1
    if range.isSome || twice.isSome then s2
    else s2.vaultStart d (mine.map (fun x => { first := x.first, count := x.count, id := x.id }))

/-- VAULT_ENABLE (R283, R284, R294). -/
def execVaultEnable (by_ : Writer) (die : Fin 4) (s : State) : Out :=
  .next (if s.vltOn die.val then s else s.gate by_ false (vltBase die.val + 4) (fun s => s.vaultTry die.val))

/-- Every dirty line of a Vault is written back and stays, clean. -/
def State.cleanWays (s : State) (d : Nat) : State :=
  let s1 := ((s.die d).ways.filter (fun w => w.2.dirty)).foldl (fun s w => s.writeBack d w.2) s
  s1.modDie d (fun m => { m with ways := m.ways.map (fun w => (w.1, { w.2 with dirty := false })) })

/-- The HBM reads that a die has in progress complete. -/
def State.finishReads (s : State) (d : Nat) : State :=
  let q := (s.die d).queue
  q.foldl (fun s x => s.hbmReturn x []) (s.modDie d (fun m => { m with queue := [] }))

/-- A Vault stops service: requests in progress complete, dirty lines are written back, every line is invalidated, and a flush is
over (R294). -/
def State.vaultOff (s : State) (d : Nat) : State :=
  ((((s.finishReads d).cleanWays d).modDie d (fun m => { m with ways := [], disabling := false })).setRf (vltBase d + 8) 1 1 0).setRf
    (vltBase d + 4) 0 0 0

/-- What stopping a Vault has to do in HBM waits for the die's controller (R548). -/
def State.vaultClear (s : State) (d : Nat) : State :=
  if !s.hbmOn d && ((s.die d).ways.any (fun w => w.2.dirty) || !(s.die d).queue.isEmpty) then
    s.modDie d (fun m => { m with disabling := true })
  else s.vaultOff d

/-- VAULT_DISABLE (R294); a set of ENABLE that waits is taken back. -/
def execVaultDisable (by_ : Writer) (die : Fin 4) (s : State) : Out :=
  let d := die.val
  .next (if !s.vltOn d && !(s.die d).enabling then s else s.gate by_ false (vltBase d + 4) (fun s =>
    if s.vltOn d then s.vaultClear d else s.modDie d (fun m => { m with enabling := false })))

/-- Writes of VLT_CTL.ENABLE that wait for the controllers are taken (R294, R548). -/
def State.vaultResume (s : State) : State :=
  (List.range 4).foldl (fun s d =>
    let s1 := if (s.die d).enabling then s.vaultTry d else s
    if (s1.die d).disabling then s1.vaultClear d else s1) s

/-- VAULT_FLUSH (R294): on a disabled Vault it completes at once. -/
def execVaultFlush (by_ : Writer) (die : Fin 4) (s : State) : Out :=
  let d := die.val
  .next (s.gate by_ false (vltBase d + 4) (fun s => if s.vltOn d then s.setRf (vltBase d + 8) 1 1 1 else s))

/-- VAULT_FLUSH_COMPLETE (R294). -/
def execVaultFlushComplete (die : Fin 4) (s : State) : Out :=
  let d := die.val
  .next (if s.alive && s.hbmOn d && s.rf (vltBase d + 8) 1 1 == 1 then (s.cleanWays d).setRf (vltBase d + 8) 1 1 0 else s)

/-- UNKEEP_ALL (R277). -/
def execUnkeepAll (by_ : Writer) (die : Fin 4) (s : State) : Out :=
  let d := die.val
  .next (s.gate by_ false (vltBase d + 4) (fun s =>
    s.modDie d (fun m => { m with ways := m.ways.map (fun w => (w.1, { w.2 with keep := false })) })))

end Sys2Proof.Machine
end

