-- ==== Sys2Proof/Machine/MemInsn.lean ====
section
/-! DEFINITION. The MEM instructions (R108, R271, R363), Escrow saves and reads (R193 to R197), and the completion of reads into
the core store. -/

namespace Sys2Proof.Machine

/-! ### MEM (R363) -/

/-- The device address of the first line. -/
def State.memAddr (s : State) (x : MemI) : Nat := x.maddr + (if x.versioned then s.versionOffset x.stamp else 0)

def MemI.hintOf (x : MemI) : Hint := Machine.hintOf x.hint x.spendn

/-- Requests enter the Vault request queue of their core, and one leaves in each edge, in order; more than the queue's 64 entries wait in
the core (R271, R331). -/
def State.queueLines (s : State) (d p : Nat) (qs : List LineReq) : State :=
  let e := max s.edge (s.core d p).nextLeave
  let s1 := s.modCore d p (fun c => { c with nextLeave := e + qs.length })
  { s1 with mem := { s1.mem with reqs := s1.mem.reqs ++ qs.zipIdx.map (fun x => { x.1 with leave := e + x.2 }) } }

/-- A read of `n` lines into the core store, with the guard that it leaves on their bytes (R108). -/
def State.startRead (s : State) (die : Fin 4) (phys : Fin 34) (st : StreamId) (k : LineKind) (h : Hint) (a caddr n : Nat)
    (release : Option (Nat × EscPlace)) : State :=
  let id := (s.core die.val phys.val).nextId
  let op : MemOp :=
    { id := id, stream := st, lo := caddr, hi := caddr + 256 * n, remaining := n, last := 0, release := release, entry := false }
  let qs := (List.range n).map (fun i =>
    ({ src := .core die phys, kind := k, addr := a + 256 * i, hint := h, data := 0, poison := false,
       dest := .store die.val phys.val (caddr + 256 * i) id, leave := 0 } : LineReq))
  (s.modCore die.val phys.val (fun c => { c with ops := c.ops ++ [op], nextId := id + 1 })).queueLines die.val phys.val qs

/-- Lines written, or added, from the core store; a line that reads as uncorrectable is not delivered (R104). -/
def State.startWrite (s : State) (die : Fin 4) (phys : Fin 34) (k : LineKind) (h : Hint) (a caddr n : Nat) : State :=
  let c := s.seen die.val phys.val
  let qs := ((List.range n).filter (fun i => !c.readsUe (caddr + 256 * i) 256)).map (fun i =>
    ({ src := .core die phys, kind := k, addr := a + 256 * i, hint := h, data := c.store.line (caddr + 256 * i),
       poison := false, dest := .none, leave := 0 } : LineReq))
  (s.storeRead die.val phys.val caddr (256 * n)).queueLines die.val phys.val qs

/-- MEM READ. -/
def execMemRead (die : Fin 4) (phys : Fin 34) (st : StreamId) (s : State) : Out :=
  .next (s.issue die.val phys.val st (isInsn 11 memReadOp) (fun s w =>
    let x := decMem w
    s.startRead die phys st .read x.hintOf (s.memAddr x) x.caddr x.lines none))

/-- MEM WRITE. -/
def execMemWrite (die : Fin 4) (phys : Fin 34) (st : StreamId) (s : State) : Out :=
  .next (s.issue die.val phys.val st (isInsn 11 memWriteOp) (fun s w =>
    let x := decMem w
    s.startWrite die phys .write x.hintOf (s.memAddr x) x.caddr x.lines))

/-- MEM ADD. -/
def execMemAdd (die : Fin 4) (phys : Fin 34) (st : StreamId) (s : State) : Out :=
  .next (s.issue die.val phys.val st (isInsn 11 memAddOp) (fun s w =>
    let x := decMem w
    s.startWrite die phys .add x.hintOf (s.memAddr x) x.caddr x.lines))

/-- MEM READ_CLEAR. -/
def execMemReadClear (die : Fin 4) (phys : Fin 34) (st : StreamId) (s : State) : Out :=
  .next (s.issue die.val phys.val st (isInsn 11 memReadClearOp) (fun s w =>
    let x := decMem w
    s.startRead die phys st .readClear .stream (s.memAddr x) x.caddr x.lines none))

/-- MEM RELEASE: requests without data. -/
def execMemRelease (die : Fin 4) (phys : Fin 34) (st : StreamId) (s : State) : Out :=
  .next (s.issue die.val phys.val st (isInsn 11 memReleaseOp) (fun s w =>
    let x := decMem w
    let qs := (List.range x.lines).map (fun i =>
      ({ src := .core die phys, kind := .release, addr := s.memAddr x + 256 * i, hint := .stream, data := 0,
         poison := false, dest := .none, leave := 0 } : LineReq))
    s.queueLines die.val phys.val qs))

/-! ### Escrow (R193 to R198) -/

/-- The place of a tile is freed. -/
def Step.freePlace (x : Step) (p : EscPlace) : Step :=
  match p with
  | .hbm g _ => { x with granules := x.granules.filter (fun y => y != g) }
  | .tier t _ => { x with tierPlaces := x.tierPlaces.filter (fun y => y != t) }
  | .dropped => x

/-- An index entry and its place are freed. -/
def Step.freeTile (x : Step) (key : Nat) : Step :=
  match Tab.find? x.escrow key with
  | some p => { x.freePlace p with escrow := Tab.del x.escrow key }
  | none => x

/-- Device addresses of an Escrow granule and of a place in the overflow region (R43, R193, R286). -/
def Job.granuleAddr (j : Job) (g : Nat) : Nat := j.escBase + 65536 * g
def Job.placeAddr (j : Job) (t : Nat) : Nat := 2 ^ 44 + 2 ^ 30 * j.xtDep + 65536 * t

/-- Where a save goes (R193, R196): the lowest free granule, or else the tier, or a dropped mark, or nowhere. -/
def Step.savePlace (x : Step) (recomp : Bool) (lines : Nat) : Option EscPlace :=
  let j := x.job.getD {}
  match firstFree x.granules j.escGranules with
  | some g => some (.hbm g lines)
  | none =>
    match (if j.spill then firstFree x.tierPlaces (16384 * j.xtEsc) else none) with
    | some t => some (.tier t lines)
    | none => if recomp then some .dropped else none

/-- A place is taken and its index entry made. -/
def Step.takePlace (x : Step) (key : Nat) (p : EscPlace) : Step :=
  let y := { x with escrow := Tab.put x.escrow key p }
  match p with
  | .hbm g _ => { y with granules := y.granules ++ [g] }
  | .tier t _ => { y with tierPlaces := y.tierPlaces ++ [t] }
  | .dropped => y

/-- The Escrow step fault, with the tile (R194, R196). -/
def State.escFault (s : State) (stamp etile : Nat) : State := s.report (Err.of .step 0x620 (domMd 0 9) stamp 0 etile)

/-- Reads of a tile that a save replaces no longer free it (R194). -/
def State.keepTile (s : State) (key : Nat) : State :=
  { s with cores := s.cores.map (fun c => (c.1, { c.2 with ops := c.2.ops.map (fun o =>
      if o.release.any (fun r => r.1 == key) then { o with release := none } else o) })) }

/-- ESAVE (R193, R194, R196): an earlier tile of the same key is replaced. After a step fault the package saves nothing (R197). -/
def execEsave (die : Fin 4) (phys : Fin 34) (st : StreamId) (s : State) : Out :=
  .next (s.issue die.val phys.val st (isInsn 11 memEsaveOp) (fun s0 w =>
    let x := decMem w
    let key := escKey x.stamp x.etile
    if s0.step.faulted then s0
    else
      let s := s0.keepTile key
      let y := s.step.freeTile key
      let s1 : State := { s with step := y }
      match y.savePlace x.recomp x.lines with
      | none => s1.escFault x.stamp x.etile
      | some p =>
        let s2 : State := { s with step := y.takePlace key p }
        let j := y.job.getD {}
        match p with
        | .hbm g _ => s2.startWrite die phys .write x.hintOf (j.granuleAddr g) x.caddr x.lines
        | .tier t _ => (s2.count (blkMd 0) 0x20 0x1FF 1).startWrite die phys .write x.hintOf (j.placeAddr t) x.caddr x.lines
        | .dropped => s2.count (blkMd 0) 0x21 0x1FF 1))

/-- EREAD (R194): a tile that is not saved is a step fault; a dropped tile delivers nothing (R363). -/
def execEread (die : Fin 4) (phys : Fin 34) (st : StreamId) (s : State) : Out :=
  .next (s.issue die.val phys.val st (isInsn 11 memEreadOp) (fun s w =>
    let x := decMem w
    let key := escKey x.stamp x.etile
    let j := s.step.job.getD {}
    match Tab.find? s.step.escrow key with
    | none => s.escFault x.stamp x.etile
    | some .dropped => s
    | some (.hbm g n) =>
      s.startRead die phys st .read x.hintOf (j.granuleAddr g) x.caddr x.lines (if x.erelease then some (key, .hbm g n) else none)
    | some (.tier t n) =>
      s.startRead die phys st .read x.hintOf (j.placeAddr t) x.caddr x.lines
        (if x.erelease then some (key, .tier t n) else none)))

/-! ### MEM_READ_COMPLETE (R108, R193) -/

/-- The tile that a read frees; a save that replaces the tile takes the release from its reads. -/
def State.freeRead (s : State) (r : Option (Nat × EscPlace)) : State :=
  match r with
  | none => s
  | some (key, p) => if Tab.find? s.step.escrow key = some p then { s with step := s.step.freeTile key } else s

/-- MEM_READ_COMPLETE: the oldest read whose lines have all been sent is complete in the edge after its last line is written, and its
guard goes. -/
def execMemReadComplete (die : Fin 4) (phys : Fin 34) (s : State) : Out :=
  let d := die.val
  let p := phys.val
  match (s.core d p).ops.find? (fun o => o.remaining == 0) with
  | none => .next s
  | some o =>
    if !s.alive then .next s
    else
      .next (((s.at (o.last + 1)).modCore d p (fun c => { c with ops := c.ops.filter (fun x => x.id != o.id) })).freeRead o.release)

end Sys2Proof.Machine
end

