-- ==== Sys2Proof/Machine/Depository.lean ====
section
/-! DEFINITION. The Depository: streams, blocks, requests, paging (R297 to R314, R364, R370, R371). -/

namespace Sys2Proof.Machine

/-! ### Descriptors and blocks (R297, R298, R301, R302, R370) -/

def descT (x : Nat) : Nat := 32 * bits x 31 24
def descPlanes (x : Nat) : Nat := bits x 44 32
def descBpp (x : Nat) : Nat := bits x 69 48
def descPrio (x : Nat) : Nat := bits x 71 70
def descTable (x : Nat) : Nat := bits x 127 80
def descStoch (x : Nat) : Bool := bit x 11
def descHint (x : Nat) : Hint := if bits x 14 13 = 1 then .keep else .stream
def descFmt (x : Nat) : Fmt :=
  if depSfmt x = 0 then .kf4 else if depSfmt x = 1 then .kf6a else if depSfmt x = 2 then .kf6b else .kb16
def descScaled (x : Nat) : Bool := depSfmt x != 3
/-- Bytes of a stored row, and its scale bytes. -/
def descRow (x : Nat) : Nat := depD x * (descFmt x).width / 8
def descScales (x : Nat) : Nat := if descScaled x then depD x / 32 else 0
/-- Where the scale area of a block begins (R298). -/
def descScaleOff (x : Nat) : Nat := roundUp (descT x * descRow x) 256
def descBlocks (x : Nat) : Nat := descPlanes x * descBpp x

/-- A block: stream × 2^22 + logical index (R298). -/
def blockKey (stream b : Nat) : Nat := 2 ^ 22 * stream + b
def keyStream (key : Nat) : Nat := key / 2 ^ 22
def keyBlock (key : Nat) : Nat := key % 2 ^ 22

def State.depOn (s : State) : Bool := s.rf (depBase 0 + 4) 0 0 == 1
def State.pageEn (s : State) : Bool := s.rf (depBase 0 + 4) 3 3 == 1

/-- Base and size of the pool in units of 4 GiB (R301). -/
def State.pool (s : State) : Nat × Nat :=
  let o := hbmBase 0 + 0x40 + 4 * s.rf (depBase 0 + 4) 7 6
  (s.rf o 7 0, s.rf o 15 8)

/-- Frames that a slice owns in the pool and in the Depository region (R43, R301). -/
def State.poolFrames (s : State) : Nat := s.pool.2 * 16384
def State.regionGib (s : State) : Nat := ((s.step.job.map (·.xtDep)).getD 0) / 4
def State.regionFrames (s : State) : Nat := 16384 * s.regionGib

def State.frameAddr (s : State) (d f : Nat) : Nat := 2 ^ 32 * s.pool.1 + d * (2 ^ 30 * s.pool.2) + 65536 * f
def State.regionAddr (s : State) (d f : Nat) : Nat := 2 ^ 44 + d * (2 ^ 30 * s.regionGib) + 65536 * f

/-- The least key from `i` on that a table does not list. -/
def gap {α : Type} : Tab α → Nat → Nat
  | [], i => i
  | (k, _) :: t, i => if k = i then gap t (i + 1) else i

def State.freeFrame (s : State) (d : Nat) : Option Nat :=
  let f := gap (s.slice d).frames 0
  if f < s.poolFrames then some f else none
def State.freeRegion (s : State) (d : Nat) : Option Nat :=
  let f := gap (s.slice d).xtFrames 0
  if f < s.regionFrames then some f else none

/-! ### Faults (R311, R321, R436) -/

/-- An evaluation slot ends (R199, R505). -/
def State.endEval (s : State) : State :=
  State.markFresh { s with step := { s.step with evalRunning := false }, mbx := { s.mbx with evalEnded := true } } 0x110 (2 ^ 3)

/-- A DEP_FAULT bit is set and journalled with stream and plane: bits 6 to 2 are STEP in training, and end an evaluation slot
(R311, R436). -/
def State.depFault (s : State) (d b stream plane : Nat) : State :=
  let acts := decide (2 ≤ b) && decide (b ≤ 6)
  let cls : ErrClass := if acts && !s.step.evalRunning then .step else .notice
  let s1 := (s.orReg (depBase d + 0xC) (2 ^ b)).report (Err.of cls (0x500 + b) (domMd d 7) stream 0 plane)
  if acts && s.step.evalRunning then s1.endEval else s1

/-- The first refused request since VALID was cleared (R323). -/
def State.depLast (s : State) (d stream plane : Nat) : State :=
  if s.rf (depBase d + 0x30) 0 0 = 1 then s
  else s.setReg (depBase d + 0x30) (BitVec.ofNat 32 (2 ^ 16 * stream + plane * 2 + 1))

/-! ### Block-table entries (R303, R371) -/

def Loc.code : Loc → Nat
  | .absent => 0
  | .hbm => 1
  | .xt => 2
  | .moving => 3
def locOf (n : Nat) : Loc := if n = 1 then .hbm else if n = 2 then .xt else if n = 3 then .moving else .absent

def DepEntry.word (e : DepEntry) : Nat :=
  1 + 2 ^ 4 * e.loc.code + 2 ^ 6 * e.frame + 2 ^ 31 * e.fill + 2 ^ 44 * b2n e.pin + 2 ^ 45 * b2n e.ref +
    2 ^ 46 * b2n e.poison

def decEntry (w : Nat) : DepEntry :=
  if bits w 3 0 = 1 then
    { loc := locOf (bits w 5 4), frame := bits w 30 6, fill := bits w 43 31, pin := bit w 44, ref := bit w 45,
      poison := bit w 46 }
  else {}

def State.entryAddr (s : State) (key : Nat) : Nat :=
  ((s.depDesc? (keyStream key)).map descTable).getD 0 + 8 * keyBlock key

def Slice.cached (x : Slice) (key : Nat) : Option DepEntry := (x.cache.find? (fun e => e.1 == key)).map (·.2)

/-- An entry is put in front of a slice's cache; the 4,097th leaves it and is written back (R303). -/
def State.cacheEntry (s : State) (d key : Nat) (e : DepEntry) : State :=
  let l := (key, e) :: (s.slice d).cache.filter (fun x => x.1 != key)
  let s1 := s.modSlice d (fun x => { x with cache := l.take 4096 })
  match l[4096]? with
  | some x => s1.putBytes (s.entryAddr x.1) (bytesOfNum 8 x.2.word)
  | none => s1

/-- The entry of a block, through the cache; an entry of another version is ABSENT (R303). -/
def State.depEntry (s : State) (d key : Nat) : DepEntry × State :=
  match (s.slice d).cached key with
  | some e => (e, s.cacheEntry d key e)
  | none =>
    let r := (s.count (blkMd d) 0x28 0x1FF 1).readBytes (s.entryAddr key) 8
    let s1 := if bits r.1 3 0 = 1 then r.2.2 else r.2.2.depFault d 0 (keyStream key) 0
    (decEntry r.1, s1.cacheEntry d key (decEntry r.1))

/-- The entry of a block as it stands, without a lookup. -/
def State.depPeek (s : State) (d key : Nat) : DepEntry :=
  match (s.slice d).cached key with
  | some e => e
  | none => decEntry (s.readBytes (s.entryAddr key) 8).1

/-- Every cached entry of a slice is written back (R303). -/
def State.depWriteBack (s : State) (d : Nat) : State :=
  (s.slice d).cache.foldl (fun s x => s.putBytes (s.entryAddr x.1) (bytesOfNum 8 x.2.word)) s

/-! ### Delivery to the core store (R306) -/

/-- The edge at which the rows of a READ arrive: the request's way, the block-table lookup, the line latency of R273, and the converter
for FP32 delivery (R306, R308, R341). -/
def State.depDue (s : State) (q : DepReq) (raw : Bool) : Nat :=
  max s.edge (q.leave + s.depLookup + s.vaultHit + (if raw then 0 else s.convert))

/-- Rows leave for the core store, each whole with its poison, and arrive there at an edge. -/
def State.depRows (s : State) (q : DepReq) (op addr : Nat) (rows : List (List Byte × Bool)) (due : Nat) : State :=
  let len := ((rows.head?).map (fun r => r.1.length)).getD 0
  s.modCore q.die q.phys (fun c =>
    { c with arriving := rows.zipIdx.foldl (fun l x =>
               arrive { due := due, addr := addr + len * x.2, data := x.1.1, poison := x.1.2 } l) c.arriving,
             ops := c.ops.map (fun o => if o.id = op then { o with remaining := 0, last := max o.last due } else o) })

/-- Bytes of a delivered row (R306). -/
def deliverRow (desc deliv : Nat) : Nat := if depRaw desc deliv then descRow desc else 4 * depD desc
/-- Whether scale bytes are delivered too. -/
def deliverScales (desc deliv : Nat) : Bool := depRaw desc deliv && descScaled desc

/-- The width D of the rows of a stream that is not open, which the spec does not state: a free value (log 88). -/
def State.openWidth (s : State) : Nat × State :=
  let f := s.freeBelow 16
  (32 * (f.1 + 1), f.2)

/-- A READ that is refused delivers poisoned rows (R311). -/
def State.depPoisoned (s : State) (q : DepReq) : State :=
  let row (n : Nat) : List Byte × Bool := (List.replicate n 0, true)
  match q.kind, s.depDesc? q.stream with
  | .read, some desc =>
    let due := s.depDue q (depRaw desc q.deliv)
    let s1 := s.depRows q q.op q.caddr (List.replicate q.n (row (deliverRow desc q.deliv))) due
    if deliverScales desc q.deliv then s1.depRows q (q.op + 1) q.saddr (List.replicate q.n (row (descScales desc))) due else s1
  | .read, none =>
    let w := s.openWidth
    let due := w.2.depDue q (q.deliv == 2)
    if w.2.storeAllowed q.die q.phys true false (q.caddr, 4 * w.1 * q.n) then
      w.2.depRows q q.op q.caddr (List.replicate q.n (row (4 * w.1))) due
    else w.2.coreFault q.die q.phys [cfRange]
  | _, _ => s

/-- A request is refused: it performs nothing (R311). -/
def State.depRefuse (s : State) (d b : Nat) (q : DepReq) : State :=
  ((s.depFault d b q.stream q.plane).depLast d q.stream q.plane).depPoisoned q

/-! ### Rows of a resident block (R298, R305, R306) -/

/-- A row of FP32 words narrowed for storage: element bytes, scale bytes, flags (R305). `base` counts the draws before it. -/
def State.depNarrow (s : State) (d desc : Nat) (row : List Nat) (base : Nat) : List Byte × List Byte × Nat :=
  let f := descFmt desc
  if descScaled desc then
    let r := s.narrowRow (laneConv d) (descStoch desc) f row base
    (elementBytes f.width r.2.1, elementBytes 8 r.1, r.2.2)
  else
    let r := row.zipIdx.map (fun (e : Nat × Nat) =>
      f.encode (if descStoch desc then s.mintMode (laneConv d) (base + e.2) else .rne) (Fmt.fp32.decode e.1))
    (elementBytes f.width (r.map (·.1)), [], orFlags r)

/-- A stored row widened to FP32 (R76, R306): its words, and flags. -/
def depWiden (desc : Nat) (elems scales : Nat) : List CodeF :=
  let f := descFmt desc
  (elements elems f.width (depD desc)).zipIdx.map (fun (e : Nat × Nat) =>
    widenF32 f e.1 (if descScaled desc then some (element scales 8 (e.2 / 32)) else none))

/-- WRITE of rows into a frame at an address (R305): FILL, PIN and REF follow. -/
def State.depStore (s : State) (d key : Nat) (q : DepReq) (desc : Nat) (e : DepEntry) (a : Nat) : State :=
  let dd := depD desc
  let i := q.pos % descT desc
  let rows := (List.range q.n).map (fun j =>
    s.depNarrow d desc ((List.range dd).map (fun k => (q.rows.getD (dd * j + k) 0).toNat)) (dd * j))
  let h := descHint desc
  let s1 := s.putBytes (a + i * descRow desc) (rows.flatMap (fun r => r.1)) h
  let s2 := if descScaled desc then
      s1.putBytes (a + descScaleOff desc + i * descScales desc) (rows.flatMap (fun r => r.2.1)) h
    else s1
  let s3 := s2.orReg (vltBase d + 0x10) (rows.foldl (fun m r => m ||| r.2.2) 0)
  let s4 := if descStoch desc then s3.mintAdvance (laneConv d) (dd * q.n) else s3
  (s4.count (blkMd d) 0x30 0x1FF ((q.n * descRow desc + 255) / 256)).cacheEntry d key { e with fill := max e.fill (i + q.n) }

/-- Bytes `o` to `o + n - 1` of lines, and whether a line that holds them is poisoned. -/
def spanOf (l : List (Line × Bool)) (o n : Nat) : Nat × Bool :=
  (linesNum l / 2 ^ (8 * o) % 2 ^ (8 * n), linesBad ((l.take ((o + n + 255) / 256)).drop (o / 256)))

/-- READ of rows from a frame at an address (R306, R311). -/
def State.depLoad (s : State) (d key : Nat) (q : DepReq) (desc : Nat) (e : DepEntry) (a : Nat) : State :=
  let i := q.pos % descT desc
  let rl := descRow desc
  let sl := descScales desc
  let h := descHint desc
  let o1 := i * rl
  let o2 := descScaleOff desc + i * sl
  let x := s.readLines h (a + o1 / 256 * 256) ((o1 % 256 + q.n * rl + 255) / 256)
  let y := if descScaled desc then x.2.readLines h (a + o2 / 256 * 256) ((o2 % 256 + q.n * sl + 255) / 256) else ([], x.2)
  let rows := (List.range q.n).map (fun j => (spanOf x.1 (o1 % 256 + j * rl) rl, spanOf y.1 (o2 % 256 + j * sl) sl))
  let bad := rows.any (fun r => r.1.2 || r.2.2)
  let s1 := y.2.cacheEntry d key { e with poison := e.poison || bad }
  let raw := depRaw desc q.deliv
  let due := s.depDue q raw
  let s2 := if raw then
      let t := s1.depRows q q.op q.caddr (rows.map (fun r => (bytesOfNum rl r.1.1, r.1.2))) due
      if descScaled desc then t.depRows q (q.op + 1) q.saddr (rows.map (fun r => (bytesOfNum sl r.2.1, r.2.2))) due else t
    else
      let wide := rows.map (fun r => (depWiden desc r.1.1 r.2.1, r.1.2 || r.2.2))
      let t := s1.depRows q q.op q.caddr (wide.map (fun r => (elementBytes 32 (r.1.map (·.1)), r.2))) due
      (t.orReg (vltBase d + 0x10) (wide.foldl (fun m r => m ||| orFlags r.1) 0)).count (blkMd d) 0x30 0x1FF x.1.length
  if bad then s2.depFault d 6 q.stream q.plane else s2

/-! ### Serving a request at its slice (R304, R308, R310, R311, R313) -/

def pinned (q : DepReq) (e : DepEntry) : DepEntry :=
  { e with pin := if q.pin = 1 then true else if q.pin = 2 then false else e.pin }

/-- A READ of a row at or above FILL (R311). -/
def unwritten (q : DepReq) (desc : Nat) (e : DepEntry) : Bool :=
  q.kind == .read && decide (e.fill < q.pos % descT desc + q.n)

/-- A request for a block that is resident in a frame; every request sets REF (R309), but for one that is refused, which performs
nothing (R311). -/
def State.depResident (s : State) (d key : Nat) (q : DepReq) (desc : Nat) (e0 : DepEntry) : State :=
  let e := { pinned q e0 with ref := true }
  let a := s.frameAddr d e.frame
  if unwritten q desc e0 then s.depRefuse d 4 q
  else
    match q.kind with
    | .write => s.depStore d key q desc e a
    | .read => s.depLoad d key q desc e a
    | .fetch => s.cacheEntry d key e
    | .drop => (s.modSlice d (fun x => { x with frames := Tab.del x.frames e.frame })).cacheEntry d key {}

/-- Nothing can free a frame (R311). -/
def State.depExhausted (s : State) (d : Nat) : Bool :=
  !s.pageEn ||
    ((s.freeRegion d).isNone &&
      (s.slice d).frames.all (fun f => let e := s.depPeek d f.2; e.pin || e.loc != .hbm))

/-- A request reaches its slice before another: in an earlier edge, or in the same one by an earlier bridge (R272, R307); one core's
requests leave in edges of their own, in the order of issue (R331). -/
def DepReq.before (x q : DepReq) : Bool :=
  decide (x.leave < q.leave) || (x.leave == q.leave && (decide (x.die < q.die) || (x.die == q.die && decide (x.seq ≤ q.seq))))

/-- A request joins a list of waiting requests, which stand in the order in which they reach the slice. -/
def enqueueReq (q : DepReq) : List DepReq → List DepReq
  | [] => [q]
  | x :: t => if x.before q then x :: enqueueReq q t else q :: x :: t

/-- A request joins the entry of its block, makes one, or is held at the intake (R313). -/
def State.depMiss (s : State) (d key : Nat) (q : DepReq) : State :=
  let x := s.slice d
  if x.faults.any (fun f => f.key == key) then
    s.modSlice d (fun x => { x with faults := x.faults.map (fun f =>
      if f.key = key then { f with waiting := enqueueReq q f.waiting } else f) })
  else if (s.freeFrame d).isNone && s.depExhausted d then s.depRefuse d 5 q
  else if x.faults.length < 256 then
    (s.count (blkMd d) 0x29 0x1FF 1).modSlice d (fun x => { x with faults := x.faults ++ [{ key := key, waiting := [q] }] })
  else (s.count (blkMd d) 0x2C 0x1FF 1).modSlice d (fun x => { x with intake := enqueueReq q x.intake })

/-- A request for an ABSENT block: WRITE and FETCH allocate a frame (R308, R310). -/
def State.depAbsent (s : State) (d key : Nat) (q : DepReq) (desc : Nat) : State :=
  if q.kind = .read then s.depRefuse d 4 q
  else if q.kind = .drop then s
  else
    match s.freeFrame d with
    | some f =>
      (s.modSlice d (fun x => { x with frames := Tab.put x.frames f key })).depResident d key q desc
        { loc := .hbm, frame := f, fill := 0, pin := false, ref := true, poison := false }
    | none =>
      if s.depExhausted d then s.depRefuse d 5 q
      else s.modSlice d (fun x => { x with forFrame := enqueueReq q x.forFrame })

/-- A page-out stops as a request for its block arrives (R310). -/
def State.stopPageOut (s : State) (d : Nat) (m : PageMove) : State :=
  s.modSlice d (fun x => { x with moves := x.moves.filter (fun y => y.key != m.key), xtFrames := Tab.del x.xtFrames m.xt })

/-! ### The order of requests (R307) -/

/-- The slice and the block of a request. -/
def depSlice (desc : Nat) (q : DepReq) : Nat × Nat :=
  let b := q.plane * descBpp desc + q.pos / descT desc
  ((q.stream + b) % 4, blockKey q.stream b)

/-- Rows beyond the stream's planes or positions, or across a block boundary (R311). -/
def depBeyond (desc : Nat) (q : DepReq) : Bool :=
  decide (descPlanes desc ≤ q.plane) || decide (descBpp desc * descT desc ≤ q.pos) ||
    decide (descT desc < q.pos % descT desc + q.n)

def sameCore (q x : DepReq) : Bool := x.die == q.die && x.phys == q.phys

/-- Every request that waits. -/
def State.depWaits (s : State) : List DepReq := s.dep.held ++ (List.range 4).flatMap (fun d => (s.slice d).waiting)

/-- An earlier request that still waits goes first: one of the same core to the same stream, or one to the same block (R307). -/
def State.depBehind (s : State) (q : DepReq) : Bool :=
  let desc := (s.depDesc? q.stream).getD 0
  s.depWaits.any (fun x => x.stream == q.stream && x.before q && x.seq != q.seq && (sameCore q x || depSlice desc x == depSlice desc q))

def State.depHold (s : State) (q : DepReq) : State := { s with dep := { s.dep with held := enqueueReq q s.dep.held } }

/-- A request at the slice that places its block, by the block's state (R310): it takes or joins a fault-queue entry at once, stops a
page-out at once, and otherwise waits while an earlier request goes first. -/
def State.depServe (s : State) (d key : Nat) (q : DepReq) (desc : Nat) : State :=
  let r := s.depEntry d key
  let e := r.1
  match e.loc with
  | .hbm => if r.2.depBehind q then r.2.depHold q else r.2.depResident d key q desc e
  | .absent => if r.2.depBehind q then r.2.depHold q else r.2.depAbsent d key q desc
  | .moving =>
    match (r.2.slice d).moves.find? (fun m => m.key == key && m.toTier) with
    | some m =>
      let back := { e with loc := .hbm, frame := m.hbm }
      let s1 := (r.2.stopPageOut d m).cacheEntry d key back
      if s1.depBehind q then s1.depHold q else s1.depResident d key q desc back
    | none => r.2.depMiss d key q
  | .xt =>
    if q.kind = .drop ∧ (r.2.slice d).faults.any (fun f => f.key == key) = false ∧ r.2.depBehind q = false then
      (r.2.modSlice d (fun x => { x with xtFrames := Tab.del x.xtFrames e.frame })).cacheEntry d key {}
    else (r.2.cacheEntry d key { e with ref := true }).depMiss d key q

/-! ### A request's way to its slice (R299, R300, R302, R307, R313) -/

/-- A request goes to its slice, or is held: while the Depository is not enabled or memory does not serve it, while its stream opens, or
while the slice sleeps. A request of a core that has one at the slice's intake waits behind it (R313). -/
def State.depRequest (s : State) (q : DepReq) : State :=
  if s.dep.opening = some q.stream then s.depHold q
  else
    match s.depDesc? q.stream with
    | none => s.depRefuse (q.stream % 4) 2 q
    | some desc =>
      let t := depSlice desc q
      if !s.depOn || !s.memFree then s.depHold q
      else if !(s.domain (domMd t.1 7)).awake then (s.wakeSeen (domMd t.1 7)).depHold q
      else if depBeyond desc q then (if s.depBehind q then s.depHold q else s.depRefuse t.1 3 q)
      else if (s.slice t.1).intake.any (fun x => sameCore q x) then
        s.modSlice t.1 (fun x => { x with intake := enqueueReq q x.intake })
      else s.depServe t.1 t.2 q desc

/-- Requests that wait for a frame are tried again, in order. -/
def State.depFrames (s : State) (d : Nat) : State :=
  let l := (s.slice d).forFrame
  l.foldl (fun s q =>
    match s.depDesc? q.stream with
    | some desc => s.depServe d (depSlice desc q).2 q desc
    | none => s) (s.modSlice d (fun x => { x with forFrame := [] }))

/-- Held requests are tried again, in order: each behind those before it. -/
def State.depRound (s : State) : State :=
  let l := s.dep.held
  l.foldl State.depRequest { s with dep := { s.dep with held := [] } }

/-- Held requests are tried until none of them moves: each round performs at least one of those that can be. -/
def State.depRetry (s : State) : State :=
  (List.range (s.dep.held.length + 1)).foldl (fun s _ => s.depRound) s

/-- Requests and moves of a stream that are not complete. -/
def State.depPending (s : State) (st : Nat) : Bool :=
  s.depWaits.any (fun q => q.stream == st) ||
    (List.range 4).any (fun d => (s.slice d).moves.any (fun m => keyStream m.key == st))

/-- Every entry of a stream is written ABSENT (R299, R300). -/
def State.tableAbsent (s : State) (desc : Nat) : State :=
  s.putBytes (descTable desc) ((List.range (descBlocks desc)).flatMap (fun _ => bytesOfNum 8 (DepEntry.word {})))

/-- A slice gives up a stream's frames and cached entries. -/
def Slice.forget (x : Slice) (st : Nat) : Slice :=
  { x with cache := x.cache.filter (fun e => keyStream e.1 != st), frames := x.frames.filter (fun f => keyStream f.2 != st),
           xtFrames := x.xtFrames.filter (fun f => keyStream f.2 != st) }

/-- A close completes once nothing of its stream is pending and its table can be written (R300, R548). -/
def State.depFinishClose (s : State) : State :=
  match s.dep.closing with
  | none => s
  | some st =>
    match s.depDesc? st with
    | none => { s with dep := { s.dep with closing := none } }
    | some desc =>
      if s.dep.opening == some st || s.depPending st || !s.memFree then s
      else
        let s1 := (List.range 4).foldl (fun s d => s.modSlice d (fun x => x.forget st)) (s.tableAbsent desc)
        let s2 : State := { s1 with dep := { s1.dep with closing := none, streams := Tab.del s1.dep.streams st } }
        (List.range 4).foldl State.depFrames s2

/-- What follows an event of the Depository: waiting requests go on, and a close may complete. -/
def State.depSettle (s : State) : State := (((List.range 4).foldl State.depFrames s).depRetry).depFinishClose

/-! ### DEPREQ instructions (R304, R364) -/

/-- A request of a core takes its place in the order of issue and in the core's queue, which one request leaves in each edge
(R307, R331); one to a stream that is closing is refused (R300). -/
def State.depSend (s : State) (q0 : DepReq) : State :=
  let e := max s.edge (s.core q0.die q0.phys).nextLeave
  let q := { q0 with leave := e, seq := s.dep.issued }
  let s1 := s.modCore q.die q.phys (fun c => { c with nextLeave := e + 1 })
  let s2 : State := { s1 with dep := { s1.dep with issued := s1.dep.issued + 1 } }
  if s.dep.closing == some q.stream then s2.depRefuse (q.stream % 4) 2 q else (s2.depRequest q).depSettle

def DepI.req (x : DepI) (d p : Nat) (k : DepKind) (rows : List Word) (op : Nat) : DepReq :=
  { die := d, phys := p, kind := k, stream := x.stream, plane := x.plane, pos := x.pos, n := x.n, caddr := x.caddr,
    saddr := x.saddr, pin := x.pin, deliv := x.deliv, rows := rows, op := op, leave := 0, seq := 0 }

/-- DEPREQ WRITE (R305): rows that read as uncorrectable are not delivered, and nothing is stored (R104). -/
def execDepWrite (die : Fin 4) (phys : Fin 34) (st : StreamId) (s : State) : Out :=
  let d := die.val
  let p := phys.val
  .next (s.issue d p st (isInsn 10 0) (fun s w =>
    let x := decDep w
    let c := s.seen d p
    let n := (((s.depRegions x).1.head?).map (·.2)).getD 0
    let s1 := s.storeRead d p x.caddr n
    if c.readsUe x.caddr n && decide (0 < n) then s1
    else
      let rows := (elements (c.store.num x.caddr n) 32 (n / 4)).map (BitVec.ofNat 32)
      s1.depSend (x.req d p .write rows 0)))

/-- The guards that a READ leaves on the bytes it writes (R108). -/
def Core.depGuards (c : Core) (st : StreamId) (regions : List (Nat × Nat)) : Core :=
  let ops := regions.zipIdx.map (fun (r : (Nat × Nat) × Nat) =>
    ({ id := c.nextId + r.2, stream := st, lo := r.1.1, hi := r.1.1 + r.1.2, remaining := 1, last := 0,
       release := none, entry := r.2 == 0 } : MemOp))
  { c with ops := c.ops ++ ops, nextId := c.nextId + 2 }

/-- DEPREQ READ (R306). -/
def execDepRead (die : Fin 4) (phys : Fin 34) (st : StreamId) (s : State) : Out :=
  let d := die.val
  let p := phys.val
  .next (s.issue d p st (isInsn 10 1) (fun s w =>
    let x := decDep w
    let id := (s.core d p).nextId
    (s.modCore d p (fun c => c.depGuards st (s.depRegions x).2)).depSend (x.req d p .read [] id)))

/-- DEPREQ FETCH (R308). -/
def execDepFetch (die : Fin 4) (phys : Fin 34) (st : StreamId) (s : State) : Out :=
  .next (s.issue die.val phys.val st (isInsn 10 2) (fun s w => s.depSend ((decDep w).req die.val phys.val .fetch [] 0)))

/-- DEPREQ DROP (R304, R308). -/
def execDepDrop (die : Fin 4) (phys : Fin 34) (st : StreamId) (s : State) : Out :=
  .next (s.issue die.val phys.val st (isInsn 10 3) (fun s w => s.depSend ((decDep w).req die.val phys.val .drop [] 0)))

/-! ### DEP_OPEN, DEP_CLOSE, DEP_CTL (R299, R300, R320, R322) -/

/-- The DEP_FAULT bit of a descriptor that an open refuses (R299). -/
def State.descFault (s : State) (stream x : Nat) : Option Nat :=
  let table := descTable x
  let stop := table + 8 * descBlocks x
  let p := s.pool
  if bits x 7 0 ≠ 1 then some 0
  else if 2 ≤ bits x 14 13 ∨ bits x 20 16 = 0 ∨ 16 < bits x 20 16 ∨ bits x 31 24 = 0 ∨ 128 < bits x 31 24 ∨
      descPlanes x = 0 ∨ 4096 < descPlanes x ∨ descBpp x = 0 ∨ 4194304 < descBlocks x ∨
      65536 < (if descScaled x then descScaleOff x + descT x * descScales x else descT x * descRow x) ∨
      table % 256 ≠ 0 ∨ 240 * 2 ^ 32 < stop ∨ (table < 2 ^ 32 * (p.1 + p.2) ∧ 2 ^ 32 * p.1 < stop) ∨
      (Tab.find? s.dep.streams stream).isSome then some 1
  else none

/-- The home slice reads a descriptor and checks it; the open goes on, or is refused (R299). -/
def State.depReadDesc (s : State) (st : Nat) : State :=
  let a := 2 ^ 32 * s.rf (depBase 0 + 0x14) 15 0 + 2 ^ 8 * s.rf (depBase 0 + 0x10) 31 8 + 64 * st
  let r := s.readBytes a 64
  let t : State := { r.2.2 with dep := { r.2.2.dep with reading := false } }
  match t.descFault st r.1 with
  | some b => ({ t with dep := { t.dep with opening := none } } : State).depFault (st % 4) b st 0
  | none => { t with dep := { t.dep with streams := Tab.put t.dep.streams st (BitVec.ofNat 512 r.1) } }

/-- DEP_OPEN (R299, R322): a write while an open is in progress is ignored and journalled. The descriptor is read at once, or as soon as
memory serves the slice (R548). -/
def execDepOpen (by_ : Writer) (stream : BitVec 16) (s : State) : Out :=
  let st := stream.toNat
  .next (s.gate by_ true (depBase 0 + 0x18) (fun s =>
    if s.dep.opening.isSome then s.ignored (depBase 0 + 0x18)
    else
      let t : State := { s with dep := { s.dep with opening := some st, reading := true } }
      if s.memFree then t.depReadDesc st else t))

/-- DEP_OPEN_COMPLETE (R299): the block table is ABSENT, and held requests proceed. A descriptor that is still to be read is read
first. -/
def execDepOpenComplete (s : State) : Out :=
  .next (if !s.memFree then s
    else
      match s.dep.opening with
      | none => s.depSettle
      | some st =>
        let s1 := if s.dep.reading then s.depReadDesc st else s
        let s2 := if s1.dep.opening.isSome then s1.tableAbsent ((s1.depDesc? st).getD 0) else s1
        ({ s2 with dep := { s2.dep with opening := none } } : State).depSettle)

/-- DEP_CLOSE (R300, R322): a write while a close is in progress is ignored and journalled. -/
def execDepClose (by_ : Writer) (stream : BitVec 16) (s : State) : Out :=
  let st := stream.toNat
  .next (s.gate by_ true (depBase 0 + 0x1C) (fun s =>
    if s.dep.closing.isSome then s.ignored (depBase 0 + 0x1C)
    else if (s.depDesc? st).isNone then s
    else ({ s with dep := { s.dep with closing := some st } } : State).depFinishClose))

/-- DEP_ENABLE (R320): the pool range and the region are checked. -/
def execDepEnable (by_ : Writer) (s : State) : Out :=
  .next (if s.depOn then s else s.gate by_ false (depBase 0 + 4) (fun s =>
    let o := hbmBase 0 + 0x40 + 4 * s.rf (depBase 0 + 4) 7 6
    if s.rf o 31 31 = 0 ∨ (s.pageEn = true ∧ (s.step.job.map (·.xtDep)).getD 0 < 4) then s.depFault 0 7 0 0
    else (s.setRf (depBase 0 + 4) 0 0 1).depSettle))

/-! ### Paging (R309, R310, R312, R313) -/

/-- Free frames of a slice's pool (R323). -/
def State.hbmFree (s : State) (d : Nat) : Nat := if s.depOn then s.poolFrames - (s.slice d).frames.length else 0

/-- The watermarks in frames; HIGH below LOW is taken as LOW (R323). -/
def State.markLow (s : State) (d : Nat) : Nat := 256 * s.rf (depBase d + 0x20) 15 0
def State.markHigh (s : State) (d : Nat) : Nat := max (s.markLow d) (256 * s.rf (depBase d + 0x20) 31 16)

/-- One round of the sweep over resident frames in index order (R309): the frame chosen, and REF bits cleared on the way. -/
def State.sweepRound (s : State) (d cls : Nat) : List (Nat × Nat) → Option (Nat × Nat) × State
  | [] => (none, s)
  | (f, key) :: t =>
    let e := s.depPeek d key
    if e.loc ≠ .hbm ∨ e.pin = true then s.sweepRound d cls t
    else if e.ref then (s.cacheEntry d key { e with ref := false }).sweepRound d cls t
    else if cls < ((s.depDesc? (keyStream key)).map descPrio).getD 0 then s.sweepRound d cls t
    else (some (f, key), s)

/-- Rounds of rising class, until one finds a block. -/
def State.sweep (s : State) (d : Nat) (order : List (Nat × Nat)) : List Nat → Option (Nat × Nat) × State
  | [] => (none, s)
  | cls :: t =>
    let r := s.sweepRound d cls order
    if r.1.isSome then r else r.2.sweep d order t

/-- A page-in that could start: the oldest fault-queue entry without a transfer (R312, R313). -/
def Slice.nextPageIn (x : Slice) : Option FaultEntry := x.faults.find? (fun f => !x.moves.any (fun m => m.key == f.key))

/-- CXL ports that the lines of a region frame use (R286). -/
def State.framePorts (s : State) (a : Nat) : List Nat :=
  ((List.range 16).filterMap (fun i => s.tierPort? (a % 2 ^ 44 + 4096 * i))).dedup

/-- A transfer between two frames of a slice begins: its lines reach the ports now (R42). -/
def State.startMove (s : State) (d key : Nat) (toTier : Bool) (h y : Nat) : State :=
  let m : PageMove :=
    { key := key, toTier := toTier, hbm := h, xt := y, ports := s.framePorts (s.regionAddr d y), order := s.nextId }
  ({ s with nextId := s.nextId + 1 } : State).modSlice d (fun x => { x with moves := x.moves ++ [m] })

/-- A page transfer can end: no port of it is lost (R287). -/
def State.moveFree (s : State) (m : PageMove) : Bool := s.memFree && m.ports.all (fun p => !s.mem.xtLost.contains p)

/-- Requests that reached the ports of a page transfer before it are served there first (R42). -/
def State.beforeMove (s : State) (m : PageMove) : State :=
  (s.mem.xt.filter (fun x => m.ports.contains x.port && decide (x.order < m.order))).foldl (fun s x => s.xtDone x false) s

/-- PAGE_OUT_START (R309, R310, R312): the sweep takes up to five rounds, since the first may only clear REF bits. Paging goes on until
the free frames reach HIGH; frames that page-outs in flight will free are not waited for twice. -/
def execPageOutStart (slice : Fin 4) (s : State) : Out :=
  let d := slice.val
  let x := s.slice d
  let leaving := countWhere (fun (m : PageMove) => m.toTier) x.moves
  let wanted := decide (s.hbmFree d < s.markLow d) || x.sweeping
  if !(s.memFree && s.depOn && s.pageEn) || !wanted || decide (16 ≤ x.moves.length) ||
      (x.nextPageIn.isSome && (s.freeFrame d).isSome) then .next s
  else if s.markHigh d ≤ s.hbmFree d then .next (s.modSlice d (fun x => { x with sweeping := false }))
  else if s.markHigh d ≤ s.hbmFree d + leaving then .next s
  else
    match s.freeRegion d with
    | none => .next s
    | some y =>
      let order := x.frames.filter (fun f => decide (x.sweepAt ≤ f.1)) ++ x.frames.filter (fun f => decide (f.1 < x.sweepAt))
      let r := s.sweep d order [0, 1, 2, 3, 3]
      match r.1 with
      | none => .next r.2
      | some (f, key) =>
        let e := r.2.depPeek d key
        .next (((r.2.modSlice d (fun x =>
          { x with xtFrames := Tab.put x.xtFrames y key, sweepAt := f + 1, sweeping := true })).startMove d key true f y).cacheEntry d key
            { e with loc := .moving })

/-- The 256 lines of a frame go from one address to another with their poison. -/
def State.copyFrame (s : State) (a b : Nat) : State :=
  (List.range 256).foldl (fun s i =>
    let r := s.readLine (a + 256 * i)
    r.2.2.writeLine (b + 256 * i) r.1 r.2.1) s

/-- PAGE_OUT_COMPLETE (R310): the block is in the tier, and its HBM frame is free. -/
def execPageOutComplete (slice : Fin 4) (s : State) : Out :=
  let d := slice.val
  match (s.slice d).moves.find? (fun m => m.toTier) with
  | none => .next s
  | some m =>
    if !s.moveFree m then .next s
    else
      let s1 := (s.beforeMove m).copyFrame (s.frameAddr d m.hbm) (s.regionAddr d m.xt)
      let r := s1.depEntry d m.key
      let s2 := r.2.cacheEntry d m.key { r.1 with loc := .xt, frame := m.xt }
      let s3 := s2.modSlice d (fun x =>
        { x with moves := x.moves.erase m, frames := Tab.del x.frames m.hbm })
      let s4 := if s3.markHigh d ≤ s3.hbmFree d then s3.modSlice d (fun x => { x with sweeping := false }) else s3
      .next (s4.count (blkMd d) 0x2B 0x1FF 1).depSettle

/-- PAGE_IN_START (R312, R313): the oldest entry starts once a transfer slot and an HBM frame are free. -/
def execPageInStart (slice : Fin 4) (s : State) : Out :=
  let d := slice.val
  let x := s.slice d
  match x.nextPageIn, s.freeFrame d with
  | some f, some h =>
    if !(s.memFree && s.depOn) || decide (16 ≤ x.moves.length) then .next s
    else
      let r := s.depEntry d f.key
      .next (((r.2.modSlice d (fun x => { x with frames := Tab.put x.frames h f.key })).startMove d f.key false h r.1.frame).cacheEntry
        d f.key { r.1 with loc := .moving })
  | _, _ => .next s

/-- PAGE_IN_COMPLETE (R310, R313): the block is resident, the region frame and the fault-queue entry are freed, and the waiting
requests are served in order. Lines that the device poisons are named (R285). -/
def execPageInComplete (slice : Fin 4) (s : State) (poison : List (Fin 256) := []) : Out :=
  let d := slice.val
  match (s.slice d).moves.find? (fun m => !m.toTier) with
  | none => .next s
  | some m =>
    if !s.moveFree m then .next s
    else
      let waiting := (((s.slice d).faults.find? (fun f => f.key == m.key)).map (·.waiting)).getD []
      let from_ := s.regionAddr d m.xt
      let s0 := poison.foldl (fun s i => s.tierSpoil (from_ % 2 ^ 44 + 256 * i.val)) (s.beforeMove m)
      let s1 := s0.copyFrame from_ (s.frameAddr d m.hbm)
      let r := s1.depEntry d m.key
      let s2 := r.2.cacheEntry d m.key { r.1 with loc := .hbm, frame := m.hbm }
      let s3 := s2.modSlice d (fun x =>
        { x with moves := x.moves.erase m, xtFrames := Tab.del x.xtFrames m.xt,
                 faults := x.faults.filter (fun f => f.key != m.key) })
      .next (waiting.foldl State.depRequest (s3.count (blkMd d) 0x2A 0x1FF 1)).depSettle

/-- A request at the intake can proceed: it needs no new fault-queue entry, or one is free (R313). -/
def State.intakeFree (s : State) (d : Nat) (q : DepReq) : Bool :=
  let key := (depSlice ((s.depDesc? q.stream).getD 0) q).2
  let e := s.depPeek d key
  decide ((s.slice d).faults.length < 256) || (s.slice d).faults.any (fun f => f.key == key) || e.loc == .hbm || e.loc == .absent ||
    (s.slice d).moves.any (fun m => m.key == key && m.toTier)

/-- DEP_INTAKE_RELEASE (R313): the first request at the intake proceeds once it can; those of its core behind it go on too. -/
def execDepIntakeRelease (slice : Fin 4) (s : State) : Out :=
  let d := slice.val
  match (s.slice d).intake with
  | [] => .next s
  | q :: rest =>
    if !(s.memFree && s.depOn) || !s.intakeFree d q then .next s
    else
      let mine := rest.filter (sameCore q)
      let s1 := s.modSlice d (fun x => { x with intake := rest.filter (fun x => !sameCore q x) })
      .next (mine.foldl State.depRequest (s1.depRequest q)).depSettle

end Sys2Proof.Machine
end

