-- ==== Sys2Proof/Machine/Rules.lean ====
section
/-! DEFINITION. The Teller's update rules (R214 to R222) and the schedule engine's arithmetic (R227, R228, R369). A value travels
with the flags that it and what it was made from have raised. -/

namespace Sys2Proof.Machine

/-! ### FP32 operations that carry flags (R214) -/

/-- A constant. -/
def cF (n : Nat) : CodeF := (n, 0)
def oneF : CodeF := (0x3F800000, 0)
def zeroF : CodeF := (0, 0)

def fAdd (a b : CodeF) : CodeF := let r := Fmt.fp32.add .rne a.1 b.1; (r.1, a.2 ||| b.2 ||| r.2)
def fSub (a b : CodeF) : CodeF := let r := Fmt.fp32.sub .rne a.1 b.1; (r.1, a.2 ||| b.2 ||| r.2)
def fMul (a b : CodeF) : CodeF := let r := Fmt.fp32.mul .rne a.1 b.1; (r.1, a.2 ||| b.2 ||| r.2)
def fDiv (a b : CodeF) : CodeF := let r := Fmt.fp32.div .rne a.1 b.1; (r.1, a.2 ||| b.2 ||| r.2)
def fFma (a b c : CodeF) : CodeF :=
  let r := Fmt.fp32.fma .rne a.1 b.1 c.1
  (r.1, a.2 ||| b.2 ||| c.2 ||| r.2)
def fRcp (a : CodeF) : CodeF := let r := Fmt.fp32.rcp .rne a.1; (r.1, a.2 ||| r.2)
def fSqrt (a : CodeF) : CodeF := let r := Fmt.fp32.sqrt .rne a.1; (r.1, a.2 ||| r.2)
def fRsqrt (a : CodeF) : CodeF := let r := Fmt.fp32.rsqrt .rne a.1; (r.1, a.2 ||| r.2)
def fExp (a : CodeF) : CodeF := let r := Fmt.fp32.exp .rne a.1; (r.1, a.2 ||| r.2)
/-- The sign changes. -/
def fNeg (a : CodeF) : CodeF := (if 2 ^ 31 ≤ a.1 then a.1 % 2 ^ 31 else a.1 + 2 ^ 31, a.2)

/-- A sum in the order of R102. -/
def fSum (xs : List CodeF) : CodeF :=
  match (chunks128 ((xs.length + 127) / 128) xs).map (redChunk 0) with
  | [] => zeroF
  | x :: rest => rest.foldl (redStep 0) x

/-- A whole number as FP32 (R228). -/
def fNat (n : Nat) : CodeF := ((Fmt.fp32.encode .rne (.fin false n 0)).1, 0)

/-- FP32 words from a number, and back to bytes. -/
def wordsF (v n : Nat) : List CodeF := (elements v 32 n).map cF
def bytesF (xs : List CodeF) : List Byte := elementBytes 32 (xs.map (·.1))

/-! ### Layer records (R210, R211, R368) -/

/-- A layer record. -/
structure Rec where
  version : Nat
  op : Nat
  rule : Nat
  frozen : Bool
  nesterov : Bool
  teller : Nat
  group : Nat
  cfmt : Nat
  cscale : Nat
  cround : Bool
  layer : Nat
  rows : Nat
  cols : Nat
  grad0 : Nat
  grad1 : Nat
  master : Nat
  compute : Nat
  state : Nat
  work : Nat
  hp : List CodeF
  kpcF : Nat
  kpcMaxit : Nat
  kpcBr : Nat
  kpcBc : Nat
  raw : Nat := 0
  deriving DecidableEq, Repr

def decRec (w : Nat) : Rec :=
  { version := bits w 7 0, op := bits w 9 8, rule := bits w 11 10, frozen := bit w 12, nesterov := bit w 13,
    teller := bits w 14 14, group := bits w 21 16, cfmt := bits w 27 24, cscale := bits w 29 28, cround := bit w 30,
    layer := bits w 47 32, rows := bits w 80 64, cols := bits w 112 96, grad0 := bits w 175 128, grad1 := bits w 239 192,
    master := bits w 303 256, compute := bits w 367 320, state := bits w 431 384, work := bits w 495 448,
    hp := (List.range 6).map (fun i => cF (element (w / 2 ^ 512) 32 i)), kpcF := bits w 719 704, kpcMaxit := bits w 725 720,
    kpcBr := bits w 749 736, kpcBc := bits w 765 752, raw := w }

def Rec.vector (r : Rec) : Bool := r.rows == 1
def Rec.n (r : Rec) : Nat := r.rows * r.cols
def Rec.h (r : Rec) (i : Nat) : CodeF := r.hp.getD i zeroF

def shapeOk (r : Rec) : Bool :=
  if r.rows = 1 then decide (32 ≤ r.cols) && decide (r.cols ≤ 65536) && r.cols % 32 == 0
  else decide (128 ≤ r.rows) && decide (r.rows ≤ 65536) && r.rows % 128 == 0 &&
    decide (128 ≤ r.cols) && decide (r.cols ≤ 65536) && r.cols % 128 == 0

def kpcBlockOk (b : Nat) : Bool := decide (128 ≤ b) && decide (b ≤ 8192) && b % 128 == 0

/-- The completion status of an invalid record, for Teller `n` (R211). -/
def Rec.invalid (r : Rec) (n : Nat) : Option Nat :=
  if r.version ≠ 1 then some 0x40
  else if 2 ≤ r.op ∨ 8 ≤ r.cfmt ∨ r.cscale = 3 ∨ r.teller ≠ n ∨ shapeOk r = false ∨
      (5 ≤ r.cfmt ∧ r.cscale = 0) ∨
      [r.grad0, r.grad1, r.master, r.compute, r.state, r.work].any (fun a => a % 256 != 0) = true ∨
      (r.rule = 3 ∧ (r.rows = 1 ∨ kpcBlockOk r.kpcBr = false ∨ kpcBlockOk r.kpcBc = false ∨ r.rows % r.kpcBr ≠ 0 ∨
        r.cols % r.kpcBc ≠ 0 ∨ r.kpcF = 0 ∨ r.kpcMaxit = 0)) then some 0x41
  else none

/-! ### Layouts (R210, R212) -/

/-- The place of element (i, j) in tile order. DESIGN CHOICE (log 94): the spec does not give the order of a layer's tiles or of the
elements within one; here tiles of 128 × 128 stand row by row, and so do the elements of a tile; a vector stands in order. -/
def tilePos (r : Rec) (i j : Nat) : Nat :=
  if r.rows = 1 then j else 16384 * (i / 128 * (r.cols / 128) + j / 128) + 128 * (i % 128) + j % 128

/-- The row and column at a place in tile order. -/
def tileAt (r : Rec) (k : Nat) : Nat × Nat :=
  if r.rows = 1 then (0, k)
  else
    let t := k / 16384
    (128 * (t / (r.cols / 128)) + k % 16384 / 128, 128 * (t % (r.cols / 128)) + k % 128)

/-- Values in tile order as rows. -/
def asRows (r : Rec) (xs : List CodeF) : List (List CodeF) :=
  let a := xs.toArray
  (List.range r.rows).map (fun i => (List.range r.cols).map (fun j => a.getD (tilePos r i j) zeroF))

/-- Rows as values in tile order. -/
def inTiles (r : Rec) (m : List (List CodeF)) : List CodeF :=
  let a := (m.map List.toArray).toArray
  (List.range r.n).map (fun k => let p := tileAt r k; (a.getD p.1 #[]).getD p.2 zeroF)

/-- Sizes in elements of the arrays of the optimizer state (R212). -/
def Rec.arrays (r : Rec) : List Nat :=
  if r.rule = 0 then [r.n]
  else if r.rule = 1 then [r.n, r.n]
  else if r.rule = 2 then (if r.vector then [r.cols] else [r.rows, r.cols])
  else
    r.n :: ((List.range (r.rows / r.kpcBr * (r.cols / r.kpcBc))).flatMap (fun _ =>
      [r.kpcBr * r.kpcBr, r.kpcBc * r.kpcBc, r.kpcBr * r.kpcBr, r.kpcBc * r.kpcBc]))

/-- Offsets of arrays of given sizes from STATE, each at a 256-byte boundary after the scalar block. -/
def arrayOffs : List Nat → Nat → List Nat
  | [], _ => []
  | n :: t, o => o :: arrayOffs t (o + roundUp (4 * n) 256)

def Rec.offs (r : Rec) : List Nat := arrayOffs r.arrays 256

/-! ### MOM, ADM, FAC (R216 to R218) -/

/-- What a rule works with: gradient, weights, arrays of state, scalar block, learning rate, weight decay, inv_s. -/
structure RuleIn where
  g : List CodeF
  w : List CodeF
  st : List (List CodeF)
  scalars : List CodeF
  eta : CodeF
  lam : CodeF
  invS : CodeF

/-- What a rule writes: weights, arrays of state, scalar block, the flags, its completion status, damping retries, and whether the
previous preconditioner was kept. -/
structure RuleOut where
  w : List CodeF
  st : List (List CodeF)
  scalars : List CodeF
  flags : Nat
  status : Nat := 0
  retries : Nat := 0
  kept : Bool := false
  work : List CodeF := []

/-- The scalar block: P1, P2, AGE, and words 3 to 63 written 0 (R212). -/
def scalarBlock (p1 p2 age : CodeF) : List CodeF := p1 :: p2 :: age :: List.replicate 61 zeroF

/-- The scalar block of a rule that changes none of its three words. -/
def RuleIn.sameScalars (x : RuleIn) : List CodeF :=
  scalarBlock (x.scalars.getD 0 zeroF) (x.scalars.getD 1 zeroF) (x.scalars.getD 2 zeroF)

def flagsOf (xs : List CodeF) : Nat := xs.foldl (fun m x => m ||| x.2) 0

def zip3 (a b c : List CodeF) : List (CodeF × CodeF × CodeF) := a.zip (b.zip c)

def ruleMom (r : Rec) (x : RuleIn) : RuleOut :=
  let mu := r.h 0
  let es := (zip3 x.g x.w ((x.st[0]?).getD [])).map (fun e =>
    let g := fFma x.lam e.2.1 (fMul e.1 x.invS)
    let m := fAdd (fMul e.2.2 mu) g
    let d := if r.nesterov then fFma m mu g else m
    (fFma (fNeg x.eta) d e.2.1, m))
  let w := es.map (·.1)
  let m := es.map (·.2)
  { w := w, st := [m], scalars := x.scalars, flags := flagsOf w ||| flagsOf m }

def ruleAdm (r : Rec) (x : RuleIn) : RuleOut :=
  let b1 := r.h 0
  let b2 := r.h 1
  let eps := r.h 2
  let p1 := fMul (x.scalars.getD 0 zeroF) b1
  let p2 := fMul (x.scalars.getD 1 zeroF) b2
  let bc1 := fRcp (fSub oneF p1)
  let bc2 := fRcp (fSub oneF p2)
  let c1 := fSub oneF b1
  let c2 := fSub oneF b2
  let etaLam := fMul x.eta x.lam
  let es := (x.g.zip (zip3 x.w ((x.st[0]?).getD []) ((x.st[1]?).getD []))).map (fun e =>
    let g := fMul e.1 x.invS
    let m := fFma c1 g (fMul e.2.2.1 b1)
    let v := fFma c2 (fMul g g) (fMul e.2.2.2 b2)
    let den := fAdd (fSqrt (fMul v bc2)) eps
    let u := fDiv (fMul m bc1) den
    let w := fFma (fNeg etaLam) e.2.1 e.2.1
    (fFma (fNeg x.eta) u w, m, v))
  let w := es.map (·.1)
  let m := es.map (·.2.1)
  let v := es.map (·.2.2)
  { w := w, st := [m, v], scalars := scalarBlock p1 p2 (x.scalars.getD 2 zeroF),
    flags := flagsOf w ||| flagsOf m ||| flagsOf v ||| p1.2 ||| p2.2 ||| etaLam.2 }

/-- The two weight lines that end FAC. -/
def facWeight (x : RuleIn) (etaLam u w : CodeF) : CodeF := fFma (fNeg x.eta) u (fFma (fNeg etaLam) w w)

def ruleFacVector (r : Rec) (x : RuleIn) : RuleOut :=
  let b2 := r.h 0
  let cb := fSub oneF b2
  let etaLam := fMul x.eta x.lam
  let es := (zip3 x.g x.w ((x.st[0]?).getD [])).map (fun e =>
    let g := fMul e.1 x.invS
    let v := fFma cb (fFma g g (r.h 1)) (fMul e.2.2 b2)
    (facWeight x etaLam (fMul g (fRsqrt v)) e.2.1, v))
  let w := es.map (·.1)
  let v := es.map (·.2)
  { w := w, st := [v], scalars := x.sameScalars, flags := flagsOf w ||| flagsOf v }

def ruleFacMatrix (r : Rec) (x : RuleIn) : RuleOut :=
  let b2 := r.h 0
  let cb := fSub oneF b2
  let invR := fRcp (fNat r.rows)
  let invC := fRcp (fNat r.cols)
  let g := (asRows r x.g).map (fun row => row.map (fun e => fMul e x.invS))
  let q := g.map (fun row => row.map (fun e => fFma e e (r.h 1)))
  let cs := q.foldl (fun acc row => (acc.zip row).map (fun e => fAdd e.1 e.2)) (List.replicate r.cols zeroF)
  let r' := (q.zip ((x.st[0]?).getD [])).map (fun e => fFma cb (fMul (fSum e.1) invC) (fMul e.2 b2))
  let c' := (cs.zip ((x.st[1]?).getD [])).map (fun e => fFma cb (fMul e.1 invR) (fMul e.2 b2))
  let invTot := fRcp (fSum r')
  let etaLam := fMul x.eta x.lam
  let w := ((g.zip (asRows r x.w)).zip r').map (fun row =>
    ((row.1.1.zip row.1.2).zip c').map (fun e =>
      let vh := fMul (fMul row.2 e.2) invTot
      facWeight x etaLam (fMul e.1.1 (fRsqrt vh)) e.1.2))
  let wt := inTiles r w
  { w := wt, st := [r', c'], scalars := x.sameScalars, flags := flagsOf wt ||| flagsOf r' ||| flagsOf c' }

/-! ### The matrix unit and KPC (R219 to R222) -/

/-- A matrix, row by row. -/
abbrev Mat := List (List CodeF)

def transpose (m : Mat) : Mat :=
  match m with
  | [] => []
  | row :: _ =>
    let a := (m.map List.toArray).toArray
    (List.range row.length).map (fun j => (List.range m.length).map (fun i => (a.getD i #[]).getD j zeroF))

def negZeroF : CodeF := (negZero32, 0)

/-- A fused chain in ascending index from -0 (R66). -/
def fChain (a b : List CodeF) : CodeF := (a.zip b).foldl (fun c e => fFma e.1 e.2 c) negZeroF

/-- A dot product: fused chains over chunks of 128, each after the first added to the running value (R66, R67, R219). -/
def fDot (a b : List CodeF) : CodeF :=
  match (chunks128 ((a.length + 127) / 128) a).zip (chunks128 ((b.length + 127) / 128) b) with
  | [] => zeroF
  | p :: rest => rest.foldl (fun c q => fAdd c (fChain q.1 q.2)) (fChain p.1 p.2)

def matMul (a b : Mat) : Mat :=
  let t := transpose b
  a.map (fun row => t.map (fun col => fDot row col))

def matMap2 (f : CodeF → CodeF → CodeF) (a b : Mat) : Mat := (a.zip b).map (fun r => (r.1.zip r.2).map (fun e => f e.1 e.2))

/-- A value on the diagonal, +0 elsewhere. -/
def diag (n : Nat) (v : CodeF) : Mat :=
  (List.range n).map (fun i => (List.range n).map (fun j => if i = j then v else zeroF))

/-- Add to the diagonal. -/
def addDiag (m : Mat) (v : CodeF) : Mat :=
  m.zipIdx.map (fun (r : List CodeF × Nat) => r.1.zipIdx.map (fun (e : CodeF × Nat) => if e.2 = r.2 then fAdd e.1 v else e.1))

def matFlags (m : Mat) : Nat := m.foldl (fun a r => a ||| flagsOf r) 0
def fFinite (a : CodeF) : Bool := let x := Fmt.fp32.decode a.1; !x.isNan && !x.isInf
def matFinite (m : Mat) : Bool := m.all (fun r => r.all fFinite)
def fLe (a b : CodeF) : Bool := !ltNum (Fmt.fp32.decode b.1) (Fmt.fp32.decode a.1)
def fMax (a b : CodeF) : CodeF := (Fmt.fp32.max a.1 b.1)

/-- One column of the factor: given the columns before it (each a list over rows), the pivot and the new column (R222). DESIGN CHOICE
(log 94): the inner sum is a fused chain from -0 that is subtracted in an operation of its own, the diagonal is the pivot's square root,
and the elements below it are divided by that; the spec gives only the chain. -/
def cholColumn (a : Mat) (cols : List (List CodeF)) (j : Nat) : CodeF × List CodeF :=
  let at_ (i k : Nat) : CodeF := ((a[i]?).getD []).getD k zeroF
  let before (i : Nat) : List CodeF := cols.map (fun c => c.getD i zeroF)
  let rest (i : Nat) : CodeF := fSub (at_ i j) (fChain (before i) (before j))
  let pivot := rest j
  let root := fSqrt pivot
  (pivot, (List.range a.length).map (fun i => if i < j then zeroF else if i = j then root else fDiv (rest i) root))

/-- How far chol_check has come: no pivot has failed, the columns made, the flags of its operations. -/
abbrev CholRun := Bool × List (List CodeF) × Nat

/-- The next column: a pivot at or below the limit, or one that is not finite, ends the check. -/
def cholStep (a : Mat) (limit : CodeF) (m : CholRun) (j : Nat) : CholRun :=
  if m.1 then
    let c := cholColumn a m.2.1 j
    if fFinite c.1 && !fLe c.1 limit then (true, m.2.1 ++ [c.2], m.2.2 ||| flagsOf c.2)
    else (false, m.2.1, m.2.2 ||| c.1.2)
  else m

/-- chol_check: whether every pivot lies above τ × the largest diagonal element, and the flags of its operations (R81, R222). -/
def cholCheck (a : Mat) (tau : CodeF) : Bool × Nat :=
  let dg := (List.range a.length).map (fun i => ((a[i]?).getD []).getD i zeroF)
  let limit := fMul tau (dg.foldl fMax (dg.headD zeroF))
  let m := (List.range a.length).foldl (cholStep a limit) (true, [], limit.2)
  (m.1, m.2.2)

/-- A root, or none on failure, and the flags of the operations that led to it (R81). -/
abbrev RootRun := Option Mat × Nat

/-- The iteration of R221. -/
def rootIter (tol : CodeF) (d : Nat) : Nat → Mat → Mat → RootRun
  | 0, x, mx => (none, matFlags x ||| matFlags mx)
  | n + 1, x, mx =>
    let c : CodeF := (0xBE800000, 0)
    let t := matMap2 (fun m i => fFma c m i) mx (diag d (0x3FA00000, 0))
    let x' := matMul x t
    let t2 := matMul t t
    let mx' := matMul (matMul t2 t2) mx
    let fl := matFlags t ||| matFlags x' ||| matFlags mx'
    if matFinite t && matFinite x' && matFinite mx' then
      let dist := (matMap2 fSub mx' (diag d oneF)).flatMap (fun r => r.map (fun e => ((e.1 % 2 ^ 31, e.2) : CodeF)))
      if dist.all (fun e => fLe e tol) then (some x', fl ||| flagsOf dist)
      else
        let m := rootIter tol d n x' mx'
        (m.1, fl ||| flagsOf dist ||| m.2)
    else (none, fl)

/-- The inverse fourth root of a damped statistic (R221). -/
def inverseRoot (maxit : Nat) (tau tol lam : CodeF) (s : Mat) : RootRun :=
  let d := s.length
  let a := addDiag s lam
  if !matFinite a then (none, matFlags a)
  else
    let k := cholCheck a tau
    if !k.1 then (none, matFlags a ||| k.2)
    else
      let f := fSqrt (fSum (a.map (fun r => fSum (r.map (fun e => fMul e e)))))
      let z := fDiv (0x40200000, 0) f
      let x := diag d (fSqrt (fSqrt z))
      let mx := a.map (fun r => r.map (fun e => fMul z e))
      let fl := k.2 ||| matFlags x ||| matFlags mx
      if fFinite z && matFinite mx then
        let m := rootIter tol d maxit x mx
        (m.1, fl ||| m.2)
      else (none, fl)

/-- Roots of both factors of every block at one damping, and the flags; a failure ends the attempt (log 14). -/
def allRoots (r : Rec) (lam : CodeF) : List (Mat × Mat) → Option (List (Mat × Mat)) × Nat
  | [] => (some [], 0)
  | (l, rr) :: t =>
    let root (m : Mat) : RootRun := inverseRoot r.kpcMaxit (r.h 3) (r.h 4) lam m
    let a := root l
    match a.1 with
    | none => (none, a.2)
    | some x =>
      let b := root rr
      match b.1 with
      | none => (none, a.2 ||| b.2)
      | some y =>
        let rest := allRoots r lam t
        (rest.1.map (fun l => (x, y) :: l), a.2 ||| b.2 ||| rest.2)

/-- What the attempts of R222 came to: the roots, the retries made, the flags of every attempt. -/
structure Tries where
  roots : Option (List (Mat × Mat))
  retries : Nat
  flags : Nat

/-- The attempts at rising damping. -/
def tryRoots (r : Rec) (blocks : List (Mat × Mat)) : List CodeF → Nat → Nat → Tries
  | [], n, fl => ⟨none, n, fl⟩
  | lam :: rest, n, fl =>
    let m := allRoots r lam blocks
    match m.1 with
    | some x => ⟨some x, n, fl ||| lam.2 ||| m.2⟩
    | none =>
      if rest.isEmpty then ⟨none, n, fl ||| lam.2 ||| m.2⟩ else tryRoots r blocks rest (n + 1) (fl ||| lam.2 ||| m.2)

/-- A square matrix from its elements in row order. -/
def toMat (n : Nat) (xs : List CodeF) : Mat := (List.range n).map (fun i => (xs.drop (n * i)).take n)

/-- Block (p, q) of a layer's rows. -/
def blockOf (r : Rec) (m : Mat) (p q : Nat) : Mat :=
  ((m.drop (p * r.kpcBr)).take r.kpcBr).map (fun row => (row.drop (q * r.kpcBc)).take r.kpcBc)

/-- KPC (R219 to R222). The four arrays of a block stand in the state after M; every operation sets flags, those of attempts that fail
too (R81). DESIGN CHOICE (log 94): the arrays stand row by row, both parts of the work area in tile order, and its scratch part is left
as it is; the spec gives their sizes alone. -/
def ruleKpc (r : Rec) (x : RuleIn) : RuleOut :=
  let beta := r.h 0
  let mu := r.h 1
  let cbeta := fSub oneF beta
  let etaLam := fMul x.eta x.lam
  let age := (x.scalars.getD 2 zeroF).1
  let nq := r.cols / r.kpcBc
  let nb := r.rows / r.kpcBr * nq
  let g := (asRows r x.g).map (fun row => row.map (fun e => fMul e x.invS))
  let arr (b k : Nat) : List CodeF := (x.st[1 + 4 * b + k]?).getD []
  let ids := List.range nb
  let gbs := ids.map (fun b => blockOf r g (b / nq) (b % nq))
  let stats := (ids.zip gbs).map (fun e =>
    let gb := e.2
    let gt := transpose gb
    let upd (s t : Mat) : Mat := matMap2 (fun u v => fFma cbeta v (fMul u beta)) s t
    (upd (toMat r.kpcBr (arr e.1 0)) (matMul gb gt), upd (toMat r.kpcBc (arr e.1 1)) (matMul gt gb)))
  let again := decide (age = 0xFFFFFFFF) || decide (r.kpcF ≤ age + 1)
  let lam0 := r.h 2
  let damp := [lam0, fMul (0x41200000, 0) lam0, fMul (0x42C80000, 0) lam0, fMul (0x447A0000, 0) lam0]
  let tried : Tries := if again then tryRoots r stats damp 0 0 else ⟨none, 0, 0⟩
  let old := ids.map (fun b => (toMat r.kpcBr (arr b 2), toMat r.kpcBc (arr b 3)))
  let ident := ids.map (fun _ => (diag r.kpcBr oneF, diag r.kpcBc oneF))
  let kept := again && tried.roots.isNone
  let roots := tried.roots.getD (if kept && age == 0xFFFFFFFF then ident else old)
  let dirs := (gbs.zip roots).map (fun e =>
    if age = 0xFFFFFFFF then e.1 else matMul e.2.1 (matMul e.1 e.2.2))
  let pm := (List.range r.rows).map (fun i =>
    (List.range nq).flatMap (fun q => ((dirs[i / r.kpcBr * nq + q]?).getD []).getD (i % r.kpcBr) []))
  let pt := inTiles r pm
  let es := (pt.zip (x.w.zip ((x.st[0]?).getD []))).map (fun e =>
    let m := fAdd (fMul e.2.2 mu) e.1
    (fFma (fNeg x.eta) m (fFma (fNeg etaLam) e.2.1 e.2.1), m))
  let w := es.map (·.1)
  let m := es.map (·.2)
  let out := (stats.zip roots).flatMap (fun e => [e.1.1.flatten, e.1.2.flatten, e.2.1.flatten, e.2.2.flatten])
  let age' : CodeF := (if again then 0 else age + 1, 0)
  { w := w, st := m :: out, scalars := scalarBlock (x.scalars.getD 0 zeroF) (x.scalars.getD 1 zeroF) age',
    flags := flagsOf w ||| flagsOf m ||| stats.foldl (fun a s => a ||| matFlags s.1 ||| matFlags s.2) tried.flags,
    status := if kept then 2 else if 0 < tried.retries then 3 else 0, retries := if kept then 3 else tried.retries, kept := kept,
    work := inTiles r g ++ pt }

/-- The rule of a record. -/
def runRule (r : Rec) (x : RuleIn) : RuleOut :=
  if r.rule = 0 then ruleMom r x
  else if r.rule = 1 then ruleAdm r x
  else if r.rule = 2 then (if r.vector then ruleFacVector r x else ruleFacMatrix r x)
  else ruleKpc r x

/-! ### Schedules (R227, R228, R369) -/

/-- A schedule program. -/
structure Prog where
  version : Nat
  kind : Nat
  restart : Bool
  follow : Bool
  mult : Nat
  warm : Nat
  period : Nat
  lrStart : CodeF
  lrPeak : CodeF
  endRatio : CodeF
  invTau : CodeF
  lnGamma : CodeF
  wdBase : CodeF
  deriving DecidableEq, Repr

/-- A PERIOD or MULT of 0 is taken as 1, KIND 5 to 7 as 0 (R369). -/
def decProg (w : Nat) : Prog :=
  { version := bits w 7 0, kind := if 5 ≤ bits w 10 8 then 0 else bits w 10 8, restart := bit w 11, follow := bit w 12,
    mult := max 1 (bits w 23 16), warm := bits w 63 32, period := max 1 (bits w 95 64), lrStart := cF (bits w 127 96),
    lrPeak := cF (bits w 159 128), endRatio := cF (bits w 191 160), invTau := cF (bits w 223 192),
    lnGamma := cF (bits w 255 224), wdBase := cF (bits w 287 256) }

/-- Terms of arctan(1/k) in fixed point: `p` is 2^320 / k^(2i+1). -/
def atanTerms (k : Nat) : Nat → Nat → Nat → Int
  | 0, _, _ => 0
  | n + 1, i, p =>
    let v : Int := ((p / (2 * i + 1) : Nat) : Int)
    (if i % 2 = 0 then v else -v) + atanTerms k n (i + 1) (p / (k * k))

/-- π in fixed point, by 16 arctan(1/5) - 4 arctan(1/239). -/
def piFixed : Nat :=
  (16 * atanTerms 5 80 0 (2 ^ expBits / 5) - 4 * atanTerms 239 30 0 (2 ^ expBits / 239)).toNat

/-- Terms of the cosine series in fixed point: `t` is y^(2i) / (2i)!, `sq` is y². -/
def cosTerms (sq : Nat) : Nat → Nat → Nat → Int
  | 0, _, _ => 0
  | n + 1, i, t =>
    (if i % 2 = 0 then (t : Int) else -(t : Int)) + cosTerms sq n (i + 1) (t * sq / 2 ^ expBits / ((2 * i + 1) * (2 * i + 2)))

/-- cos(π x) for 0 ≤ x ≤ 1, correctly rounded: exact at 0, 1/2 and 1, otherwise never a dyadic value (R228). -/
def cospiNum (m : Nat) (e : Int) : Num :=
  let scaled := m * 2 ^ expBits * 2 ^ e.toNat
  let x := scaled / 2 ^ (-e).toNat
  let exact := scaled % 2 ^ (-e).toNat == 0
  if exact && x == 2 ^ (expBits - 1) then .fin false 0 0
  else if exact && x == 2 ^ expBits then .fin true 1 0
  else if m = 0 then .fin false 1 0
  else
    let half := decide (2 ^ (expBits - 1) < x)
    let z := if half then 2 ^ expBits - x else x
    let y := z * piFixed / 2 ^ expBits
    let c := min (2 ^ expBits - 1) (cosTerms (y * y / 2 ^ expBits) 80 0 (2 ^ expBits)).toNat
    .fin half (2 * c + 1) (-(expBits : Int) - 1)

def fCospi (a : CodeF) : CodeF :=
  match Fmt.fp32.decode a.1 with
  | .fin _ m e => ((Fmt.fp32.encode .rne (cospiNum m e)).1, a.2)
  | _ => a

/-- min(x, 1.0). -/
def fMinOne (a : CodeF) : CodeF := (Fmt.fp32.min a.1 oneF.1)

/-- The restart loop of R228, exact and saturating: the step within the period and the period. It ends, since the period
grows; `fuel` bounds it. -/
def restartAt (q : Nat) : Nat → Nat → Nat → Nat × Nat
  | 0, u, p => (u, p)
  | f + 1, u, p => if p ≤ u then restartAt q f (u - p) (min (p * q) (2 ^ 32 - 1)) else (u, p)

/-- η and λ of a program at a step (R228). -/
def Prog.values (p : Prog) (t : Nat) : CodeF × CodeF :=
  let lp := p.lrPeak
  let l0 := p.lrStart
  let eta :=
    if t < p.warm then fFma (fSub lp l0) (fMul (fNat t) (fRcp (fNat p.warm))) l0
    else
      let u0 := t - p.warm
      let up : Nat × Nat :=
        if p.restart then (if p.mult = 1 then (u0 % p.period, p.period) else restartAt p.mult 64 u0 p.period)
        else (u0, p.period)
      let x := fMinOne (fMul (fNat up.1) (fRcp (fNat up.2)))
      let om := fSub oneF p.endRatio
      let f :=
        if p.kind = 1 then fFma (fNeg om) x oneF
        else if p.kind = 2 then fFma om (fMul (fAdd oneF (fCospi x)) (0x3F000000, 0)) p.endRatio
        else if p.kind = 3 then fRsqrt (fFma (fNat up.1) p.invTau oneF)
        else if p.kind = 4 then fExp (fMul (fNat up.1) p.lnGamma)
        else oneF
      fMul lp f
  let lam := if p.follow then fMul p.wdBase (fMul eta (fRcp lp)) else p.wdBase
  (eta, lam)

end Sys2Proof.Machine
end

