-- ==== Sys2Proof/Machine/Teller.lean ====
section
/-! DEFINITION. The Tellers: their queues and records (R203 to R226, R239 to R249), and the schedule engines (R227 to R229, R250
to R253). -/

namespace Sys2Proof.Machine

/-! ### Versions, parity, latches (R174, R201, R233) -/

/-- VERSION_STRIDE of the job (R187). -/
def State.verStride (s : State) : Nat := (s.step.job.map (·.versionStride)).getD 0
/-- Device addresses of a structure in the active and the inactive version. -/
def State.activeAddr (s : State) (a : Nat) : Nat := a + s.activeVer * s.verStride
def State.inactiveAddr (s : State) (a : Nat) : Nat := a + (1 - s.activeVer) * s.verStride

/-- The gradient buffer of a parity. -/
def Rec.grad (r : Rec) (parity : Nat) : Nat := if parity % 2 = 0 then r.grad0 else r.grad1

/-- Flags enter a Teller's flag word; INVALID or OVERFLOW latches NONFINITE (R81, R84, R233). -/
def State.tlrFlags (s : State) (n fl : Nat) : State :=
  let s1 := s.orReg (tlrBase n + 0x10) fl
  if fl % 2 = 1 ∨ bit fl 2 = true then { s1 with step := { s1.step with nonfinite := true } } else s1

/-- A TLR_FAULT bit is set and journalled (R241, R436). -/
def State.tlrFault (s : State) (n b : Nat) (cls : ErrClass) (unit addr info : Nat) : State :=
  (s.orReg (tlrBase n + 0xC) (2 ^ b)).report (Err.of cls (0x600 + b) (domXd n 9) unit addr info)

def State.teller (s : State) (n : Nat) : Teller := s.step.teller n
def State.setTeller (s : State) (n : Nat) (t : Teller) : State := { s with step := s.step.setTeller n t }

/-! ### The queue (R213, R239, R242) -/

/-- A record is enqueued; with 64 in the queue the write is discarded and QUEUE_OVER set (R241, R242). -/
def State.enqueueRec (s : State) (n i : Nat) : State :=
  let t := s.teller n
  if 64 ≤ t.level then s.tlrFault n 0 .step i 0 0
  else (s.setTeller n { t with queue := t.queue ++ [i] }).wakeSeen (domXd n 9)

/-- TLR_ENQ. -/
def execTlrEnq (by_ : Writer) (teller : Fin 2) (index : BitVec 16) (s : State) : Out :=
  .next (s.gate by_ false (tlrBase teller.val + 0x14) (fun s => s.enqueueRec teller.val index.toNat))

/-- A record's completion status is posted: TLR_LAST and the step report take it (R226, R249, R504). -/
def State.postStatus (s : State) (n layer status : Nat) : State :=
  let s1 := s.setReg (tlrBase n + 0x3C) (BitVec.ofNat 32 (2 ^ 24 * status + layer))
  if status = 0 then { s1 with step := { s1.step with reportDone := s1.step.reportDone + 1 } }
  else
    { s1 with step := { s1.step with
        reportEntries := s1.step.reportEntries ++ [{ layer := layer, status := status, teller := n }] } }

/-- The record at an index of a Teller's table (R242, R243): it, whether it reads as uncorrectable. -/
def State.readRec (s : State) (n i : Nat) : Rec × Bool × State :=
  let a := 2 ^ 32 * s.rf (tlrBase n + 0x1C) 15 0 + 2 ^ 7 * s.rf (tlrBase n + 0x18) 31 7 + 128 * i
  let r := s.readBytes a 128
  (decRec r.1, r.2.1, r.2.2)

/-- The queued records of a Teller are discarded with status 0x43, once their layers can be read (R239, R548). -/
def State.flushQueue (s : State) (n : Nat) : State :=
  let t := s.teller n
  if s.memFree then
    t.queue.foldl (fun s i => s.postStatus n (s.readRec n i).1.layer 0x43) (s.setTeller n { t with queue := [], flushing := false })
  else s.setTeller n { t with flushing := true }

/-- QFLUSH: every queued record is discarded, while ENABLE is 0 (R239). -/
def execQflush (by_ : Writer) (teller : Fin 2) (s : State) : Out :=
  let n := teller.val
  .next (s.gate by_ false (tlrBase n + 4) (fun s =>
    if s.rf (tlrBase n + 4) 0 0 = 1 ∨ (s.teller n).queue = [] then s else s.flushQueue n))

/-! ### Running a record (R211, R213, R214) -/

/-- Record indices of layers that have weights, with their frozen marks (R375). -/
def State.layerRecords (s : State) : List (Nat × Bool) :=
  ((s.step.job.map (·.layers)).getD []).filterMap (fun e =>
    if e.trainable && e.record != 0xFFFF then some (e.record, e.frozen) else none)

/-- FROZEN of a record: a change takes effect only at a Posting (R181, R225). -/
def State.frozenNow (s : State) (i : Nat) (r : Rec) : Bool :=
  if s.layerRecords.any (fun l => l.1 == i) then s.step.frozenRecs.contains i else r.frozen

/-- The head record of a Teller that may start one: its index, the record as it is read now (R213, R378), whether it is uncorrectable. No
record starts once the step has left RUN (R236). -/
def State.tellerHead (s : State) (n : Nat) : Option (Nat × Rec × Bool × State) :=
  let t := s.teller n
  match t.queue with
  | [] => none
  | i :: _ =>
    if s.memFree && s.step.post == 0 && s.rf (tlrBase n + 4) 0 0 == 1 && t.current.isNone && (s.domain (domXd n 9)).awake then
      (let r := s.readRec n i
       let s1 := r.2.2.setTeller n { r.2.2.teller n with record := r.1.raw }
       some (i, { r.1 with frozen := s.frozenNow i r.1 }, r.2.1, s1))
    else none

/-- The head record is in progress, to end with a status. -/
def State.beginRec (s : State) (n i layer status : Nat) : State :=
  let t := s.teller n
  s.setTeller n { t with queue := t.queue.tail, current := some (i, layer, status) }

/-- A record that is invalid, or that reads as uncorrectable: status, fault and step fault (R211, R226). -/
def State.recBad (s : State) (n i : Nat) (r : Rec) (ue : Bool) (a : Nat) : Option State :=
  if ue then some ((s.tlrFault n 3 (s.ueClass a false) i a 0x42).beginRec n i r.layer 0x42)
  else
    match r.invalid n with
    | some 0x40 => some ((s.tlrFault n 1 .step i 0 0x40).beginRec n i r.layer 0x40)
    | some st => some ((s.tlrFault n 2 .step i 0 st).beginRec n i r.layer st)
    | none => none

/-- `n` FP32 words from an address: the words and whether a line is poisoned. -/
def State.readWords (s : State) (a n : Nat) : List CodeF × Bool × State :=
  let r := s.readBytes a (4 * n)
  (wordsF r.1 n, r.2.1, r.2.2)

/-- A gradient buffer is read and cleared: its lines (R208). -/
def State.takeGrad (s : State) (a : Nat) : Nat → List (Line × Bool) × State
  | 0 => ([], s)
  | k + 1 =>
    let r := s.readClearLine a
    let t := r.2.2.takeGrad (a + 256) k
    ((r.1, r.2.1) :: t.1, t.2)

/-- Lines of a layer's gradient. -/
def Rec.gradLines (r : Rec) : Nat := (4 * r.n + 255) / 256

/-- Intake flags of a gradient (R82). -/
def intakeFlags (g : List CodeF) : Nat :=
  g.foldl (fun m e =>
    let x := Fmt.fp32.decode e.1
    m ||| (if x.isNan then fInvalid else 0) ||| (if x.isInf then fOverflow else 0)) 0

/-- Arrays of the optimizer state, from an address. -/
def State.readArrays (s : State) (a : Nat) : List (Nat × Nat) → List (List CodeF) × Bool × State
  | [] => ([], false, s)
  | (o, n) :: t =>
    let r := s.readWords (a + o) n
    let u := r.2.2.readArrays a t
    (r.1 :: u.1, r.2.1 || u.2.1, u.2.2)

/-! ### The compute copy (R210, R214) -/

/-- Places, in tile order, of the elements of each KFS block, in the order of their scale bytes: byte 128 k + c of a tile names block k of
column c for blocks along i, and of row c for blocks along o, the layout that R353 gives a tile to be loaded; a vector's blocks follow
each other, those along i taken along o (DEDUCED, log 15). -/
def Rec.blocks (r : Rec) : List (List Nat) :=
  if r.rows ≠ 1 then
    (List.range (r.n / 16384)).flatMap (fun t => (List.range 4).flatMap (fun k => (List.range 128).map (fun c =>
      (List.range 32).map (fun i => 16384 * t + (if r.cscale = 1 then 128 * (32 * k + i) + c else 128 * c + 32 * k + i)))))
  else (List.range (r.n / 32)).map (fun b => upFrom (32 * b) 32)

/-- The compute copy of master weights: element codes in tile order, scale codes in block order, flags. -/
def State.computeCopy (s : State) (n : Nat) (r : Rec) (f : Fmt) (w : List CodeF) : List Nat × List Nat × Nat :=
  let mode (i : Nat) : Rnd := if r.cround then s.mintMode (laneTeller n) i else .rne
  if r.cscale = 0 ∨ f.scalable = false then
    let e := w.zipIdx.map (fun (x : CodeF × Nat) => f.encode (mode x.2) (Fmt.fp32.decode x.1.1))
    (e.map (·.1), [], orFlags e)
  else
    let a := w.toArray
    let bs := r.blocks.map (fun ps =>
      (ps, narrowBlock f (fun i => mode (ps.getD i 0)) (ps.map (fun p => Fmt.fp32.decode (a.getD p zeroF).1))))
    let blank := (w.map (fun _ => 0)).toArray
    let codes := bs.foldl (fun c b => (b.1.zip b.2.2.1).foldl (fun c x => c.setIfInBounds x.1 x.2) c) blank
    (codes.toList, bs.map (fun b => b.2.1), bs.foldl (fun m b => m ||| b.2.2.2) 0)

/-- Bytes of a compute copy: elements, and scales at the next 256-byte boundary. -/
def Rec.copyBytes (r : Rec) : Nat :=
  match (if r.cfmt = 0 then none else fmtOfCode r.cfmt) with
  | none => 0
  | some f =>
    let e := r.n * f.width / 8
    if r.cscale = 0 ∨ f.scalable = false then e else roundUp e 256 + r.n / 32

/-- Master weights and compute copy are written into the inactive version (R203, R214). -/
def State.writeWeights (s : State) (n : Nat) (r : Rec) (w : List CodeF) : State :=
  let s1 := s.putBytes (s.inactiveAddr r.master) (bytesF w)
  match (if r.cfmt = 0 then none else fmtOfCode r.cfmt) with
  | none => s1
  | some f =>
    let c := s1.computeCopy n r f w
    let s2 := s1.putBytes (s.inactiveAddr r.compute) (elementBytes f.width c.1)
    let s3 := s2.putBytes (s.inactiveAddr r.compute + roundUp (r.n * f.width / 8) 256) (elementBytes 8 c.2.1)
    let s4 := s3.tlrFlags n c.2.2
    if r.cround then s4.mintAdvance (laneTeller n) r.n else s4

/-! ### UPDATE (R203, R214, R216 to R222) -/

/-- inv_s = 2^-e as FP32 (R214); an EXP above 64 is taken as 64 (R246). -/
def State.lsExp (s : State) : Nat := min 64 (s.rf (tlrBase 0 + 0x28) 6 0)
def invScale (e : Nat) : CodeF := (2 ^ 23 * (127 - e), 0)

/-- Sweeps of a rule (R223). -/
def Rec.sweeps (r : Rec) : Nat := if r.rule = 3 ∨ (r.rule = 2 ∧ r.rows ≠ 1) then 2 else 1

/-- An UPDATE record that is valid and not frozen runs. -/
def State.runUpdate (s : State) (n i : Nat) (r : Rec) : State :=
  let g0 := s.takeGrad (r.grad s.tlrStep) r.gradLines
  let gb := linesBad g0.1
  let g := wordsF (linesNum g0.1) r.n
  let w := g0.2.readWords (s.activeAddr r.master) r.n
  let sc := w.2.2.readWords (s.activeAddr r.state) 64
  let st := sc.2.2.readArrays (s.activeAddr r.state) (r.offs.zip r.arrays)
  let s1 := st.2.2.tlrFlags n (intakeFlags g)
  if gb || w.2.1 || sc.2.1 || st.2.1 then
    let a := if gb then r.grad s.tlrStep else if w.2.1 then s.activeAddr r.master else s.activeAddr r.state
    (s1.tlrFault n 3 (s.ueClass a false) i a 0x42).beginRec n i r.layer 0x42
  else
    let x : RuleIn :=
      { g := g, w := w.1, st := st.1, scalars := sc.1, eta := cF (s.reg (tlrBase n + 0x8100 + 8 * r.group)).toNat,
        lam := cF (s.reg (tlrBase n + 0x8104 + 8 * r.group)).toNat, invS := invScale s.lsExp }
    let o := runRule r x
    let s2 := (s1.tlrFlags n o.flags).writeWeights n r o.w
    let base := s.inactiveAddr r.state
    let s3 := s2.putBytes base (bytesF o.scalars)
    let s4 := (r.offs.zip o.st).foldl (fun s a => s.putBytes (base + a.1) (bytesF a.2)) s3
    let s5 := if r.rule = 3 then s4.putBytes r.work (bytesF o.work) else s4
    let s6 := s5.countRf (tlrBase n + 0x34) 31 0 o.retries
    let s7 := if o.kept then
        (s6.countRf (tlrBase n + 0x38) 31 0 1).notice
          (Err.of .notice 0x623 (domXd n 9) r.layer 0 (fMul (0x447A0000, 0) (r.h 2)).1)
      else s6
    let s8 := (s7.count (blkXd n) 0x19 0x1FF (r.n * r.sweeps)).beginRec n i r.layer o.status
    s8.setTeller n { s8.teller n with matrix := r.rule == 3 }

/-- TELLER_UPDATE: the head record runs where it is an UPDATE record that is not frozen; an invalid one is rejected. -/
def execTellerUpdate (teller : Fin 2) (s : State) : Out :=
  let n := teller.val
  match s.tellerHead n with
  | none => .next s
  | some (i, r, ue, s1) =>
    if r.op = 1 ∧ ue = false then .next s
    else
      match s1.recBad n i r ue (2 ^ 32 * s.rf (tlrBase n + 0x1C) 15 0 + 2 ^ 7 * s.rf (tlrBase n + 0x18) 31 7 + 128 * i) with
      | some t => .next t
      | none => .next (if r.frozen then s else s1.runUpdate n i r)

/-! ### CONTRIBUTE and frozen records (R206, R214, R224) -/

/-- The other members of the package's data-parallel group: VL_GROUP gives their number, and nothing gives which packages of the
job they are, so that is free (log 8). -/
def State.groupPeers (s : State) : List Nat × State :=
  let all := s.peers
  let k := s.rf (vlBase 0 + 0x18) 11 0
  if all.length ≤ k then (all, s)
  else
    let f := s.freeBelow all.length
    (((all ++ all).drop f.1).take k, f.2)

/-- Lines cut into messages of up to 256 DATA flits. -/
def chunks256 : Nat → List (Line × Bool) → List (List (Line × Bool))
  | 0, _ => []
  | n + 1, l => if l.isEmpty then [] else l.take 256 :: chunks256 n (l.drop 256)

/-- A layer's lines go to a package by GRAD or BCAST: class 2, RECORD and TOTAL in each message (R396, R397). -/
def State.sendLines (s : State) (transport dst a rec total : Nat) (l : List (Line × Bool)) : State :=
  (chunks256 (l.length / 256 + 1) l).zipIdx.foldl (fun s c =>
    let fields := (a + 65536 * c.2) + 2 ^ 48 * rec + 2 ^ 64 * total
    s.sendMsg dst { cls := 2, head := s.headLine transport dst s.tlrStep c.1.length fields, data := c.1 }) s

/-- A CONTRIBUTE record that is valid and not frozen runs: its gradient goes to the owner, which nothing names (log 8). -/
def State.runContribute (s : State) (n i : Nat) (r : Rec) : State :=
  let a := r.grad s.tlrStep
  let g := s.takeGrad a r.gradLines
  if linesBad g.1 then (g.2.tlrFault n 3 (s.ueClass a false) i a 0x42).beginRec n i r.layer 0x42
  else
    let p := g.2.groupPeers
    let f := p.2.freeBelow (max 1 p.1.length)
    let s1 := match p.1[f.1]? with
      | some dst => f.2.sendLines 0x11 dst a i r.gradLines g.1
      | none => f.2
    (s1.count (blkXd n) 0x19 0x1FF r.n).beginRec n i r.layer 0

/-- TELLER_CONTRIBUTE (R206). -/
def execTellerContribute (teller : Fin 2) (s : State) : Out :=
  let n := teller.val
  match s.tellerHead n with
  | none => .next s
  | some (i, r, ue, s1) =>
    if r.op ≠ 1 ∨ ue = true then .next s
    else
      match s1.recBad n i r ue 0 with
      | some t => .next t
      | none => .next (if r.frozen then s else s1.runContribute n i r)

/-- TELLER_FROZEN (R224): the update is dropped. -/
def execTellerFrozen (teller : Fin 2) (s : State) : Out :=
  let n := teller.val
  match s.tellerHead n with
  | none => .next s
  | some (i, r, ue, s1) =>
    if ue || !r.frozen || (r.invalid n).isSome then .next s
    else .next ((s1.countRf (tlrBase n + 0x30) 31 0 1).beginRec n i r.layer 1)

/-! ### Completion (R209, R213, R226) -/

/-- The broadcast of an UPDATE record: new master and compute weights of the inactive version to the group (R209). -/
def State.broadcast (s : State) (i : Nat) (r : Rec) : State :=
  if s.rf (vlBase 0 + 0x18) 11 0 = 0 then s
  else
    let ml := (4 * r.n + 255) / 256
    let cl := (r.copyBytes + 255) / 256
    let m := s.readLines .stream (s.inactiveAddr r.master) ml
    let c := m.2.readLines .stream (s.inactiveAddr r.compute) cl
    let p := c.2.groupPeers
    p.1.foldl (fun s dst =>
      (s.sendLines 0x12 dst (s.inactiveAddr r.master) i (ml + cl) m.1).sendLines 0x12 dst (s.inactiveAddr r.compute) i
        (ml + cl) c.1) p.2

/-- RECORD_COMPLETE: the status of the record in progress is posted, and the owner sends the layer it has updated; the record is the one
that was read at the head of the queue (R213, R378). -/
def execRecordComplete (teller : Fin 2) (s : State) : Out :=
  let n := teller.val
  let t := s.teller n
  match t.current with
  | none => .next s
  | some (i, layer, status) =>
    if !s.memFree then .next s
    else
      let s1 := (s.setTeller n { t with current := none, matrix := false }).postStatus n layer status
      let updated := status == 0 || status == 2 || status == 3
      .next (if updated && (decRec t.record).op == 0 then s1.broadcast i (decRec t.record) else s1)

/-! ### Schedule engines (R227 to R229, R250 to R252) -/

/-- TLR_CTL.ENABLE is 0 on both Tellers (R237). -/
def State.tlrDisabled (s : State) : Bool := s.rf (tlrBase 0 + 4) 0 0 == 0 && s.rf (tlrBase 1 + 4) 0 0 == 0

/-- A computation of engine `n` for step `t`: a group whose program is of another version keeps its values and sets PROG_INVALID
(R228, R252). -/
def State.schCompute (s : State) (n t : Nat) : State :=
  let a := 2 ^ 32 * s.rf (tlrBase n + 0x800C) 15 0 + 2 ^ 12 * s.rf (tlrBase n + 0x8008) 31 12
  (List.range 64).foldl (fun s g =>
    let r := s.readBytes (a + 64 * g) 64
    let p := decProg r.1
    if p.version ≠ 1 then r.2.2.setRf (tlrBase n + 0x8010) 1 1 1
    else
      let v := p.values t
      (r.2.2.setReg (tlrBase n + 0x8100 + 8 * g) (BitVec.ofNat 32 v.1.1)).setReg (tlrBase n + 0x8104 + 8 * g)
        (BitVec.ofNat 32 v.2.1)) (s.setRf (tlrBase n + 0x8010) 1 1 0)

/-- A computation asked for by SCH_COMPUTE, once the programs can be read (R250, R548). -/
def State.schNow (s : State) (n : Nat) : State :=
  let t := s.teller n
  if s.memFree then ((s.setTeller n { t with computing := false }).wakeSeen (domXd n 10)).schCompute n s.tlrStep
  else s.setTeller n { t with computing := true }

/-- SCH_COMPUTE (R229, R250): only while both Tellers are disabled; otherwise ignored and journalled. -/
def execSchCompute (by_ : Writer) (engine : Fin 2) (s : State) : Out :=
  let n := engine.val
  .next (s.gate by_ false (tlrBase n + 0x8004) (fun s =>
    if !s.tlrDisabled then s.ignored (tlrBase n + 0x8004) else s.schNow n))

/-! ### HBM_CTL.ENABLE (R262, R289) -/

/-- What waits for the memory controllers goes on: writes of VLT_CTL.ENABLE, QFLUSH and SCH_COMPUTE (R548). -/
def State.memResume (s : State) : State :=
  [0, 1].foldl (fun s n =>
    let s1 := if (s.teller n).flushing then s.flushQueue n else s
    if (s1.teller n).computing then s1.schNow n else s1) s.vaultResume

/-- HBM_ENABLE on MD0: the ranges are checked and copied, or the setting is refused (R262). -/
def execHbmEnable (by_ : Writer) (s : State) : Out :=
  .next (if s.hbmOn 0 then s else s.gate by_ false (hbmBase 0 + 4) (fun s =>
    let qs := s.qrangeRegs
    if qrangesBad qs then (s.orReg (hbmBase 0 + 0xC) 2).notice (Err.of .notice 0x301 (domMd 0 9))
    else ({ s.setRf (hbmBase 0 + 4) 0 0 1 with mem := { s.mem with qranges := qs } } : State).memResume))

/-- HBM_ENABLE_MEMBER on MD1 to MD3 (R262, R289). -/
def execHbmEnableMember (by_ : Writer) (member : Fin 3) (s : State) : Out :=
  let d := member.val + 1
  .next (if s.hbmOn d then s else s.gate by_ false (hbmBase d + 4) (fun s =>
    if s.hbmOn 0 then (s.setRf (hbmBase d + 4) 0 0 1).memResume else s.ignored (hbmBase d + 4)))

end Sys2Proof.Machine
end

