-- ==== Sys2Proof/Machine/Link.lean ====
section
/-! DEFINITION. Vyvan Link: training and retraining of ports, flits, replay, credits, classes, routes and forwarding (R379 to R395,
R402 to R408). -/

namespace Sys2Proof.Machine

/-! ### Ports -/

/-- VL_CTL.ENABLE of an I/O die. -/
def State.vlOn (s : State) (io : Nat) : Bool := s.rf (vlBase io + 4) 0 0 == 1

/-- Base of the registers of a global port (R403). -/
def portBase (p : Nat) : Nat := vlBase (p / 9) + 0x100 + 0x20 * (p % 9)

def State.self (s : State) : Nat := s.rf (vlBase 0 + 0x10) 11 0

/-- A VL_FAULT bit is set on the I/O die of a port and journalled by its die control (R405, R436, R547). -/
def State.vlFault (s : State) (p b : Nat) (cls : ErrClass) (info : Nat) : State :=
  (s.orReg (vlBase (p / 9) + 0xC) (2 ^ b)).report (Err.of cls (0x700 + b) (domXd (p / 9) 15) p 0 info)

/-- Receive-buffer flits of a class, the credits that a port starts with (R387). -/
def classBuffer (c : Nat) : Nat := if c = 0 then 256 else if c = 3 then 512 else 1024

def startCredits : Tab Nat := [(0, 256), (1, 1024), (2, 1024), (3, 512)]

/-- The port comes UP over its lanes with the peer's capabilities (R381, R393, R394). -/
def Port.comeUp (x : Port) (lanes : List Nat) (t : Training) (gen : Nat) : Port :=
  { x with state := .up, lanes := lanes.take 8, failing := none, flitsIn := 0, laneErrs := [], spareInUse := lanes.length == 8 && lanes.contains 8,
           spareFor := if lanes.length = 8 ∧ lanes.contains 8 then (((List.range 9).find? (fun l => !lanes.contains l)).getD 15) else 15,
           peer := t.package.toNat, peerFeature := t.feature.toNat, otherGeneration := t.feature.toNat / 256 != gen,
           nextSeq := 0, expected := 0, replay := [], resend := none, nakDue := none, credits := startCredits,
           owed := [], partialMsg := [] }

/-- Bytes of a flit by physical lane: byte i goes on logical lane i mod 8, and the logical lanes are the lanes in service in ascending
order (R380). -/
def stripe (lanes : List Nat) (bytes : List Byte) : Tab (List Byte) :=
  lanes.zipIdx.foldl (fun t l => Tab.write [] t l.1 ((bytes.zipIdx.filter (fun b => b.2 % 8 == l.2)).map (·.1))) []

/-- The payload of this side's CAP flit (R393). -/
def State.capLine (s : State) (p : Nat) : Line :=
  BitVec.ofNat 2048 (1 + 2 ^ 8 * 2 + 2 ^ 16 * s.rf 4 15 0 + 2 ^ 32 * s.self + 2 ^ 48 * p + 2 ^ 56 * 0xF
    + 2 ^ 64 * s.rf (vlBase 0 + 0x14) 31 0 + 2 ^ 96 * 256)

/-- In step 4 of training the port sends its CAP flit over the lanes chosen (R381, R393). -/
def State.sendCap (s : State) (p : Nat) (lanes : List Nat) : State :=
  s.modPort p (fun x => { x with wire := stripe (lanes.take 8) (flitBytes (4 + 2 ^ 16 * 1023) (s.capLine p)) })

/-- PORT_TRAINING (R381, R393, R394). -/
def execPortTraining (port : Fin 18) (found : Training) (s : State) : Out :=
  let p := port.val
  let x := s.port p
  let lanes := bitList found.lanes.toNat 9
  .next (
    if !s.alive || !s.vlOn (p / 9) || s.rf (portBase p) 0 0 == 0 || x.lost || !(x.state == .down || x.state == .training) then s
    else if lanes.length < 8 then (s.setPort p { x with state := .down, lost := true }).vlFault p 0 .depart 0
    else if !bit found.linkVersions.toNat 1 || found.classes.toNat % 16 != 15 || decide (found.maxData.toNat < 256) then
      ((s.sendCap p lanes).modPort p (fun x => { x with state := .down })).vlFault p 1 .notice 0
    else (s.sendCap p lanes).modPort p (fun x => x.comeUp lanes found (s.rf 4 15 8)))

/-- A class-0 flit of a lost port is sent on another port of its route (R386, R391). -/
def State.rerouteHead (lost : Nat) (s : State) (f : LinkFlit) : State :=
  let dst := bits f.payload.toNat 43 32
  match s.egressPort 0 dst 0 with
  | some p => s.enqueueFlits p 0 [{ f with sends := 0 }]
  | none => s.vlFault lost 4 .notice dst

/-- A port is lost: class-0 flits that it holds go by other ports, the others are discarded, and the package leaves the job (R37,
R382, R386). -/
def State.losePort (s : State) (p : Nat) : State :=
  let x := s.port p
  let mine := x.replay.filter (fun f => f.cls == 0) ++ Tab.read [] x.egress 0
  let s1 := s.setPort p { x with state := .down, lost := true, replay := [], egress := [], resend := none, nakDue := none,
                                 partialMsg := [], failing := none }
  (mine.foldl (State.rerouteHead p) s1).vlFault p 0 .depart 0

/-- A lane has failed: the spare replaces it, or the port is lost (R382). The logical lanes are again the lanes in service in ascending
physical order (R380), the counts of corrected symbols begin anew (log 91), and unacknowledged flits are replayed. -/
def State.retrain (s : State) (p lane : Nat) (spareOk : Bool) : State :=
  let x := s.port p
  if x.spareInUse || !spareOk then s.losePort p
  else
    let spare := ((List.range 9).find? (fun l => !x.lanes.contains l)).getD 8
    let y : Port :=
      { x with state := .up, lanes := (List.range 9).filter (fun l => l == spare || (x.lanes.contains l && l != lane)),
               spareInUse := true, spareFor := lane, failing := none, flitsIn := 0, laneErrs := [], resend := x.replay.head?.map (·.seq) }
    (s.setPort p y).notice (Err.of .notice 0x721 (domXd (p / 9) 15) p 0 lane)

/-- A port retrains for a lane: one that has lost lock at a port that is UP, or the one whose count has passed the threshold. -/
def Port.retrainsFor (x : Port) (lane : Nat) : Bool :=
  (x.state == .up && x.lanes.contains lane) || (x.state == .retraining && x.failing == some lane)

/-- PORT_RETRAIN (R382). -/
def execPortRetrain (port : Fin 18) (lane : Fin 9) (spareOk : Bool) (s : State) : Out :=
  .next (if s.alive && (s.port port.val).retrainsFor lane.val then s.retrain port.val lane.val spareOk else s)

/-- VL_RETRAIN: VL_PCTL.RETRAIN forces a retrain by the same rules (R382, R407). -/
def execVlRetrain (by_ : Writer) (port : Fin 18) (lane : Fin 9) (spareOk : Bool) (s : State) : Out :=
  .next (s.gate by_ false (portBase port.val) (fun s =>
    if (s.port port.val).retrainsFor lane.val then s.retrain port.val lane.val spareOk else s))

/-! ### Routes (R391, R402, R408) -/

/-- The route table takes the shadow bank, and the membership the destinations that it reaches (log 27). -/
def State.applyRoutes (s : State) : State :=
  let lo := vlBase 0 + 0x10000
  let kept := s.regs.filter (fun r => !(decide (lo ≤ r.1) && decide (r.1 < lo + 0x4000)))
  let s1 := s.link.shadow.foldl (fun (s : State) (r : Nat × Word) => s.setReg (lo + 4 * r.1) r.2) { s with regs := kept }
  let dests := (s.link.shadow.filter (fun r => bit r.2.toNat 31)).map (·.1)
  { s1 with link := { s1.link with members := s.self :: dests.filter (fun d => d != s.self) } }

/-- VL_CTL.ENABLE is set on an I/O die: the shadow bank applies, and enabled ports begin to train (R404, R407). -/
def State.vlStart (s : State) (io : Nat) : State :=
  let s1 := (s.setRf (vlBase io + 4) 0 0 1).applyRoutes
  (upFrom (9 * io) 9).foldl (fun s p =>
    if s.rf (portBase p) 0 0 = 1 ∧ (s.port p).state = .down ∧ (s.port p).lost = false then
      s.modPort p (fun x => { x with state := .training })
    else s) s1

/-- VL_ENABLE (R404). -/
def execVlEnable (by_ : Writer) (io : Fin 2) (s : State) : Out :=
  .next (if s.vlOn io.val then s else s.gate by_ false (vlBase io.val + 4) (fun s => s.vlStart io.val))

/-- VL_PERR_CLR (R407). -/
def execVlPerrClr (by_ : Writer) (port : Fin 18) (s : State) : Out :=
  .next (s.gate by_ true (portBase port.val + 8) (fun s => (s.clearRf (portBase port.val + 8) 31 24).clearRf (portBase port.val + 8) 15 0))

/-- The fields of a route word (R408). -/
def routeWord (v : Nat) : Word := BitVec.ofNat 32 (2 ^ 31 * bits v 31 31 + 2 ^ 24 * bits v 27 24 + bits v 17 0)

/-- VL_ROUTE_WRITE: the shadow bank takes the word (R402, R408). -/
def execVlRouteWrite (by_ : Writer) (dest : BitVec 12) (val : Word) (s : State) : Out :=
  .next (s.gate by_ false (vlBase 0 + 0x10000 + 4 * dest.toNat) (fun s =>
    { s with link := { s.link with shadow := Tab.write (0 : Word) s.link.shadow dest.toNat (routeWord val.toNat) } }))

/-! ### Sending (R383, R385, R387 to R389) -/

/-- A recovery has quiesced the package: of its link traffic, class 0 and recovery's own class 3 go on (R445 step 2). -/
def State.quiesced (s : State) : Bool :=
  s.rec_.stage == .imageNeeded || s.rec_.stage == .restoreNeeded || s.rec_.stage == .resume

/-- Whether a flit may leave a port: in a recovery those of classes 1 and 2 wait (R445), and a port to another generation carries two
transports only, until the peer is a member (R394). -/
def State.mayCarry (s : State) (x : Port) (f : LinkFlit) : Bool :=
  !(s.quiesced && (f.cls == 1 || f.cls == 2)) && (!x.otherGeneration || s.link.members.contains x.peer ||
    (f.cls == 0 && f.type == 1 && (let t := bits f.payload.toNat 15 8; t == 3 || t == 4)))

/-- A class-0 flit may be sent: one that this package originates holds a token (R389). -/
def State.unpoliced (s : State) (x : Port) (f : LinkFlit) : Bool :=
  bits f.payload.toNat 27 16 != s.self || decide (0 < x.tokens)

/-- The flit of a class that may be sent: it holds a credit. In class 0 each flit is a message, and one that may not be sent yet does
not hold back those behind it (R387, R389, R394). -/
def State.ready? (s : State) (x : Port) (c : Nat) : Option LinkFlit :=
  let q := Tab.read [] x.egress c
  if Tab.read 0 x.credits c = 0 then none
  else if c = 0 then q.find? (fun f => s.mayCarry x f && s.unpoliced x f)
  else q.head?.filter (s.mayCarry x)

def State.classWeight (s : State) (c : Nat) : Nat := s.rf (vlBase 0 + 0x20) (8 * c - 1) (8 * c - 8)

/-- Deficit round-robin by flit among classes 1 to 3: the class that sends, and the deficits after it (R388, R406). -/
def State.drr (s : State) (x : Port) : Option (Nat × Tab Nat) :=
  let can := [1, 2, 3].filter (fun c => (s.ready? x c).isSome)
  let weighted := can.filter (fun c => decide (0 < s.classWeight c))
  let left (d : Tab Nat) (c : Nat) : Tab Nat := Tab.write 0 d c (Tab.read 0 d c - 1)
  if weighted.isEmpty then can.head?.map (fun c => (c, []))
  else
    let d := x.deficit.filter (fun e => weighted.contains e.1)
    match weighted.find? (fun c => decide (0 < Tab.read 0 d c)) with
    | some c => some (c, left d c)
    | none =>
      let d2 : Tab Nat := weighted.foldl (fun d c => Tab.write 0 d c (s.classWeight c)) []
      weighted.head?.map (fun c => (c, left d2 c))

/-- The class whose receive credits a header returns, and how many (R383). -/
def Port.returning (x : Port) : Nat × Nat :=
  match List.find? (fun (e : Nat × Nat) => decide (0 < e.2)) x.owed with
  | some e => (e.1, min 15 e.2)
  | none => (0, 0)

/-- The header of the next flit (R383). -/
def Port.header (x : Port) (type : Nat) (poison : Bool) (cls seq : Nat) : Nat :=
  let r := x.returning
  type + 8 * b2n poison + 16 * cls + 64 * seq + 2 ^ 16 * ((x.expected + 1023) % 1024) + 2 ^ 26 * r.1 + 2 ^ 28 * r.2

/-- A flit goes on the lanes, with the acknowledgement and the credits that it returns. -/
def Port.put (x : Port) (type : Nat) (poison : Bool) (cls seq : Nat) (payload : Line) : Port :=
  let r := x.returning
  { x with wire := stripe x.lanes (flitBytes (x.header type poison cls seq) payload),
           owed := Tab.write 0 x.owed r.1 (Tab.read 0 x.owed r.1 - r.2) }

/-- Credits of the four classes that a CTRL flit returns: up to 4,095 of each (R386). -/
def Port.ctrlReturns (x : Port) : List Nat := (List.range 4).map (fun c => min 4095 (Tab.read 0 x.owed c))

/-- A CTRL flit goes on the lanes: a NAK where one is due, and the credits owed, all in its payload (R386, log 91). -/
def Port.putCtrl (x : Port) : Port :=
  { x with wire := stripe x.lanes (flitBytes (3 + 2 ^ 16 * ((x.expected + 1023) % 1024)) (Config.ctrlPayload x.nakDue x.ctrlReturns)),
           nakDue := none,
           owed := x.ctrlReturns.zipIdx.foldl (fun t r => Tab.write 0 t r.2 (Tab.read 0 t r.2 - r.1)) x.owed }

/-- A CTRL flit is sent in place of an IDLE one: a NAK is due, or a class owes more than a header returns. -/
def Port.ctrlDue (x : Port) : Bool := x.nakDue.isSome || x.owed.any (fun e => decide (15 < e.2))

/-- A queued flit is sent for the first time: it takes a sequence number and is held until acknowledged (R385). -/
def Port.sendNew (x : Port) (f : LinkFlit) (mine : Bool) : Port :=
  let g : LinkFlit := { f with seq := x.nextSeq, sends := 1 }
  let y : Port :=
    { x with egress := Tab.write [] x.egress f.cls ((Tab.read [] x.egress f.cls).erase f), nextSeq := (x.nextSeq + 1) % 1024,
             replay := x.replay ++ [g], credits := Tab.write 0 x.credits f.cls (Tab.read 0 x.credits f.cls - 1),
             tokens := if mine then x.tokens - 1 else x.tokens }
  y.put f.type f.poison f.cls x.nextSeq f.payload

/-- A held flit is sent again, and the next one follows (R385). -/
def Port.sendAgain (x : Port) (f : LinkFlit) : Port :=
  let next := (f.seq + 1) % 1024
  let y : Port :=
    { x with replay := x.replay.map (fun g => if g.seq = f.seq then { g with sends := g.sends + 1 } else g),
             resend := if x.replay.any (fun g => g.seq == next) then some next else none }
  y.put f.type f.poison f.cls f.seq f.payload

/-- A flit time passes: one token per 100, at most 8 (R389). -/
def Port.tick (x : Port) : Port :=
  if x.flitTimes + 1 = 100 then { x with flitTimes := 0, tokens := min 8 (x.tokens + 1) }
  else { x with flitTimes := x.flitTimes + 1 }

/-- FLIT_TRANSMIT: the port sends one flit (R388). -/
def execFlitTransmit (port : Fin 18) (s : State) : Out :=
  let p := port.val
  let x := (s.port p).tick
  let unit (c : Nat) : Nat := p % 9 + 16 * c
  let again := x.resend.bind (fun r => x.replay.find? (fun f => f.seq == r))
  let first (f : LinkFlit) (y : Port) : State :=
    ((s.setPort p (y.sendNew f (f.cls == 0 && bits f.payload.toNat 27 16 == s.self))).count (blkXd (p / 9)) 0x10 (unit f.cls) 1).units
      (tlyBase + 0x1000 + 8 * p) 1
  let idle : State := s.setPort p (if x.ctrlDue then x.putCtrl else x.put 0 false 0 0 0)
  if !s.alive || x.state != .up then .next s
  else
    match again with
    | some f =>
      .next (((s.setPort p (x.sendAgain f)).count (blkXd (p / 9)) 0x13 (p % 9) 1).countRf (portBase p + 8) 31 24 1)
    | none =>
      if 512 ≤ x.replay.length then .next idle
      else
        match s.ready? x 0 with
        | some f => .next (first f { x with resend := none })
        | none =>
          match s.drr x with
          | none => .next idle
          | some (c, d) =>
            match s.ready? x c with
            | some f => .next (first f { x with resend := none, deficit := d })
            | none => .next idle

/-! ### Receiving (R383 to R385, R387) -/

/-- ACK covers every held flit up to a sequence number; a replay that it overtakes goes on from the first flit still held (R382,
R385). -/
def Port.ack (x : Port) (a : Nat) : Port :=
  let left := x.replay.filter (fun f => decide (512 ≤ (a + 1024 - f.seq) % 1024))
  { x with replay := left,
           resend := x.resend.bind (fun r => if left.any (fun f => f.seq == r) then some r else left.head?.map (·.seq)) }

/-- Credits that a header returns (R383, R387). -/
def Port.credit (x : Port) (c n : Nat) : Port :=
  { x with credits := Tab.write 0 x.credits c (min (classBuffer c) (Tab.read 0 x.credits c + n)) }

/-- DATA_FLITS of a HEAD payload (R395). -/
def msgFlits (h : Line) : Nat := bits h.toNat 152 144

/-- A message whose last flit has arrived waits in the receive buffer. -/
def Port.store (x : Port) (c : Nat) (m : Msg) : Port :=
  if msgFlits m.head ≤ m.data.length then
    { x with partialMsg := Tab.del x.partialMsg c, inbox := Tab.write [] x.inbox c (Tab.read [] x.inbox c ++ [m]) }
  else { x with partialMsg := Tab.put x.partialMsg c m }

/-- A HEAD or DATA flit in sequence joins its message (R392, R395). -/
def Port.join (x : Port) (type c : Nat) (v : Line) (poison : Bool) : Port :=
  let y : Port := { x with expected := (x.expected + 1) % 1024 }
  if type = 1 then y.store c { cls := c, head := v, data := [] }
  else
    match Tab.find? y.partialMsg c with
    | some m => y.store c { m with data := m.data ++ [(v, poison)] }
    | none => y

/-- A flit is dropped, and a NAK names the expected SEQ (R385). -/
def Port.refuse (x : Port) : Port := { x with nakDue := some x.expected }

/-- A flit with corrected symbols is counted (R386, R407, R441). -/
def State.fecCorrected (s : State) (p : Nat) (fixed : List Nat) : State :=
  if fixed.isEmpty then s
  else
    let s1 := s.countRf (portBase p + 8) 15 0 1
    s1.corrected (Err.of .corrected 0x720 (domXd (p / 9) 15) p) (s1.rf (portBase p + 8) 15 0) 0xFFFF

/-- A flit arrives, and its corrected symbols are counted on their logical lanes; what lies 2^20 flits back is dropped (R382). -/
def Port.countLanes (x : Port) (fixed : List Nat) : Port :=
  let n := x.flitsIn + 1
  let add (t : Tab (List Nat)) (b : Nat) : Tab (List Nat) := Tab.write [] t (b % 8) (Tab.read [] t (b % 8) ++ [n])
  { x with flitsIn := n,
           laneErrs := (fixed.foldl add x.laneErrs).map (fun e => (e.1, e.2.filter (fun k => decide (n < k + 2 ^ 20)))) }

/-- The logical lane whose count has passed the threshold, the lowest of several. -/
def Port.overLane (x : Port) (thresh : Nat) : Option Nat :=
  (List.range 8).find? (fun k => decide (thresh < (Tab.read [] x.laneErrs k).length))

/-- A lane whose count exceeds LANE_THRESH makes the port retrain at once; class-0 flits that it holds queued take the next UP port of
their routes, and with none they wait (R382, R402). -/
def State.laneCheck (s : State) (p : Nat) : State :=
  let x := s.port p
  match x.overLane (s.rf (portBase p) 31 16) with
  | none => s
  | some k =>
    let mine := Tab.read [] x.egress 0
    let s1 := s.setPort p { x with state := .retraining, failing := x.lanes[k]?, egress := Tab.del x.egress 0 }
    mine.foldl (State.rerouteHead p) s1

/-- A flit that decodes is read by its header. -/
def State.flitIn (s : State) (p h : Nat) (v : Line) : State :=
  let type := bits h 2 0
  let c := bits h 5 4
  let x := s.port p
  if 5 ≤ type then s.setPort p x.refuse
  else
    let z := (x.ack (bits h 25 16)).credit (bits h 27 26) (bits h 31 28)
    let y := if type = 3 then (List.range 4).foldl (fun (z : Port) c => z.credit c (Config.ctrlCredits v c % 4096)) z else z
    if type = 1 ∨ type = 2 then
      if bits h 15 6 = y.expected then
        ((s.setPort p (y.join type c v (bit h 3))).count (blkXd (p / 9)) 0x11 (p % 9 + 16 * c) 1).units
          (tlyBase + 0x1000 + 8 * p + 4) 1
      else s.setPort p y.refuse
    else s.setPort p y

/-- FLIT_RECEIVE: 272 bytes arrive at a port (R383, R385). -/
def execFlitReceive (port : Fin 18) (bytes : List Byte) (s : State) : Out :=
  let p := port.val
  if bytes.length ≠ 272 then .fault (.illFormed "a flit has 272 bytes")
  else if !s.alive || (s.port p).state != .up then .next s
  else
    match flitRead bytes with
    | none => .next (s.modPort p (fun x => (x.countLanes []).refuse))
    | some (h, v, fixed) => .next ((((s.modPort p (fun x => x.countLanes fixed)).fecCorrected p fixed).flitIn p h v).laneCheck p)

/-- NAK (R385): held flits from the named SEQ onward are sent again. -/
def execNak (port : Fin 18) (seq : BitVec 10) (s : State) : Out :=
  let p := port.val
  .next (if s.alive && (s.port p).state == .up && (s.port p).replay.any (fun f => f.seq == seq.toNat) then
      s.modPort p (fun x => { x with resend := some seq.toNat })
    else s)

/-- REPLAY_LIMIT (R386): a flit has been sent 8 times without an acknowledgement. -/
def execReplayLimit (port : Fin 18) (retrainOk : Bool) (s : State) : Out :=
  let p := port.val
  let x := s.port p
  .next (
    if !s.alive || x.state != .up || !x.replay.any (fun f => decide (8 ≤ f.sends)) then s
    else if retrainOk then
      s.setPort p { x with replay := x.replay.map (fun f => { f with sends := 0 }), resend := x.replay.head?.map (·.seq) }
    else s.losePort p)

/-! ### Forwarding (R390, R391) -/

/-- The first message of a class leaves the queue of complete messages of a port. -/
def State.unqueue (s : State) (p c : Nat) : State :=
  s.modPort p (fun x => { x with inbox := Tab.write [] x.inbox c (Tab.read [] x.inbox c).tail })

/-- The flits of a message have been forwarded or consumed: their credits are owed to the peer (R387). -/
def State.owe (s : State) (p : Nat) (m : Msg) : State :=
  s.modPort p (fun x => { x with owed := Tab.write 0 x.owed m.cls (Tab.read 0 x.owed m.cls + 1 + m.data.length) })

def msgDst (m : Msg) : Nat := bits m.head.toNat 43 32

/-- HOP_LIMIT in force (R404). -/
def State.hopLimit (s : State) (io : Nat) : Nat := max 1 (min 8 (s.rf (vlBase io + 4) 7 4))

/-- MESSAGE_FORWARD (R390, R391): a message for another package goes on by this package's routes; one of classes 1 to 3 by the counter
of its source, which it does not carry (log 49). A class-0 message waits, with its credit, while the egress queue holds 256 flits
(R389). -/
def execMessageForward (port : Fin 18) (cls : Fin 4) (s : State) : Out :=
  let p := port.val
  let c := cls.val
  match Tab.read [] (s.port p).inbox c with
  | [] => .next s
  | m :: _ =>
    if !s.alive || msgDst m == s.self then .next s
    else
      let hops := bits m.head.toNat 51 48
      let s1 := (s.unqueue p c).owe p m
      if c = 0 ∧ s.hopLimit (p / 9) < hops + 2 then .next (s1.vlFault p 5 .notice (msgDst m))
      else
        match s.egressPort c (msgDst m) (Config.sourceCount m.head) with
        | some q =>
          if c = 0 ∧ 256 ≤ (Tab.read [] (s.port q).egress 0).length then .next s
          else
            let head : Line := if c = 0 then BitVec.ofNat 2048 (setBits m.head.toNat 51 48 (hops + 1)) else m.head
            .next (s1.enqueueMsg q { m with head := head })
        | none => .next (s1.vlFault p 4 .notice (msgDst m))

end Sys2Proof.Machine
end

