-- ==== Sys2Proof/Machine/Messages.lean ====
section
/-! DEFINITION. Messages that arrive for this package: the checks of R396 and R398, arrival marks, and the transports (R397 to
R401). VOTE is in Machine/Posting.lean. -/

namespace Sys2Proof.Machine

/-! ### Fields of a message (R395, R397) -/

def msgVersion (m : Msg) : Nat := bits m.head.toNat 7 0
def msgTransport (m : Msg) : Nat := bits m.head.toNat 15 8
def msgSrc (m : Msg) : Nat := bits m.head.toNat 27 16
def msgEpoch (m : Msg) : Nat := bits m.head.toNat 95 64
def msgStep (m : Msg) : Nat := bits m.head.toNat 127 96
def msgSkips (m : Msg) : Nat := bits m.head.toNat 143 128

/-- `n` bytes of a HEAD payload from byte `i`. -/
def msgBytes (m : Msg) (i n : Nat) : Nat := m.head.toNat / 2 ^ (8 * i) % 2 ^ (8 * n)

/-- The class of a transport; `none` for a reserved code (R396). -/
def transportClass (t : Nat) : Option Nat :=
  if 1 ≤ t ∧ t ≤ 4 then some 0
  else if t = 0x10 then some 1
  else if t = 0x11 ∨ t = 0x12 then some 2
  else if t = 0x18 ∨ t = 0x19 then some 3
  else none

/-- A HEAD payload without its HOPS, by which duplicates are known (R398, log 26). -/
def withoutHops (h : Line) : Line := BitVec.ofNat 2048 (setBits h.toNat 51 48 0)

def State.skips (s : State) : Nat := s.rf (vlBase 0 + 0x1C) 15 0
def State.epoch (s : State) : Nat := s.rf (vlBase 0 + 0x14) 31 0

/-! ### Checks (R396, R398) -/

/-- A class-0 message for this package is applied once in its epoch. -/
def State.once (s : State) (m : Msg) (f : State → State) : State :=
  let h := withoutHops m.head
  if s.link.seen.contains h then s
  else f { s with link := { s.link with seen := s.link.seen ++ [h] } }

/-- A message of classes 1 to 3 is applied, discarded, or held, by its epoch and its skip count; `d` is below 2^16. -/
def State.inTurn (s : State) (p : Nat) (m : Msg) (f : State → State) : State :=
  let d := (msgSkips m + 65536 - s.skips) % 65536
  if msgEpoch m ≠ s.epoch then (s.owe p m).vlFault p 3 .notice (msgSrc m)
  else if d = 0 then f (s.owe p m)
  else if d < 32768 then { s with link := { s.link with held := s.link.held ++ [(p, m)] } }
  else s.owe p m

/-- The first message of a class at a port, where it is for this package: one that R396 refuses is discarded; one of the
transport that `mine` accepts is checked and applied; another stays. -/
def State.arrive (s : State) (p c : Nat) (mine : Msg → Bool) (f : State → Msg → State) : State :=
  match Tab.read [] (s.port p).inbox c with
  | [] => s
  | m :: _ =>
    if !s.alive || msgDst m != s.self then s
    else if msgVersion m ≠ 1 ∨ transportClass (msgTransport m) ≠ some c then
      (((s.unqueue p c).owe p m).vlFault p 2 .notice (msgSrc m))
    else if !mine m then s
    else if c = 0 then (((s.unqueue p c).owe p m).once m (fun s => f s m))
    else (s.unqueue p c).inTurn p m (fun s => f s m)

def isTransport (t : Nat) (m : Msg) : Bool := msgTransport m == t

/-! ### Class 0 (R197, R401, R452) -/

/-- STEP_FAULT: a notice of the attempt in progress, before its latches are taken, makes the package abandon the step (R197,
R234, R444). -/
def execStepFault (port : Fin 18) (s : State) : Out :=
  let p := port.val
  .next (s.arrive p 0 (isTransport 2) (fun s m =>
    let s1 := s.notice (Err.of .notice 0x622 (domXd (p / 9) 15) (msgSrc m) 0 (msgBytes m 32 4))
    if msgStep m = s.tlrStep ∧ msgSkips m = s.skips ∧ s.step.post < 2 then { s1 with step := { s1.step with faulted := true } }
    else s1))

def isMember (op : Nat) (m : Msg) : Bool := msgTransport m == 3 && msgBytes m 32 1 == op

/-- A MEMBER message of this package: OP, ACCEPT, REQ_LEVEL and NEW_EPOCH (R397). -/
def State.sendMember (s : State) (dst op accept level epoch : Nat) : State :=
  s.sendMsg dst { cls := 0, head := s.headLine 3 dst s.tlrStep 0 (op + 2 ^ 8 * accept + 2 ^ 16 * level + 2 ^ 32 * epoch), data := [] }

/-- NEW_EPOCH of a MEMBER message (R397). -/
def msgNewEpoch (m : Msg) : Nat := msgBytes m 36 4

/-- The FEATURE that a package declared in its CAP flit, where it is a peer (R393). -/
def State.featureOf (s : State) (pkg : Nat) : Option Nat :=
  ((List.range 18).find? (fun p => (s.port p).state == .up && (s.port p).peer == pkg)).map (fun p => (s.port p).peerFeature)

/-- A level is served (R9). -/
def serves (feature req : Nat) : Bool := feature / 256 == req / 256 && decide (req % 256 ≤ feature % 256)

/-- JOIN_REQ (R401): a joiner that this package knows from its CAP flit is judged by R9; of another, nothing tells (log 8). The answer
names the epoch of the request. -/
def execJoinReq (port : Fin 18) (s : State) : Out :=
  .next (s.arrive port.val 0 (isMember 1) (fun s m =>
    let free := s.freeBelow 2
    let r := match s.featureOf (msgSrc m) with
      | some f => (serves f (msgBytes m 34 2), s)
      | none => (free.1 == 1, free.2)
    let s1 := r.2.sendMember (msgSrc m) 2 (b2n r.1) 0 (msgNewEpoch m)
    if r.1 then s1
    else
      State.noticeOpen { s1 with link := { s1.link with joiners := s1.link.joiners.filter (fun j => j != msgSrc m) } } (msgSrc m)))

/-- JOIN_ACK (R401). -/
def execJoinAck (port : Fin 18) (s : State) : Out :=
  .next (s.arrive port.val 0 (isMember 2) (fun s m =>
    if msgBytes m 33 1 = 1 then { s with link := { s.link with accepted := s.link.accepted ++ [msgSrc m] } } else s))

/-- READY (R401, R402): held until ENTRY counts it. -/
def execReady (port : Fin 18) (s : State) : Out :=
  .next (s.arrive port.val 0 (isMember 3) (fun s m => { s with link := { s.link with readies := s.link.readies ++ [(msgSrc m, msgNewEpoch m)] } }))

/-- LEAVE (R401). -/
def execLeave (port : Fin 18) (s : State) : Out :=
  .next (s.arrive port.val 0 (isMember 4) (fun s m => { s with link := { s.link with lefts := s.link.lefts ++ [(msgSrc m, msgNewEpoch m)] } }))

/-- MGMT (R396): delivered to firmware. A message from a package whose acknowledgement of a SECURE is due is that
acknowledgement (R452, log 28). -/
def execMgmt (port : Fin 18) (s : State) : Out :=
  .next (s.arrive port.val 0 (isTransport 4) (fun s m =>
    { s with link := { s.link with firmwareInbox := s.link.firmwareInbox ++ [m.head] },
             ldg := { s.ldg with acksDue := s.ldg.acksDue.erase (msgSrc m) } }))

/-- SECURE (R452): a MGMT message that names step m is held for its Posting and acknowledged. -/
def execSecure (port : Fin 18) (s : State) : Out :=
  .next (s.arrive port.val 0 (isTransport 4) (fun s m =>
    let s1 : State := { s with ldg := { s.ldg with secures := s.ldg.secures ++ [msgStep m] } }
    s1.sendMsg (msgSrc m) { cls := 0, head := s1.headLine 4 (msgSrc m) (msgStep m) 0 0, data := [] }))

/-! ### Data (R397, R399, R400) -/

def msgAddr (m : Msg) : Nat := msgBytes m 32 6

/-- Each DATA flit's line is given to an operation with its address. -/
def State.lines (s : State) (m : Msg) (f : State → Nat → Line → Bool → State) : State :=
  m.data.zipIdx.foldl (fun (s : State) (d : (Line × Bool) × Nat) => f s (msgAddr m + 256 * d.2) d.1.1 d.1.2) s

def State.writeLines (s : State) (m : Msg) : State := s.lines m (fun s a v poison => s.writeLine a v poison)

/-- The arrival mark of a message counts its DATA flits; another MARK_TOTAL is a step fault, and nothing is counted (R399). -/
def State.countMark (s : State) (p : Nat) (m : Msg) : State :=
  let k := msgBytes m 38 2
  let total := msgBytes m 40 4
  let old := (Tab.find? s.link.marks k).getD (0, total)
  if old.2 ≠ total then s.vlFault p 7 .step k
  else { s with link := { s.link with marks := Tab.put s.link.marks k (old.1 + m.data.length, total) } }

/-- A copy of the stamp of a micro-batch whose data arrives is kept in the lowest free entry (R186, R187, log 25). -/
def State.keepStamp (s : State) (x : BitVec 128) : State :=
  if s.step.stamps.any (fun e => stampStep e.2 == stampStep x && stampMb e.2 == stampMb x) then s
  else
    match firstFree (s.step.stamps.map (·.1)) 32 with
    | some i => { s with step := { s.step with stamps := Tab.put s.step.stamps i x } }
    | none => s

/-- PIPE: data written, mark counted, stamp kept (R185, R396). -/
def State.applyPipe (s : State) (p : Nat) (m : Msg) : State :=
  (((s.writeLines m).countMark p m).keepStamp (BitVec.ofNat 128 (msgBytes m 44 16)))

/-- Key of a counter of R400: I/O die, step parity, record. -/
def counterKey (p step record : Nat) : Nat := 65536 * (2 * (p / 9) + step % 2) + record

/-- TOTAL of a GRAD or BCAST message: the lines of the layer from one sender (R397). -/
def msgTotal (m : Msg) : Nat := msgBytes m 40 4

/-- GRAD: data added, counted, and TOTAL kept (R400). -/
def State.applyGrad (s : State) (p : Nat) (m : Msg) : State :=
  let s1 := s.lines m (fun s a v poison => s.addLine a v poison)
  let i := msgBytes m 38 2
  let k := counterKey p (msgStep m) i
  { s1 with link :=
      { s1.link with gradCount := Tab.write 0 s1.link.gradCount k (Tab.read 0 s1.link.gradCount k + m.data.length),
                     gradTotal := Tab.put s1.link.gradTotal (counterKey 0 (msgStep m) i) (msgTotal m) } }

/-- BCAST: data written, counted, and TOTAL kept (R400). -/
def State.applyBcast (s : State) (p : Nat) (m : Msg) : State :=
  let s1 := s.writeLines m
  let i := msgBytes m 38 2
  let k := counterKey p (msgStep m) i
  { s1 with link :=
      { s1.link with bcastCount := Tab.write 0 s1.link.bcastCount k (Tab.read 0 s1.link.bcastCount k + m.data.length),
                     bcastTotal := Tab.put s1.link.bcastTotal (counterKey 0 (msgStep m) i) (msgTotal m) } }

/-- A line times a coefficient, byte by byte in GF(2^8). -/
def gfLine (v : Line) (coef : Nat) : Line :=
  BitVec.ofNat 2048 (numOfBytes ((bytesOfNum 256 v.toNat).map (fun b => BitVec.ofNat 8 (gfMul b.toNat coef))))

/-- PARITY: data written, or multiplied by COEF and XORed in; a holder counts the lines (R396, R451, R454). -/
def State.applyParity (s : State) (m : Msg) : State :=
  let coef := msgBytes m 39 1
  let s1 :=
    if msgBytes m 38 1 = 0 then s.writeLines m
    else s.lines m (fun s a v poison =>
      let r := s.readLine a
      r.2.2.writeLine a (r.1 ^^^ gfLine v coef) (r.2.1 || poison))
  { s1 with ldg := { s1.ldg with applied := s1.ldg.applied + m.data.length } }

/-- PUT: data written, mark counted (R396). -/
def State.applyPut (s : State) (p : Nat) (m : Msg) : State := (s.writeLines m).countMark p m

/-- A data transport waits while memory does not serve. -/
def State.arriveData (s : State) (p c t : Nat) (f : State → Msg → State) : State :=
  if s.memFree then s.arrive p c (isTransport t) f else s

/-- A PIPE message goes to the next or the previous stage: lines of memory, the mark that they arrive at, and the stamp of their
micro-batch (R28, R40, R185, R397). -/
def State.sendPipe (s : State) (o : PipeOut) (stamp : BitVec 128) : State :=
  let r := s.readLines .stream ((o.source.toNat / 256 * 256)) o.lines.val
  let fields := o.addr.toNat / 256 * 256 + 2 ^ 48 * o.mark.toNat + 2 ^ 64 * o.total.toNat + 2 ^ 96 * stamp.toNat
  r.2.sendMsg o.dst.toNat
    { cls := 1, head := r.2.headLine 0x10 o.dst.toNat (stampStep stamp) r.1.length fields, data := r.1 }

/-- PIPE (R399): a message of a port is received, or, with `out`, one of this package is sent (R185): what its binary sends and when, the
spec does not say, so the command names it (log 84). A free stamp entry has nothing to send. -/
def execPipe (port : Fin 18) (s : State) (out : Option PipeOut := none) : Out :=
  match out with
  | none => .next (s.arriveData port.val 1 0x10 (fun s m => s.applyPipe port.val m))
  | some o =>
    match Tab.find? s.step.stamps o.entry.val with
    | some stamp => .next (if s.alive && s.memFree then s.sendPipe o stamp else s)
    | none => .next s

/-- GRAD (R400). -/
def execGrad (port : Fin 18) (s : State) : Out := .next (s.arriveData port.val 2 0x11 (fun s m => s.applyGrad port.val m))

/-- BCAST (R400). -/
def execBcast (port : Fin 18) (s : State) : Out := .next (s.arriveData port.val 2 0x12 (fun s m => s.applyBcast port.val m))

/-- PARITY (R451). -/
def execParity (port : Fin 18) (s : State) : Out := .next (s.arriveData port.val 3 0x18 (fun s m => s.applyParity m))

/-- PUT (R399). -/
def execPut (port : Fin 18) (s : State) : Out := .next (s.arriveData port.val 3 0x19 (fun s m => s.applyPut port.val m))

/-- A message of classes 1 to 3 by its transport. -/
def State.applyData (s : State) (p : Nat) (m : Msg) : State :=
  let t := msgTransport m
  if t = 0x10 then s.applyPipe p m
  else if t = 0x11 then s.applyGrad p m
  else if t = 0x12 then s.applyBcast p m
  else if t = 0x18 then s.applyParity m
  else s.applyPut p m

/-- HELD_MESSAGE_APPLY (R398): the first held message whose count VL_SKIPS has reached is applied, or discarded where it has
been passed or its epoch is over. -/
def execHeldMessageApply (s : State) : Out :=
  let due (x : Nat × Msg) : Bool :=
    let d := (msgSkips x.2 + 65536 - s.skips) % 65536
    d == 0 || decide (32768 ≤ d)
  match s.link.held.find? due with
  | none => .next s
  | some x =>
    if !s.memFree then .next s
    else
      let s1 : State := { s with link := { s.link with held := s.link.held.erase x } }
      .next (s1.inTurn x.1 x.2 (fun s => s.applyData x.1 x.2))

end Sys2Proof.Machine
end

