-- ==== Sys2Proof/Machine/Posting.lean ====
section
/-! DEFINITION. The step: the injector and its stamps (R183 to R192), the Posting engine with votes, Posting, skip and step entry
(R201 to R209, R225, R230 to R236), and the evaluation slot (R199, R200). -/

namespace Sys2Proof.Machine

/-! ### Micro-batches in flight (R183, R186, R187) -/

/-- Every stream of every active core has ended. -/
def State.streamsEnded (s : State) : Bool :=
  (List.range 4).all (fun d => (List.range 34).all (fun j =>
    !s.active d j || ((s.core d j).fwd.ended && (s.core d j).bwd.ended)))

/-- Stamp entries are freed. -/
def Step.free (x : Step) (es : List Nat) : Step :=
  { x with stamps := x.stamps.filter (fun e => !es.contains e.1) }

/-- Micro-batches of a step. -/
def State.microBatches (s : State) : Nat := (s.step.job.map (·.microBatches)).getD 1

/-- The backward pass of a record's layer is complete for every micro-batch of a step (R205). -/
def State.layerPassed (s : State) (n i : Nat) : Bool :=
  decide (s.microBatches ≤ (Tab.read [] s.step.passes (65536 * (n % 2) + i)).length)

/-- Micro-batches of a step that have left the package (R183, R187). -/
def State.batchesDone (s : State) (n : Nat) : Nat := (Tab.read [] s.step.batches (n % 2)).length

/-- What a step of a parity has passed is forgotten. -/
def Step.forget (x : Step) (n : Nat) : Step :=
  { x with passes := x.passes.filter (fun e => e.1 / 65536 != n % 2), batches := x.batches.filter (fun e => e.1 != n % 2) }

/-- Stamp entries of a step. -/
def State.stampsOf (s : State) (n : Nat) : List Nat := (s.step.stamps.filter (fun e => stampStep e.2 == n)).map (·.1)

/-- The loss scale 2^e as FP32 (R230). -/
def lossScale (e : Nat) : Nat := 2 ^ 23 * (127 + e)

/-- A stamp (R186). -/
def stampWord (ls step mb ver : Nat) (stale : Bool) : BitVec 128 :=
  BitVec.ofNat 128 (ver + 2 ^ 16 * mb + 2 ^ 40 * b2n stale + 2 ^ 56 + 2 ^ 64 * step + 2 ^ 96 * ls)

/-- TLR_LS after a decision: `outcome` 0 posted, 1 non-finite, 2 step fault. -/
def lsAfter (ls cfg outcome : Nat) : Nat :=
  let e := min 64 (bits ls 6 0)
  let good := bits ls 31 16
  let bad := bits ls 15 8
  let dyn := bit cfg 31
  let eMax := min 64 (bits cfg 30 24)
  let eMin := min eMax (bits cfg 22 16)
  let growth := bits cfg 15 0
  let word (e good bad : Nat) : Nat := 2 ^ 16 * good + 2 ^ 8 * bad + e
  if outcome = 0 then
    if dyn = true ∧ growth ≠ 0 ∧ good + 1 = growth ∧ e < eMax then word (e + 1) 0 0 else word e (min 65535 (good + 1)) 0
  else if outcome = 1 then
    if dyn then word (max (e - 1) eMin) 0 (min 255 (bad + 1)) else word e 0 (min 255 (bad + 1))
  else word e good bad

/-- TLR_LS after a decision of the step in progress (R231). -/
def State.lsNext (s : State) (outcome : Nat) : Nat :=
  lsAfter (s.reg (tlrBase 0 + 0x28)).toNat (s.reg (tlrBase 0 + 0x2C)).toNat outcome

/-- The loss-scale exponent of a step: a micro-batch of the next step carries the one that the Posting of this step leaves, since it is
abandoned where the step is not posted (R188, R192, R230; log 90). -/
def State.stepExp (s : State) (n : Nat) : Nat := if n = s.tlrStep then s.lsExp else bits (s.lsNext 0) 6 0

/-- Halts of admission (R199, R232, R401, R437, R445, R507). -/
def State.admissionHeld (s : State) (early : Bool) : Bool :=
  s.step.stopped || s.rec_.haltedLs || s.rec_.haltedSteps || s.rec_.stage != .none || s.step.evalRunning ||
    (early && (s.step.evalRequested || s.link.staged.any (fun g => g.step == s.tlrStep)))

/-- The micro-batch that may be admitted: its step, its index, whether it is stale (R183, R189). -/
def State.nextAdmission (s : State) : Option (Nat × Nat × Bool) :=
  match s.step.job with
  | none => none
  | some j =>
    let n := s.tlrStep
    let x := s.step
    if x.admitStep = n then
      if x.nextMb < j.microBatches then
        (if x.post = 0 ∧ s.admissionHeld false = false ∧ x.faulted = false then some (n, x.nextMb, false) else none)
      else if j.overlap ∧ x.post ≤ 2 ∧ s.admissionHeld true = false ∧ x.faulted = false then some (n + 1, 0, true)
      else none
    else if x.admitStep = n + 1 ∧ x.nextMb < j.microBatches then
      (if j.overlap ∧ x.post ≤ 2 ∧ s.admissionHeld true = false ∧ x.faulted = false then some (n + 1, x.nextMb, true) else none)
    else none

/-- MICROBATCH_ADMIT (R186, R189): the lowest free stamp entry is taken (log 25). -/
def execMicrobatchAdmit (s : State) : Out :=
  match s.nextAdmission, firstFree (s.step.stamps.map (·.1)) 32 with
  | some (n, mb, stale), some e =>
    if !s.alive then .next s
    else
      let x := stampWord (lossScale (s.stepExp n)) n mb s.activeVer stale
      .next { s with step := { s.step with stamps := Tab.put s.step.stamps e x, admitStep := n, nextMb := mb + 1 } }
  | _, _ => .next s

/-! ### Layer records (R204 to R207, R209, R550) -/

/-- The record at an index of Teller 0's table: both tables are one (R374). -/
def State.recOf (s : State) (i : Nat) : Rec := (s.readRec 0 i).1

/-- Exits into a gradient buffer that are not yet written (R175, R205). -/
def State.exitsPending (s : State) (a n : Nat) : Bool :=
  let inBuf (x : Nat) : Bool := decide (a ≤ x) && decide (x < a + n)
  (List.range 4).any (fun d => (s.ring d).exits.any (fun e => !e.toCore && inBuf e.exit)) ||
    s.allReqs.any (fun r => r.kind == .add && inBuf r.addr)

/-- Lines of a layer that a transport has added or written, over both I/O dies (R400, log 31). -/
def countOf (t : Tab Nat) (step record : Nat) : Nat :=
  Tab.read 0 t (counterKey 0 step record) + Tab.read 0 t (counterKey 9 step record)

/-- A counter has reached TOTAL, as the messages name it, a number of times (R400). -/
def reached (totals counts : Tab Nat) (step record times : Nat) : Bool :=
  match Tab.find? totals (counterKey 0 step record) with
  | some total => decide (total * times ≤ countOf counts step record)
  | none => false

def State.peersOf (s : State) : Nat := s.rf (vlBase 0 + 0x18) 11 0

/-- Every member's contribution has been added (R207, R400). -/
def State.gradsIn (s : State) (n i : Nat) (r : Rec) : Bool :=
  r.op != 0 || s.peersOf == 0 || reached s.link.gradTotal s.link.gradCount n i s.peersOf

/-- The condition of R205 and R207 for a record in a step: the layer's last backward pass of the step is complete, every exit into its
gradient buffer is written, and every member's contribution is in. A frozen layer has no exits, and may have no backward pass (R181,
R182). -/
def State.recordDue (s : State) (n i : Nat) : Bool :=
  let r := s.recOf i
  (s.layerRecords.map (·.1)).contains i &&
    (s.frozenNow i r || (s.layerPassed n i && !s.exitsPending (r.grad n) (4 * r.n) && s.gradsIn n i r))

/-- LAYER_RECORD_ENQUEUE (R205, R207, R550): firmware enqueues a record on the Teller that it names, or holds one of the next
step. -/
def execLayerRecordEnqueue (record : BitVec 16) (s : State) : Out :=
  let i := record.toNat
  let n := s.tlrStep
  let x := s.step
  .next (
    if !s.memFree || x.job.isNone then s
    else if !x.enqueued.contains i then
      (if x.post == 0 && s.recordDue n i then
        (let s1 := s.enqueueRec (s.recOf i).teller i
         { s1 with step := { s1.step with enqueued := s1.step.enqueued ++ [i] } })
      else s)
    else if (x.job.any (·.overlap)) && decide (x.post ≤ 2) && !x.heldRecords.contains i && s.recordDue (n + 1) i then
      { s with step := { s.step with heldRecords := s.step.heldRecords ++ [i] } }
    else s)

/-- The broadcast of a layer is written (R209, R400). -/
def State.bcastIn (s : State) (n i : Nat) : Bool :=
  let r := s.recOf i
  r.op != 1 || s.peersOf == 0 || reached s.link.bcastTotal s.link.bcastCount n i 1

/-- The package is update-done: its micro-batches have left it, and every layer's record has been enqueued and has completed (R209,
R234). -/
def State.updateDone (s : State) : Bool :=
  let n := s.tlrStep
  let open_ := s.layerRecords.filter (fun l => !l.2)
  s.step.job.isSome && (s.stampsOf n).isEmpty && decide (s.microBatches ≤ s.batchesDone n) &&
    open_.all (fun l => s.step.enqueued.contains l.1) && (s.teller 0).level == 0 && (s.teller 1).level == 0 &&
    open_.all (fun l => s.bcastIn n l.1)

/-! ### Abandoned work (R192, R197) -/

/-- No flit remains on the lanes and bridges of a die. -/
def State.lanesEmpty (s : State) (d : Nat) : Bool := (s.ring d).hops.all (fun h => h.2.isEmpty)

/-- Some fault bit keeps the barrier of a die from being reached. -/
def State.dieFaulted (s : State) (d : Nat) : Bool :=
  (s.ringDies d).any (fun n => s.rf (ringBase n + 0xC) 31 0 != 0 ||
    (List.range 34).any (fun j => s.active n j && (s.rf (coreBase n j + 0xC) 31 0 != 0 || (s.core n j).halted)))

/-- A stream is stopped or idle. -/
def State.atRest (s : State) (d j : Nat) (st : StreamId) : Bool :=
  (s.core d j).halted || !s.coreRun d j || !s.streamEn d j st || s.streamIdle d j st

/-- Work has ended on a die: at its barrier; or with every core QUIET, its streams at rest and no flit on the lanes, where a fault
keeps the barrier from being reached or no stream will reach another (R197, log 32). -/
def State.dieEnded (s : State) (d : Nat) : Bool :=
  s.step.abandonedDies.contains d ||
    (s.lanesEmpty d && (List.range 34).all (fun j => !s.active d j ||
        (s.quiet d j && s.atRest d j .fwd && s.atRest d j .bwd)) &&
      (s.dieFaulted d || (List.range 34).all (fun j => !s.active d j ||
        (s.core d j).halted || !s.coreRun d j || ((s.core d j).fwd.ended && (s.core d j).bwd.ended))))

def State.workEnded (s : State) : Bool := (List.range 4).all (fun d => s.dieEnded d)

/-! ### SETTLE and VOTE (R233 to R235, R452, R454) -/

def State.setPost (s : State) (v : Nat) : State := { s with step := { s.step with post := v } }

/-- SETTLE (R234). -/
def execSettle (s : State) : Out :=
  .next (if s.alive && s.step.post == 0 && ((s.memFree && s.updateDone) || (s.step.faulted && s.workEnded)) then s.setPost 1 else s)

/-- The packages whose votes decide (R234). -/
def State.voters (s : State) : List Nat := s.self :: s.peers

/-- A vote belongs to the attempt in progress. -/
def State.voteNow (s : State) (v : Vote) : Bool := v.step == s.tlrStep && v.skips == s.skips && v.epoch == s.epoch

/-- The error that a skip handles (R442). -/
def State.beginHandling (s : State) : State :=
  match s.jnl.handling, s.step.faultRef with
  | none, some r => { s with jnl := { s.jnl with handling := some r } }
  | _, _ => s

/-- In VOTE, the decision is made once every member's vote is held (R234). -/
def State.tryDecide (s : State) : State :=
  let mine := s.step.votes.filter (fun v => s.voteNow v)
  if s.step.post = 2 ∧ (s.voters.all (fun m => mine.any (fun v => v.src == m))) = true then
    let nf := mine.any (·.nonfinite)
    let f := mine.any (·.fault)
    let s1 : State :=
      { s with step := { s.step with post := if nf || f then 4 else 3, decNonfinite := nf, decFault := f, stalled := false,
                                     votes := s.step.votes.filter (fun v => !s.voteNow v) } }
    if nf || f then s1.beginHandling else s1
  else s

/-- The securing in progress is complete on this package: image read and sent, digest written, and as a holder every line applied
(R454). -/
def State.securingDone (s : State) : Bool :=
  match s.ldg.building with
  | none => true
  | some _ =>
    decide ((s.reg (ldgBase + 0x1C)).toNat ≤ s.ldg.read) && s.ldg.digest.isSome &&
      (s.rf (ldgBase + 0x2C) 0 0 == 0 ||
        decide (2 ^ 32 * s.rf (ldgBase + 0x34) 7 0 + (s.reg (ldgBase + 0x30)).toNat ≤ s.ldg.applied))

/-- A checkpoint of the last Posting is still to be read: SETTLE waits for it (R459). -/
def State.checkpointDue (s : State) : Bool :=
  s.mbx.ops.any (fun o => !o.done && bits o.frame.toNat 15 8 == 0x14 && bits o.frame.toNat 223 192 + 1 == s.tlrStep)

/-- VOTE_SEND (R234, R452, R454): NONFINITE and FAULT are latched and the vote is sent. -/
def execVoteSend (s : State) : Out :=
  if !s.alive || s.step.post != 1 || !s.ldg.acksDue.isEmpty || !s.securingDone || s.checkpointDue then .next s
  else
    let nf := s.step.nonfinite
    let f := s.step.faulted
    let v : Vote := { src := s.self, step := s.tlrStep, epoch := s.epoch, skips := s.skips, nonfinite := nf, fault := f }
    let s1 : State := { s with step := { s.step with post := 2, votedNonfinite := nf, votedFault := f, votes := s.step.votes ++ [v] } }
    .next (s1.sendAll 1 s.tlrStep (b2n nf + 2 * b2n f)).tryDecide

/-- VOTE (R235): one of another step or epoch, or of an earlier attempt, is discarded (log 26). -/
def execVote (port : Fin 18) (s : State) : Out :=
  .next (s.arrive port.val 0 (isTransport 1) (fun s m =>
    let v : Vote :=
      { src := msgSrc m, step := msgStep m, epoch := msgEpoch m, skips := msgSkips m, nonfinite := bit (msgBytes m 32 1) 0,
        fault := bit (msgBytes m 32 1) 1 }
    let d := (v.skips + 65536 - s.skips) % 65536
    if v.step ≠ s.tlrStep ∨ v.epoch ≠ s.epoch ∨ 32768 ≤ d then
      (s.orReg (tlrBase 0 + 0xC) 0x20).notice (Err.aon .notice 0x605 0 v.src)
    else (State.tryDecide { s with step := { s.step with votes := s.step.votes ++ [v] } })))

/-- VOTE_TIMEOUT (R235). -/
def execVoteTimeout (s : State) : Out :=
  .next (if s.alive && s.step.post == 2 && !s.step.stalled && s.rf (tlrBase 0 + 0x24) 15 8 != 0 then
      let s1 : State := { s with step := { s.step with stalled := true } }
      (s1.orReg (tlrBase 0 + 0xC) 0x10).notice (Err.aon .notice 0x604)
    else s)

/-! ### Loss scale (R231, R232) -/

/-- TLR_LS takes its value after a decision (R231), and at SKIP_LIMIT admission halts (R232). -/
def State.lsDecide (s : State) (outcome : Nat) : State :=
  let v := s.lsNext outcome
  let s1 := s.setReg (tlrBase 0 + 0x28) (BitVec.ofNat 32 v)
  let limit := s.rf (tlrBase 0 + 0x24) 31 24
  if outcome = 1 ∧ limit ≠ 0 ∧ limit ≤ bits v 15 8 then { s1 with rec_ := { s1.rec_ with haltedLs := true } } else s1

/-! ### The step report (R504) -/

/-- A report is formed and held; of more than 64 the oldest is dropped. -/
def State.formReport (s : State) (outcome step abandoned : Nat) : State :=
  let full := 64 ≤ s.mbx.reports.length
  let es := s.step.reportEntries
  let flags := b2n s.step.decNonfinite + 2 * b2n s.step.secured + 4 * b2n (s.step.evalRequested && outcome == 0)
    + 8 * b2n (decide full) + 16 * b2n (decide (1024 < es.length))
  let r : Report :=
    { outcome := outcome, flags := flags, rating := s.rf (ldgBase + 0x3C) 7 0, step := step, ls := s.reg (tlrBase 0 + 0x28),
      abandoned := abandoned, snapStep := (s.reg (ldgBase + 0x10)).toNat, jnlFirst := s.step.jnlFirst,
      jnlLast := (0xFFFFFFFF + s.jnl.seq) % 2 ^ 32, done := s.step.reportDone, entries := es.take 1024 }
  { s with mbx := { s.mbx with reports := (if full then s.mbx.reports.drop 1 else s.mbx.reports) ++ [r] } }

/-! ### The Ledger at a decision (R453, R454, R458, R468) -/

/-- A Reserve kind of R36 is exhausted beside cores and banks: a port's spare lane is in use, a channel is left unrepaired, or a failing
row could not be recorded or repaired. -/
def State.lanesSpent (s : State) : Bool :=
  (List.range 18).any (fun p => (s.port p).spareInUse) ||
    (List.range 4).any (fun d => s.rf (hbmBase d + 8) 11 8 != 0 || s.rf (hbmBase d + 0xC) 2 2 == 1)

/-- A Reserve kind that is exhausted, a pending DEPART, or a 31-station variant (R458). -/
def State.degraded (s : State) : Bool :=
  s.rec_.departNeeded || s.rf (ldgBase + 0x50) 16 16 == 1 || s.lanesSpent ||
    (List.range 4).any (fun n => decide (2 ≤ s.rf (ldgBase + 0x50) (2 * n + 1) (2 * n)) ||
      decide (2 ≤ s.rf (ldgBase + 0x50) (2 * n + 9) (2 * n + 8)))

def State.fallBack (s : State) : Bool := s.rf (ldgBase + 0xC) 3 3 == 1 || s.degraded || s.rf (ldgBase + 4) 1 1 == 1

/-- A number of lines from an address take +0. -/
def State.zeroLines (s : State) (a : Nat) : Nat → State
  | 0 => s
  | n + 1 => (s.writeLine a 0 false).zeroLines (a + 256) n

/-- The snapshot of the step before becomes current in the decision edge (R454). -/
def State.snapshotCurrent (s : State) : State :=
  match s.ldg.building with
  | none => s
  | some m =>
    let s1 := ((s.setReg (ldgBase + 0x10) (BitVec.ofNat 32 m)).setRf (ldgBase + 8) 1 1 1).setRf (ldgBase + 8) 2 2 (1 - s.snapHalf)
    ({ s1 with ldg := { s1.ldg with building := none } } : State).notice (Err.aon .notice 0x922)

/-- Securing begins at the Posting of `n` when a SECURE, the fall-back or a membership change requires it (R453, R457, R458,
R468). -/
def State.beginSecuring (s : State) (n : Nat) (changed : Bool) : State :=
  if s.ldgOn && (changed || s.fallBack || s.ldg.secures.any (fun m => decide (m ≤ n))) then
    let half := 1 - s.snapHalf
    let s1 := if s.rf (ldgBase + 0x2C) 0 0 = 1 then s.zeroLines (s.parityBase half) (s.reg (ldgBase + 0x28)).toNat else s
    let s2 : State :=
      { s1 with ldg := { s1.ldg with secures := s1.ldg.secures.filter (fun m => decide (n < m)), building := some n, read := 0,
                                     applied := 0, digest := none, bases := [] },
                step := { s1.step with secured := true } }
    s2.notice (Err.aon .notice 0x921)
  else s

/-! ### Membership and ownership at a Posting (R401, R503) -/

/-- OP and TELLER of a layer record are rewritten. -/
def State.rewriteOwner (s : State) (o : Nat × Nat × Nat) : State :=
  let a := 2 ^ 32 * s.rf (tlrBase 0 + 0x1C) 15 0 + 2 ^ 7 * s.rf (tlrBase 0 + 0x18) 31 7 + 128 * o.1
  let r := s.readBytes a 128
  r.2.2.putBytes a (bytesOfNum 128 (setBits (setBits r.1 9 8 o.2.1) 14 14 o.2.2))

/-- Lines of a record's optimizer state (R212). -/
def Rec.stateLines (r : Rec) : Nat :=
  (((r.offs.zip r.arrays).foldl (fun m x => max m (x.1 + 4 * x.2)) 256) + 255) / 256

/-- The bytes of some lines, each with its line's poison mark (R266). -/
def markedBytes (l : List (Line × Bool)) : List (Byte × Bool) :=
  l.flatMap (fun x => (bytesOfNum 256 x.1.toNat).map (fun b => (b, x.2)))

/-- `n` bytes of memory from an address on, each with the mark of the line that it lies in. -/
def State.readMarked (s : State) (a n : Nat) : List (Byte × Bool) × State :=
  let r := s.readLines .stream (a / 256 * 256) ((a % 256 + n + 255) / 256)
  (((markedBytes r.1).drop (a % 256)).take n, r.2)

/-- Bytes that were read from no line carry no mark. -/
def unmarked (bs : List Byte) : List (Byte × Bool) := bs.map (fun b => (b, false))

/-- Bytes of the lines that `n` bytes fill. -/
def padded (n : Nat) : Nat := (n + 255) / 256 * 256

/-- A block of bytes is sent by PUT, a poisoned line's bytes in a poisoned flit (R266, R383); where it lies at the receiver is the
receiver's to say (log 8). -/
def State.putAway (s : State) (dst : Nat) (bs : List (Byte × Bool)) : State :=
  let a := Config.freeNat s.free % 2 ^ 40 * 256
  let k := Config.freeNat (s.free + 1) % 2 ^ 48
  (List.range (padded bs.length / 256)).foldl (fun s t =>
    s.sendMsg dst { cls := 3, head := s.headLine 0x19 dst s.tlrStep 1 ((a + 256 * t) % 2 ^ 48 + 2 ^ 48 * k),
                    data := [(BitVec.ofNat 2048 (numOfBytes (((bs.drop (256 * t)).take 256).map (·.1))),
                              ((bs.drop (256 * t)).take 256).any (·.2))] }) { s with free := s.free + 2 }

/-- A leaver hands the optimizer state of every layer that it owns to another member by PUT; which member takes a layer over no
record of the leaver says (R468, log 8). -/
def State.handOver (s : State) (members : List Nat) : State :=
  ((s.layerRecords.map (fun l => s.recOf l.1)).filter (fun r => r.op == 0)).foldl (fun s r =>
    match members[Config.freeNat s.free % members.length]? with
    | some d =>
      let x := State.readMarked { s with free := s.free + 1 } (s.activeAddr r.state) (256 * r.stateLines)
      x.2.putAway d x.1
    | none => s) s

/-- The staged change takes effect (R401). A leaver hands over its state, announces that it leaves, and
stops (R468). -/
def State.applyMembership (s : State) (g : Staged) : State :=
  let was := s.peers
  let leaves := g.leavers.contains s.self
  let s0 := if leaves then s.handOver g.members else s
  let s1 := s0.setReg (vlBase 0 + 0x14) (BitVec.ofNat 32 g.epoch)
  let s2 := (s1.setReg (vlBase 0 + 0x18) (BitVec.ofNat 32 g.group)).applyRoutes
  let s3 := (g.ledgerWords.zip [4, 0x2C, 0x38, 0x28]).foldl (fun s x => s.setReg (ldgBase + x.2) x.1) s2
  let s4 := g.owners.foldl State.rewriteOwner (s3.setRf (ldgBase + 8) 1 1 0)
  let s5 : State :=
    { s4 with link := { s4.link with staged := none, seen := [], joiners := g.joiners, leavers := g.leavers },
              rec_ := { s4.rec_ with departNeeded := s4.rec_.departNeeded && !leaves } }
  if leaves then
    was.foldl (fun s d => s.sendMember d 4 0 0 g.epoch) { s5 with step := { s5.step with stopped := true } }
  else s5

/-! ### Vault banks (R281) -/

/-- Lines of a bank's slot are written back and invalidated. -/
def State.emptySlot (s : State) (d k : Nat) : State :=
  let mine := (s.die d).ways.filter (fun w => w.1 % 38 == k)
  let s1 := (mine.filter (fun w => w.2.dirty)).foldl (fun s w => s.writeBack d w.2) s
  s1.modDie d (fun m => { m with ways := m.ways.filter (fun w => w.1 % 38 != k) })

/-- A failing bank is replaced from the Reserve, or its slot removed (R281). Scratchpad contents are kept by granule, so they
move with the slot. -/
def State.replaceBank (s : State) (d : Nat) (b : Nat) : State :=
  let m := s.die d
  match List.find? (fun (x : Nat × Nat) => x.2 == b) m.slots with
  | none => s
  | some (k, _) =>
    let spare := m.passing.find? (fun r => !m.slots.any (fun x => x.2 == r) && !m.failing.contains r)
    match spare with
    | some r =>
      let s1 := (s.emptySlot d k).modDie d (fun m => { m with slots := Tab.put m.slots k r })
      let used := ldgBase + 0x50
      let s2 := s1.setRf used (2 * d + 9) (2 * d + 8) (min 2 (s1.rf used (2 * d + 9) (2 * d + 8) + 1))
      s2.notice (Err.of .notice 0x421 (domMd d 9) b)
    | none =>
      if (upFrom (4 * k) 4).any (fun g => s.isScratch d g) then s.report (Err.of .depart 0x424 (domMd d 9) b)
      else ((s.emptySlot d k).modDie d (fun m => { m with slots := Tab.del m.slots k })).notice (Err.of .notice 0x422 (domMd d 9) b)

def State.replaceBanks (s : State) : State :=
  (List.range 4).foldl (fun s d =>
    let bad := (s.die d).failing
    (bad.foldl (fun s b => s.replaceBank d b) s).modDie d (fun m =>
      { m with failing := [], passing := m.passing.filter (fun r => !bad.contains r) })) s

/-! ### Frozen copies (R225) -/

/-- `n` bytes are copied in lines. -/
def State.copyLines (s : State) (a b : Nat) : Nat → State
  | 0 => s
  | n + 1 =>
    let r := s.readLine a
    (r.2.2.writeLine b r.1 r.2.1).copyLines (a + 256) (b + 256) n

/-- A layer's active weights, and on the owner its optimizer state, are copied into the inactive version. -/
def State.copyLayer (s : State) (r : Rec) : State :=
  let s1 := s.copyLines (s.activeAddr r.master) (s.inactiveAddr r.master) ((4 * r.n + 255) / 256)
  let s2 := s1.copyLines (s.activeAddr r.compute) (s.inactiveAddr r.compute) ((r.copyBytes + 255) / 256)
  if r.op = 0 then s2.copyLines (s.activeAddr r.state) (s.inactiveAddr r.state) r.stateLines else s2

/-- Records that have become frozen since the last Posting or load are copied. -/
def State.frozenCopies (s : State) : State :=
  let recs := s.layerRecords.map (fun l => (l.1, s.recOf l.1))
  let now := (recs.filter (fun x => x.2.frozen)).map (·.1)
  let new := recs.filter (fun x => x.2.frozen && !s.step.frozenRecs.contains x.1)
  let s1 := new.foldl (fun s x => s.copyLayer x.2) s
  { s1 with step := { s1.step with frozenRecs := now } }

/-! ### POSTING (R202, R234) -/

/-- A STOP holds from the decision on (R499, R507). -/
def State.stopAtDecision (s : State) : State :=
  if s.step.stopRequested then { s with step := { s.step with stopped := true, stopRequested := false } } else s

/-- An enabled schedule engine computes the values of the step that TLR_STEP holds (R229, R250). -/
def State.schPost (s : State) (n : Nat) : State :=
  if s.rf (tlrBase n + 0x8004) 0 0 = 1 then (s.wakeSeen (domXd n 10)).schCompute n s.tlrStep else s

/-- Block-table entries in the caches of the four slices are written back (R303). -/
def State.depPosting (s : State) : State := (List.range 4).foldl State.depWriteBack s

/-- POSTING: the commit edge, then group values, frozen copies, membership and ownership, banks, block tables, securing, and the report. -/
def execPosting (s : State) : Out :=
  let n := s.tlrStep
  if !s.memFree || s.step.post != 3 then .next s
  else
    let s1 := ((s.setTlrStep (n + 1)).lsDecide 0).snapshotCurrent
    let s2 := (s1.schPost 0).schPost 1
    let s3 := s2.frozenCopies
    let change := s3.link.staged.filter (fun g => g.step == n)
    let s4 := match change with
      | some g => s3.applyMembership g
      | none => s3
    let s5 := ((s4.replaceBanks).depPosting).beginSecuring n change.isSome
    let s6 : State := { s5 with jnl := { s5.jnl with stepFaults := 0 }, step := { s5.step with lastSkipped := false, abandoned := 0 } }
    .next (((s6.formReport 0 n 0).stopAtDecision).setPost 5)

/-! ### SKIP (R192, R234) -/

/-- Queued records and the one in progress end with status 0x43 (R226). -/
def State.stopTeller (s : State) (n : Nat) : State :=
  let t := s.teller n
  let running := match t.current with
    | some (_, layer, _) => [layer]
    | none => []
  let layers := running ++ t.queue.map (fun i => (s.readRec n i).1.layer)
  layers.foldl (fun s l => s.postStatus n l 0x43) (s.setTeller n {})

/-- Gradient buffers of a step's parity take +0 for every layer that has them. -/
def State.clearGrads (s : State) (n : Nat) : State :=
  (s.layerRecords.map (fun l => s.recOf l.1)).foldl (fun s r => if r.frozen then s else s.zeroLines (r.grad n) r.gradLines) s

/-- Stamps of a step are marked ABANDONED (R186, R192). -/
def Step.markAbandoned (x : Step) (n : Nat) : Step :=
  { x with stamps := x.stamps.map (fun e => if stampStep e.2 = n then (e.1, e.2 ||| BitVec.ofNat 128 (2 ^ 41)) else e) }

/-- Micro-batches end: their Escrow granules and stamp entries are freed (R192). -/
def Step.endBatches (x : Step) (es : List Nat) : Step :=
  let keys := (x.escrow.filter (fun t => es.contains (t.1 / 2 ^ 24))).map (·.1)
  (keys.foldl Step.freeTile x).free es

/-- Micro-batches of the next step that this package has admitted or received, those that have left it too (R192, R504). -/
def State.admittedNext (s : State) (n : Nat) : Nat :=
  if s.step.admitStep = n + 1 then s.step.nextMb else (s.stampsOf (n + 1)).length + s.batchesDone (n + 1)

/-- A skip stops the Tellers, clears the gradients of the step and, where a micro-batch of the next step is abandoned, its
gradients too, and ends the micro-batches of both (R197, R234). Each line is cleared behind the ADDs that wait for it, so none adds after
the clear (R192, R272). -/
def State.skipBatches (s : State) (n gone : Nat) : State :=
  let s1 := ((s.stopTeller 0).stopTeller 1).clearGrads n
  let s2 : State := { s1 with step := s1.step.endBatches (s1.stampsOf n ++ s1.stampsOf (n + 1)) }
  if gone = 0 then s2 else s2.clearGrads (n + 1)

/-- What a skip leaves for the step that follows: no record held, and the micro-batches abandoned. -/
def State.skipMark (s : State) (gone : Nat) : State :=
  State.markFresh
    { s with step := { s.step with heldRecords := [], lastSkipped := true, abandoned := gone },
             mbx := { s.mbx with abandoned := s.mbx.abandoned || decide (0 < gone) } } 0x110 (if 0 < gone then 2 ^ 4 else 0)

/-- A step skipped for a fault counts towards STEP_LIMIT, and at the limit steps halt (R437). -/
def State.faultLimit (s : State) : State :=
  let limit := s.rf (jnlBase + 4) 15 12
  let k := min 255 (s.jnl.stepFaults + 1)
  let t : State := { s with jnl := { s.jnl with stepFaults := k } }
  if limit ≠ 0 ∧ limit ≤ k ∧ t.rec_.haltedSteps = false then
    ({ t with rec_ := { t.rec_ with haltedSteps := true } } : State).notice (Err.aon .notice 0x624)
  else t

/-- SKIP: micro-batches of step n + 1 are marked ABANDONED; once the work has ended on every die, the skip is completed. -/
def execSkip (s : State) : Out :=
  let n := s.tlrStep
  if !s.memFree || s.step.post != 4 then .next s
  else
    let s1 : State := { s with step := s.step.markAbandoned (n + 1) }
    if !(s.stampsOf (n + 1)).isEmpty && !s.workEnded then .next s1
    else
      let gone := s.admittedNext n
      let outcome := if s.step.decFault then 2 else 1
      let s2 := (((s1.skipBatches n gone).lsDecide outcome).snapshotCurrent).skipMark gone
      let s3 := if outcome = 2 then s2.faultLimit else s2
      .next (((s3.formReport outcome n gone).stopAtDecision).setPost 5)

/-! ### ENTRY (R74, R234, R252, R398 to R401, R462, R550) -/

/-- Every Mint source takes a fresh seed (R74). -/
def State.reseed (s : State) : State :=
  if s.step.seeded then s else { s with mint := { seed := s.mint.seed + 1, draws := [] }, step := { s.step with seeded := true } }

/-- Marks are cleared, those of firmware apart (R399). -/
def State.clearAllMarks (s : State) : State :=
  { s with link := { s.link with marks := s.link.marks.filter (fun m => decide (0xFF00 ≤ m.1)) } }

/-- Counters of a step's parity are cleared (R400). -/
def State.clearCounters (s : State) (n : Nat) : State :=
  let other (t : Tab Nat) : Tab Nat := t.filter (fun e => e.1 / 65536 % 2 != n % 2)
  { s with link := { s.link with gradCount := other s.link.gradCount, bcastCount := other s.link.bcastCount,
                                   gradTotal := other s.link.gradTotal, bcastTotal := other s.link.bcastTotal } }

/-- Registers of R119, R121 and R123 that a replacement core takes. -/
def coreCopyRegs : List Nat := [0x28, 0x2C, 0x38] ++ (List.range 8).map (fun k => 0x40 + 4 * k)

/-- A Reserve core of a die: the lowest that is neither active nor has failed. -/
def State.spareCore (s : State) (d : Nat) : Option Nat :=
  (List.range 34).find? (fun j => !(s.core d j).active && !(s.core d j).off)

/-- An engine whose last computation found an invalid program raises a step fault at step entry (R252). -/
def State.progFaults (s : State) : State :=
  [0, 1].foldl (fun s n =>
    if s.rf (tlrBase n + 0x8010) 1 1 = 1 then s.report (Err.of .step 0x621 (domXd n 10) n) else s) s

/-- Per-core sections of the image for a core: of the variant that its die runs (R39, R373). -/
def Job.coreSections (j : Job) (d index : Nat) (v31 eval : Bool) : List CoreSection :=
  j.sections.filter (fun x => x.dies.contains d && x.index == index && x.variant == v31 && x.eval == eval)

/-- A section is placed in a core: code and data in the store, bases and ranges in registers (R374). -/
def State.placeSection (s : State) (d j : Nat) (x : CoreSection) : State :=
  let base := coreBase d j
  if x.type = 6 then
    (List.range 8).foldl (fun s k => s.setReg (base + 0x40 + 4 * k) (BitVec.ofNat 32 (numOfBytes ((x.bytes.drop (4 * k)).take 4)))) s
  else
    let s1 := s.modCore d j (fun c => c.write x.load x.bytes)
    if x.type = 3 then s1.setReg (base + 0x28) (BitVec.ofNat 32 x.load)
    else if x.type = 4 then s1.setReg (base + 0x2C) (BitVec.ofNat 32 x.load)
    else s1

/-- A core is replaced by a Reserve core: store and registers are copied, ACTIVE_INDEX moves, the replaced core is OFF (R462). -/
def State.fillCore (s : State) (d j k : Nat) : State :=
  let old := s.core d j
  let new : Core := { active := true, activeIndex := old.activeIndex, store := old.store, marks := old.marks }
  let s1 := (s.setCore d k new).setCore d j { off := true }
  let s2 := coreCopyRegs.foldl (fun s o => s.setReg (coreBase d k + o) (s.reg (coreBase d j + o))) s1
  let s3 := (s2.at (s2.edge + domWake (domCore d k) + s2.wakeHold (domCore d k))).openGate (domCore d k)
  let s4 := s3.modDomain (domCore d j) (fun x => { x with awake := false, slow := false })
  let used := ldgBase + 0x50
  (s4.setRf used (2 * d + 1) (2 * d) (min 2 (s4.rf used (2 * d + 1) (2 * d) + 1))).notice (Err.of .notice 0x123 (domCore d k) k 0 j)

/-- Whether a die runs 31 active cores (R39, R475). -/
def State.runs31 (s : State) (d : Nat) : Bool := s.rf (ldgBase + 0x50) (2 * d + 1) (2 * d) == 3

/-- A core leaves a die that has no Reserve core: the die runs 31, with active indices in order (R39, R465, log 33). -/
def State.dropCore (s : State) (d j : Nat) : State :=
  let gone := (s.core d j).activeIndex
  let s1 := s.setCore d j { off := true }
  let s2 := (List.range 34).foldl (fun s k => s.modCore d k (fun c =>
    if c.active && decide (gone < c.activeIndex) then { c with activeIndex := c.activeIndex - 1 } else c)) s1
  (s2.setRf (ldgBase + 0x50) (2 * d + 1) (2 * d) 3).modDomain (domCore d j) (fun x => { x with awake := false, slow := false })

/-- A core that must be replaced: from the Reserve; without one NEED_31 is set, and at the Posting after that the die goes on with
31 cores and the binary's VARIANT 1 sections, or the package departs (R465). -/
def State.replaceCore (s : State) (d j : Nat) : State :=
  match s.spareCore d with
  | some k => s.fillCore d j k
  | none =>
    if s.rf (ldgBase + 0x50) 16 16 = 0 then s.setRf (ldgBase + 0x50) 16 16 1
    else
      let job := s.step.job.getD {}
      if !s.runs31 d && job.sections.any (fun x => x.variant && x.dies.contains d) then
        (let s1 := s.dropCore d j
         (List.range 34).foldl (fun s k =>
            let c := s.core d k
            if c.active then (job.coreSections d c.activeIndex true false).foldl (fun s x => s.placeSection d k x) s else s) s1)
      else s.report (Err.of .depart 0x122 (domCore d j) j)

/-- Cores flagged slow are replaced (R464). -/
def State.replaceSlow (s : State) : State :=
  (List.range 136).foldl (fun s i =>
    let d := i / 34
    let j := i % 34
    if (s.core d j).active && (s.domain (domCore d j)).slow then s.replaceCore d j else s) s

/-- The sections of one kind are placed in every active core. -/
def State.placeSections (s : State) (eval : Bool) (mine : CoreSection → Bool) : State :=
  match s.step.job with
  | none => s
  | some job =>
    (List.range 136).foldl (fun s i =>
      let d := i / 34
      let j := i % 34
      let c := s.core d j
      if c.active then
        ((job.coreSections d c.activeIndex (s.runs31 d) eval).filter mine).foldl (fun s x => s.placeSection d j x) s
      else s) s

def CoreSection.isCode (x : CoreSection) : Bool := x.type == 3 || x.type == 4

/-- Training code stands again in the cores after a slot (R200). -/
def State.leaveEval (s : State) : State :=
  if s.step.evalPlaced then
    let s1 := s.placeSections false CoreSection.isCode
    { s1 with step := { s1.step with evalPlaced := false } }
  else s

/-- Every joiner is READY and every leaver has left, for the epoch in force (R401). -/
def State.membersIn (s : State) : Bool :=
  s.link.joiners.all (fun j => j == s.self || s.link.readies.contains (j, s.epoch)) &&
    s.link.leavers.all (fun l => l == s.self || s.link.lefts.contains (l, s.epoch))

/-- Whether ENTRY may end: no STOP, no slot that runs or is still to come, no recovery before its resume, no member missing. -/
def State.entryReady (s : State) : Bool :=
  s.memFree && s.step.post == 5 && !s.step.stopped && !s.step.evalRunning && !(s.step.evalRequested && !s.step.lastSkipped) &&
    (s.rec_.stage == .none || s.rec_.stage == .resume) && s.membersIn

/-- The step counter's step begins: the injector starts it, unless its first micro-batches have been admitted. -/
def Step.enter (x : Step) (n seq : Nat) : Step :=
  let early := !x.lastSkipped && x.admitStep == n
  { x with post := 0, nonfinite := false, faulted := false, faultNext := none, faultRef := none, abandonedDies := [],
           admitStep := n, nextMb := if early then x.nextMb else 0, enqueued := [], heldRecords := [], reportDone := 0,
           reportEntries := [], jnlFirst := seq, secured := false, seeded := false, stalled := false, voteSent := false }

/-- STEP_ENTRY: the actions of ENTRY, then RUN, which begins an edge after ENTRY (log 95). -/
def execStepEntry (sb : State) : Out :=
  if !sb.entryReady then .next sb
  else
    let s := sb.at (sb.edge + 1)
    let n := s.tlrStep
    let x := s.step
    let s1 := (((s.setReg (tlrBase 0 + 0x10) 0).setReg (tlrBase 1 + 0x10) 0).reseed).leaveEval
    let s2 := if x.lastSkipped then ((s1.setReg (vlBase 0 + 0x1C) (BitVec.ofNat 32 ((s.skips + 1) % 65536))).clearAllMarks).clearCounters n
      else ((s1.clearCounters (n + 1)).replaceSlow).frozenCopies
    let s3 : State :=
      { s2 with link := { s2.link with joiners := [], leavers := [], readies := [], lefts := [] },
                rec_ := { s2.rec_ with stage := .none },
                jnl := { s2.jnl with handling := none } }
    let past := s3.step.forget (n + 1)
    let s4 : State := { s3 with step := (if x.lastSkipped then past.forget n else past).enter n s3.jnl.seq }
    let s5 := x.heldRecords.foldl (fun s i =>
      let t := s.enqueueRec (s.recOf i).teller i
      { t with step := { t.step with enqueued := t.step.enqueued ++ [i] } }) s4
    let s6 := match x.faultNext with
      | some seq => s5.raiseStepFault seq
      | none => s5
    let s7 := s6.progFaults
    .next (if s7.fallBack then s7.sendSecure else s7)

/-! ### The evaluation slot (R199, R200) -/

/-- EVAL_SLOT_BEGIN: after a Posting, with no training micro-batch in flight, the evaluation section runs on the active
version. -/
def execEvalSlotBegin (s : State) : Out :=
  if !s.alive || s.step.post != 5 || s.step.lastSkipped || !s.step.evalRequested || s.step.evalRunning ||
      !s.step.stamps.isEmpty then .next s
  else
    let s2 := (s.reseed).placeSections true (fun _ => true)
    let s3 : State := { s2 with step := { s2.step with evalRunning := true, evalRequested := false, evalPlaced := true, evalStart := s.edge } }
    .next ((List.range 136).foldl (fun s i => if (s.core (i / 34) (i % 34)).active then s.startCore (i / 34) (i % 34) else s) s3)

/-- EVAL_SLOT_END: the streams have ended, or the slot's length has passed. -/
def execEvalSlotEnd (s : State) : Out :=
  if !s.alive || !s.step.evalRunning then .next s
  else
    let due := s.step.evalStart + 65536 * (s.step.job.map (·.evalLimit)).getD 0
    let s1 := if s.streamsEnded then s else s.at due
    .next ((List.range 136).foldl (fun s i =>
      if (s.core (i / 34) (i % 34)).active then s.setRf (coreBase (i / 34) (i % 34) + 4) 0 0 0 else s) s1).endEval

end Sys2Proof.Machine
end

