-- ==== Sys2Proof/Machine/Treasury.lean ====
section
/-! DEFINITION. The Treasury, operating-point changes, stretching, and the sleep of clock domains (R409 to R434). -/

namespace Sys2Proof.Machine

/-- A Treasury fault bit is set and journalled (R431, R436). -/
def State.tsyFault (s : State) (b : Nat) : State :=
  (s.orReg (tsyBase + 0xC) (2 ^ b)).notice (Err.aon .notice (0x800 + b))

/-! ### The allowance period (R423 to R429) -/

def tsyRcfg (r : Nat) : Nat := tsyBase + 0x100 + 4 * r
def tsyRstat (r : Nat) : Nat := tsyBase + 0x200 + 4 * r

/-- PLIMIT in W, and ILIMIT in 0.1 A, as taken (R432). -/
def State.pLimit (s : State) : Nat := min 4500 (s.rf (tsyBase + 0x10) 31 16)
def State.iLimit (s : State) : Nat := min 625 (s.rf (tsyBase + 0x10) 9 0)

/-- `p_lim` of R426 in units of 10 µW: the power limit, or the current limit at the lowest input voltage. -/
def State.inputLimit (s : State) (vinMin : Nat) : Nat := min (100000 * s.pLimit) (s.iLimit * vinMin * 10)

/-- The overdraw of a period in units of 10 µW (R426): the greater excess over the two limits. -/
def State.overdraw (s : State) (m : Measurement) : Nat :=
  max (100000 * m.pin - 100000 * s.pLimit) (m.iin * m.vin - 10 * s.iLimit * m.vin)

/-- The budget B in whole watts (R426). -/
def budget (limit pAon excess : Nat) : Int :=
  Int.fdiv ((100 * ((limit : Int) - 6000000)) - 106 * ((pAon : Int) * 100000 + 2 * (excess : Int))) 10600000

/-- The demand of a region (R425): metered power over the fraction of its mesh edges that it passed, rounded up, at most
CEIL; 0 for one that slept. -/
def demandOf (power edges ceil : Nat) : Nat := if edges = 0 then 0 else min ceil ((power * 64 + edges - 1) / edges)

/-- What the grants are computed from, by region. -/
structure Want where
  demand : Nat
  weight : Nat
  grant : Nat
  deriving DecidableEq, Repr

def Want.unmet (x : Want) : Bool := decide (x.grant < x.demand) && decide (0 < x.weight)

/-- One watt each in ascending order while any remains (R427). -/
def oneEach : List Want → Nat → List Want × Nat
  | [], n => ([], n)
  | x :: t, n =>
    if x.unmet && decide (0 < n) then
      let r := oneEach t (n - 1)
      ({ x with grant := x.grant + 1 } :: r.1, r.2)
    else
      let r := oneEach t n
      (x :: r.1, r.2)

/-- A region's share of what remains (R427). -/
def Want.share (x : Want) (n w : Nat) : Nat := if x.unmet then min (n * x.weight / w) (x.demand - x.grant) else 0

/-- One round of R427. -/
def grantRound (l : List Want) (n : Nat) : List Want × Nat :=
  let w := (l.filter Want.unmet).foldl (fun a x => a + x.weight) 0
  let given := l.foldl (fun a x => a + x.share n w) 0
  if given = 0 then oneEach l n
  else (l.map (fun x => { x with grant := x.grant + x.share n w }), n - given)

/-- The rounds of R427. Each hands out a watt or more, so that as many rounds as there are watts reach its end. -/
def grantRounds : Nat → List Want → Nat → List Want
  | 0, l, _ => l
  | fuel + 1, l, n =>
    if n = 0 ∨ !l.any Want.unmet then l
    else
      let r := grantRound l n
      grantRounds fuel r.1 r.2

/-- The grants of R427, from demands, floors and weights. -/
def grantsOf (budget : Int) (l : List (Nat × Nat × Nat)) : List Nat :=
  let start := l.map (fun x => ({ demand := x.1, grant := x.2.1, weight := x.2.2 } : Want))
  let n := (budget - (l.foldl (fun a x => a + x.2.1) 0 : Nat)).toNat
  (grantRounds n start n).map (·.grant)

def State.tsyFloor (s : State) (r : Nat) : Nat := s.rf (tsyRcfg r) 11 0

/-- A point's code as taken: 0b11 is 1.00 GHz (R431), and its frequency in 10 MHz (R415). -/
def opCode (c : Nat) : Nat := min c 2
def opFreq (c : Nat) : Nat := if c = 0 then 70 else if c = 1 then 85 else 100

def State.op (s : State) : Nat := s.rf (tsyBase + 8) 7 6

/-- The highest point that may be selected (R332, R415). -/
def State.opTop (s : State) : Nat :=
  min (opCode (s.rf (tsyBase + 4) 7 6)) ((s.step.job.map (fun j => opCode j.fmax)).getD 2)

/-- The point that the Treasury wants (R415). -/
def State.opWanted (s : State) : Nat :=
  let o :=
    if s.rf (tsyBase + 4) 0 0 = 0 then opCode (s.rf (tsyBase + 4) 5 4)
    else
      let h := s.tsy.swallowHistory.take 16
      if h.length = 16 ∧ 256 < h.foldl (· + ·) 0 then s.op - 1
      else
        let f := s.tsy.fitHistory.take 64
        if f.length = 64 ∧ f.all (fun b => b) then s.op + 1 else s.op
  min o s.opTop

/-- Decide a change at a period boundary (R415, R416): two changes are at least 100 periods, 1 ms, apart. -/
def State.decideOp (s : State) : State :=
  if s.tsy.phase == .idle && decide (100 ≤ s.tsy.sinceChange) && s.opWanted != s.op then
    { s with tsy := { s.tsy with phase := .decided, nextOp := s.opWanted } }
  else s

/-- A status bit that is journalled when it becomes set (R429). -/
def State.vinFlag (s : State) (b code : Nat) (on : Bool) : State :=
  let was := s.rf (tsyBase + 8) b b
  let s1 := s.setRf (tsyBase + 8) b b (b2n on)
  if on && was == 0 then s1.notice (Err.aon .notice code) else s1

/-- The hold at the floors (R429): from below 63 V until 66 V or more. -/
def State.vinHold (s : State) (vin : Nat) : State :=
  let was := s.rf (tsyBase + 8) 2 2 == 1
  let on := decide (vin < 63000) || (was && decide (vin < 66000))
  let s1 := s.setRf (tsyBase + 8) 2 2 (b2n on)
  if on && !was then s1.tsyFault 3 else s1

/-- BIND (R431): which limit gave the budget when demand did not fit. -/
def State.bindOf (s : State) (m : Measurement) (fits : Bool) : Nat :=
  let p := 100000 * s.pLimit
  let i := s.iLimit * m.vinMin * 10
  if fits then 0 else b2n (decide (p ≤ i)) + 2 * b2n (decide (i ≤ p))

/-- ALLOWANCE_PERIOD (R423 to R429, R415): measurements and demands are read, the grants of the next period computed, and a
change may be decided. -/
def execAllowancePeriod (m : Measurement) (s : State) : Out :=
  if s.power.phase != .on then .next s
  else
    let excess := s.overdraw m
    let b := budget (s.inputLimit m.vinMin) m.pAon excess
    let demands : List Nat := (List.range 64).map (fun r =>
      let x := (m.power[r]?).getD (0, 0)
      demandOf x.1 x.2 (s.rf (tsyRcfg r) 23 12))
    let s1 := (s.setReg (tsyBase + 0x14) (BitVec.ofNat 32 (2 ^ 16 * min 0xFFFF m.iin + min 0xFFFF (m.vin / 10)))).setRf
      (tsyBase + 0x18) 15 0 (min 0xFFFF m.pin)
    let s2 := s1.setReg (tsyBase + 0x1C) (s1.reg (tsyBase + 0x1C) + 1)
    let s3 := (((s2.vinHold m.vin).vinFlag 3 0x821 (decide (m.vin < 66000))).vinFlag 4 0x822 (decide (78000 < m.vin)))
    let s4 := if excess = 0 then s3 else s3.tsyFault 0
    let grants :=
      if s4.rf (tsyBase + 8) 2 2 = 1 then (List.range 64).map s4.tsyFloor
      else grantsOf b ((List.range 64).map (fun r => ((demands[r]?).getD 0, s4.tsyFloor r, s4.rf (tsyRcfg r) 31 24)))
    let s5 := (List.range 64).foldl (fun s r => s.setRf (tsyRstat r) 23 12 ((demands[r]?).getD 0)) s4
    let fits := (List.range 64).all (fun r => decide ((demands[r]?).getD 0 ≤ (grants[r]?).getD 0))
    let s6 := s5.setRf (tsyBase + 8) 1 0 (s5.bindOf m fits)
    let worst := (m.power.filter (fun x => x.2 != 0)).foldl (fun a x => max a (64 - x.2)) 0
    let total := demands.foldl (· + ·) 0
    let up := decide (((total * opFreq (s.op + 1) * 8 : Nat) : Int) ≤ b * ((opFreq s.op * 7 : Nat) : Int))
    let s7 : State := { s6 with tsy := { s6.tsy with
      pending := grants, capped := [], swallowHistory := (worst :: s6.tsy.swallowHistory).take 16,
      fitHistory := (up :: s6.tsy.fitHistory).take 64, sinceChange := min 100 (s6.tsy.sinceChange + 1) } }
    .next s7.decideOp

/-- The throttle level of a demand and a grant (R428). -/
def levelOf (demand grant : Nat) : Nat :=
  ((List.range 64).find? (fun l => decide (demand * (64 - l) ≤ grant * 64))).getD 63

/-- GRANT_EFFECT (R423, R428): the grants computed at the last boundary take effect, and the patterns restart. -/
def execGrantEffect (s : State) : Out :=
  if s.power.phase != .on || s.tsy.pending.isEmpty then .next s
  else
    let g := s.tsy.pending
    let s1 := (List.range 64).foldl (fun s r =>
      let a := (g[r]?).getD 0
      (s.setRf (tsyRstat r) 11 0 a).setRf (tsyRstat r) 29 24 (levelOf (s.rf (tsyRstat r) 23 12) a)) s
    let s2 := s1.setRf (tsyBase + 0x18) 31 16 (g.foldl (· + ·) 0)
    .next { s2 with tsy := { s2.tsy with pending := [], meshAt := [] } }

/-! ### Swallowed edges (R417 to R422) -/

/-- Domains on the arithmetic clock whose gate passes edges. -/
def State.awakeDomains (s : State) : List Nat := (List.range 228).filter (fun i => (s.domain i).awake)

/-- Edges E - 1 to E + 2 of a domain, in which it swallows no edge (R416). -/
def State.inWindow (s : State) (i : Nat) : Bool :=
  (s.tsy.phase == .posted || s.tsy.phase == .switching) &&
    decide (s.tsy.changeEdge ≤ s.domEdge i + 1) && decide (s.domEdge i ≤ s.tsy.changeEdge + 2)

/-- The Tally block of a domain whose die control it is (R517, R412). -/
def ctlBlock (i : Nat) : Option Nat :=
  if i < 156 then (if i % 39 = 38 then some (blkCd (i / 39)) else none)
  else if i < 196 then (if (i - 156) % 10 = 9 then some (blkMd ((i - 156) / 10)) else none)
  else if i < 228 then (if (i - 196) % 16 = 15 then some (blkXd ((i - 196) / 16)) else none)
  else none

/-- A period of a die control is stretched (R517). -/
def State.stretched (s : State) (i : Nat) : State :=
  match ctlBlock i with
  | some b => s.count b 2 0x1FF 1
  | none => s

/-- An awake domain swallows edges: S rises (R418), or in the window of a change the swallows are made after it (R416,
R422). -/
def State.swallow (s : State) (i n : Nat) (own : Bool) : State :=
  let x := s.domain i
  if !x.awake || n == 0 then s
  else
    let o := if own then x.originated + n else x.originated
    if s.inWindow i then s.setDomain i { x with deferred := x.deferred + n, originated := o }
    else (s.setDomain i { x with swallowed := x.swallowed + n, originated := o }).stretched i

/-- Every domain of a region swallows; R464 does not count these as the domain's own. -/
def State.swallowRegion (s : State) (r n : Nat) : State :=
  (s.awakeDomains.filter (fun i => domRegion i == r)).foldl (fun s i => s.swallow i n false) s

/-- Whether a throttle level swallows mesh edge `i` (R428). -/
def throttles (level i : Nat) : Bool := decide (i * level / 64 < (i + 1) * level / 64)

/-- THROTTLE_SWALLOW (R428): a region passes mesh edges up to the next one that its pattern swallows. -/
def execThrottleSwallow (region : Fin 64) (s : State) : Out :=
  let r := region.val
  let i := Tab.read 0 s.tsy.meshAt r
  if s.power.phase != .on || s.tsy.capped.contains r then .next s
  else
    match (upFrom i 64).find? (throttles (s.rf (tsyRstat r) 29 24)) with
    | none => .next s
    | some k =>
      let s1 : State := { s with tsy := { s.tsy with meshAt := Tab.write 0 s.tsy.meshAt r (k + 1) } }
      .next (s1.swallowRegion r 1)

/-- HARD_CAP (R428): the region swallows every mesh edge that is left of the period. -/
def execHardCap (region : Fin 64) (edges : Nat) (s : State) : Out :=
  let r := region.val
  if s.power.phase != .on || s.tsy.capped.contains r then .next s
  else
    let s1 : State := { s with tsy := { s.tsy with capped := r :: s.tsy.capped } }
    .next (s1.swallowRegion r edges)

/-- TSY_RCFG_WRITE (R427, R433). -/
def execTsyRcfgWrite (by_ : Writer) (region : Fin 64) (val : Word) (s : State) : Out :=
  .next (s.gate by_ false (tsyRcfg region.val) (fun s =>
    let sum := (List.range 64).foldl (fun a r =>
      a + if r = region.val then bits val.toNat 11 0 else s.tsyFloor r) 0
    if 3200 < sum then s.ignored (tsyRcfg region.val) else s.setReg (tsyRcfg region.val) val))

/-! ### Operating-point change (R416) -/

/-- OP_CHANGE_PREPARE (R416): `locked` has one bit per die whose standby PLL locks. -/
def execOpChangePrepare (locked : BitVec 10) (s : State) : Out :=
  if s.power.phase != .on || s.tsy.phase != .decided then .next s
  else if locked = 0x3FF then .next { s with tsy := { s.tsy with phase := .prepared } }
  else .next (({ s with tsy := { s.tsy with phase := .idle } } : State).tsyFault 2)

/-- CHANGE (R416): it is posted 4,096 edges before the edge at which the point changes. -/
def execChange (s : State) : Out :=
  if s.power.phase != .on || s.tsy.phase != .prepared then .next s
  else
    let e := s.edge + 4096
    let s1 := s.setReg (tsyBase + 0x8010) (BitVec.ofNat 32 e)
    .next { s1 with tsy := { s1.tsy with phase := .posted, changeEdge := e, acks := [], switched := [] } }

/-- CHANGE_ACK (R416): by edge E - 1,024. -/
def execChangeAck (die : Fin 10) (s : State) : Out :=
  if s.power.phase == .on && s.tsy.phase == .posted && decide (s.edge + 1024 ≤ s.tsy.changeEdge) &&
      !s.tsy.acks.contains die.val then
    .next { s with tsy := { s.tsy with acks := die.val :: s.tsy.acks } }
  else .next s

/-- CANCEL (R416): an acknowledgement is missing at edge E - 1,024; the point stays. -/
def execCancel (s : State) : Out :=
  if s.power.phase == .on && s.tsy.phase == .posted && decide (s.tsy.acks.length < 10) then
    let s1 := s.at (s.tsy.changeEdge - 1024)
    .next (({ s1 with tsy := { s1.tsy with phase := .idle, acks := [] } } : State).tsyFault 1)
  else .next s

/-- Swallows that the window held back are made (R416, R422). -/
def State.swallowDeferred (s : State) : State :=
  s.awakeDomains.foldl (fun s i =>
    let x := s.domain i
    if x.deferred = 0 then s
    else (s.setDomain i { x with swallowed := x.swallowed + x.deferred, deferred := 0 }).stretched i) s

/-- The change settles once every awake domain has switched (R416). -/
def State.opSettle (s : State) : State :=
  if s.awakeDomains.all (fun i => s.tsy.switched.contains i) then
    let s1 := s.at (s.tsy.changeEdge + 3)
    let s2 := s1.setRf (tsyBase + 8) 7 6 s1.tsy.nextOp
    ({ s2 with tsy := { s2.tsy with phase := .idle, acks := [], switched := [], sinceChange := 0 } } : State).swallowDeferred
  else s

/-- OP_CHANGE_SWITCH (R416): a domain's own count reaches E. -/
def execOpChangeSwitch (domain : Fin 231) (s : State) : Out :=
  let i := domain.val
  if s.power.phase == .on && decide (i < 228) && s.tsy.acks.length == 10 && (s.domain i).awake &&
      !s.tsy.switched.contains i then
    let s1 := s.at (s.tsy.changeEdge + (s.domain i).swallowed - (s.domain (domXd 0 15)).swallowed)
    let s2 := s1.modDomain i (fun x => { x with opIndex := s1.tsy.nextOp })
    .next (({ s2 with tsy := { s2.tsy with phase := .switching, switched := i :: s2.tsy.switched } } : State).opSettle)
  else .next s

/-! ### Neighbours and skew (R418, R420, R421) -/


/-- The neighbours of R418, one way round. -/
def State.joins (s : State) (a b : Nat) : Bool :=
  let x := domAt a
  let y := domAt b
  let n := x.2.1
  let i := x.2.2
  let j := y.2.2
  let same := x.1 == y.1 && n == y.2.1
  if x.1 = 0 ∧ y.1 = 0 then
    (same && decide (i < 34) && j == 34 + segmentOf i) ||
    (same && decide (34 ≤ i) && decide (i < 38) && (j == 38 || (decide (34 ≤ j) && decide (j < 38) && j - 34 == (i - 33) % 4))) ||
    (s.package n && i == 37 && j == 34 && y.2.1 == (n + 1) % 4)
  else if x.1 = 0 ∧ y.1 = 1 then i == 38 && j == 8
  else if x.1 = 1 ∧ y.1 = 2 then i == 8 && j == 14
  else if x.1 = 1 ∧ y.1 = 1 then same && (i == 8 || i == 9)
  else if x.1 = 2 ∧ y.1 = 2 then same && (i == 14 || i == 15)
  else false

/-- Two different domains on the arithmetic clock share a synchronous crossing (R411, R418). -/
def State.neighbours (s : State) (a b : Nat) : Bool :=
  a != b && decide (a < 228) && decide (b < 228) && (s.joins a b || s.joins b a)

/-- Both ends of a crossing are awake. -/
def State.crossing (s : State) (a b : Nat) : Bool :=
  s.power.phase == .on && s.neighbours a b && (s.domain a).awake && (s.domain b).awake

/-- STRETCH_TOKEN (R418): the receiver swallows until its S equals the sender's; swallows held back by a window count as
made. -/
def execStretchToken (sender : Fin 231) (receiver : Fin 231) (s : State) : Out :=
  let y := s.domain receiver.val
  if s.crossing sender.val receiver.val then
    .next (s.swallow receiver.val ((s.domain sender.val).swallowed - (y.swallowed + y.deferred)) false)
  else .next s

/-- DROOP_SWALLOW (R417): up to 4 consecutive edges. -/
def execDroopSwallow (domain : Fin 231) (edges : Fin 5) (s : State) : Out :=
  if s.power.phase == .on && decide (domain.val < 228) then .next (s.swallow domain.val edges.val true) else .next s

/-- CROSSING_WAIT_SWALLOW (R417, R420): a reader ahead of its writer swallows until the entry is present. -/
def execCrossingWaitSwallow (reader : Fin 231) (writer : Fin 231) (s : State) : Out :=
  if s.crossing reader.val writer.val then
    .next (s.swallow reader.val (s.domEdge reader.val - s.domEdge writer.val) true)
  else .next s

/-- The Tally block of a domain's die. -/
def domBlock (i : Nat) : Nat :=
  let x := domAt i
  if x.1 = 0 then blkCd x.2.1 else if x.1 = 1 then blkMd x.2.1 else blkXd x.2.1

/-- SKEW_HOLD (R421): the leading domain swallows until the counts are equal; the event is counted and journalled. -/
def execSkewHold (a : Fin 231) (b : Fin 231) (s : State) : Out :=
  let lo := min a.val b.val
  let hi := max a.val b.val
  let x := s.domEdge lo
  let y := s.domEdge hi
  let skew := max x y - min x y
  if s.crossing lo hi && decide (4 ≤ skew) then
    let s1 := s.swallow (if y < x then lo else hi) skew true
    let s2 := ((s1.countRf (tsyBase + 0x8014) 31 17 1).setRf (tsyBase + 0x8014) 15 8 lo).setRf (tsyBase + 0x8014) 7 0 hi
    let s3 := s2.notice (Err.of .notice 0x820 lo (lo + 256 * hi) 0 skew)
    let s4 := s3.count (domBlock lo) 3 0x1FF 1
    .next (if domBlock hi = domBlock lo then s4 else s4.count (domBlock hi) 3 0x1FF 1)
  else .next s

/-- CLK_SKEW_CLR (R434). -/
def execClkSkewClr (by_ : Writer) (s : State) : Out :=
  .next (s.gate by_ true (tsyBase + 0x8014) (fun s => s.clearRf (tsyBase + 0x8014) 31 17))

/-! ### Sleep and wake (R412 to R414) -/

/-- The domains that sleep and wake with a domain: all four segments of a die together, and at a wake those of every die of a
PACKAGE ring (R152). -/
def State.sleepGroup (s : State) (i : Nat) (waking : Bool) : List Nat :=
  let x := domAt i
  if i < 156 ∧ 34 ≤ x.2.2 ∧ x.2.2 < 38 then
    (if waking then s.ringDies x.2.1 else [x.2.1]).flatMap (fun n => (List.range 4).map (domSegment n))
  else [i]

/-- DOMAIN_SLEEP (R413): the sleep condition has held for 64 edges, the gate closes in the edge after them, and the domain keeps its
storage. -/
def execDomainSleep (domain : Fin 231) (s : State) : Out :=
  let i := domain.val
  if s.power.phase == .on && (s.domain i).awake && s.mayRest i then
    let t := s.at (s.edge + (64 - (s.domain i).rested) + 1)
    if t.mayRest i && (t.domain i).rested == 64 then
      .next ((t.sleepGroup i false).foldl (fun s k => s.modDomain k (fun x => { x with awake := false, wakeAt := none, rested := 0 })) t)
    else .next t
  else .next s

/-- The edge at which a domain's wake condition was seen; a condition that holds now is seen now. -/
def State.wakeFrom (s : State) (i : Nat) : Option Nat :=
  match (s.domain i).wakeAt with
  | some e => some e
  | none => if s.mayRest i then none else some s.edge

/-- DOMAIN_WAKE (R414): the first service falls the full wake latency after the wake condition was seen. A core in the Reserve is
brought up by a state copy (R38). -/
def execDomainWake (domain : Fin 231) (s : State) : Out :=
  let i := domain.val
  let c := domAt i
  if s.power.phase != .on || (s.domain i).awake || !domSleepable i || (decide (c.1 = 0) && decide (c.2.2 < 34) && !(s.core c.2.1 c.2.2).active)
  then .next s
  else
    match s.wakeFrom i with
    | none => .next s
    | some e =>
      let s1 := s.at (e + domWake i + s.wakeHold i)
      let s2 := (s.sleepGroup i true).foldl (fun s k => if (s.domain k).awake then s else s.openGate k) s1
      .next (if c.1 = 1 then s2.depSettle else s2)

end Sys2Proof.Machine
end

