-- ==== Sys2Proof/Machine/Recovery.lean ====
section
/-! DEFINITION. Faults, recovery and the Ledger: queued errors, the RESTORE recovery, the Journal's release, the Rating, slow units
and the securing read (R440 to R468, R472 to R475). -/

namespace Sys2Proof.Machine

/-- QUEUED_ERROR_RUN (R443): the oldest queued error acts once no error is being handled. A STEP error of the attempt that was
skipped is complete. -/
def execQueuedErrorRun (s : State) : Out :=
  match s.jnl.queue with
  | [] => .next s
  | q :: rest =>
    if !s.alive || s.jnl.handling.isSome then .next s
    else
      let s1 : State := { s with jnl := { s.jnl with queue := rest } }
      .next (if q.ref.cls = .step ∧ q.later = false then s1 else s1.act q.ref.cls q.ref.region q.ref.code q.seq q.addr)

/-! ### The RESTORE recovery (R445, R447, R448) -/

/-- Queues of an array are discarded; rows whose pass is discarded hold nothing. -/
def Array.discard (a : Array) : Array :=
  { a with queue := [], running := [], fills := [], drainBusy := 0, rowState := a.rowState.filter (fun r => r.2 == .valid) }

/-- Queues, transfers and inbox slots of a core are discarded, and its streams stop. -/
def Core.discard (c : Core) : Core :=
  { c with array0 := c.array0.discard, array1 := c.array1.discard, array2 := c.array2.discard, array3 := c.array3.discard,
           load := none, transBusy := 0, rowQueue := [], inbox := 0, slots := [], fwd := {}, bwd := {}, ops := [], arriving := [],
           nextLeave := 0, halted := false, stopping := false }

/-- Every Depository stream is closed (R300, R315). -/
def State.depCloseAll (s : State) : State :=
  let s1 := s.dep.streams.foldl (fun (s : State) (x : Nat × BitVec 512) => s.tableAbsent x.2.toNat) s
  { s1 with dep := {} }

/-- Quiesce: RUN, RING_CTL.ENABLE and the Tellers' ENABLE are cleared and every queue is discarded whole (R445 step 2, R448). -/
def State.quiesce (s : State) : State :=
  let s1 := (List.range 4).foldl (fun s d =>
    ((List.range 34).foldl (fun s j => (s.setRf (coreBase d j + 4) 0 0 0).modCore d j Core.discard) s).setRf (ringBase d + 4) 0 0 0) s
  let s2 := ((s1.stopTeller 0).stopTeller 1)
  let s3 := (s2.setRf (tlrBase 0 + 4) 0 0 0).setRf (tlrBase 1 + 4) 0 0 0
  let s4 := (List.range 4).foldl (fun s d => s.modDie d (fun m => { m with queue := [] })) s3
  let s5 : State := { s4 with rings := [], mem := { s4.mem with reqs := [], xt := [] } }
  let n := s5.tlrStep
  let s6 : State := { s5 with step := { (s5.step.endBatches (s5.step.stamps.map (·.1))) with
    passes := [], batches := [], nextMb := 0, heldRecords := [], faultNext := none, abandonedDies := [] } }
  let s7 := (s6.clearGrads n).clearGrads (n + 1)
  if s7.rec_.memoryRegion then s7.depCloseAll else s7

/-- Active cores whose store was uncorrectable, as 34 × die + core. -/
def State.suspectCores (s : State) : List Nat :=
  (List.range 136).filter (fun i => s.active (i / 34) (i % 34) && s.rf (coreBase (i / 34) (i % 34) + 0xC) 8 8 == 1)

/-- A line of protected state reads without an uncorrectable error. -/
def State.lineGood (s : State) (a : Nat) : Bool :=
  match s.where_ a with
  | .near li =>
    (match s.held? li with
     | some w => !w.2.poison
     | none => !(s.returned li []).any (fun c => sectorOutcome c == .bad))
  | _ => true

/-- Where a recovery stands once its units are replaced: the image is awaited for suspect cores, then a restore for lost state,
which the other members' PUTs may have supplied (R445 steps 3 to 5, R447). -/
def State.recoverOn (s : State) : State :=
  let still := s.rec_.lost.filter (fun a => !s.lineGood a)
  let stage : RecStage := if !s.rec_.cores.isEmpty then .imageNeeded else if !still.isEmpty then .restoreNeeded else .resume
  { s with rec_ := { s.rec_ with lost := still, stage := stage,
                                 memoryRegion := if stage == .resume then false else s.rec_.memoryRegion } }

/-! ### HBM stacks out of service (R268 to R270) -/

/-- A stack is trained again: its lanes, and whether a channel is left unrepaired; then it is lost (R37, R268, R436). -/
def State.retrainStack (s : State) (k : Nat) (bad : Bool) : State :=
  let a := hbmBase (k / 4)
  let t := (s.setRf (a + 8) (8 + k % 4) (8 + k % 4) (b2n bad)).setRf (a + 8) (4 + k % 4) (4 + k % 4) (b2n (!bad))
  if bad then t.report (Err.of .fatal 0x321 (domMd (k / 4) (k % 4)) k) else t

/-- The lines of a controller row (R255, R261). -/
def rowLines (d channel row : Nat) : List Nat := (List.range 15).map (fun i => lineIndex (256 * d + channel) (15 * row + i))

/-- A pending row is repaired: its contents are lost, and read as uncorrectable until they are written again (R269; log 89). A stack with
no repair resources left sets PPR_EXHAUSTED, and the row stays as it is. -/
def State.repairRow (s : State) (d channel row : Nat) (spent : Bool) : State :=
  let lines := rowLines d channel row
  let addr (li : Nat) : Nat := addressOf s.mem.qranges (li % 1024) (li / 1024)
  let k := channel / 64
  if spent then
    (s.orReg (hbmBase d + 0xC) 4).notice (Err.of .notice 0x302 (domMd d k) channel (addr (lineIndex (256 * d + channel) (15 * row))))
  else
    let s1 := lines.foldl (fun (s : State) li =>
      { s with mem := s.mem.putLine (s.steering li) li (freeLine s.free) true, free := s.free + 1 }) s
    let s2 := s1.modDie d (fun m => { m with seen := m.seen.filter (fun x => x.1 != 2 ^ 18 * channel + row) })
    { s2 with rec_ := { s2.rec_ with lost := s2.rec_.lost ++ (lines.map addr).filter s2.protected_ } }

/-- What is done to the stacks of the package while they are out of service: links are trained, pending rows are repaired, and steering is
set (R36, R254, R268 to R270). -/
def State.repairMemory (s : State) (f : RecoveryFinds) : State :=
  let s1 := f.lanes.foldl (fun s x =>
    (s.setReg (hbmBase (x.1.val / 4) + 0x20 + 4 * (x.1.val % 4)) x.2).retrainStack x.1.val (f.unrepaired.contains x.1)) s
  let s2 := f.unrepaired.foldl (fun s k => if f.lanes.any (fun x => x.1 == k) then s else s.retrainStack k.val true) s1
  let s3 := (List.range 4).foldl (fun (s : State) d =>
    let rows := (s.die d).ppr
    rows.foldl (fun s x => s.repairRow d x.1 x.2 (f.spent.any (fun k => k.val == 4 * d + x.1 / 64)))
      (s.modDie d (fun m => { m with ppr := [] }))) s2
  f.steered.foldl (fun s x => s.modDie x.1.val (fun m =>
    { m with steered := match x.2.2 with
        | some g => Tab.put m.steered x.2.1.val g.toNat
        | none => Tab.del m.steered x.2.1.val })) s3

/-- RESTORE_RECOVERY (R445): from the ENTRY that follows the decision on the faulted step. -/
def execRestoreRecovery (s : State) (finds : RecoveryFinds := {}) : Out :=
  if !s.memFree || s.step.post != 5 then .next s
  else
    match s.rec_.stage with
    | .pendingSkip =>
      let s1 := (((s.quiesce).replaceBanks).replaceSlow).repairMemory finds
      .next ({ s1 with rec_ := { s1.rec_ with cores := s1.suspectCores } } : State).recoverOn
    | .restoreNeeded => .next s.recoverOn
    | _ => .next s

/-! ### Journal registers (R440, R469, R473) -/

/-- JNL_POP: the oldest entries are released, and LOST is cleared. -/
def execJnlPop (by_ : Writer) (n : BitVec 13) (s : State) : Out :=
  .next (s.gate by_ true (jnlBase + 0x14) (fun s =>
    let k := min n.toNat s.jnl.entries.length
    { s with jnl := { s.jnl with entries := s.jnl.entries.drop k, oldest := (s.jnl.oldest + k) % 4096, lost := 0 } }))

/-- DUMP_RELEASE (R469). -/
def execDumpRelease (by_ : Writer) (s : State) : Out :=
  .next (s.gate by_ true (jnlBase + 4) (fun s => { s with fatal := { s.fatal with dumpHeld := false } }))

/-! ### The Rating (R456 to R458) and slow units (R464) -/

/-- The scores E, T, M, L and S of R456. -/
def scoresOf (h : Health) (slow : Bool) : Nat × Nat × Nat × Nat × Nat :=
  (min 255 (h.corrected / 16), (min 255 (17 * (15 - h.margin))).toNat, min 255 (4 * h.droop),
   min 255 (32 * h.retrains + h.replays / 64), if slow then 255 else 0)

/-- The Rating, from the scores and the weights of LDG_RATING_W (R456). -/
def ratingOf (w : Nat) (x : Nat × Nat × Nat × Nat × Nat) : Nat :=
  min 255 ((bits w 3 0 * x.1 + bits w 7 4 * x.2.1 + bits w 11 8 * x.2.2.1 + bits w 15 12 * x.2.2.2.1
    + bits w 19 16 * x.2.2.2.2) / 4)

/-- Banks that the health monitor marks as failing (R281). -/
def State.markBanks (s : State) (banks : List Nat) : State :=
  banks.foldl (fun s b =>
    let d := b / 40
    let k := b % 40
    let m := s.die d
    if decide (d < 4) && m.slots.any (fun x => x.2 == k) && !m.failing.contains k then
      s.modDie d (fun m => { m with failing := m.failing ++ [k] })
    else s) s

/-- A crossing during VOTE: securing takes place in this Posting (R236), while the SECURE that it sends names the next step (R452, log 92). -/
def State.secureNow (s : State) : State :=
  if s.step.post = 2 ∧ s.rf (ldgBase + 4) 0 0 = 1 ∧ s.ldg.secures.contains s.tlrStep = false then
    { s with ldg := { s.ldg with secures := s.ldg.secures ++ [s.tlrStep] } }
  else s

def State.ofArmed (s : State) (b : Bool) : State := { s with ldg := { s.ldg with armed := b } }

/-- A Rating is published; a crossing is journalled and makes the package secure (R457). -/
def State.publish (s : State) (x : Nat × Nat × Nat × Nat × Nat) : State :=
  let r := ratingOf (s.reg (ldgBase + 0x48)).toNat x
  let s1 := s.setReg (ldgBase + 0x3C) (BitVec.ofNat 32 (2 ^ 24 * x.2.2.1 + 2 ^ 16 * x.2.1 + 2 ^ 8 * x.1 + r))
  let s2 := s1.setReg (ldgBase + 0x40) (BitVec.ofNat 32 (2 ^ 8 * x.2.2.2.2 + x.2.2.2.1))
  let thresh := s.rf (ldgBase + 0x44) 7 0
  let hyst := s.rf (ldgBase + 0x44) 15 8
  if s.ldg.armed && decide (thresh ≤ r) then
    (((s2.secureNow).ofArmed false).notice (Err.aon .notice 0x920 0 0 r)).sendSecure
  else if r + hyst < thresh then { s2 with ldg := { s2.ldg with armed := true } }
  else s2

/-- A unit without a reserve fails for good (R37, R436): the failure is fatal. -/
def State.unitLost (s : State) (u : LostUnit) : State :=
  let dead (domain unit : Nat) : State := s.report (Err.of .fatal 0xA23 domain unit)
  match u with
  | .stack k => (s.setRf (hbmBase (k.val / 4) + 8) (4 + k.val % 4) (4 + k.val % 4) 0).report
      (Err.of .fatal 0x321 (domMd (k.val / 4) (k.val % 4)) k.val)
  | .memoryDie n => dead (domMd n.val 9) n.val
  | .ioDie n => dead (domXd n.val 15) n.val
  | .teller n => dead (domXd n.val 9) n.val
  | .scheduleEngine n => dead (domXd n.val 10) n.val
  | .hostEndpoint => dead (domXd 0 12) 0
  | .farhies | .powerStage | .region64 => s.report (Err.aon .fatal 0xA23)

/-- RATING_UPDATE (R37, R456 to R458): a faulted source sets RATING_FAULT, and the fall-back secures. -/
def execRatingUpdate (h : Health) (s : State) : Out :=
  if s.power.phase != .on then .next s
  else
    let s1 := ({ s with power := { s.power with dieTemp := h.dieTemp, stackTemp := h.stackTemp } } : State).markBanks h.failingBanks |> (h.lost.foldl State.unitLost)
    let s2 :=
      if h.sourceFaulted then
        (if s1.rf (ldgBase + 0xC) 3 3 = 1 then s1 else (s1.orReg (ldgBase + 0xC) 8).notice (Err.aon .notice 0x903))
      else s1.publish (scoresOf h ((List.range 231).any (fun i => (s1.domain i).slow)))
    .next (if s2.fallBack && s2.step.job.isSome then s2.sendSecure else s2)

/-- SLOW_UNIT_FLAG (R464): the swallows that a domain originated in one allowance period, per 65,536 edges. -/
def execSlowUnitFlag (domain : Fin 231) (swallows : Nat) (s : State) : Out :=
  let i := domain.val
  let x := s.domain i
  if s.power.phase != .on then .next s
  else if swallows ≤ s.rf (ldgBase + 0x4C) 15 0 then .next (s.setDomain i { x with slowPeriods := 0, originated := 0 })
  else
    let k := x.slowPeriods + 1
    if s.rf (ldgBase + 0x4C) 23 16 ≤ k ∧ x.slow = false then
      .next ((s.setDomain i { x with slowPeriods := k, originated := 0, slow := true }).notice
        (Err.of .notice 0x122 i (if i < 156 then i % 39 else 0) 0 swallows))
    else .next (s.setDomain i { x with slowPeriods := k, originated := 0 })

/-! ### Securing (R450, R451, R453) -/

/-- The lines of the package's image in order (R450): the active version of every KIND 0x00 range. -/
def State.imageRanges (s : State) : List (Nat × Nat) :=
  (((s.step.job.map (·.ranges)).getD []).filter (fun r => r.kind == 0)).map (fun r => (s.activeAddr r.base, r.size / 256))

/-- The address of an image line, or none for the last. -/
def lineAt : List (Nat × Nat) → Nat → Option Nat
  | [], _ => none
  | (a, n) :: t, i => if i < n then some (a + 256 * i) else lineAt t (i - n)

/-- The image's last line: TLR_STEP and TLR_LS. -/
def State.scalarLine (s : State) : Line := BitVec.ofNat 2048 (s.tlrStep + 2 ^ 32 * (s.reg (tlrBase 0 + 0x28)).toNat)

/-- An image line as it is read. -/
def State.imageLine (s : State) (t : Nat) : Line × Bool × State :=
  match lineAt s.imageRanges t with
  | some a => s.readLine a
  | none => (s.scalarLine, false, s)

/-- The holders of the package's group, with their parity index (R449, R475). -/
def State.holders (s : State) : List (Nat × Nat) :=
  let w := s.reg (ldgBase + 0x38)
  (bits w.toNat 11 0, 0) :: (if bit w.toNat 31 && s.rf (ldgBase + 4) 3 2 == 2 then [(bits w.toNat 27 16, 1)] else [])

/-- α^i. -/
def gfPow (i : Nat) : Nat := gfShift 1 i

/-- A coefficient a[j][i] of R451. -/
def coef (j i : Nat) : Nat := if j = 0 then 1 else gfPow i

/-- Where the holders keep this package's lines is theirs to say (log 8). -/
def State.takeBases (s : State) : State :=
  if s.ldg.bases.isEmpty then
    { s with ldg := { s.ldg with bases := [Config.freeNat s.free % 2 ^ 40 * 256, Config.freeNat (s.free + 1) % 2 ^ 40 * 256] },
             free := s.free + 2 }
  else s

/-- One image line: read, copied to the spare half, and sent to each holder (R453). -/
def State.secureLine (s : State) (t : Nat) : State :=
  let r := s.imageLine t
  let s1 := r.2.2.writeLine (s.copyBase (1 - s.snapHalf) + 256 * t) r.1 r.2.1
  let pos := s.rf (ldgBase + 4) 12 9
  let s2 := s1.holders.foldl (fun (s : State) (h : Nat × Nat) =>
    let a := (s.ldg.bases[h.2]?).getD 0 + 256 * t
    s.sendMsg h.1 { cls := 3, head := s.headLine 0x18 h.1 s.tlrStep 1 (a % 2 ^ 48 + 2 ^ 48 + 2 ^ 56 * coef h.2 pos),
                    data := [(r.1, r.2.1)] }) s1
  { s2 with ldg := { s2.ldg with read := t + 1 } }

/-- Image lines from the next one on. -/
def State.secureLines (s : State) : Nat → State
  | 0 => s
  | n + 1 => if s.ldg.read < (s.reg (ldgBase + 0x1C)).toNat then (s.secureLine s.ldg.read).secureLines n else s

/-- The digest record of a held copy, in the layout of R460. -/
def State.digestRecord (s : State) (m : Nat) (g : BitVec 256) : List Byte :=
  let b := bytesOfNum 60 (1 + 2 ^ 16 * s.self + 2 ^ 32 * m + 2 ^ 128 * g.toNat)
  b ++ bytesOfNum 4 (crc32 b)

/-- The digest of the image is written to the copy's record and sent to each holder by PUT (R453); where it lies there, and its
mark, are the holder's (log 8). -/
def State.secureDigest (s : State) (m : Nat) : State :=
  let n := (s.reg (ldgBase + 0x1C)).toNat
  let lines := (s.readLines .stream (s.copyBase (1 - s.snapHalf)) n).1
  let g := shake256 (lines.flatMap (fun l => bytesOfNum 256 l.1.toNat))
  let rec_ : Line := BitVec.ofNat 2048 (numOfBytes (s.digestRecord m g))
  let s1 : State := { s with ldg := { s.ldg with digest := some g } }
  s1.holders.foldl (fun (s : State) (h : Nat × Nat) =>
    let a := Config.freeNat s.free % 2 ^ 40 * 256
    let k := Config.freeNat (s.free + 1) % 2 ^ 48
    ({ s with free := s.free + 2 } : State).sendMsg h.1
      { cls := 3, head := s.headLine 0x19 h.1 s.tlrStep 1 (a + 2 ^ 48 * k), data := [(rec_, false)] }) s1

/-- SECURING_READ (R453): a number of image lines, and after the last the digest. -/
def execSecuringRead (lines : Nat) (s : State) : Out :=
  match s.ldg.building with
  | none => .next s
  | some m =>
    if !s.memFree || !s.ldgOn || s.ldg.digest.isSome then .next s
    else
      let s1 := s.takeBases.secureLines lines
      .next (if s1.ldg.read = (s1.reg (ldgBase + 0x1C)).toNat then s1.secureDigest m else s1)

end Sys2Proof.Machine
end

