-- ==== Sys2Proof/Machine/Status.lean ====
section
/-! DEFINITION. What each register reads (R19): fields that show the state of a unit are found from it; the other fields are those
of `State.regs`. The status field of the mailbox is here (R505). -/

namespace Sys2Proof.Machine

/-! ### The status field (R505) -/

/-- FMC_BOOT.STAGE (R510). -/
def State.bootStage (s : State) : Nat := s.rf 8 31 28

/-- The codes of R505 with their MBX_PENDING bit and whether each is pending, highest code first. -/
def State.statusCodes (s : State) : List (Nat × Nat × Bool) :=
  [ (0xFF, 15, s.fatal.stopped),
    (0xF0, 14, s.bootStage == 0xF),
    (0x90, 13, s.mbx.restoreFailed),
    (0x80, 12, s.rec_.stage == .imageNeeded),
    (0x70, 11, s.rec_.departNeeded),
    (0x68, 16, s.step.stalled && s.step.post == 2),
    (0x60, 10, s.rec_.haltedSteps),
    (0x58, 9, s.rec_.haltedLs),
    (0x50, 8, s.mbx.haltedHost),
    (0x48, 7, s.rec_.stage != .none),
    (0x40, 6, decide (3840 ≤ s.jnl.entries.length)),
    (0x30, 5, s.mbx.opDone),
    (0x20, 4, s.mbx.abandoned),
    (0x18, 3, s.mbx.evalEnded),
    (0x10, 2, !s.mbx.reports.isEmpty),
    (0x02, 1, decide (s.bootStage < 3)),
    (0x01, 0, s.step.job.isNone || s.step.stopped) ]

/-- MBX_STATUS.ATTN: the highest pending code (R505). -/
def State.attn (s : State) : Nat := ((s.statusCodes.find? (fun c => c.2.2)).map (·.1)).getD 0

/-- MBX_PENDING (R505). -/
def State.pendingCodes (s : State) : Nat := s.statusCodes.foldl (fun a c => a + if c.2.2 then 2 ^ c.2.1 else 0) 0

/-! ### Status registers of the units -/

/-- Bits that hold, from bit 0 up. -/
def bitsOf (l : List Bool) : Nat := l.foldr (fun b a => b2n b + 2 * a) 0

/-- LIFECYCLE (R488, R510). -/
def State.lifecycle (s : State) : Nat := if s.far.unlocked then 1 else s.fuses.lifecycle

def State.readFmc (s : State) (o v : Nat) : Nat :=
  if o = 0 then setBits v 7 4 s.fuses.stepMajor
  else if o = 0xC then setBits v 5 0 s.fuses.svn
  else if o = 0x10 then setBits (setBits v 1 0 s.lifecycle) 4 4 (b2n s.far.jobKey.isSome)
  else if o = 0x10C then setBits v 7 0 s.attn
  else if o = 0x110 then s.pendingCodes
  else v

/-- A change is posted and its edge not reached (R434). -/
def State.changePending (s : State) : Bool :=
  (s.tsy.phase == .posted || s.tsy.phase == .switching) && decide (s.edge < s.tsy.changeEdge)

def State.readTsy (s : State) (o v : Nat) : Nat :=
  if o = 8 then setBits v 5 5 (b2n (s.tsy.phase != .idle))
  else if o = 0x8004 then s.edge % 2 ^ 32
  else if o = 0x800C then if s.changePending then 4 + s.tsy.nextOp else 0
  else if 0x9000 ≤ o then
    let i := o / 4 - 0x2400
    let x := s.domain i
    2 ^ 31 * b2n (s.gateOpen i) + 2 ^ 24 * domRegion i + 2 ^ 23 * b2n (domSleepable i) + x.wakes
  else v

/-- The entry that a place of the Journal holds (R472). -/
def Journal.place (j : Journal) (p : Nat) : Nat :=
  ((j.entries[(p + 4096 - j.oldest) % 4096]?).map JEntry.word).getD 0

def State.readJnl (s : State) (o v : Nat) : Nat :=
  let j := s.jnl
  let n := j.entries.length
  if 0x10000 ≤ o then bits (j.place (o / 32 - 2048)) (32 * (o / 4 % 8) + 31) (32 * (o / 4 % 8))
  else if o = 8 then 2 ^ 31 * b2n (decide (n = 4096)) + 2 ^ 30 * b2n s.fatal.dumpHeld + 2 ^ 16 * n + j.lost
  else if o = 0xC then j.oldest
  else if o = 0x10 then j.seq
  else if o = 0x18 then
    (match j.handling with
     | some h => 2 ^ 12 * j.queue.length + 2 ^ 8 * h.cls.code + 2 ^ 7 + h.region
     | none => 2 ^ 12 * j.queue.length)
  else if o = 0x1C then j.stepFaults
  else v

/-- Block and register of an offset in the Tally (R513). -/
def State.readTly (s : State) (o v : Nat) : Nat :=
  if o < 0x10000 then v
  else
    let b := o / 0x10000 - 1
    let r := o % 0x10000
    if r = 4 then Tab.read 0 s.tally.ovf b
    else if 0x200 ≤ r ∧ r % 8 = 0 then Tab.read 0 s.tally.counts (16 * b + (r - 0x200) / 8) % 2 ^ 32
    else v

def State.readCore (s : State) (d p o v : Nat) : Nat :=
  let c := s.core d p
  if o = 0 then setBits v 31 24 (if c.active then c.activeIndex else 0xFF)
  else if o = 8 then
    2 ^ 19 * b2n (s.rf (coreBase d p + 0xC) 31 0 != 0) + 2 ^ 18 * b2n (s.streamIdle d p .bwd) + 2 ^ 17 * b2n (s.streamIdle d p .fwd)
      + 2 ^ 12 * (bitList c.inbox.toNat 16).length + 2 ^ 8 * c.rowLevel s.edge
      + 2 ^ 4 * bitsOf (c.arrays.map Array.busy) + 2 ^ 3 * b2n (s.quiet d p)
      + 2 ^ 2 * b2n (s.coreRun d p || c.stopping) + b2n (s.domain (domCore d p)).awake * 2 + b2n c.active
  else if o = 0x24 then c.inbox.toNat
  else if o = 0x30 then c.fwd.head / 32 % 2 ^ 17 * 32
  else if o = 0x34 then c.bwd.head / 32 % 2 ^ 17 * 32
  else v

def State.activeBits (s : State) (d : Nat) : Nat := bitsOf ((List.range 34).map (fun j => s.active d j))

def State.readRing (s : State) (d o v : Nat) : Nat :=
  if o = 0 then setBits v 23 18 (countWhere (fun j => s.active d j) (List.range 34))
  else if o = 8 then
    2 ^ 7 * b2n (s.rf (ringBase d + 0xC) 31 0 != 0)
      + 2 ^ 6 * b2n (!s.drained d && (List.range 34).any (fun j => s.active d j && s.barrierIssued d j))
      + 2 ^ 2 * bitsOf ((List.range 4).map (fun i => (s.domain (domSegment d i)).awake))
      + b2n ((List.range 4).all (fun n => s.package n && s.ringOn n)) * 2 + b2n (s.drained d)
  else if o = 0x10 then s.activeBits d % 2 ^ 32
  else if o = 0x14 then s.activeBits d / 2 ^ 32
  else if 0x20 ≤ o ∧ o < 0x40 ∧ o % 8 = 4 then s.credits d ((o - 0x24) / 8)
  else v

def State.readHbm (s : State) (n o v : Nat) : Nat :=
  if o = 8 then
    setBits (setBits v 1 1 (b2n (s.hbmOn n && s.rf (hbmBase n + 4) 31 24 != 0))) 0 0 (b2n (s.hbmOn n))
  else if o = 0x30 then (s.die n).ppr.length
  else if 0x40 ≤ o ∧ 0 < n then (s.reg (hbmBase 0 + o)).toNat
  else v

/-- Granules of a die in scratchpad (R283, R284, R295). -/
def State.scratchCount (s : State) (n : Nat) : Nat :=
  if !s.vltOn n then 0
  else if s.modeCompat n then 4 * (s.die n).slots.length
  else (s.die n).parts.foldl (fun a p => a + p.count) 0

def State.bankBits (s : State) (n : Nat) : Nat :=
  bitsOf ((List.range 40).map (fun b => (s.die n).slots.any (fun x => x.2 == b)))

def State.readVlt (s : State) (n o v : Nat) : Nat :=
  if o = 8 then
    setBits (setBits (setBits v 23 16 (s.scratchCount n)) 15 8 (s.die n).slots.length) 0 0 (b2n (s.vltOn n))
  else if o = 0x1C then s.bankBits n % 2 ^ 32
  else if o = 0x20 then s.bankBits n / 2 ^ 32
  else v

def State.readDep (s : State) (n o v : Nat) : Nat :=
  let x := s.slice n
  if (o = 4 ∨ o = 0x10 ∨ o = 0x14) ∧ 0 < n then (s.reg (depBase 0 + o)).toNat
  else if o = 8 then
    2 ^ 2 * countWhere (fun t => t.1 % 4 == n && s.dep.opening != some t.1) s.dep.streams + b2n (!x.moves.isEmpty) * 2 + b2n s.depOn
  else if o = 0x18 then if n = 0 then 2 ^ 31 * b2n s.dep.opening.isSome else 0
  else if o = 0x1C then if n = 0 then 2 ^ 31 * b2n s.dep.closing.isSome else 0
  else if o = 0x24 then s.hbmFree n
  else if o = 0x28 then if s.depOn then s.regionFrames - x.xtFrames.length else 0
  else if o = 0x2C then 2 ^ 16 * x.faults.length + x.moves.length
  else v

def State.readTlr (s : State) (n o v : Nat) : Nat :=
  if o = 8 then
    2 ^ 9 * (s.teller n).level + 2 ^ 6 * s.step.post + 2 ^ 5 * b2n s.step.nonfinite + 2 ^ 4 * b2n s.step.faulted
      + 2 ^ 3 * b2n s.updateDone + 2 ^ 2 * b2n (s.teller n).matrix + b2n (s.teller n).current.isSome * 2
  else if 0x20 ≤ o ∧ o < 0x30 ∧ n = 1 then (s.reg (tlrBase 0 + o)).toNat
  else v

def PortState.code : PortState → Nat
  | .down => 0
  | .training => 1
  | .negotiating => 2
  | .up => 3
  | .retraining => 4

def State.readVl (s : State) (n o v : Nat) : Nat :=
  if o = 8 then
    bitsOf ((upFrom (9 * n) 9).map (fun p => (s.port p).state == .up))
      + 2 ^ 9 * bitsOf ((upFrom (9 * n) 9).map (fun p => (s.port p).spareInUse))
  else if 0x100 ≤ o ∧ o < 0x220 then
    (if o % 0x20 = 4 then
      let x := s.port (9 * n + (o - 0x100) / 0x20)
      2 ^ 28 * x.state.code + 2 ^ 24 * x.spareFor + 2 ^ 12 * x.peer + x.peerFeature
    else v)
  else if n = 1 ∧ ((0x10 ≤ o ∧ o ≤ 0x20) ∨ 0x10000 ≤ o) then (s.reg (vlBase 0 + o)).toNat
  else v

def State.readLdg (s : State) (o v : Nat) : Nat :=
  if o = 8 then
    setBits (setBits (setBits (setBits v 5 5 (b2n (!s.ldg.secures.isEmpty))) 4 4 (b2n s.degraded)) 3 3 (b2n s.fallBack)) 0 0
      (b2n s.ldg.building.isSome)
  else v

/-- The bits of a register that a read can return: those of its fields, without the WO fields and reserved bits, which read 0
(R19). -/
def readMask (off : Nat) : Word :=
  (((regFields off).getD []).filter (fun f => f.acc != .wo)).foldl (fun m f => m ||| f.mask) 0

/-- What the register at an offset reads (R16, R19): 0 at an unmapped offset (R17). -/
def State.readReg (s : State) (off : Nat) : Word :=
  if (regFields off).isNone then 0
  else
    let v := (s.reg off).toNat
    let o := off % 0x1000000
    let b := off / 0x1000000
    readMask off &&& BitVec.ofNat 32 (
      if b = 0 then s.readFmc o v
      else if b = 1 then s.readTsy o v
      else if b = 2 then s.readJnl o v
      else if b = 3 then s.readTly o v
      else if b < 0x14 then
        (if o < 0x800000 then s.readCore (b - 0x10) (o / 0x10000) (o % 0x10000) v else s.readRing (b - 0x10) (o % 0x800000) v)
      else if b < 0x24 then
        (if o < 0x400000 then s.readHbm (b - 0x20) o v
         else if o < 0x800000 then s.readVlt (b - 0x20) (o % 0x400000) v
         else s.readDep (b - 0x20) (o % 0x800000) v)
      else if 0x800000 ≤ o then s.readTlr (b - 0x30) (o % 0x800000) v
      else if 0x400000 ≤ o then s.readLdg (o % 0x400000) v
      else s.readVl (b - 0x30) o v)

end Sys2Proof.Machine
end

