-- ==== Sys2Proof/Machine/Access.lean ====
section
/-! DEFINITION. Register writes of fields without a behaviour of their own, accesses that reach no register, reads that latch, and
BAR2 (R15, R17, R19 to R21, R434, R494, R495, R516, R524). -/

namespace Sys2Proof.Machine

/-! ### Locks -/

/-- Whether a field may be written now: yes; no, in silence; no, and the write is journalled; no, and a write that would change it
is journalled. -/
inductive Lock where
  | writable
  | silent
  | journalled
  | onChange
  deriving DecidableEq, Repr

def lockIf (b : Bool) (l : Lock) : Lock := if b then l else .writable

/-- Registers of a core that are written only while RUN is 0 (R119, R121, R123). -/
def coreLocked (o : Nat) : Bool := o == 0x28 || o == 0x2C || o == 0x38 || (decide (0x40 ≤ o) && decide (o < 0x60))

/-- Teller registers that are written only while both Tellers are disabled (R237, R243 to R247, R251). -/
def tlrLocked (o : Nat) : Bool := (decide (0x18 ≤ o) && decide (o ≤ 0x2C)) || o == 0x8008 || o == 0x800C

/-- The lock of a field of a register (R119, R121, R123, R164, R237, R293, R294, R296, R320, R322, R404, R474). -/
def State.lockOf (s : State) (off : Nat) (f : Fld) : Lock :=
  let o := off % 0x1000000
  let b := off / 0x1000000
  if 0x10 ≤ b ∧ b < 0x14 then
    (if o < 0x800000 then lockIf (coreLocked (o % 0x10000) && s.coreRun (b - 0x10) (o / 0x10000)) .silent
     else lockIf (decide (0x800020 ≤ o) && decide (o < 0x800040) && s.ringOn (b - 0x10)) .silent)
  else if 0x20 ≤ b ∧ b < 0x24 then
    (if o < 0x400000 then lockIf (decide (0x40 ≤ o) && s.hbmOn (b - 0x20)) .silent
     else if o < 0x800000 then
       (if o = 0x400004 then lockIf (s.vltOn (b - 0x20)) .onChange
        else lockIf ((o == 0x400014 || o == 0x400018) && s.vltOn (b - 0x20)) .silent)
     else lockIf ((o == 0x800004 || o == 0x800010 || o == 0x800014) && s.depOn) .silent)
  else if 0x30 ≤ b then
    (if 0x800000 ≤ o then lockIf (tlrLocked (o % 0x800000) && !s.tlrDisabled) .journalled
     else if 0x400000 ≤ o then
       lockIf (s.ldgOn && f.acc == .rw && o != 0x400044 && o != 0x400048 && !(o == 0x400004 && decide (f.lo ≤ 1))) .silent
     else lockIf (o == 4 && s.vlOn (b - 0x30)) .silent)
  else .writable

/-- Read-only mirrors, whose writes are ignored (R237, R319, R403). -/
def isMirror (off : Nat) : Bool :=
  let o := off % 0x1000000
  let b := off / 0x1000000
  (b == 0x31 && decide (0x800020 ≤ o) && decide (o < 0x800030)) ||
    (b == 0x31 && (decide (0x10000 ≤ o) || (decide (0x10 ≤ o) && decide (o ≤ 0x20))) && decide (o < 0x400000)) ||
    (decide (0x20 < b) && decide (b < 0x24) &&
      (o == 0x800004 || o == 0x800010 || o == 0x800014 || o == 0x800018 || o == 0x80001C || (decide (0x40 ≤ o) && decide (o < 0x50))))

/-! ### REGISTER_WRITE (R19, R494) -/

/-- What a write gives a field: its new value, or none where the field stays. A bit that the module has set in the same edge stays set
(R20). Fields with a behaviour of their own stay. -/
def State.fieldWrite (s : State) (off : Nat) (f : Fld) (val : Word) : Option Nat :=
  if s.lockOf off f != .writable then none
  else
    match f.acc with
    | .rw => some (bits val.toNat f.hi f.lo)
    | .w1c => some (bits (s.readReg off &&& (~~~val ||| BitVec.ofNat 32 (s.freshBits off))).toNat f.hi f.lo)
    | _ => none

def State.mayWrite (s : State) (by_ : Writer) (f : Fld) : Bool := by_ == .firmware || f.host || s.hostWr

/-- The value that a field is compared with where the host may not write it: a WO field reads 0 (R494). -/
def State.fieldReads (s : State) (off : Nat) (f : Fld) : Nat := bits (s.readReg off).toNat f.hi f.lo

/-- A refused field that the write carries changed, or a locked one whose write is journalled. -/
def State.fieldRefused (s : State) (by_ : Writer) (off : Nat) (val : Word) (f : Fld) : Bool :=
  let differs := bits val.toNat f.hi f.lo != s.fieldReads off f
  if !s.mayWrite by_ f then differs
  else
    match s.lockOf off f with
    | .journalled => f.acc == .rw
    | .onChange => f.acc == .rw && differs
    | _ => false

/-- The fields that a writer may write take their new values. -/
def State.writeFields (s : State) (by_ : Writer) (off : Nat) (val : Word) (fs : List Fld) : State :=
  fs.foldl (fun t f =>
    match if s.mayWrite by_ f then s.fieldWrite off f val else none with
    | some v => t.setRf off f.hi f.lo v
    | none => t) s

/-- A Vyvan port goes down as its link is switched off (R404, R407, R412). -/
def State.portOff (s : State) (p : Nat) : State :=
  s.modPort p (fun x =>
    { x with state := .down, replay := [], resend := none, nakDue := none, partialMsg := [], failing := none })

/-- Effects of a field's change that no command of its own carries: the counts of R248 and the halt of R232, OVF bits, and the
clearing of enable bits. -/
def State.afterWrite (s t : State) (by_ : Writer) (off : Nat) (val : Word) : State :=
  let o := off % 0x1000000
  let b := off / 0x1000000
  let cleared := s.mayWrite by_ (fRw 0 0) && !bit val.toNat 0
  if b = 3 ∧ 0x10000 ≤ o ∧ o % 0x10000 = 4 then
    let k := o / 0x10000 - 1
    let kept := Tab.read 0 s.tally.ovf k &&& ((0xFFFF - val.toNat % 2 ^ 16) ||| s.freshBits off)
    { t with tally := { t.tally with ovf := Tab.write 0 t.tally.ovf k kept } }
  else if b = 3 ∧ 0x10000 ≤ o ∧ 0x100 ≤ o % 0x10000 ∧ o % 0x10000 < 0x140 ∧ s.rf off 31 31 = 1 then
    let was := if s.tally.selEdge = s.edge then s.tally.selWas else []
    { t with tally := { t.tally with selEdge := s.edge,
                                     selWas := if (Tab.find? was off).isSome then was else Tab.put was off (s.reg off) } }
  else if 0x20 ≤ b ∧ b < 0x24 ∧ o = 4 ∧ cleared = true then t.setRf off 0 0 0
  else if 0x30 ≤ b ∧ b < 0x32 then
    (if o = 0x800004 ∧ s.rf off 0 0 = 0 ∧ t.rf off 0 0 = 1 then
      ((t.setReg (off + 0x2C) 0).setReg (off + 0x30) 0).setReg (off + 0x34) 0
    else if off = tlrBase 0 + 0x28 ∧ s.tlrDisabled = true then { t with rec_ := { t.rec_ with haltedLs := false } }
    else if o = 4 ∧ s.rf off 0 0 = 1 ∧ cleared = true then
      (upFrom (9 * (b - 0x30)) 9).foldl State.portOff (t.setRf off 0 0 0)
    else if 0x100 ≤ o ∧ o < 0x220 ∧ o % 0x20 = 0 then
      let p := 9 * (b - 0x30) + (o - 0x100) / 0x20
      if t.rf off 0 0 = 0 then (if s.rf off 0 0 = 1 then t.portOff p else t)
      else if s.rf off 0 0 = 0 ∧ s.vlOn (b - 0x30) = true ∧ (s.port p).lost = false then
        (t.modPort p (fun x => { x with state := .training })).wakeSeen (domXd (b - 0x30) (p % 9))
      else t
    else t)
  else t

def State.answer (s : State) (by_ : Writer) (r : BusReply) : State :=
  match by_ with
  | .host => { s with bus := r }
  | .firmware => s

/-- An access to an offset that is not mapped is journalled (R17). -/
def State.unmapped (s : State) (off : Nat) : State := s.notice (Err.aon .notice 0xA20 0 0 off)

/-- A write of a mapped register, field by field. -/
def State.regWrite (s : State) (by_ : Writer) (off : Nat) (val : Word) (fs : List Fld) : State :=
  if isMirror off then s
  else
    let t := s.afterWrite (s.writeFields by_ off val fs) by_ off val
    if fs.any (s.fieldRefused by_ off val) then t.ignored off else t

/-- REGISTER_WRITE (R15, R17, R19, R494). -/
def execRegisterWrite (by_ : Writer) (off : Word) (val : Word) (s : State) : Out :=
  if s.power.phase != .on then .next s
  else if off.toNat % 4 ≠ 0 then .next (s.answer by_ .unsupported)
  else
    match regFields off.toNat with
    | none => .next ((s.unmapped off.toNat).answer by_ .done)
    | some fs => .next ((s.regWrite by_ off.toNat val fs).answer by_ .done)

/-- UNMAPPED_ACCESS (R17). -/
def execUnmappedAccess (by_ : Writer) (off : Word) (write : Bool) (s : State) : Out :=
  if s.power.phase == .on && off.toNat % 4 == 0 && (regFields off.toNat).isNone then
    .next ((s.unmapped off.toNat).answer by_ (if write then .done else .value 0))
  else .next s

/-- UNSUPPORTED_REQUEST (R15). -/
def execUnsupportedRequest (off : Word) (size : Nat) (_write : Bool) (s : State) : Out :=
  if s.power.phase == .on && (size != 4 || off.toNat % 4 != 0) then .next { s with bus := .unsupported } else .next s

/-- CLK_EDGE_READ (R434). -/
def execClkEdgeRead (s : State) : Out :=
  if s.power.phase == .on then
    .next { s.setReg (tsyBase + 0x8008) (BitVec.ofNat 32 (s.edge / 2 ^ 32)) with bus := .value (BitVec.ofNat 32 s.edge) }
  else .next s

/-- A counter's low word is read, and its high word latched (R516). -/
def State.readCount (s : State) (b k : Nat) : State :=
  let n := Tab.read 0 s.tally.counts (16 * b + k)
  { s.setReg (tlyBlock b + 0x204 + 8 * k) (BitVec.ofNat 32 (n / 2 ^ 32)) with bus := .value (BitVec.ofNat 32 n) }

/-- TLY_CNT_READ (R516). -/
def execTlyCntRead (block : Fin 10) (k : Fin 16) (s : State) : Out :=
  if s.power.phase == .on then .next (s.readCount block.val k.val) else .next s

/-- A read of the Tally mirror (R495, R524). -/
def State.userRead (s : State) (off : Nat) : State :=
  match regFields off with
  | none => { s.unmapped (off % 0x2000000) with bus := .value 0 }
  | some _ =>
    if s.rf (tlyBase + 4) 1 1 = 0 then { s with bus := .value 0 }
    else
      let o := off % 0x1000000
      let r := o % 0x10000
      if 0x10000 ≤ o ∧ 0x200 ≤ r ∧ r % 8 = 0 then s.readCount (o / 0x10000 - 1) ((r - 0x200) / 8)
      else { s with bus := .value (s.readReg off) }

/-- BAR2_READ (R495, R524). -/
def execBar2Read (off : BitVec 25) (s : State) : Out :=
  let o := off.toNat
  if s.power.phase != .on then .next s
  else if o % 4 ≠ 0 then .next { s with bus := .unsupported }
  else if o = 0 ∨ o = 4 then .next { s with bus := .value (s.readReg o) }
  else if 0x1000000 ≤ o then .next (s.userRead (o + 0x2000000))
  else .next { s.unmapped o with bus := .value 0 }

/-- BAR2_WRITE (R495). -/
def execBar2Write (off : BitVec 25) (_val : Word) (s : State) : Out :=
  if s.power.phase == .on then .next { s.ignored off.toNat with bus := .done } else .next s

end Sys2Proof.Machine
end

