-- ==== Sys2Proof/Machine/Tally.lean ====
section
/-! DEFINITION. Tally windows and counter controls (R515, R516, R521, R525). -/

namespace Sys2Proof.Machine

/-- Offsets of the derived registers (R525). -/
def derivedRegs : List Nat :=
  ((List.range 36).map (fun i => tlyBase + 0x1000 + 4 * i)) ++ ((List.range 32).map (fun i => tlyBase + 0x1100 + 4 * i)) ++
    ((List.range 8).map (fun i => tlyBase + 0x1200 + 4 * i)) ++ ((List.range 8).map (fun i => tlyBase + 0x1300 + 4 * i))

/-- TALLY_WINDOW_CLOSE (R521, R522). -/
def execTallyWindowClose (s : State) : Out :=
  if s.power.phase == .on && s.rf (tlyBase + 4) 0 0 == 1 && s.rf (tlyBase + 8) 16 16 == 1 then
    let s1 := derivedRegs.foldl (fun t o => t.setReg o (BitVec.ofNat 32 (min (Tab.read 0 s.tally.units o) 0xFFFFFFFF))) s
    let s2 := s1.setReg (tlyBase + 0xC) (s1.reg (tlyBase + 0xC) + 1)
    .next { s2 with tally := { s2.tally with units := [] } }
  else .next s

/-- TLY_CLR (R516, R526): increments of the same edge are counted after it. -/
def execTlyClr (by_ : Writer) (block : Fin 10) (s : State) : Out :=
  .next (s.gate by_ true (tlyBlock block.val + 4) (fun s =>
    { s with tally := { s.tally with counts := s.tally.counts.filter (fun c => c.1 / 16 != block.val) } }))

/-- TLY_FREEZE (R516, R525). -/
def execTlyFreeze (by_ : Writer) (freeze : Bool) (s : State) : Out :=
  .next (s.gate by_ true (tlyBase + 4) (fun s => s.setRf (tlyBase + 4) 2 2 (b2n freeze)))

/-- TLY_WIN_CFG_WRITE (R525): a write that changes LEN or EN starts a new window. -/
def execTlyWinCfgWrite (by_ : Writer) (val : Word) (s : State) : Out :=
  .next (s.gate by_ true (tlyBase + 8) (fun s =>
    let v := BitVec.ofNat 32 (bits val.toNat 16 0)
    let s1 := s.setReg (tlyBase + 8) v
    if s.reg (tlyBase + 8) = v then s1 else { s1 with tally := { s1.tally with units := [] } }))

/-- COUNTER_WRAP (R515): a counter that stands at its last value counts one more. -/
def execCounterWrap (block : Fin 10) (k : Fin 16) (s : State) : Out :=
  if s.power.phase == .on && s.rf (tlyBase + 4) 0 0 == 1 && s.rf (tlyBase + 4) 2 2 == 0 &&
      s.rf (tlyBlock block.val + 0x100 + 4 * k.val) 31 31 == 1 &&
      Tab.read 0 s.tally.counts (16 * block.val + k.val) == 2 ^ 64 - 1 then
    .next (({ s with tally := s.tally.bump block.val k.val 1 } : State).markFresh (tlyBlock block.val + 4) (2 ^ k.val))
  else .next s

end Sys2Proof.Machine
end

