-- ==== Sys2Proof/Machine/Power.lean ====
section
/-! DEFINITION. The fatal dump (R469 to R471), the boot from NVM (R477 to R485), and the power stage (R537 to R540, R544). -/

namespace Sys2Proof.Machine

/-! ### The fatal dump -/

def dumpBase : Nat := 0x00EF80000000

/-- Offsets and sizes of the sections (R470), by ID. -/
def dumpSections : List (Nat × Nat) :=
  [(0, 0x10000), (0x10000, 0x20000), (0x100000, 0xF00000), (0x1000000, 0x20000), (0x1100000, 0x300000), (0x1400000, 0x1600000),
   (0x2A00000, 0x1600000), (0x4000000, 0x22000000), (0x26000000, 0x8800000), (0x2E800000, 0x4400000), (0x32C00000, 0x28000000)]

/-- Mapped offsets of a block: base and bytes searched. -/
def mappedIn (base size : Nat) : List Nat :=
  ((List.range (size / 4)).map (fun i => base + 4 * i)).filter (fun o => (regFields o).isSome)

/-- Every mapped offset, ascending, the Journal's entries apart (R16, R470; log 40). -/
def allOffsets : List Nat :=
  mappedIn 0 0x2800 ++ mappedIn tsyBase 0x93A0 ++ mappedIn jnlBase 0x20 ++ mappedIn tlyBase 0x1320 ++
    (List.range 10).flatMap (fun b => mappedIn (tlyBlock b) 0x280) ++
    (List.range 4).flatMap (fun d => (List.range 34).flatMap (fun j => mappedIn (coreBase d j) 0x60) ++ mappedIn (ringBase d) 0x44) ++
    (List.range 4).flatMap (fun d => mappedIn (hbmBase d) 0x50 ++ mappedIn (vltBase d) 0x28 ++ mappedIn (depBase d) 0x34) ++
    (List.range 2).flatMap (fun n => mappedIn (vlBase n) 0x14000 ++ (if n = 0 then mappedIn ldgBase 0x54 else []) ++
      mappedIn (tlrBase n) 0x8300)

/-- The bytes of a section whose layout the spec gives: the Journal, the registers, core stores, accumulator and feed buffers;
none for another (log 40). -/
def State.dumpBytes (s : State) (id : Nat) : Option (List Byte) :=
  if id = 1 then some ((List.range 4096).flatMap (fun p => bytesOfNum 32 (s.jnl.place p)))
  else if id = 2 then some (allOffsets.flatMap (fun o => bytesOfNum 4 o ++ bytesOfNum 4 (s.readReg o).toNat))
  else if id = 7 then
    some ((List.range 136).flatMap (fun i => (s.core (i / 34) (i % 34)).store.bytes 0 (2 ^ 22)))
  else if id = 8 then
    some ((List.range 544).flatMap (fun i => (List.range 65536).flatMap (fun k =>
      bytesOfNum 4 (Tab.read 0 ((s.core (i / 4 / 34) (i / 4 % 34)).array (i % 4)).acc k).toNat)))
  else if id = 9 then
    some ((List.range 544).flatMap (fun i => (List.range 1024).flatMap (fun k =>
      bytesOfNum 128 (Tab.read {} ((s.core (i / 4 / 34) (i / 4 % 34)).array (i % 4)).feed k).data.toNat)))
  else none

/-- Lines of a section whose layout the spec does not give: free (log 8). -/
def State.freeLines (s : State) (a : Nat) : Nat → State
  | 0 => s
  | n + 1 => (({ s with free := s.free + 1 } : State).writeLine a (freeLine s.free) false).freeLines (a + 256) n

/-- One section is written where its unit can be reached. -/
def State.dumpSection (src : State) (reachable : Nat) (s : State) (id : Nat) : State :=
  let x := (dumpSections[id]?).getD (0, 0)
  if bit reachable id then
    match src.dumpBytes id with
    | some bs => s.putBytes (dumpBase + x.1) bs
    | none => s.freeLines (dumpBase + x.1) (x.2 / 256)
  else s

/-- The directory of R471. -/
def dumpDirectory (src : State) (reachable : Nat) : List Byte :=
  (List.range 16).flatMap (fun id =>
    let x := (dumpSections[id]?).getD (0, 0)
    let used := if id = 0 then x.2 else ((src.dumpBytes id).map (·.length)).getD x.2
    if id < 11 ∧ (id = 0 ∨ bit reachable id = true) then bytesOfNum 8 (id + 256) ++ bytesOfNum 8 used
    else if id < 11 then bytesOfNum 16 id
    else bytesOfNum 16 0)

/-- The header of R471: STATE is COMPLETE, or INCOMPLETE where a further fatal error cut the dump short. -/
def State.dumpHeader (s : State) (reachable : Nat) (cut : Bool) (cause : Nat × Nat) : List Byte :=
  bytesOfNum 32 (0x504D4446 + 2 ^ 32 + 2 ^ 40 * (1 + b2n cut) + 2 ^ 48 + 2 ^ 56 * s.step.post + 2 ^ 64 * cause.1 + 2 ^ 96 * cause.2
    + 2 ^ 128 * s.tlrStep + 2 ^ 160 * s.fatal.laterSeq + 2 ^ 192 * (s.edge % 2 ^ 64)) ++
    List.replicate 224 0 ++ dumpDirectory s reachable

/-- A further fatal error during the dump: its entry, under a code that the spec does not give (log 8), and LATER_SEQ (R440, R469). -/
def State.furtherFatal (s : State) : State :=
  let f := s.freeBelow 65536
  let t := f.2.journal (Err.aon .fatal f.1) false false false
  { t with fatal := { t.fatal with laterSeq := s.jnl.seq } }

/-- Every core and ring of the package stops (R469). -/
def State.stopDies (s : State) : State :=
  (List.range 4).foldl (fun s d =>
    ((List.range 34).foldl (fun s j => s.setRf (coreBase d j + 4) 0 0 0) s).setRf (ringBase d + 4) 0 0 0) s

/-- The sections that can be reached, up to a further fatal error, and the header are written, and dirty Vault lines written back. -/
def State.writeDump (s : State) (reachable : Nat) (cut : Option (Fin 11)) (cause : Nat × Nat) : State :=
  let mask := match cut with
    | some k => reachable % 2 ^ k.val
    | none => reachable
  let s1 := (upFrom 1 10).foldl (s.dumpSection mask) s
  let s2 := if cut.isSome then s1.furtherFatal else s1
  let s3 := s2.putBytes dumpBase ({ s with fatal := s2.fatal }.dumpHeader mask cut.isSome cause)
  let s4 := (List.range 4).foldl State.cleanWays s3
  { s4 with fatal := { s4.fatal with dumpHeld := true, complete := cut.isNone, flushed := true } }

/-- A dump is held: only LATER_SEQ is written, and dirty Vault lines are written back (R469). -/
def State.laterDump (s : State) (cause : Nat × Nat) : State :=
  let s1 := State.putBytes { s with fatal := { s.fatal with laterSeq := cause.1 } } (dumpBase + 0x14) (bytesOfNum 4 cause.1)
  (List.range 4).foldl State.cleanWays s1

/-- FATAL_DUMP (R469): the units stop; the dump is written unless one is held. Without memory in service nothing is written. Long
operations end (R501). `cut` is the first section that a further fatal error keeps from being written. -/
def execFatalDump (reachable : BitVec 11) (s : State) (cut : Option (Fin 11) := none) : Out :=
  match s.fatal.pending with
  | none => .next s
  | some cause =>
    if s.power.phase != .on || s.fatal.stopped then .next s
    else
      let s1 := (s.sendAll 2 s.tlrStep cause.1).stopDies
      let s2 :=
        if !s.memUp then { s1 with fatal := { s1.fatal with flushed := false } }
        else if s.fatal.dumpHeld then s1.laterDump cause
        else s1.writeDump reachable.toNat cut cause
      .next { s2 with fatal := { s2.fatal with stopped := true, pending := none, selfRefresh := true },
                      mbx := { s2.mbx with ops := s2.mbx.ops.map (fun o =>
                        if o.done then o else { o with result := 5, detail := 0, done := true }) } }

/-! ### NVM banks (R477 to R480, R482 to R484) -/

def bankBase (b : Bool) : Nat := if b then 0x1C00000 else 0
def bankSize : Nat := 0x1C00000

/-- A component entry: type, version, offset, size, digest (R479). -/
structure Component where
  type : Nat
  version : Nat
  offset : Nat
  size : Nat
  digest : Nat
  deriving DecidableEq, Repr

/-- A bank as an image of bytes: in the NVM, or as supplied. -/
def componentsOf (m : Mem) (base : Nat) : List Component :=
  (List.range (m.byte (base + 5)).toNat).map (fun i =>
    let e := base + 0x800 + 64 * i
    { type := (m.byte e).toNat, version := (m.byte (e + 1)).toNat, offset := m.num (e + 8) 4, size := m.num (e + 12) 4,
      digest := m.num (e + 32) 32 })

def headerValid (m : Mem) (base : Nat) : Bool := m.num base 4 == 0x4E4B5641 && m.byte (base + 4) == 1

def tableValid (m : Mem) (base : Nat) : Bool :=
  let n := (m.byte (base + 5)).toNat
  let cs := componentsOf m base
  decide (1 ≤ n) && decide (n ≤ 8) &&
    cs.all (fun c => decide (1 ≤ c.type) && decide (c.type ≤ 4) && c.version == 1 && c.offset % 4096 == 0 &&
      decide (c.offset + c.size ≤ bankSize)) &&
    decide (cs.map (·.type)).Nodup

def hasType (cs : List Component) (t : Nat) : Bool := cs.any (fun c => c.type == t)

/-- The first reason of R484 that a bank fails for, or 0: the checks of the ROM and FW1 in the order of R482 (log 41). -/
def bankReason (m : Mem) (base : Nat) (f : Fuses) (v : BankVerdict) : Nat :=
  let cs := componentsOf m base
  let svn := m.num (base + 0xC) 4
  if !v.readOk then 1
  else if !headerValid m base || !tableValid m base then 2
  else if !(hasType cs 1 && hasType cs 2 && hasType cs 3) then 8
  else if shake256 (m.bytes (base + 0x20) 1952) != f.rootDigest then 3
  else if !v.manifestSig then 4
  else if !v.headerSig then 5
  else if decide (svn < f.svn) || decide (63 < svn) then 7
  else if cs.any (fun c => (shake256 (m.bytes (base + c.offset) c.size)).toNat != c.digest) then 6
  else if !v.selfTest then 9
  else 0

/-- The order in which the ROM tries the banks, B as `true` (R483). -/
def bankOrder (m : Mem) : List Bool :=
  let a := headerValid m (bankBase false)
  let b := headerValid m (bankBase true)
  if b && (!a || decide (m.num (bankBase false + 8) 4 < m.num (bankBase true + 8) 4)) then [true, false] else [false, true]

/-- Offsets that CONFIG may name (R480). -/
def configAllows (o : Nat) : Bool :=
  o == tsyBase + 4 || o == tsyBase + 0x10 || (decide (tsyRcfg 0 ≤ o) && decide (o < tsyRcfg 64)) ||
    (List.range 4).any (fun d => o == hbmBase d + 4) ||
    (List.range 18).any (fun p => o == vlBase (p / 9) + 0x100 + 0x20 * (p % 9)) ||
    o == ldgBase + 0x44 || o == ldgBase + 0x48 || o == ldgBase + 0x4C || o == jnlBase + 4 || o == 0x114

/-- The entries of a configuration block, or none where it is refused whole. -/
def configEntries (m : Mem) (a size : Nat) : Option (List (Nat × Nat)) :=
  let n := m.num (a + 2) 2
  let es := (List.range n).map (fun i => (m.num (a + 16 + 8 * i) 4, m.num (a + 20 + 8 * i) 4))
  if m.byte a == 1 && decide (n ≤ 4096) && decide (16 + 8 * n ≤ size) && es.all (fun e => e.1 % 4 == 0 && configAllows e.1) then some es
  else none

/-- One entry is applied as a register write of firmware. -/
def State.applyConfig (s : State) (e : Nat × Nat) : State :=
  if tsyRcfg 0 ≤ e.1 ∧ e.1 < tsyRcfg 64 then
    let r := (e.1 - tsyRcfg 0) / 4
    let sum := (List.range 64).foldl (fun a k => a + if k = r then bits e.2 11 0 else s.tsyFloor k) 0
    if 3200 < sum then s.ignored e.1 else s.setReg e.1 (BitVec.ofNat 32 e.2)
  else
    match regFields e.1 with
    | some fs => s.regWrite .firmware e.1 (BitVec.ofNat 32 e.2) fs
    | none => s

/-! ### COLD_START (R482, R485) -/

/-- The ROM derives keys, which ends an unlock; in RETURNED none (R485, R488). -/
def State.deriveKeys (s : State) (svn : Nat) : State :=
  if s.fuses.lifecycle = 2 then { s with far := { s.far with keySeed := none, devidDigest := 0 } }
  else
    let d := Config.devidSeed s.fuses.secret s.fuses.lifecycle
    { s with far := { s.far with
      keySeed := some (Config.akSeed s.fuses.secret s.fuses.lifecycle s.far.measurement svn s.fuses.svn),
      unlocked := false,
      devidDigest := shake256 (Config.mldsaPublic d), fusedAtBoot := s.fuses.svn } }

/-- ROM and FW1 on a bank that passes: measurement, keys, configuration. -/
def State.bootBank (s : State) (b : Bool) : State :=
  let base := bankBase b
  let svn := s.nvm.num (base + 0xC) 4
  let s1 : State := { s with far := { s.far with bank := some b, measurement := shake256 (s.nvm.bytes base 0x1000) } }
  let s2 := ((s1.deriveKeys svn).setRf 8 24 24 (b2n b)).setRf 0xC 15 8 svn
  match (componentsOf s.nvm base).find? (fun c => c.type == 4) with
  | none => s2
  | some c =>
    let s3 : State := { s2 with far := { s2.far with configDigest := BitVec.ofNat 256 c.digest } }
    match configEntries s.nvm (base + c.offset) c.size with
    | none => s3.setRf 8 23 23 1
    | some es => es.foldl State.applyConfig (s3.setRf 0x10 3 3 (bits (s.nvm.byte (base + c.offset + 1)).toNat 0 0))

/-- FW2's memory stage: HBM training, Vault slots (R268, R274). -/
def State.bootMemory (s : State) (f : BootFinds) : State :=
  let s1 := (List.range 16).foldl (fun s k =>
    let bad := f.unrepaired.any (fun x => x.val == k)
    let a := hbmBase (k / 4)
    let t := (s.setRf (a + 8) (8 + k % 4) (8 + k % 4) (b2n bad)).setRf (a + 8) (4 + k % 4) (4 + k % 4) (b2n (!bad))
    if bad then t.noticeOpen k else t) s
  let s1' := f.lanes.foldl (fun s x => s.setReg (hbmBase (x.1.val / 4) + 0x20 + 4 * (x.1.val % 4)) x.2) s1
  let s2 := f.steered.foldl (fun s x =>
    s.modDie x.1.val (fun m => { m with steered := Tab.put m.steered x.2.1.val x.2.2.toNat })) s1'
  (List.range 4).foldl (fun s d =>
    let pass := (List.range 40).filter (fun b => !f.badBanks.contains (40 * d + b))
    s.modDie d (fun m => { m with passing := pass, slots := (List.range 38).zip pass })) s2

/-- Active cores after start-up: physical cores 0 to 31 of each die (R24, R114; log 6). -/
def State.bootCores (s : State) : State :=
  (List.range 136).foldl (fun s i =>
    if i % 34 < 32 then s.modCore (i / 34) (i % 34) (fun c => { c with active := true, activeIndex := i % 34 }) else s) s

/-- Whether a domain's gate passes edges after start-up (R412, R413). -/
def State.bootAwake (s : State) (i : Nat) : Bool :=
  let x := domAt i
  if 228 ≤ i then true
  else if x.1 = 0 then decide (34 ≤ x.2.2) || (s.core x.2.1 x.2.2).active
  else if x.1 = 1 then true
  else if x.2.2 < 9 ∨ x.2.2 = 12 ∨ x.2.2 = 13 then !s.mayRest i
  else true

/-- COLD_START (R481 to R485): the ROM tries the banks in order; with none the boot fails. -/
def execColdStart (finds : BootFinds) (s : State) : Out :=
  if s.power.phase != .on || s.far.bootDone then .next s
  else
    let reason (b : Bool) : Nat := bankReason s.nvm (bankBase b) s.fuses (if b then finds.bankB else finds.bankA)
    let order := bankOrder s.nvm
    let chosen := order.find? (fun b => reason b == 0)
    let tried := if chosen = order.head? then order.take 1 else order
    let s0 : State := { s with far := { s.far with bootDone := true } }
    let s1 := tried.foldl (fun s b => if b then s.setRf 8 15 8 (reason b) else s.setRf 8 7 0 (reason b)) s0
    match chosen with
    | none => .next (s1.setRf 8 31 28 0xF)
    | some b =>
      let s2 := ((s1.bootBank b).bootMemory finds).bootCores
      let s3 : State := { s2 with mem := { s2.mem with cxl := ((finds.cxl ++ [0, 0, 0, 0]).take 4).map (min 2048) } }
      let s4 := (List.range 231).foldl (fun s i => if s.bootAwake i then s.modDomain i (fun x => { x with awake := true }) else s) s3
      .next ((s4.noticeOpen 0).setRf 8 31 28 3)

/-! ### Power (R531, R537 to R540, R544) -/

/-- What survives the loss of every supply: the flash, the fuses, host memory, the expansion tier's devices and the waiting
commands; free values and seeds go on (log 6). -/
def State.coldState (s : State) : State :=
  { pending := s.pending, nvm := s.nvm, fuses := s.fuses, hostMem := s.hostMem, free := s.free,
    mint := { seed := s.mint.seed + 1 }, mem := { tier := s.mem.tier, tierPoison := s.mem.tierPoison } }

/-- POWER_UP (R537, R538, R540): PWR_EN is high and VIN has passed 64 V. Where the always-on supply is still held, after a
thermal trip (R35), the Journal and its registers, which it feeds (R440), keep what they hold. -/
def execPowerUp (vin : Nat) (s : State) : Out :=
  let p := s.power
  let t := s.coldState
  let jnl : Journal := { s.jnl with handling := none, queue := [], stepFaults := 0 }
  if p.phase == .off && decide (64000 < vin) && !(p.overVoltage && (p.pwrEn || decide (78000 ≤ vin))) then
    .next (if p.alwaysOn then
        { t with regs := s.regs.filter (fun r => decide (jnlBase ≤ r.1) && decide (r.1 < tlyBase)), jnl := jnl, power := { vin := vin } }
      else { t with power := { vin := vin } })
  else .next s

/-- The supplies of the dies and stacks are removed: nothing in them survives; the always-on domain is held (R539). -/
def State.diesOff (s : State) (p : Power) : State :=
  let t := s.coldState
  { t with regs := s.regs.filter (fun r => decide (r.1 < tlyBase)), edge := s.edge, jnl := s.jnl, far := s.far, mbx := s.mbx,
           mgmtOut := s.mgmtOut, jtag := s.jtag, power := { p with phase := .holding } }

/-- POWER_DOWN (R35, R539, R540): PWR_EN falls, or VIN falls below 58 V. After a thermal trip the fall of PWR_EN releases
THERM_TRIP_N, and the always-on supply stays while VIN is in range. -/
def execPowerDown (pwrEnFell : Bool) (vin : Nat) (s : State) : Out :=
  let p : Power := { s.power with vin := vin, pwrEn := s.power.pwrEn && !pwrEnFell, thermTrip := s.power.thermTrip && !pwrEnFell }
  if s.power.phase == .on && (pwrEnFell || decide (vin < 58000)) then .next (s.diesOff p)
  else if s.power.phase == .holding && s.power.thermTrip && pwrEnFell && decide (58000 ≤ vin) && decide (vin ≤ 81000) then
    .next { s with power := { p with phase := .off } }
  else if s.power.phase == .off && s.power.alwaysOn && decide (vin < 58000) then .next { s with power := { p with phase := .holding } }
  else .next { s with power := p }

/-- OVER_VOLTAGE_TRIP (R35, R537, R539). -/
def execOverVoltageTrip (vin : Nat) (s : State) : Out :=
  let p : Power := { s.power with vin := vin, overVoltage := true }
  if s.power.phase == .on && decide (81000 < vin) then .next (s.diesOff p)
  else if s.power.phase != .on && s.power.alwaysOn && decide (81000 < vin) then .next { s with power := { p with phase := .holding } }
  else .next s

/-- THERMAL_TRIP (R539, R544). -/
def execThermalTrip (die : Int) (stack : Int) (s : State) : Out :=
  if s.power.phase == .on && (decide (115 ≤ die) || decide (105 ≤ stack)) then
    .next (s.diesOff { s.power with thermTrip := true, dieTemp := die, stackTemp := stack })
  else .next s

/-- ALWAYS_ON_HOLD_EXPIRY (R539, R540): the always-on supply goes, except after a thermal trip while VIN is in range. -/
def execAlwaysOnHoldExpiry (s : State) : Out :=
  let p := s.power
  if p.phase == .holding && !(p.thermTrip && decide (58000 ≤ p.vin) && decide (p.vin ≤ 81000)) then
    .next { s.coldState with power := { p with phase := .off, alwaysOn := false } }
  else .next s

/-- LINK_RESET (R491): the endpoint and the mailbox. A fundamental reset is HOST_PERST_N: it is asserted, or released (log 6). -/
def execLinkReset (hot : Bool) (s : State) : Out :=
  if s.power.phase != .on then .next s
  else
    let p : Power := if hot then s.power else { s.power with perstN := !s.power.perstN }
    let s1 := ((s.setReg 0x100 0).setReg 0x104 0).setReg 0x108 0
    .next { s1 with power := p, bus := .none, mbx := { s1.mbx with taken := 0 } }

end Sys2Proof.Machine
end

