-- ==== Sys2Proof/Machine/Image.lean ====
section
/-! DEFINITION. Job images: their layout (R372 to R376), the checks of a load (R9, R10, R340, R344, R377, R493), and what an
accepted load places. -/

namespace Sys2Proof.Machine

/-! ### Layout -/

/-- A section entry (R373), with its byte offset in the image. -/
structure Section where
  pos : Nat
  type : Nat
  version : Nat
  variant : Bool
  eval : Bool
  allDies : Bool
  die : Nat
  index : Nat
  offset : Nat
  size : Nat
  load : Nat
  deriving DecidableEq, Repr

def decSection (pos w : Nat) : Section :=
  { pos := pos, type := bits w 15 0, version := bits w 23 16, variant := bit w 24, eval := bit w 25, allDies := bit w 26,
    die := bits w 28 27, index := bits w 33 29, offset := bits w 127 64, size := bits w 191 128, load := bits w 239 192 }

/-- An image in host memory: its first byte, its length, its section entries. -/
structure Image where
  mem : Mem
  base : Nat
  len : Nat
  sections : List Section

def Image.num (x : Image) (o n : Nat) : Nat := x.mem.num (x.base + o) n
def Image.bytes (x : Image) (o n : Nat) : List Byte := x.mem.bytes (x.base + o) n

/-- The image at an address of host memory. -/
def imageAt (m : Mem) (base len : Nat) : Image :=
  { mem := m, base := base, len := len,
    sections := (List.range (m.num (base + 0xC) 2)).map (fun i =>
      decSection (0x100 + 32 * i) (m.num (base + 0x100 + 32 * i) 32)) }

/-- The entries of `n` bytes of a section, with their offsets. -/
def Image.entries (x : Image) (c : Section) (n : Nat) : List (Nat × Nat) :=
  (List.range (c.size / n)).map (fun i => (c.offset + n * i, x.num (c.offset + n * i) n))

/-- The first section of a type. -/
def Image.sec? (x : Image) (t : Nat) : Option Section := x.sections.find? (fun c => c.type == t)

/-- The entries of the first section of a type. -/
def Image.table (x : Image) (t n : Nat) : List (Nat × Nat) := ((x.sec? t).map (fun c => x.entries c n)).getD []

/-- Types of which an image holds at most one section (R377). -/
def uniqueTypes : List Nat := [1, 2, 7, 8, 9, 10, 11, 12]

/-- Per-core types (R374). -/
def perCore (t : Nat) : Bool := decide (3 ≤ t) && decide (t ≤ 6)

/-- Bytes of an entry of a type; 1 where the section is bytes. -/
def entrySize (t : Nat) : Nat :=
  if t = 1 then 8 else if t = 2 ∨ t = 9 ∨ t = 12 then 16 else if t = 7 then 128 else 1

/-- The size that a section of a type must have, where it is fixed: eight ranges, 64 programs, four and sixteen words. -/
def fixedSize (t : Nat) : Option Nat :=
  if t = 6 then some 32 else if t = 8 then some 4096 else if t = 10 then some 16 else if t = 11 then some 64 else none

/-- The alignment of the register that takes LOAD (R119, R243, R251, R296). -/
def loadAlign (t : Nat) : Nat := if t = 3 ∨ t = 4 ∨ t = 9 then 256 else if t = 7 then 128 else if t = 8 then 4096 else 1

/-- Types whose sections lie in near memory. -/
def inMemory (t : Nat) : Bool := t == 7 || t == 8 || t == 9 || t == 13

/-! ### Checks -/

/-- A refusal: RESULT and DETAIL of R500. -/
abbrev Refused := Nat × Nat

/-- The first check that fails, of (RESULT, DETAIL, fails). -/
def firstFailing : List (Nat × Nat × Bool) → Option Refused
  | [] => none
  | (r, d, true) :: _ => some (r, d)
  | _ :: t => firstFailing t

/-- Header, digest and signature, and the level (R9, R372, R493). -/
def State.headerChecks (s : State) (x : Image) (sigOk : Bool) : List (Nat × Nat × Bool) :=
  let size := x.num 0x10 8
  let level := x.num 6 2
  let sig := s.rf 0x10 3 3 == 1
  [ (0x22, 0x10, decide (x.len < 0x100)),
    (0x22, 0, x.num 0 4 != 0x424B5641),
    (0x22, 4, x.num 4 1 != 1),
    (0x22, 0x10, decide (size < 0x100) || decide (x.len < size)),
    (0x23, 0, (shake256 (x.bytes 0x100 (min size x.len - 0x100))).toNat != x.num 0x40 32),
    (0x23, 2, sig && s.far.jobKey.isNone),
    (0x23, 1, sig && !sigOk),
    (0x20, level, !serves (s.reg 4).toNat level) ]

/-- One section entry (R373, R374, R377). -/
def Image.sectionChecks (x : Image) (c : Section) : List (Nat × Nat × Bool) :=
  [ (0x22, c.pos, c.type == 0 || decide (13 < c.type)),
    (0x22, c.pos + 2, c.version != 1),
    (0x22, c.pos + 8, c.offset % 256 != 0 || decide (x.num 0x10 8 < c.offset + c.size)),
    (0x22, c.pos, uniqueTypes.contains c.type && x.sections.any (fun y => y.type == c.type && decide (y.pos < c.pos))),
    (0x22, c.pos + 16, c.size % entrySize c.type != 0 || (fixedSize c.type).any (fun n => n != c.size)),
    (0x22, c.pos + 24, c.load % loadAlign c.type != 0) ]

/-- The directory. -/
def Image.directoryChecks (x : Image) : List (Nat × Nat × Bool) :=
  let n := x.num 0xC 2
  (0x22, 0xC, n == 0 || decide (4096 < n) || decide (x.num 0x10 8 < 0x100 + 32 * n)) :: x.sections.flatMap x.sectionChecks

/-- An entry of the binary's table is refused (R340). -/
def latencyRefused (major w : Nat) : Bool :=
  match (latencyTable major).find? (fun e => e.1 == bits w 63 48) with
  | none => true
  | some (_, unit, v) =>
    let b := bits w 31 0
    bits w 47 40 != unit || decide (b < v) || (unit == 0 && decide (v + 255 < b))

/-- The latency table: the first failing ID. -/
def Image.latencyChecks (x : Image) (major : Nat) : List (Nat × Nat × Bool) :=
  (x.table 1 8).map (fun e => (0x21, bits e.2 63 48, latencyRefused major e.2))

/-- Holds of the edge entries that lie above the device value (R341). -/
def Image.holds (x : Image) (major : Nat) : Tab Nat :=
  (x.table 1 8).foldl (fun t e =>
    match (latencyTable major).find? (fun d => d.1 == bits e.2 63 48) with
    | some (i, 0, v) => Tab.write 0 t i (bits e.2 31 0 - v)
    | _ => t) []

/-- Values of the header's other fields (R183, R187, R193, R332, R334, R361). -/
def Image.fieldChecks (x : Image) : List (Nat × Nat × Bool) :=
  [ (0x22, 8, decide (2 < x.num 8 1)),
    (0x22, 9, decide (64 < x.num 9 1)),
    (0x22, 0xA, x.num 0xA 2 == 0),
    (0x22, 0x18, x.num 0x18 8 == 0 || x.num 0x18 8 % 65536 != 0),
    (0x22, 0x20, x.num 0x20 8 % 256 != 0),
    (0x22, 0x28, x.num 0x28 8 % 65536 != 0) ]

def decLayer (w : Nat) : LayerEntry :=
  { package := bit w 8, frozen := bit w 9, trainable := bit w 10, layer := bits w 47 32, record := bits w 63 48 }

/-- Versions of layer records, schedule programs and partition records (R10, R344, R377). -/
def Image.versionChecks (x : Image) : List (Nat × Nat × Bool) :=
  (x.table 7 128 ++ x.table 8 64 ++ x.table 9 16).map (fun e => (0x22, e.1, bits e.2 7 0 != 1))

/-- The index of a layer entry's record; 0xFFFF names none (R375). -/
def LayerEntry.index (l : LayerEntry) : Option Nat := if l.record = 0xFFFF then none else some l.record

/-- A layer entry against its record: one with weights names a record and agrees with it, and a record that is not frozen has its two
gradient buffers GRAD_STRIDE apart (R181, R375, R377). -/
def Image.layerChecks (x : Image) (e : Nat × Nat) : List (Nat × Nat × Bool) :=
  let l := decLayer e.2
  (0x22, e.1, bits e.2 7 0 != 1) ::
    (match l.index with
     | none => [(0x25, e.1 + 6, l.trainable)]
     | some i =>
       match (x.table 7 128)[i]? with
       | none => [(if l.trainable then 0x25 else 0x22, e.1 + 6, true)]
       | some (o, w) =>
         let r := decRec w
         [ (0x25, e.1 + 1, l.trainable && r.frozen != l.frozen), (0x25, e.1 + 4, l.trainable && r.layer != l.layer),
           (0x25, o + 24, !r.frozen && r.grad1 != r.grad0 + x.num 0x20 8) ])

/-- The fatal dump area's base (R329). -/
def dumpArea : Nat := 0x00EF80000000

def decRange (w : Nat) : MapRange := { kind := bits w 15 8, base := bits w 63 16, size := bits w 111 64 }

/-- The address ranges that a range entry covers (R376): offset of its BASE, first, past the last. -/
def Image.covers (x : Image) (e : Nat × Nat) : List (Nat × Nat × Nat) :=
  let r := decRange e.2
  let stride := if r.kind = 0 then x.num 0x18 8 else if r.kind = 1 then x.num 0x20 8 else 0
  (e.1 + 2, r.base, r.base + r.size) :: (if stride = 0 then [] else [(e.1 + 2, r.base + stride, r.base + stride + r.size)])

/-- Entries whose range meets an earlier one, or the dump area. -/
def rangesMeet : List (Nat × Nat × Nat) → List (Nat × Nat × Nat) → List (Nat × Nat × Bool)
  | _, [] => []
  | before, c :: t =>
    (0x24, c.1, decide (dumpArea < c.2.2 ∧ c.2.1 < 240 * 2 ^ 32) ||
      before.any (fun b => decide (b.2.1 < c.2.2) && decide (c.2.1 < b.2.2))) :: rangesMeet (c :: before) t

/-- The memory map (R329, R376, R377), and Escrow within a range of its kind. -/
def Image.mapChecks (x : Image) : List (Nat × Nat × Bool) :=
  let es := x.table 12 16
  let escLo := x.num 0x28 8
  let escHi := escLo + 65536 * x.num 0x30 4
  es.flatMap (fun e => [(0x22, e.1, bits e.2 7 0 != 1), (0x22, e.1 + 1, decide (6 < bits e.2 15 8)),
      (0x22, e.1 + 2, bits e.2 63 16 % 256 != 0), (0x22, e.1 + 8, bits e.2 111 64 % 256 != 0)]) ++
    rangesMeet [] (es.flatMap x.covers) ++
    [(0x24, 0x28, decide (escLo < escHi) && !es.any (fun e =>
      let r := decRange e.2
      r.kind == 2 && decide (r.base ≤ escLo) && decide (escHi ≤ r.base + r.size)))]

/-- Sections where they are placed (R329, R374). -/
def Image.placeChecks (x : Image) : List (Nat × Nat × Bool) :=
  x.sections.map (fun c => (0x24, c.pos + 24,
    (inMemory c.type && decide (dumpArea < c.load + c.size)) || (perCore c.type && decide (2 ^ 22 < c.load + c.size))))

/-- The image runs the Vault in COMPAT mode. -/
def Image.compat (x : Image) : Bool := bit (x.num 5 1) 3

/-- Vault partitions (R283); or in COMPAT mode the window's 608 MiB (R284). -/
def State.partChecks (s : State) (x : Image) : List (Nat × Nat × Bool) :=
  if x.compat then
    (x.table 12 16).map (fun e =>
      let r := decRange e.2
      let w := 2 ^ 45 + 2 ^ 32
      (0x24, e.1 + 8, decide (w ≤ r.base) && decide (r.base < w + 2 ^ 32) && decide (w + 608 * 2 ^ 20 < r.base + r.size)))
  else
    let ps := ((x.table 9 16).take 64).map (fun e => (e.1, decPart e.2))
    ps.flatMap (fun p => [(0x24, p.1 + 1, decide (3 < p.2.die)), (0x24, p.1 + 3, p.2.bad (s.die p.2.die)),
      (0x24, p.1 + 2, ps.any (fun q => decide (q.1 < p.1) && q.2.die == p.2.die && q.2.meets p.2))])

/-- QUADRANT ranges (R262): the first that makes the setting bad. -/
def Image.qranges (x : Image) (n : Nat) : List (Nat × Nat) :=
  ((x.table 10 16).flatMap (fun e => (List.range n).map (fun k => e.2 / 2 ^ (32 * k) % 2 ^ 32))).filterMap (fun w =>
    if bit w 31 then some (bits w 7 0, bits w 15 8) else none)

def Image.quadrantChecks (x : Image) : List (Nat × Nat × Bool) :=
  (List.range 4).map (fun k => (0x24, (((x.sec? 10).map (·.offset)).getD 0) + 4 * k, qrangesBad (x.qranges (k + 1))))

/-- Dies on which a section stands. -/
def Section.dies (c : Section) : List Nat := if c.allDies then List.range 4 else [c.die]

/-- The RANGES words of a core: those of its own section of the kind, else of the training sections (R123, R374). -/
def Image.coreRanges (x : Image) (d index : Nat) (v31 eval : Bool) : List Nat :=
  let mine := x.sections.filter (fun c => c.type == 6 && c.dies.contains d && c.index == index && c.variant == v31)
  match (mine.filter (fun c => c.eval == eval) ++ mine.filter (fun c => !c.eval)).head? with
  | some c => (List.range 8).map (fun k => x.num (c.offset + 4 * k) 4)
  | none => []

/-- A granule lies in an enabled INSTR range (R123). -/
def instrGranule (words : List Nat) (g : Nat) : Bool :=
  words.any (fun w => bit w 31 && bit w 29 && decide (bits w 21 11 ≤ 1024) && decide (bits w 10 0 + bits w 21 11 ≤ 1024) &&
    decide (bits w 10 0 ≤ g) && decide (g < bits w 10 0 + bits w 21 11))

/-- Code sections of one core: exactly one of each stream, within its INSTR ranges (R377). -/
def Image.coreChecks (x : Image) (d index : Nat) (v31 eval : Bool) : List (Nat × Nat × Bool) :=
  [3, 4].flatMap (fun t =>
    let mine := x.sections.filter (fun c => c.type == t && c.dies.contains d && c.index == index && c.variant == v31 && c.eval == eval)
    (if v31 then 0x25 else 0x22, 0xC, mine.length != 1) ::
      mine.map (fun c => (0x24, c.pos + 24,
        (upFrom (c.load / 4096) ((c.size + c.load % 4096 + 4095) / 4096)).any (fun g =>
          !instrGranule (x.coreRanges d index v31 eval) g))))

/-- Code of every active core, with evaluation code where EVAL_LIMIT asks for it (R39, R377). -/
def State.codeChecks (s : State) (x : Image) : List (Nat × Nat × Bool) :=
  let slot := decide (0 < x.num 0x38 4)
  (x.sections.map (fun c => (0x22, c.pos + 3, c.eval && !slot))) ++
    (List.range 136).flatMap (fun i =>
      let c := s.core (i / 34) (i % 34)
      if c.active then
        x.coreChecks (i / 34) c.activeIndex (s.runs31 (i / 34)) false ++
          (if slot then x.coreChecks (i / 34) c.activeIndex (s.runs31 (i / 34)) true else [])
      else [])

/-- Lines of this package's Ledger image, Z_i (R450). -/
def Image.ledgerLines (x : Image) : Nat :=
  (((x.table 12 16).map (fun e => decRange e.2)).filter (fun r => r.kind == 0)).foldl (fun a r => a + r.size / 256) 1

/-- An area of two halves from `a` leaves the range of the map that holds its base (R475). -/
def Image.areaShort (x : Image) (a lines : Nat) : Bool :=
  !(x.table 12 16).any (fun e =>
    let r := decRange e.2
    decide (r.base ≤ a) && decide (a + 512 * lines ≤ r.base + r.size))

/-- The Ledger's areas are too short for the image (R475). -/
def State.areaShort (s : State) (x : Image) : Bool :=
  s.ldgOn && (x.areaShort (s.copyBase 0) x.ledgerLines ||
    (s.rf (ldgBase + 0x2C) 0 0 == 1 && x.areaShort (s.parityBase 0) (s.reg (ldgBase + 0x28)).toNat))

/-- The tier's regions, and what the hardware lacks (R268, R286). -/
def State.hardwareChecks (s : State) (x : Image) : List (Nat × Nat × Bool) :=
  (0x24, 0x34, decide (s.tierBytes < 2 ^ 30 * (x.num 0x34 2 + x.num 0x36 2))) ::
    (List.range 16).map (fun k => (0x26, k, s.rf (hbmBase (k / 4) + 8) (8 + k % 4) (8 + k % 4) == 1)) ++
    [(0x26, 0xFFFF, s.areaShort x)]

/-- Every check of a load, in this order; a later one is looked at only where the earlier ones hold. -/
def State.loadRefusal (s : State) (x : Image) (sigOk : Bool) : Option Refused :=
  (firstFailing (s.headerChecks x sigOk)).orElse fun _ =>
  (firstFailing x.directoryChecks).orElse fun _ =>
  (firstFailing (x.latencyChecks s.fuses.stepMajor)).orElse fun _ =>
  (firstFailing x.fieldChecks).orElse fun _ =>
  (firstFailing x.versionChecks).orElse fun _ =>
  (firstFailing ((x.table 2 16).flatMap x.layerChecks)).orElse fun _ =>
  (firstFailing x.mapChecks).orElse fun _ =>
  (firstFailing x.placeChecks).orElse fun _ =>
  (firstFailing (s.partChecks x)).orElse fun _ =>
  (firstFailing x.quadrantChecks).orElse fun _ =>
  (firstFailing (s.codeChecks x)).orElse fun _ =>
  firstFailing (s.hardwareChecks x)

/-! ### Placement -/

/-- The job of an image (R372 to R376). -/
def Image.job (x : Image) : Job :=
  { overlap := bit (x.num 5 1) 0, spill := bit (x.num 5 1) 1, hot := bit (x.num 5 1) 2, compat := x.compat, level := x.num 6 2,
    fmax := x.num 8 1, bgLines := x.num 9 1, microBatches := x.num 0xA 2, versionStride := x.num 0x18 8, gradStride := x.num 0x20 8,
    escBase := x.num 0x28 8, escGranules := x.num 0x30 4, xtDep := x.num 0x34 2, xtEsc := x.num 0x36 2, evalLimit := x.num 0x38 4,
    digest := BitVec.ofNat 256 (x.num 0x40 32), layers := (x.table 2 16).map (fun e => decLayer e.2),
    ranges := (x.table 12 16).map (fun e => decRange e.2),
    sections := (x.sections.filter (fun c => perCore c.type)).map (fun c =>
      { type := c.type, variant := c.variant, eval := c.eval, dies := c.dies, index := c.index, load := c.load,
        bytes := x.bytes c.offset c.size }) }

/-- The Vault goes out of service: dirty lines are written back. -/
def State.vaultStop (s : State) (d : Nat) : State :=
  if s.vltOn d && s.hbmOn d then s.vaultOff d
  else ((s.modDie d (fun m => { m with enabling := false })).setRf (vltBase d + 8) 1 1 0).setRf (vltBase d + 4) 0 0 0

/-- A table's address goes into a pair of registers. -/
def State.setAddr (s : State) (lo a align : Nat) : State :=
  (s.setReg lo (BitVec.ofNat 32 (a / align * align))).setReg (lo + 4) (BitVec.ofNat 32 (a / 2 ^ 32))

/-- Memory goes into service with the image's QUADRANT ranges (R262). -/
def State.loadMemory (s : State) (x : Image) : State :=
  let words := (List.range 4).map (fun k => ((x.table 10 16).head?.map (fun e => e.2 / 2 ^ (32 * k) % 2 ^ 32)).getD 0)
  let s1 := words.zipIdx.foldl (fun (s : State) (w : Nat × Nat) => s.setReg (hbmBase 0 + 0x40 + 4 * w.2) (BitVec.ofNat 32 w.1)) s
  let s2 := (List.range 4).foldl (fun s d => s.setRf (hbmBase d + 4) 0 0 1) s1
  { s2 with mem := { s2.mem with qranges := x.qranges 4 } }

/-- Sections of near memory are written (R374). -/
def State.loadData (s : State) (x : Image) : State :=
  (x.sections.filter (fun c => inMemory c.type)).foldl (fun s c => s.putBytes c.load (x.bytes c.offset c.size)) s

/-- Table registers of Tellers, schedule engines and the Vault (R374). -/
def State.loadTables (s : State) (x : Image) : State :=
  let base (t : Nat) : Nat := ((x.sec? t).map (·.load)).getD 0
  let parts := ((x.sec? 9).map (fun c => min 64 (c.size / 16))).getD 0
  let s1 := [0, 1].foldl (fun s n => (s.setAddr (tlrBase n + 0x18) (base 7) 128).setAddr (tlrBase n + 0x8008) (base 8) 4096) s
  (List.range 4).foldl (fun s d =>
    ((s.setAddr (vltBase d + 0x14) (base 9) 256).setRf (vltBase d + 0x14) 6 0 parts).setRf (vltBase d + 4) 1 1 (b2n x.compat)) s1

/-- Credits and span, and the rings go into service (R130, R164). -/
def State.loadRings (s : State) (x : Image) : State :=
  let words := (x.table 11 64).head?.map (·.2) |>.getD 0
  let span := ((x.table 2 16).head?.map (fun e => bit e.2 8)).getD false
  let s1 := (List.range 16).foldl (fun s i =>
    s.setReg (ringBase (i / 4) + 0x20 + 8 * (i % 4)) (BitVec.ofNat 32 (words / 2 ^ (32 * i) % 2 ^ 32))) s
  let s2 := (List.range 4).foldl (fun s d => s.setRf (ringBase d + 4) 1 1 (b2n span)) s1
  (List.range 4).foldl State.ringStart s2

/-- Tellers and schedule engines go into service, and the engines compute the step that TLR_STEP holds (R229). -/
def State.startTellers (s : State) : State :=
  [0, 1].foldl (fun s n =>
    let s1 := (s.setRf (tlrBase n + 0x8004) 0 0 1).schPost n
    let s2 := s1.setRf (tlrBase n + 4) 0 0 1
    ((s2.setReg (tlrBase n + 0x30) 0).setReg (tlrBase n + 0x34) 0).setReg (tlrBase n + 0x38) 0) s

/-- VL_SKIPS and the marks are cleared, and the ports train (R398, R399, R404, R406). -/
def State.loadLink (s : State) : State :=
  ((((s.setReg (vlBase 0 + 0x1C) 0).clearAllMarks).vlStart 0).vlStart 1)

/-- An accepted load: every section is placed and the job's register state restored; the job is not yet started (R493). -/
def State.placeImage (s : State) (x : Image) : State :=
  let q := s.quiesce
  let s1 := (List.range 4).foldl State.vaultStop q
  let s2 : State := { s1 with step := { job := some x.job, holds := x.holds s.fuses.stepMajor } }
  let s3 := ((s2.loadMemory x).loadData x).placeSections false (fun _ => true)
  let s4 := ((s3.loadTables x).setReg (ldgBase + 0x1C) (BitVec.ofNat 32 x.ledgerLines))
  let s5 := ((List.range 4).foldl State.vaultTry s4).loadRings x
  let s6 := (s5.startTellers.loadLink).reseed
  let s7 := (s6.clearGrads s6.tlrStep).clearGrads (s6.tlrStep + 1)
  { s7 with step := { s7.step with seeded := false, admitStep := s7.tlrStep, jnlFirst := s7.jnl.seq,
                                   frozenRecs := (s7.layerRecords.filter (fun l => (s7.recOf l.1).frozen)).map (·.1) },
            rec_ := { s7.rec_ with haltedSteps := false } }

/-- The recovery image fills only the cores that recovery names (R445, R493). -/
def State.placeRecovery (s : State) (x : Image) : State :=
  let job := x.job
  let s1 := s.rec_.cores.foldl (fun s i =>
    let d := i / 34
    let j := i % 34
    let s1 := s.modCore d j (fun c => { c with store := [], marks := [] })
    (job.coreSections d (s.core d j).activeIndex (s.runs31 d) false).foldl (fun s c => s.placeSection d j c) s1) s
  ({ s1 with rec_ := { s1.rec_ with cores := [] } } : State).recoverOn

end Sys2Proof.Machine
end

