-- ==== Sys2Proof/Machine/Mailbox.lean ====
section
/-! DEFINITION. The mailbox (R496 to R508): posting and releasing of requests, the short requests, and the rules of long ones. -/

namespace Sys2Proof.Machine

/-! ### Ring of slots (R498, R509, R511) -/

/-- MBX_REQ_TAIL_WRITE (R498). -/
def execMbxReqTailWrite (by_ : Writer) (tail : BitVec 16) (s : State) : Out :=
  .next (s.gate by_ true 0x100 (fun s =>
    let old := s.rf 0x100 15 0
    let ahead := (tail.toNat + 65536 - old) % 65536
    let outstanding := (tail.toNat + 65536 - s.rf 0x108 15 0) % 65536
    if ahead = 0 then s
    else if ahead ≤ 32 ∧ outstanding ≤ 32 then s.setRf 0x100 15 0 tail.toNat
    else (s.orReg 0x10C 0x10000).ignored 0x100))

/-- MBX_RPL_HEAD_WRITE (R511): a value above COUNT is ignored. -/
def execMbxRplHeadWrite (by_ : Writer) (head : BitVec 16) (s : State) : Out :=
  .next (s.gate by_ true 0x108 (fun s =>
    let old := s.rf 0x108 15 0
    if (head.toNat + 65536 - old) % 65536 ≤ (s.rf 0x104 15 0 + 65536 - old) % 65536 then s.setRf 0x108 15 0 head.toNat else s))

/-- A slot of 64 bytes, sixteen registers from an offset. -/
def State.slotWords (s : State) (off : Nat) : Nat → Nat
  | 0 => 0
  | n + 1 => (s.reg off).toNat + 2 ^ 32 * s.slotWords (off + 4) n

def State.putSlot (s : State) (off : Nat) : Nat → Nat → State
  | 0, _ => s
  | n + 1, v => (s.setReg off (BitVec.ofNat 32 v)).putSlot (off + 4) n (v / 2 ^ 32)

/-- The oldest request that is posted and not yet taken. -/
def State.frame? (s : State) : Option Nat :=
  if s.mbx.taken % 65536 = s.rf 0x100 15 0 then none else some (s.slotWords (0x1000 + 64 * (s.mbx.taken % 32)) 16)

/-! ### Frames (R496, R497) -/

def frOpcode (w : Nat) : Nat := bits w 15 8
def frTag (w : Nat) : Nat := bits w 31 16
def frAddr (w : Nat) : Nat := bits w 127 64
def frLen (w : Nat) : Nat := bits w 191 128
/-- `n` bytes of ARGS from byte `i`. -/
def frArg (w i n : Nat) : Nat := w / 2 ^ (192 + 8 * i) % 2 ^ (8 * n)

/-- Opcodes of R499. -/
def opcodes : List Nat :=
  [1, 2, 3, 4, 5, 6, 7, 8, 0x10, 0x11, 0x12, 0x13, 0x14, 0x15, 0x16, 0x17, 0x18, 0x19, 0x1A, 0x1B, 0x1C, 0x1D]

/-- STAGE to the host (R499). -/
def toHost (w : Nat) : Bool := frOpcode w == 0x18 && frArg w 8 1 == 1

/-- What a request is answered with: RESULT, DETAIL, OP_ID, DATA (R497). -/
structure Reply where
  result : Nat := 0
  detail : Nat := 0
  opId : Nat := 0
  data : Nat := 0
  deriving DecidableEq, Repr

/-- The bytes of a reply frame (R497). STATUS and JNL_SEQ are those after the request. -/
def State.replyFrame (s : State) (w : Nat) (r : Reply) : Nat :=
  1 + 2 ^ 8 * frOpcode w + 2 ^ 16 * frTag w + 2 ^ 32 * r.result + 2 ^ 40 * s.attn + 2 ^ 48 * r.opId + 2 ^ 64 * (r.detail % 2 ^ 32)
    + 2 ^ 96 * s.jnl.seq + 2 ^ 128 * (r.data % 2 ^ 384)

/-- The reply is written into the slot of the same index, and the request counts as taken (R498, R508). -/
def State.answerWith (s : State) (w : Nat) (r : Reply) : State :=
  let s1 := s.putSlot (0x2000 + 64 * (s.mbx.taken % 32)) 16 (s.replyFrame w r)
  let s2 := (s1.setRf 0x104 15 0 (s1.rf 0x104 15 0 + 1)).count (blkXd 0) 0x23 0x1FF 1
  { s2 with mbx := { s2.mbx with taken := (s.mbx.taken + 1) % 65536,
                                 firstRequest := s2.mbx.firstRequest || s.bootStage == 3 } }

/-- The answer of a request that the module's state forbids (R483, R490, R502). -/
def State.forbids (s : State) (w : Nat) : Option Reply :=
  let op := frOpcode w
  if s.bootStage = 0xF then (if op = 1 ∨ op = 2 ∨ op = 0x1C then none else some { result := 0x13 })
  else if s.bootStage < 3 then some { result := 0x13 }
  else if s.fatal.stopped then
    (if op = 1 ∨ op = 2 ∨ op = 4 ∨ op = 0x1D ∨ toHost w = true then none else some { result := 0x12, detail := 0xFF })
  else if s.rec_.stage != .none then
    (if op = 1 ∨ op = 2 ∨ op = 3 ∨ op = 4 ∨ op = 6 ∨ op = 0x15 ∨ op = 0x16 ∨ toHost w = true ∨ (op = 0x10 ∧ frArg w 0 1 = 1) then none
     else some { result := 2 })
  else none

/-- A request of opcode `op` at the head of the queue is taken, performed unless the state forbids it, and answered. -/
def State.request (s : State) (op : Nat) (f : State → Nat → State × Reply) : Out :=
  match s.frame? with
  | none => .next s
  | some w =>
    if s.power.phase != .on || bits w 3 0 != 1 || frOpcode w != op then .next s
    else
      match s.forbids w with
      | some r => .next (s.answerWith w r)
      | none =>
        let r := f s w
        .next (r.1.answerWith w r.2)

def badArg (off : Nat) : Reply := { result := 0x11, detail := off }

/-- NOT_PERMITTED, with the status field's code. -/
def State.notPermitted (s : State) : State × Reply := (s, { result := 0x12, detail := s.attn })

/-- A request's buffer is aligned to 256 bytes and holds at least `n` (R496). -/
def bufferBad (w n : Nat) : Option Reply :=
  if frAddr w % 256 ≠ 0 then some (badArg 8) else if frLen w < n then some (badArg 16) else none

/-- A short request with a host buffer of at least `n` bytes. -/
def State.withBuffer (s : State) (w n : Nat) (hostFault : Option (BitVec 32)) (f : State → State × Reply) : State × Reply :=
  match bufferBad w n, hostFault with
  | some r, _ => (s, r)
  | none, some o => (s, { result := 0x14, detail := o.toNat })
  | none, none => f s

/-- Bytes that pass the host endpoint, counted in units of 256 (R520). -/
def State.dma (s : State) (n : Nat) : State := s.count (blkXd 0) 0x22 0x1FF ((n + 255) / 256)

/-- Bytes are written to host memory. -/
def State.toHostMem (s : State) (a : Nat) (bs : List Byte) : State :=
  State.dma { s with hostMem := s.hostMem.setBytes a bs } bs.length

/-- The bytes of a request's buffer that the module reads (R499). -/
def readsBuffer (w : Nat) : Nat :=
  let op := frOpcode w
  if op = 0x10 ∨ op = 0x16 ∨ op = 0x17 ∨ op = 0x1B ∨ op = 0x1C ∨ (op = 0x18 ∧ toHost w = false) then frLen w else 0

/-! ### Short requests (R499) -/

/-- BAD_FRAME: a reserved version or opcode (R499, R500). -/
def execBadFrame (s : State) : Out :=
  match s.frame? with
  | none => .next s
  | some w =>
    if s.power.phase != .on || (bits w 3 0 == 1 && opcodes.contains (frOpcode w)) then .next s
    else .next (s.answerWith w ((s.forbids w).getD { result := 0x10 }))

/-- HEARTBEAT (R506). -/
def execHeartbeat (s : State) : Out := s.request 1 (fun s _ => (s, {}))

/-- IDENT, with a fresh nonce (R488, R499). -/
def execIdent (s : State) : Out := s.request 2 (fun s _ =>
  let g := Config.freeDigest s.free
  ({ s with free := s.free + 1, far := { s.far with nonce := some g } },
   { detail := (s.readReg 0x10).toNat,
     data := (s.readReg 0).toNat + 2 ^ 32 * (s.readReg 4).toNat + 2 ^ 64 * (s.readReg 8).toNat + 2 ^ 96 * (s.readReg 0xC).toNat
       + 2 ^ 128 * g.toNat }))

/-- Latched codes of R505. -/
def latchedCodes : List Nat := [0x18, 0x20, 0x30, 0x50, 0x90]

/-- ACK_ATTN (R505): OP_DONE and HALTED_HOST are cleared in other ways, and an event of the same edge leaves its code pending. The
events are kept under MBX_PENDING's own offset and bits. -/
def execAckAttn (s : State) : Out := s.request 3 (fun s w =>
  let c := frArg w 0 1
  if !latchedCodes.contains c then (s, badArg 24)
  else
    let stays (code b : Nat) : Bool := c != code || bit (s.freshBits 0x110) b
    ({ s with mbx := { s.mbx with evalEnded := s.mbx.evalEnded && stays 0x18 3, abandoned := s.mbx.abandoned && stays 0x20 4,
                                  restoreFailed := s.mbx.restoreFailed && stays 0x90 13 } }, {}))

/-- QUERY_OP (R501, R505). -/
def execQueryOp (s : State) : Out := s.request 4 (fun s w =>
  let i := frArg w 0 2
  match s.mbx.ops.find? (fun o => o.id == i) with
  | none => (s, badArg 24)
  | some o =>
    if !o.done then (s, { result := 4, opId := i })
    else
      let left := s.mbx.ops.filter (fun x => x.id != i)
      ({ s with mbx := { s.mbx with ops := left, opDone := s.mbx.opDone && left.any (·.done) } },
       { result := o.result, detail := o.detail, opId := i }))

/-- The latency descriptor as R338 lays it out. -/
def latencyBytes (major : Nat) : List Byte :=
  (latencyTable major).flatMap (fun e => bytesOfNum 8 (2 ^ 48 * e.1 + 2 ^ 40 * e.2.1 + e.2.2))

/-- GET_LATENCY (R339, R499). -/
def execGetLatency (hostFault : Option (BitVec 32)) (s : State) : Out := s.request 5 (fun s w =>
  s.withBuffer w 120 hostFault (fun s => (s.toHostMem (frAddr w) (latencyBytes s.fuses.stepMajor), {})))

/-- The bytes of a step report (R504). -/
def Report.toBytes (r : Report) : List Byte :=
  bytesOfNum 34 (1 + 2 ^ 8 * r.outcome + 2 ^ 16 * r.flags + 2 ^ 24 * r.rating + 2 ^ 32 * r.step + 2 ^ 64 * r.ls.toNat + 2 ^ 96 * r.abandoned
      + 2 ^ 128 * r.snapStep + 2 ^ 160 * r.jnlFirst + 2 ^ 192 * r.jnlLast + 2 ^ 224 * r.done + 2 ^ 256 * r.entries.length) ++
    List.replicate 94 0 ++ r.entries.flatMap (fun e => bytesOfNum 4 (e.layer + 2 ^ 16 * e.status + 2 ^ 24 * e.teller))

/-- GET_REPORT (R499, R504): with no unread report nothing is written. -/
def execGetReport (hostFault : Option (BitVec 32)) (s : State) : Out := s.request 6 (fun s w =>
  match s.mbx.reports with
  | [] => (s, {})
  | r :: rest =>
    s.withBuffer w r.toBytes.length hostFault (fun s =>
      ({ s.toHostMem (frAddr w) r.toBytes with mbx := { s.mbx with reports := rest } }, { detail := rest.length })))

/-- START (R499, R505): admission begins or resumes. Where it begins, the first step is entered, which a schedule program that the load
found invalid faults (R252). -/
def execStart (s : State) : Out := s.request 0x11 (fun s0 _ =>
  if s0.step.job.isNone then s0.notPermitted
  else
    let s := if s0.step.stopped && s0.step.post == 0 then s0.progFaults else s0
    ({ s with step := { s.step with stopped := false, stopRequested := false }, mbx := { s.mbx with haltedHost := false } }, {}))

/-- Admission stops after the next decision (R499, R507); a job that is stopped already stays so. -/
def State.requestStop (s : State) : State :=
  if s.step.stopped then s else { s with step := { s.step with stopRequested := true } }

/-- STOP (R499). -/
def execStop (s : State) : Out := s.request 0x12 (fun s _ =>
  if s.step.job.isNone then s.notPermitted else (s.requestStop, {}))

/-- EVAL (R199, R499): a binary without an evaluation section has no slot. -/
def execEval (s : State) : Out := s.request 0x13 (fun s _ =>
  if s.step.job.all (fun j => j.evalLimit == 0) then s.notPermitted
  else ({ s with step := { s.step with evalRequested := true } }, {}))

/-- SET_JOB_KEY: once per cold start, before the first LOAD (R493, R499). -/
def execSetJobKey (hostFault : Option (BitVec 32)) (s : State) : Out := s.request 0x19 (fun s w =>
  if s.far.jobKey.isSome || s.far.firstLoad then s.notPermitted
  else s.withBuffer w 1952 hostFault (fun s =>
    (State.dma { s with far := { s.far with jobKey := some (s.hostMem.bytes (frAddr w) 1952) } } 1952, {})))

/-! ### Long requests (R501) -/

/-- Two operations that use one resource (R501). -/
def sameResource (a b : Nat) : Bool :=
  let x := frOpcode a
  let y := frOpcode b
  let rebuild (o : Nat) : Bool := o == 0x15 || o == 0x16 || o == 0x1D
  (x == 0x10 && !toHost b) || (y == 0x10 && !toHost a) || (x == 0x14 && y == 0x14) || (rebuild x && rebuild y) ||
    (x == 0x1C && y == 0x1C)

/-- The operation is held, and the reply names it. -/
def State.accept (s : State) (w : Nat) (hostFault : Option (BitVec 32)) (result detail : Nat) : State × Reply :=
  let i := s.mbx.nextOp
  let o : LongOp := { id := i, frame := BitVec.ofNat 512 w, hostFault := hostFault.map (·.toNat), result := result, detail := detail,
                      done := false }
  let t := if hostFault.isNone then s.dma (readsBuffer w) else s
  ({ t with mbx := { s.mbx with ops := s.mbx.ops ++ [o], nextOp := i % 65535 + 1 } }, { result := 1, opId := i })

/-- A request needs a buffer of at least `n` bytes; or none; or, for the operations on a checkpoint, one on the host path (R496, R499). -/
def needs (n w : Nat) : Option Reply := bufferBad w n
def needsNone (_w : Nat) : Option Reply := none
def needsOnHostPath (i w : Nat) : Option Reply := if frArg w i 2 = 0xFFFF then bufferBad w 1 else none

/-- A long request: it is refused while eight are held, for a bad operand, or for a running operation of the same resource; a buffer that
fails is its outcome. -/
def State.longRequest (s : State) (op : Nat) (room : Nat → Option Reply) (hostFault : Option (BitVec 32))
    (f : State → Nat → State × Reply) : Out :=
  s.request op (fun s w =>
    if 8 ≤ s.mbx.ops.length then (s, { result := 3 })
    else
      match room w with
      | some r => (s, r)
      | none =>
        if s.mbx.ops.any (fun o => !o.done && sameResource w o.frame.toNat) then s.notPermitted
        else
          match hostFault with
          | some o => s.accept w hostFault 0x14 o.toNat
          | none => f s w)

/-! ### Identity (R485 to R488) -/

/-- A signature as 3,309 bytes, and a public key as 1,952. -/
def signature (seed : BitVec 256) (msg : List Byte) : List Byte := (Config.mldsaSign seed msg ++ List.replicate 3309 0).take 3309
def publicKey (seed : BitVec 256) : List Byte := (Config.mldsaPublic seed ++ List.replicate 1952 0).take 1952

/-- 2,208 bytes, their signature, and zeros up to 5,632 bytes. -/
def signed (seed : BitVec 256) (head : List Byte) : List Byte := head ++ signature seed head ++ List.replicate 115 0

/-- The AK certificate (R486). -/
def State.akCert (s : State) (ak : BitVec 256) : List Byte :=
  let devid := Config.devidSeed s.fuses.secret s.fuses.lifecycle
  signed devid (bytesOfNum 8 (0x43414B41 + 2 ^ 32 + 2 ^ 40 * s.fuses.lifecycle + 2 ^ 48 * s.rf 0xC 15 8 + 2 ^ 56 * s.far.fusedAtBoot) ++
    bytesOfNum 32 s.far.devidDigest.toNat ++ bytesOfNum 32 s.far.measurement.toNat ++ List.replicate 184 0 ++ publicKey ak)

/-- Flags of an attestation report. -/
def State.reportFlags (s : State) : Nat :=
  b2n s.hostWr + 2 * b2n s.step.job.isSome + 4 * s.rf 0x10 3 3 + 8 * b2n s.far.jobKey.isSome

/-- An attestation report over a nonce (R487). -/
def State.attestation (s : State) (ak : BitVec 256) (nonce : Nat) : List Byte :=
  let jobKey := (s.far.jobKey.map (fun k => (shake256 k).toNat)).getD 0
  signed ak (bytesOfNum 48 (0x54414B41 + 2 ^ 32 + 2 ^ 40 * s.lifecycle + 2 ^ 48 * s.reportFlags + 2 ^ 64 * (s.readReg 0).toNat
      + 2 ^ 96 * (s.readReg 4).toNat + 2 ^ 128 * s.fuses.svn + 2 ^ 136 * s.rf 0xC 15 8 + 2 ^ 144 * s.rf 8 24 24 + 2 ^ 160 * s.tlrStep
      + 2 ^ 192 * s.epoch + 2 ^ 224 * s.self + 2 ^ 256 * (s.edge % 2 ^ 64)) ++
    bytesOfNum 32 nonce ++ bytesOfNum 32 s.far.measurement.toNat ++ bytesOfNum 32 s.far.configDigest.toNat ++
    bytesOfNum 32 ((s.step.job.map (fun j => j.digest.toNat)).getD 0) ++ bytesOfNum 32 jobKey ++ List.replicate 48 0 ++ publicKey ak)

/-- The attestation key, where it may be used: not in RETURNED, and not after a token unlock (R488). -/
def State.attestKey (s : State) : Option (BitVec 256) := if s.far.unlocked || s.lifecycle == 2 then none else s.far.keySeed

/-- ATTEST (R487, R499). -/
def execAttest (hostFault : Option (BitVec 32)) (s : State) : Out := s.longRequest 7 (needs 5632) hostFault (fun s w =>
  match s.attestKey with
  | none => s.notPermitted
  | some k => (s.toHostMem (frAddr w) (s.attestation k (frArg w 0 32))).accept w none 0 0)

/-- GET_CERTS (R485, R486): the device-identity certificate of the identity area, then the AK certificate. -/
def execGetCerts (hostFault : Option (BitVec 32)) (s : State) : Out := s.longRequest 8 (needs 11264) hostFault (fun s w =>
  match s.attestKey with
  | none => s.notPermitted
  | some k => (s.toHostMem (frAddr w) (s.nvm.bytes 0x3800000 5632 ++ s.akCert k)).accept w none 0 0)

/-- DEBUG_UNLOCK (R488): the token names the digest of the DevID public key and the last nonce. -/
def execDebugUnlock (hostFault : Option (BitVec 32)) (sigOk : Bool) (s : State) : Out := s.longRequest 0x1B (needs 64) hostFault (fun s w =>
  let names := s.hostMem.num (frAddr w) 32 == s.far.devidDigest.toNat &&
    s.far.nonce.any (fun g => s.hostMem.num (frAddr w + 32) 32 == g.toNat)
  if sigOk && names then
    State.accept ({ s.setRf 0x10 2 2 1 with far := { s.far with keySeed := none, unlocked := true } }) w none 0 0
  else s.accept w none 0x41 0)

/-! ### NVM (R492) -/

/-- SVN_COMMIT (R492). -/
def execSvnCommit (s : State) : Out := s.longRequest 0x1A needsNone none (fun s w =>
  let svn := s.rf 0xC 15 8
  let other := bankBase (!(s.far.bank.getD false))
  if headerValid s.nvm other && decide (s.nvm.num (other + 0xC) 4 < svn) && frArg w 0 1 != 1 then s.accept w none 0x42 0
  else State.accept { s with fuses := { s.fuses with svn := max s.fuses.svn svn } } w none 0 0)

/-- The bank that an update writes: the one that is not running (with none running, bank A). -/
def State.idleBank (s : State) : Bool :=
  match s.far.bank with
  | some b => !b
  | none => false

/-- NVM_UPDATE (R492): the pages after the header are written and read back, then the header with its new SEQ. -/
def execNvmUpdate (hostFault : Option (BitVec 32)) (verdict : BankVerdict) (readBackOk : Bool) (s : State) : Out :=
  s.longRequest 0x1C (needs 8192) hostFault (fun s w =>
    let a := frAddr w
    let n := frLen w
    let reason := bankReason s.hostMem a s.fuses verdict
    let base := bankBase s.idleBank
    let seq := s.nvm.num (bankBase (!s.idleBank) + 8) 4 + 1
    if bankSize < n then (s, badArg 16)
    else if reason ≠ 0 then s.accept w none 0x40 reason
    else
      let m1 := (s.nvm.setBytes base (List.replicate 8192 0xFF)).setBytes (base + 8192) (s.hostMem.bytes (a + 8192) (n - 8192))
      if !readBackOk then State.accept { s with nvm := m1 } w none 0x40 0xFF
      else
        let m2 := (m1.setBytes base (s.hostMem.bytes a 8192)).setNum (base + 8) 4 seq
        State.accept ({ s.setRf 0x10 5 5 1 with nvm := m2 }) w none 0 0)

/-! ### LOAD (R493, R501) -/

/-- The job holds under STOP or a halt, or none is loaded (R501). -/
def State.mayLoad (s : State) : Bool :=
  s.step.job.isNone || ((s.step.stopped || s.rec_.haltedLs || s.rec_.haltedSteps) && s.step.stamps.isEmpty &&
    (s.step.post == 0 || s.step.post == 5))

/-- LOAD. A refused one is journalled and leaves the state unchanged: the first load that is accepted ends the use of SET_JOB_KEY (R9,
R493). -/
def execLoad (hostFault : Option (BitVec 32)) (sigOk : Bool) (s : State) : Out := s.longRequest 0x10 (needs 0x100) hostFault (fun s w =>
  let x := imageAt s.hostMem (frAddr w) (frLen w)
  let again := frArg w 0 1 == 1
  if (if again then s.rec_.stage != .imageNeeded else !s.mayLoad) then s.notPermitted
  else
    match s.loadRefusal x sigOk with
    | some r =>
      let s2 := s.notice (Err.aon .notice 0xA22 0 r.1 r.2)
      (if r = (0x26, 0xFFFF) then (s2.orReg (ldgBase + 0xC) 0x10).notice (Err.aon .notice 0x904) else s2).accept w none r.1 r.2
    | none =>
      let s1 : State := { s with far := { s.far with firstLoad := true } }
      if again then (s1.placeRecovery x).accept w none 0 0
      else (s1.placeImage x).accept w none 0 (x.holds s.fuses.stepMajor).length)

end Sys2Proof.Machine
end

