-- ==== Sys2Proof/Machine/Ports.lean ====
section
/-! DEFINITION. Output contacts (R530, R531, R533), the management port (R542) and the JTAG test access port (R543). -/

namespace Sys2Proof.Machine

/-! ### Output contacts (R530, R531, R533) -/

/-- PWR_GOOD: every rail is in regulation (R531, R538). -/
def State.pwrGood (s : State) : Bool := s.power.phase == .on

/-- THERM_TRIP_N: low after a thermal trip (R531). -/
def State.thermTripN (s : State) : Bool := !s.power.thermTrip

/-- NVM_RESET_N: low while PWR_GOOD is low (R533). -/
def State.nvmResetN (s : State) : Bool := s.pwrGood

/-- CXLc_PERST_N: low until firmware has enumerated a populated port (R286, R530). -/
def State.cxlPerstN (s : State) (c : Nat) : Bool := s.pwrGood && s.bootStage == 3 && !s.cxlEmpty c

/-- HOST_PRSNT_N is tied to ground (R530). -/
def State.hostPrsntN (_s : State) : Bool := false

/-! ### Management port -/

/-- The port's 7-bit address (R542). -/
def State.mgmtAddress (s : State) : Nat := 0x58 + s.fuses.straps % 8

/-- A block read: served while the always-on supply is up (R537, R542). -/
def State.block (s : State) (bs : List Byte) : State := if s.power.alwaysOn then { s with mgmtOut := bs } else s

/-- MGMT_IDENT. -/
def execMgmtIdent (s : State) : Out := .next (s.block (bytesOfNum 8 ((s.readReg 0).toNat + 2 ^ 32 * (s.readReg 4).toNat)))

/-- MGMT_BOOT. -/
def execMgmtBoot (s : State) : Out := .next (s.block (bytesOfNum 4 (s.readReg 8).toNat))

/-- MGMT_STATUS: the status field, then pending codes [23:0]. -/
def execMgmtStatus (s : State) : Out := .next (s.block (bytesOfNum 4 (s.attn + 2 ^ 8 * s.pendingCodes)))

/-- MGMT_INPUT: TSY_VIN, TSY_PIN (R434). -/
def execMgmtInput (s : State) : Out :=
  .next (s.block (bytesOfNum 8 ((s.readReg (tsyBase + 0x14)).toNat + 2 ^ 32 * (s.readReg (tsyBase + 0x18)).toNat)))

/-- MGMT_TEMPS: highest die and stack temperature, signed, and their limits. -/
def execMgmtTemps (s : State) : Out :=
  .next (s.block [BitVec.ofInt 8 s.power.dieTemp, BitVec.ofInt 8 s.power.stackTemp, 105, 95])

/-- MGMT_RATING. -/
def execMgmtRating (s : State) : Out :=
  .next (s.block (bytesOfNum 8 ((s.readReg (ldgBase + 0x3C)).toNat + 2 ^ 32 * (s.readReg (ldgBase + 0x40)).toNat)))

/-- MGMT_DEVID: 0 until the ROM has derived it. -/
def execMgmtDevid (s : State) : Out := .next (s.block (bytesOfNum 32 s.far.devidDigest.toNat))

/-- MGMT_RESERVED_COMMAND: 0x07 to 0xFF answer with a block of no bytes. -/
def execMgmtReservedCommand (code : Byte) (s : State) : Out := .next (if code.toNat < 7 then s else s.block [])

/-! ### JTAG -/

/-- The instruction that selects BYPASS: the pins are driven by the module again. -/
def Jtag.toBypass (t : Jtag) : Jtag := { t with selected := .bypass, shift := 0, driving := false, floating := false, clamped := false }

def State.tap (s : State) (f : Jtag → Jtag) : State := if s.power.alwaysOn then { s with jtag := f s.jtag } else s

/-- HOST_PERST_N is low and no job is loaded. -/
def State.pinsFree (s : State) : Bool := !s.power.perstN && s.step.job.isNone

/-- BYPASS. -/
def execBypass (s : State) : Out := .next (s.tap Jtag.toBypass)

/-- The identity of R543: stepping, device, manufacturer, 1. -/
def Fuses.idcode (f : Fuses) : Word := BitVec.ofNat 32 (2 ^ 28 * (f.stepMajor % 16) + 0x4B31 * 2 ^ 12 + f.manufacturer.toNat * 2 + 1)

/-- IDCODE. -/
def execIdcode (s : State) : Out := .next (s.tap (fun t => { t.toBypass with selected := .idcode, shift := s.fuses.idcode }))

/-- SAMPLE/PRELOAD: the cells take what is shifted in, or what the pins show, which the spec does not list (log 8). -/
def execSamplePreload (preload : Option (BitVec 64)) (s : State) : Out :=
  let pins := (Config.freeDigest s.free).setWidth 64
  .next (({ s with free := s.free + 1 } : State).tap (fun t => { t.toBypass with selected := .boundary, cells := preload.getD pins }))

/-- EXTEST, or BYPASS. -/
def execExtest (s : State) : Out :=
  .next (s.tap (fun t => if s.pinsFree then { t.toBypass with selected := .boundary, driving := true } else t.toBypass))

/-- HIGHZ, or BYPASS. -/
def execHighz (s : State) : Out := .next (s.tap (fun t => if s.pinsFree then { t.toBypass with floating := true } else t.toBypass))

/-- CLAMP, or BYPASS. -/
def execClamp (s : State) : Out := .next (s.tap (fun t => if s.pinsFree then { t.toBypass with clamped := true } else t.toBypass))

end Sys2Proof.Machine
end

