-- ==== Sys2Proof/Machine/Restore.lean ====
section
/-! DEFINITION. Long requests that stage, save, restore and restart (R446, R455, R459 to R461, R499, R503), the end of a long
operation (R501), and the heartbeat's grace (R507). -/

namespace Sys2Proof.Machine

/-! ### STAGE (R499) -/

/-- STAGE: the bytes are copied when the operation completes. -/
def execStage (hostFault : Option (BitVec 32)) (s : State) : Out := s.longRequest 0x18 (needs 0) hostFault (fun s w =>
  let a := frArg w 0 8
  if 1 < frArg w 8 1 then (s, badArg 32)
  else if frLen w != 0 && (s.where_ a == .unmapped || s.where_ (a + frLen w - 1) == .unmapped) then (s, badArg 24)
  else s.accept w none 0 0)

/-- The copy of a STAGE. -/
def State.stageCopy (s : State) (w : Nat) : State :=
  let n := frLen w
  if toHost w then
    (let r := s.readBytes (frArg w 0 8) n
     r.2.2.toHostMem (frAddr w) (bytesOfNum n r.1))
  else s.putBytes (frArg w 0 8) (s.hostMem.bytes (frAddr w) n)

/-! ### Checkpoints (R459, R460) -/

/-- A shard: kind, layer, rule, where its parts lie in the active version (address and bytes), or its data. -/
structure Shard where
  kind : Nat
  layer : Nat
  rule : Nat
  parts : List (Nat × Nat)
  data : List Byte
  deriving DecidableEq, Repr

def Shard.size (x : Shard) : Nat := x.parts.foldl (fun a p => a + p.2) 0 + x.data.length

/-- The shards of this package: each layer's weights, the optimizer state of the layers that it owns, and the scalars. -/
def State.shards (s : State) : List Shard :=
  (s.layerRecords.map (fun l => s.recOf l.1)).flatMap (fun r =>
    { kind := 0, layer := r.layer, rule := r.rule, parts := [(s.activeAddr r.master, 4 * r.n), (s.activeAddr r.compute, r.copyBytes)],
      data := [] } ::
    (if r.op = 0 then [{ kind := 1, layer := r.layer, rule := r.rule, parts := [(s.activeAddr r.state, 256 * r.stateLines)], data := [] }]
     else [])) ++
  [{ kind := 2, layer := 0, rule := 0, parts := [], data := bytesOfNum 8 s.scalarLine.toNat }]

/-- The header of a shard (R459). -/
def State.shardHeader (s : State) (x : Shard) (job : Nat) : List Byte :=
  bytesOfNum 256 (0x44534B41 + 2 ^ 32 + 2 ^ 40 * x.kind + 2 ^ 48 * s.self + 2 ^ 64 * s.tlrStep + 2 ^ 96 * s.epoch + 2 ^ 128 * x.layer
    + 2 ^ 144 * x.rule + 2 ^ 192 * x.size + 2 ^ 256 * job)

/-- The digest record of a shard (R460). -/
def State.shardRecord (s : State) (x : Shard) (bs : List Byte) : List Byte :=
  let b := bytesOfNum 60 (1 + 2 ^ 8 * x.kind + 2 ^ 16 * s.self + 2 ^ 32 * s.tlrStep + 2 ^ 64 * x.layer + 2 ^ 128 * (shake256 bs).toNat)
  b ++ bytesOfNum 4 (crc32 b)

/-- Header and data of a shard, as they are read, poison marks included. -/
def State.readShard (s : State) (x : Shard) (job : Nat) : List (Byte × Bool) × State :=
  let r := x.parts.foldl (fun (a : List (Byte × Bool) × State) p =>
    let y := a.2.readMarked p.1 p.2
    (a.1 ++ y.1, y.2)) ([], s)
  (unmarked (s.shardHeader x job) ++ r.1 ++ unmarked x.data, r.2)

/-- Where each shard of a list lies from an offset on. -/
def shardOffsets : List Shard → Nat → List (Nat × Shard)
  | [], _ => []
  | x :: t, o => (o, x) :: shardOffsets t (o + padded (256 + x.size))

/-- Bytes of all the shards; their digest records follow. -/
def shardsEnd (l : List Shard) : Nat := l.foldl (fun a x => a + padded (256 + x.size)) 0

/-- CHECKPOINT: ARGS name the Posting's step, the job, and the store or the host path (R459, R499). -/
def execCheckpoint (s : State) : Out := s.longRequest 0x14 (needsOnHostPath 12) none (fun s w =>
  let n := frArg w 0 4
  if s.step.job.isNone then s.notPermitted
  else if n + 1 < s.tlrStep ∨ (n + 1 = s.tlrStep ∧ 2 ≤ s.step.post ∧ s.step.post < 5) then (s, badArg 24)
  else s.accept w none 0 0)

/-- The shards of a checkpoint are read and written, with their records: the RESULT and DETAIL. -/
def State.writeCheckpoint (s : State) (w : Nat) : State × Nat × Nat :=
  let xs := s.shards
  let store := frArg w 12 2
  let job := frArg w 4 8
  if store = 0xFFFF ∧ frLen w < shardsEnd xs + 64 * xs.length then (s, 0x14, frLen w)
  else
    let t := ((shardOffsets xs 0).zipIdx).foldl (fun (s : State) (x : (Nat × Shard) × Nat) =>
      let r := s.readShard x.1.2 job
      let bs := r.1.map (·.1)
      let c := r.2.shardRecord x.1.2 bs
      if store = 0xFFFF then
        (r.2.toHostMem (frAddr w + x.1.1) bs).toHostMem (frAddr w + shardsEnd xs + 64 * x.2) c
      else (r.2.putAway store r.1).putAway store (unmarked c)) s
    (t, 0, 0)

/-! ### Restoring (R447, R455, R461) -/

/-- Whether the header of a saved shard is that of a shard of a step (R459). -/
def headerOf (x : Shard) (step : Nat) (bs : List Byte) : Bool :=
  let h := numOfBytes (bs.take 256)
  bits h 31 0 == 0x44534B41 && bits h 39 32 == 1 && bits h 47 40 == x.kind && bits h 95 64 == step && bits h 143 128 == x.layer &&
    bits h 255 192 == x.size

/-- Whether a digest record is valid for a saved shard: CRC, version, and the fields that identify it (R460). -/
def recordValid (bs rc : List Byte) : Bool :=
  let h := numOfBytes (bs.take 256)
  let r := numOfBytes (rc.take 64)
  bits r 511 480 == crc32 (rc.take 60) && bits r 7 0 == 1 && bits r 15 8 == bits h 47 40 && bits r 31 16 == bits h 63 48 &&
    bits r 63 32 == bits h 95 64 && bits r 79 64 == bits h 143 128

/-- DIGEST of a record. -/
def recordDigest (rc : List Byte) : Nat := bits (numOfBytes (rc.take 64)) 383 128

/-- A saved shard whose own record is valid and matches. -/
def shardPasses (x : Shard) (step : Nat) (bs rc : List Byte) : Bool :=
  headerOf x step bs && recordValid bs rc && (shake256 bs).toNat == recordDigest rc

/-- Audit of a saved shard (R461): the bytes that become active, if any do. A weights shard may be replaced by a replica of its layer,
or vouched for by one. -/
def auditShard (x : Shard) (step : Nat) (bs rc : List Byte) (replicas : List Replica) : Option (List Byte) :=
  if shardPasses x step bs rc then some bs
  else if x.kind ≠ 0 then none
  else
    match replicas.find? (fun r => r.layer.toNat == x.layer && shardPasses x step r.shard r.record) with
    | none => none
    | some r =>
      if headerOf x step bs && recordValid bs rc then some r.shard
      else if (shake256 bs).toNat = recordDigest r.record then some bs
      else none

/-- The parts of a shard are written from its data. -/
def State.writeParts (s : State) (bs : List Byte) : List (Nat × Nat) → State
  | [] => s
  | p :: t => (s.putBytes p.1 (bs.take p.2)).writeParts (bs.drop p.2) t

/-- The job stands in ENTRY before step `m`, with a loss-scale state: queues, gradient buffers, Escrow, stamps, marks and VL_SKIPS
are cleared, Depository streams closed, and the schedule engines compute (R445, R455). -/
def State.rewind (s : State) (m : Nat) (ls : Word) : State :=
  let s1 := ((s.quiesce.setTlrStep m).setReg (tlrBase 0 + 0x28) ls).depCloseAll
  let s2 := ((s1.clearAllMarks).setReg (vlBase 0 + 0x1C) 0).clearCounters m
  let s3 := ((s2.clearCounters (m + 1)).schCompute 0 m).schCompute 1 m
  { s3 with
    step := { s3.step with post := 5, admitStep := m, nextMb := 0, lastSkipped := false, votes := [], stalled := false, nonfinite := false,
                           faulted := false, faultRef := none },
    rec_ := { s3.rec_ with lost := [], memoryRegion := false, stage := if s3.rec_.cores.isEmpty then .resume else .imageNeeded } }

/-- A joiner whose state has been restored stands in the new membership and sends READY to every other member (R401, log 67). -/
def State.joinReady (s : State) : State :=
  match s.link.staged with
  | some g =>
    if g.joiners.contains s.self then
      (g.members.filter (fun d => d != s.self)).foldl (fun s d => s.sendMember d 3 0 0 g.epoch) (s.applyMembership g)
    else s
  | none => s

/-- The shards of this package in a host buffer, each with what Audit makes active (R459, R461). -/
def State.auditHost (s : State) (a : Nat) (replicas : List Replica) : List (Shard × Option (List Byte)) :=
  let xs := s.shards
  (shardOffsets xs a).zipIdx.map (fun x =>
    (x.1.2, auditShard x.1.2 s.tlrStep (s.hostMem.bytes x.1.1 (256 + x.1.2.size)) (s.hostMem.bytes (a + shardsEnd xs + 64 * x.2) 64) replicas))

/-- TLR_LS of restored scalars. -/
def scalarLs (found : List (Shard × Option (List Byte))) : Word :=
  (((found.find? (fun x => x.1.kind == 2)).bind (·.2)).map (fun bs => BitVec.ofNat 32 (numOfBytes ((bs.drop 260).take 4)))).getD 0

/-- RESTORE of a checkpoint's step from the host path, with what replicas the other members hold, or from a store whose PUTs have
supplied the state. The halts of R232 and R437 are lifted. -/
def execRestore (auditOk : Bool) (s : State) (replicas : List Replica := []) : Out := s.longRequest 0x15 (needsOnHostPath 4) none (fun s w =>
  let n := frArg w 0 4
  if s.step.job.isNone then s.notPermitted
  else if !s.memFree then (s, { result := 2 })
  else
    let viaHost := frArg w 4 2 == 0xFFFF
    let t := s.setTlrStep (n + 1)
    let found := if viaHost then t.auditHost (frAddr w) replicas else []
    if !(if viaHost then found.all (fun x => x.2.isSome) else auditOk) then
      State.accept (State.markFresh { s with mbx := { s.mbx with restoreFailed := true } } 0x110 (2 ^ 13)) w none 0x30 n
    else
      let ls : Word := if viaHost then scalarLs found else Config.freeWord s.free
      let s1 := ({ s with free := s.free + 1 } : State).rewind (n + 1) ls
      let s2 := if viaHost then
          found.foldl (fun (s : State) x => s.writeParts ((x.2.getD []).drop 256) x.1.parts)
            (s1.dma (shardsEnd t.shards + 64 * t.shards.length))
        else s1
      State.accept (State.joinReady { s2 with rec_ := { s2.rec_ with haltedLs := false, haltedSteps := false } }) w none 0 0)

/-! ### LEDGER_RESTORE (R455) -/

/-- LEDGER_RESTORE: HADDR gives s, then the pairs of lost member and replacement. -/
def execLedgerRestore (hostFault : Option (BitVec 32)) (s : State) : Out := s.longRequest 0x16 (needs 4) hostFault (fun s w =>
  if s.step.job.isNone || !s.ldgOn then s.notPermitted
  else (s.notice (Err.aon .notice 0x923 0 0 (s.hostMem.num (frAddr w) 4))).accept w none 0 0)

/-- Lines of the image (R450, R475). -/
def State.imageCount (s : State) : Nat := (s.reg (ldgBase + 0x1C)).toNat

/-- The rebuild is given up (R455). -/
def State.rebuildFails (s : State) (audit : Bool) : State × Nat × Nat :=
  let b := if audit then 1 else 2
  ((s.orReg (ldgBase + 0xC) (2 ^ b)).notice (Err.aon .notice (0x900 + b)), 0x31, b2n audit)

/-- Image lines are written into the version that is active; the last holds the scalars. -/
def State.writeImage (s : State) (lines : List Line) : State :=
  lines.zipIdx.foldl (fun (s : State) (x : Line × Nat) =>
    match lineAt s.imageRanges x.2 with
    | some a => s.writeLine a x.1 false
    | none => s) s

/-- TLR_LS of an image. -/
def imageLs (lines : List Line) : Word := ((lines.getLast?).map (fun (l : Line) => BitVec.ofNat 32 (bits l.toNat 63 32))).getD 0

/-- A survivor sends its held-copy lines to the replacements for parity `j`, each with its mark (R266). -/
def State.sendHeld (s : State) (lines : List (Line × Bool)) (dst j : Nat) : State :=
  let a := Config.freeNat s.free % 2 ^ 40 * 256
  let c := coef j (s.rf (ldgBase + 4) 12 9)
  lines.zipIdx.foldl (fun (s : State) (x : (Line × Bool) × Nat) =>
    s.sendMsg dst { cls := 3, head := s.headLine 0x18 dst s.tlrStep 1 ((a + 256 * x.2) % 2 ^ 48 + 2 ^ 48 + 2 ^ 56 * c), data := [x.1] })
    { s with free := s.free + 1 }

/-- A line of a lost member from what the survivors have left in the rebuild areas (R451): alone, P0; beside another lost member at
position `q`, by both. -/
def solveLine (p0 p1 : Line) (i q : Nat) (two : Bool) : Line :=
  if two then gfLine (p1 ^^^ gfLine p0 (coef 1 q)) (gfInv (coef 1 i ^^^ coef 1 q)) else p0

/-- A survivor: its held copy is the snapshot and shows no uncorrectable line. More lost members than the holders cover, all of one
group, end it; which members form a group the request does not say (log 8). -/
def State.ledgerSurvivor (s : State) (m : Nat) (pairs : List (Nat × Nat)) : State × Nat × Nat :=
  let cover := if s.rf (ldgBase + 4) 3 2 = 2 then 2 else 1
  let base := s.copyBase s.snapHalf
  let good := s.rf (ldgBase + 8) 1 1 == 1 && (s.reg (ldgBase + 0x10)).toNat == m &&
    (List.range s.imageCount).all (fun t => s.lineGood (base + 256 * t))
  let f := s.freeBelow 2
  if !good || (decide (cover < pairs.length) && f.1 == 1) then s.rebuildFails false
  else
    let r := f.2.readLines .stream base s.imageCount
    let lines := r.1.map (·.1)
    let s1 := if f.1 = 1 then
        pairs.foldl (fun (s : State) (p : Nat × Nat) => (List.range (min cover pairs.length)).foldl (fun s j => s.sendHeld r.1 p.2 j) s) r.2
      else r.2
    (((s1.rewind (m + 1) (imageLs lines)).writeImage lines), 0, 0)

/-- A replacement: the lost image is solved from its rebuild areas, audited against the record of a holder, which this package does
not hold (log 8), and becomes active. -/
def State.ledgerReplacement (s : State) (m : Nat) (pairs : List (Nat × Nat)) : State × Nat × Nat :=
  let two := decide (1 < pairs.length)
  let n := s.imageCount
  let z := (s.reg (ldgBase + 0x28)).toNat
  let p0 := s.readLines .stream (s.parityBase 0) (min n z)
  let p1 := p0.2.readLines .stream (s.parityBase 1) (if two then min n z else 0)
  let q := Config.freeNat p1.2.free % 16
  let lines := (List.range n).map (fun t =>
    solveLine (((p0.1[t]?).map (·.1)).getD 0) (((p1.1[t]?).map (·.1)).getD 0) (s.rf (ldgBase + 4) 12 9) q two)
  let digest := shake256 (lines.flatMap (fun l => bytesOfNum 256 l.toNat))
  let s1 : State := { p1.2 with free := p1.2.free + 2 }
  if Config.freeDigest (p1.2.free + 1) ≠ digest then s1.rebuildFails true
  else (((s1.rewind (m + 1) (imageLs lines)).writeImage lines), 0, 0)

/-- What a Ledger restore does on this package. -/
def State.ledgerRestore (s : State) (w : Nat) : State × Nat × Nat :=
  let a := frAddr w
  let m := s.hostMem.num a 4
  let pairs := (List.range ((frLen w - 4) / 4)).map (fun i => (s.hostMem.num (a + 4 + 4 * i) 2, s.hostMem.num (a + 6 + 4 * i) 2))
  if pairs.any (fun p => p.2 == s.self) then s.ledgerReplacement m pairs else s.ledgerSurvivor m pairs

/-! ### MEMBERSHIP (R401, R503) -/

/-- MEMBERSHIP: the record is staged and its routes enter the shadow bank; a joiner asks every member. -/
def execMembership (hostFault : Option (BitVec 32)) (s : State) : Out := s.longRequest 0x17 (needs 32) hostFault (fun s w =>
  let a := frAddr w
  let word (o n : Nat) : Nat := s.hostMem.num (a + o) n
  let r := word 28 2
  let o := word 30 2
  if frLen w < 32 + 8 * r + 4 * o then (s, badArg 16)
  else
    let routes := (List.range r).map (fun i => (word (32 + 8 * i) 2 % 4096, routeWord (word (36 + 8 * i) 4)))
    let shadow := routes.foldl (fun t x => Tab.write (0 : Word) t x.1 x.2) s.link.shadow
    let selfLeaves := routes.any (fun x => x.1 == s.self && !bit x.2.toNat 31)
    let others := ((shadow.filter (fun x => bit x.2.toNat 31)).map (·.1)).filter (fun d => d != s.self)
    let members := if selfLeaves then others else s.self :: others
    let joining := s.peers.isEmpty && !others.isEmpty
    let g : Staged :=
      { step := word 0 4, epoch := word 4 4, group := word 8 4,
        ledgerWords := [12, 16, 20, 24].map (fun k => BitVec.ofNat 32 (word k 4)), members := members,
        joiners := if joining then [s.self] else members.filter (fun d => d != s.self && !s.link.members.contains d),
        leavers := (s.self :: s.peers).filter (fun d => !members.contains d),
        owners := (List.range o).map (fun i =>
          let b := 32 + 8 * r + 4 * i
          (word b 2, word (b + 2) 1 % 4, word (b + 3) 1 % 2)) }
    let s1 : State := { s with link := { s.link with shadow := shadow, staged := some g } }
    let level := (s.step.job.map (·.level)).getD 0
    let s2 := if joining then others.foldl (fun s d => s.sendMember d 1 0 level g.epoch) s1 else s1
    s2.accept w none 0 0)

/-! ### RESTART (R446) -/

/-- Line addresses of protected state: both versions of weights and state, and the tables. -/
def State.protectedLines (s : State) : List Nat :=
  match s.step.job with
  | none => []
  | some j => j.ranges.flatMap (fun r =>
      let lines (b : Nat) : List Nat := (List.range (r.size / 256)).map (fun t => b + 256 * t)
      if r.kind = 0 then lines r.base ++ lines (r.base + j.versionStride) else if r.kind = 3 then lines r.base else [])

/-- The input has stayed within the range in which power is held (R537, R539). -/
def State.inputHeld (s : State) : Bool := decide (58000 ≤ s.power.vin) && decide (s.power.vin ≤ 81000)

/-- The units run again and every Depository stream is closed; protected state is scrubbed, and the job stands in ENTRY before the step
that TLR_STEP holds (R236, R315, R446). -/
def State.restartModule (s : State) : State :=
  let s1 := ({ s with fatal := { s.fatal with stopped := false, pending := none, selfRefresh := false } } : State).quiesce.depCloseAll
  let lost := s1.protectedLines.filter (fun a => !s1.lineGood a)
  if s1.step.job.isNone then s1
  else
    { s1 with step := { s1.step with post := 5, lastSkipped := s.step.post == 4, votes := [] },
              rec_ := { s1.rec_ with lost := lost, stage := if lost.isEmpty then .resume else .restoreNeeded } }

/-- RESTART: after a fatal stop whose dump has FLUSHED set. -/
def execRestart (s : State) : Out := s.longRequest 0x1D needsNone none (fun s w =>
  if s.fatal.stopped && s.fatal.flushed && s.inputHeld then s.restartModule.accept w none 0 0 else s.notPermitted)

/-! ### The end of a long operation (R501, R505) -/

/-- The operation completes with an outcome. -/
def State.finishOp (s : State) (id result detail : Nat) : State :=
  { s with mbx := { s.mbx with opDone := true, ops := s.mbx.ops.map (fun o =>
      if o.id = id then { o with result := result, detail := detail, done := true } else o) } }

/-- LONG_OP_COMPLETE: a copy, a checkpoint and a Ledger restore are performed here, once memory serves and the checkpoint's step has
been posted. -/
def execLongOpComplete (opId : BitVec 16) (s : State) : Out :=
  match s.mbx.ops.find? (fun o => o.id == opId.toNat && !o.done) with
  | none => .next s
  | some o =>
    let w := o.frame.toNat
    let op := frOpcode w
    if s.power.phase != .on then .next s
    else if o.hostFault.isSome then .next (s.finishOp o.id o.result o.detail)
    else if op = 0x18 then
      (if s.memFree || s.fatal.stopped then .next ((s.stageCopy w).finishOp o.id 0 0) else .next s)
    else if op = 0x14 then
      (if s.memFree && frArg w 0 4 + 1 == s.tlrStep then
        (let r := s.writeCheckpoint w
         .next (r.1.finishOp o.id r.2.1 r.2.2))
      else .next s)
    else if op = 0x16 then
      (if s.memFree then
        (let r := s.ledgerRestore w
         .next (r.1.finishOp o.id r.2.1 r.2.2))
      else .next s)
    else .next (s.finishOp o.id o.result o.detail)

/-! ### The heartbeat (R506 to R508) -/

/-- HEARTBEAT_GRACE_EXPIRY: the injector acts as under STOP. -/
def execHeartbeatGraceExpiry (s : State) : Out :=
  if s.alive && s.mbx.firstRequest && s.rf 0x114 7 0 != 0 && !s.mbx.haltedHost then
    .next { s.requestStop with mbx := { s.mbx with haltedHost := true } }
  else .next s

end Sys2Proof.Machine
end

