-- ==== Sys2Proof/Machine/Dispatch.lean ====
section
/-! DEFINITION. Every command and its meaning: one arm per constructor of `Instr`. -/

namespace Sys2Proof.Machine

/-- The effect of a command on everything but the queue. -/
def exec (i : Instr) (s : State) : Host.Outcome State Fault Refusal :=
  match i with
  | .registerWrite by_ off val => Sys2Proof.Machine.execRegisterWrite by_ off val s
  | .unmappedAccess by_ off write => Sys2Proof.Machine.execUnmappedAccess by_ off write s
  | .unsupportedRequest off size write => Sys2Proof.Machine.execUnsupportedRequest off size write s
  | .clkEdgeRead => Sys2Proof.Machine.execClkEdgeRead s
  | .tlyCntRead block k => Sys2Proof.Machine.execTlyCntRead block k s
  | .bar2Read off => Sys2Proof.Machine.execBar2Read off s
  | .bar2Write off val => Sys2Proof.Machine.execBar2Write off val s
  | .instructionFetch die phys st upsets => Sys2Proof.Machine.execInstructionFetch die phys st s upsets
  | .ctrlNop die phys st => Sys2Proof.Machine.execCtrlNop die phys st s
  | .ctrlWait die phys st => Sys2Proof.Machine.execCtrlWait die phys st s
  | .ctrlBarrier die phys st => Sys2Proof.Machine.execCtrlBarrier die phys st s
  | .skipIfKept die phys st => Sys2Proof.Machine.execSkipIfKept die phys st s
  | .ctrlEnd die phys st => Sys2Proof.Machine.execCtrlEnd die phys st s
  | .pass die phys st => Sys2Proof.Machine.execPass die phys st s
  | .passStart die phys array => Sys2Proof.Machine.execPassStart die phys array s
  | .passComplete die phys array => Sys2Proof.Machine.execPassComplete die phys array s
  | .wload die phys st => Sys2Proof.Machine.execWload die phys st s
  | .weightRowWrite die phys => Sys2Proof.Machine.execWeightRowWrite die phys s
  | .feed die phys st => Sys2Proof.Machine.execFeed die phys st s
  | .feedFillComplete die phys array => Sys2Proof.Machine.execFeedFillComplete die phys array s
  | .rowAdd die phys st => Sys2Proof.Machine.execRowAdd die phys st s
  | .rowSub die phys st => Sys2Proof.Machine.execRowSub die phys st s
  | .rowMul die phys st => Sys2Proof.Machine.execRowMul die phys st s
  | .rowFma die phys st => Sys2Proof.Machine.execRowFma die phys st s
  | .rowMin die phys st => Sys2Proof.Machine.execRowMin die phys st s
  | .rowMax die phys st => Sys2Proof.Machine.execRowMax die phys st s
  | .rowCmp die phys st => Sys2Proof.Machine.execRowCmp die phys st s
  | .rowSel die phys st => Sys2Proof.Machine.execRowSel die phys st s
  | .rowAbs die phys st => Sys2Proof.Machine.execRowAbs die phys st s
  | .rowNeg die phys st => Sys2Proof.Machine.execRowNeg die phys st s
  | .rowCopy die phys st => Sys2Proof.Machine.execRowCopy die phys st s
  | .rowScale2 die phys st => Sys2Proof.Machine.execRowScale2 die phys st s
  | .rowCvt die phys st => Sys2Proof.Machine.execRowCvt die phys st s
  | .rowCvts die phys st => Sys2Proof.Machine.execRowCvts die phys st s
  | .rowExp die phys st => Sys2Proof.Machine.execRowExp die phys st s
  | .rowRcp die phys st => Sys2Proof.Machine.execRowRcp die phys st s
  | .rowRsqrt die phys st => Sys2Proof.Machine.execRowRsqrt die phys st s
  | .rowDiv die phys st => Sys2Proof.Machine.execRowDiv die phys st s
  | .rowSqrt die phys st => Sys2Proof.Machine.execRowSqrt die phys st s
  | .rowRed die phys st => Sys2Proof.Machine.execRowRed die phys st s
  | .rowRed2 die phys st => Sys2Proof.Machine.execRowRed2 die phys st s
  | .drain die phys st => Sys2Proof.Machine.execDrain die phys st s
  | .inject die phys st => Sys2Proof.Machine.execInject die phys st s
  | .injectReadIssue die station => Sys2Proof.Machine.execInjectReadIssue die station s
  | .injectFlitSend die station lane => Sys2Proof.Machine.execInjectFlitSend die station lane s
  | .multicastDelivery die station => Sys2Proof.Machine.execMulticastDelivery die station s
  | .ringFlitArrival die station lane words => Sys2Proof.Machine.execRingFlitArrival die station lane words s
  | .takeWrite die station lane => Sys2Proof.Machine.execTakeWrite die station lane s
  | .accum die phys st => Sys2Proof.Machine.execAccum die phys st s
  | .contrib die phys st => Sys2Proof.Machine.execContrib die phys st s
  | .accFlitAdd die station lane words => Sys2Proof.Machine.execAccFlitAdd die station lane words s
  | .creditReturn die stream => Sys2Proof.Machine.execCreditReturn die stream s
  | .barrierEdge die ends => Sys2Proof.Machine.execBarrierEdge die s ends
  | .barrierTimeout die => Sys2Proof.Machine.execBarrierTimeout die s
  | .ringEnable by_ die => Sys2Proof.Machine.execRingEnable by_ die s
  | .ringDisable by_ die => Sys2Proof.Machine.execRingDisable by_ die s
  | .ringSpanWrite by_ die package => Sys2Proof.Machine.execRingSpanWrite by_ die package s
  | .coreRunStart by_ die phys => Sys2Proof.Machine.execCoreRunStart by_ die phys s
  | .coreRunStop by_ die phys => Sys2Proof.Machine.execCoreRunStop by_ die phys s
  | .clearInbox by_ die phys => Sys2Proof.Machine.execClearInbox by_ die phys s
  | .clearAcc by_ die phys => Sys2Proof.Machine.execClearAcc by_ die phys s
  | .coreCeClr by_ die phys => Sys2Proof.Machine.execCoreCeClr by_ die phys s
  | .ringCeClr by_ die => Sys2Proof.Machine.execRingCeClr by_ die s
  | .memRead die phys st => Sys2Proof.Machine.execMemRead die phys st s
  | .memWrite die phys st => Sys2Proof.Machine.execMemWrite die phys st s
  | .memAdd die phys st => Sys2Proof.Machine.execMemAdd die phys st s
  | .memReadClear die phys st => Sys2Proof.Machine.execMemReadClear die phys st s
  | .memRelease die phys st => Sys2Proof.Machine.execMemRelease die phys st s
  | .esave die phys st => Sys2Proof.Machine.execEsave die phys st s
  | .eread die phys st => Sys2Proof.Machine.execEread die phys st s
  | .memReadComplete die phys => Sys2Proof.Machine.execMemReadComplete die phys s
  | .depWrite die phys st => Sys2Proof.Machine.execDepWrite die phys st s
  | .depRead die phys st => Sys2Proof.Machine.execDepRead die phys st s
  | .depFetch die phys st => Sys2Proof.Machine.execDepFetch die phys st s
  | .depDrop die phys st => Sys2Proof.Machine.execDepDrop die phys st s
  | .vaultRead r upsets => Sys2Proof.Machine.execVaultRead r s upsets
  | .vaultWrite r => Sys2Proof.Machine.execVaultWrite r s
  | .vaultAdd r => Sys2Proof.Machine.execVaultAdd r s
  | .vaultReadClear r => Sys2Proof.Machine.execVaultReadClear r s
  | .vaultRelease r => Sys2Proof.Machine.execVaultRelease r s
  | .hbmReadComplete die channel flips => Sys2Proof.Machine.execHbmReadComplete die channel flips s
  | .hbmRefresh die channel upsets => Sys2Proof.Machine.execHbmRefresh die channel s upsets
  | .scrubRead die channel line flips => Sys2Proof.Machine.execScrubRead die channel line flips s
  | .hbmEnable by_ => Sys2Proof.Machine.execHbmEnable by_ s
  | .hbmEnableMember by_ member => Sys2Proof.Machine.execHbmEnableMember by_ member s
  | .hbmCeClr by_ die which => Sys2Proof.Machine.execHbmCeClr by_ die which s
  | .vaultEnable by_ die => Sys2Proof.Machine.execVaultEnable by_ die s
  | .vaultDisable by_ die => Sys2Proof.Machine.execVaultDisable by_ die s
  | .vaultFlush by_ die => Sys2Proof.Machine.execVaultFlush by_ die s
  | .vaultFlushComplete die => Sys2Proof.Machine.execVaultFlushComplete die s
  | .unkeepAll by_ die => Sys2Proof.Machine.execUnkeepAll by_ die s
  | .xtRead r => Sys2Proof.Machine.execXtRead r s
  | .xtWrite r => Sys2Proof.Machine.execXtWrite r s
  | .xtCompletion port poison => Sys2Proof.Machine.execXtCompletion port poison s
  | .cxlPortLost port => Sys2Proof.Machine.execCxlPortLost port s
  | .depOpen by_ stream => Sys2Proof.Machine.execDepOpen by_ stream s
  | .depOpenComplete => Sys2Proof.Machine.execDepOpenComplete s
  | .depClose by_ stream => Sys2Proof.Machine.execDepClose by_ stream s
  | .depEnable by_ => Sys2Proof.Machine.execDepEnable by_ s
  | .pageOutStart slice => Sys2Proof.Machine.execPageOutStart slice s
  | .pageOutComplete slice => Sys2Proof.Machine.execPageOutComplete slice s
  | .pageInStart slice => Sys2Proof.Machine.execPageInStart slice s
  | .pageInComplete slice poison => Sys2Proof.Machine.execPageInComplete slice s poison
  | .depIntakeRelease slice => Sys2Proof.Machine.execDepIntakeRelease slice s
  | .microbatchAdmit => Sys2Proof.Machine.execMicrobatchAdmit s
  | .layerRecordEnqueue record => Sys2Proof.Machine.execLayerRecordEnqueue record s
  | .tlrEnq by_ teller index => Sys2Proof.Machine.execTlrEnq by_ teller index s
  | .tellerUpdate teller => Sys2Proof.Machine.execTellerUpdate teller s
  | .tellerContribute teller => Sys2Proof.Machine.execTellerContribute teller s
  | .tellerFrozen teller => Sys2Proof.Machine.execTellerFrozen teller s
  | .recordComplete teller => Sys2Proof.Machine.execRecordComplete teller s
  | .qflush by_ teller => Sys2Proof.Machine.execQflush by_ teller s
  | .schCompute by_ engine => Sys2Proof.Machine.execSchCompute by_ engine s
  | .settle => Sys2Proof.Machine.execSettle s
  | .voteSend => Sys2Proof.Machine.execVoteSend s
  | .vote port => Sys2Proof.Machine.execVote port s
  | .voteTimeout => Sys2Proof.Machine.execVoteTimeout s
  | .posting => Sys2Proof.Machine.execPosting s
  | .skip => Sys2Proof.Machine.execSkip s
  | .stepEntry => Sys2Proof.Machine.execStepEntry s
  | .eval => Sys2Proof.Machine.execEval s
  | .evalSlotBegin => Sys2Proof.Machine.execEvalSlotBegin s
  | .evalSlotEnd => Sys2Proof.Machine.execEvalSlotEnd s
  | .portTraining port found => Sys2Proof.Machine.execPortTraining port found s
  | .portRetrain port lane spareOk => Sys2Proof.Machine.execPortRetrain port lane spareOk s
  | .vlRetrain by_ port lane spareOk => Sys2Proof.Machine.execVlRetrain by_ port lane spareOk s
  | .vlEnable by_ io => Sys2Proof.Machine.execVlEnable by_ io s
  | .vlPerrClr by_ port => Sys2Proof.Machine.execVlPerrClr by_ port s
  | .vlRouteWrite by_ dest val => Sys2Proof.Machine.execVlRouteWrite by_ dest val s
  | .flitTransmit port => Sys2Proof.Machine.execFlitTransmit port s
  | .flitReceive port bytes => Sys2Proof.Machine.execFlitReceive port bytes s
  | .nak port seq => Sys2Proof.Machine.execNak port seq s
  | .replayLimit port retrainOk => Sys2Proof.Machine.execReplayLimit port retrainOk s
  | .messageForward port cls => Sys2Proof.Machine.execMessageForward port cls s
  | .stepFault port => Sys2Proof.Machine.execStepFault port s
  | .joinReq port => Sys2Proof.Machine.execJoinReq port s
  | .joinAck port => Sys2Proof.Machine.execJoinAck port s
  | .ready port => Sys2Proof.Machine.execReady port s
  | .leave port => Sys2Proof.Machine.execLeave port s
  | .mgmt port => Sys2Proof.Machine.execMgmt port s
  | .secure port => Sys2Proof.Machine.execSecure port s
  | .pipe port out => Sys2Proof.Machine.execPipe port s out
  | .grad port => Sys2Proof.Machine.execGrad port s
  | .bcast port => Sys2Proof.Machine.execBcast port s
  | .parity port => Sys2Proof.Machine.execParity port s
  | .put port => Sys2Proof.Machine.execPut port s
  | .heldMessageApply => Sys2Proof.Machine.execHeldMessageApply s
  | .allowancePeriod m => Sys2Proof.Machine.execAllowancePeriod m s
  | .grantEffect => Sys2Proof.Machine.execGrantEffect s
  | .throttleSwallow region => Sys2Proof.Machine.execThrottleSwallow region s
  | .hardCap region edges => Sys2Proof.Machine.execHardCap region edges s
  | .tsyRcfgWrite by_ region val => Sys2Proof.Machine.execTsyRcfgWrite by_ region val s
  | .opChangePrepare locked => Sys2Proof.Machine.execOpChangePrepare locked s
  | .change => Sys2Proof.Machine.execChange s
  | .changeAck die => Sys2Proof.Machine.execChangeAck die s
  | .cancel => Sys2Proof.Machine.execCancel s
  | .opChangeSwitch domain => Sys2Proof.Machine.execOpChangeSwitch domain s
  | .stretchToken sender receiver => Sys2Proof.Machine.execStretchToken sender receiver s
  | .droopSwallow domain edges => Sys2Proof.Machine.execDroopSwallow domain edges s
  | .skewHold a b => Sys2Proof.Machine.execSkewHold a b s
  | .clkSkewClr by_ => Sys2Proof.Machine.execClkSkewClr by_ s
  | .domainSleep domain => Sys2Proof.Machine.execDomainSleep domain s
  | .domainWake domain => Sys2Proof.Machine.execDomainWake domain s
  | .queuedErrorRun => Sys2Proof.Machine.execQueuedErrorRun s
  | .restoreRecovery finds => Sys2Proof.Machine.execRestoreRecovery s finds
  | .fatalDump reachable cut => Sys2Proof.Machine.execFatalDump reachable s cut
  | .jnlPop by_ n => Sys2Proof.Machine.execJnlPop by_ n s
  | .dumpRelease by_ => Sys2Proof.Machine.execDumpRelease by_ s
  | .ratingUpdate h => Sys2Proof.Machine.execRatingUpdate h s
  | .slowUnitFlag domain swallows => Sys2Proof.Machine.execSlowUnitFlag domain swallows s
  | .securingRead lines => Sys2Proof.Machine.execSecuringRead lines s
  | .coldStart finds => Sys2Proof.Machine.execColdStart finds s
  | .powerUp vin => Sys2Proof.Machine.execPowerUp vin s
  | .powerDown pwrEnFell vin => Sys2Proof.Machine.execPowerDown pwrEnFell vin s
  | .overVoltageTrip vin => Sys2Proof.Machine.execOverVoltageTrip vin s
  | .thermalTrip die stack => Sys2Proof.Machine.execThermalTrip die stack s
  | .linkReset hot => Sys2Proof.Machine.execLinkReset hot s
  | .mbxReqTailWrite by_ tail => Sys2Proof.Machine.execMbxReqTailWrite by_ tail s
  | .mbxRplHeadWrite by_ head => Sys2Proof.Machine.execMbxRplHeadWrite by_ head s
  | .badFrame => Sys2Proof.Machine.execBadFrame s
  | .heartbeat => Sys2Proof.Machine.execHeartbeat s
  | .ident => Sys2Proof.Machine.execIdent s
  | .ackAttn => Sys2Proof.Machine.execAckAttn s
  | .queryOp => Sys2Proof.Machine.execQueryOp s
  | .getLatency hostFault => Sys2Proof.Machine.execGetLatency hostFault s
  | .getReport hostFault => Sys2Proof.Machine.execGetReport hostFault s
  | .attest hostFault => Sys2Proof.Machine.execAttest hostFault s
  | .getCerts hostFault => Sys2Proof.Machine.execGetCerts hostFault s
  | .load hostFault sigOk => Sys2Proof.Machine.execLoad hostFault sigOk s
  | .start => Sys2Proof.Machine.execStart s
  | .stop => Sys2Proof.Machine.execStop s
  | .checkpoint => Sys2Proof.Machine.execCheckpoint s
  | .restore auditOk replicas => Sys2Proof.Machine.execRestore auditOk s replicas
  | .ledgerRestore hostFault => Sys2Proof.Machine.execLedgerRestore hostFault s
  | .membership hostFault => Sys2Proof.Machine.execMembership hostFault s
  | .stage hostFault => Sys2Proof.Machine.execStage hostFault s
  | .setJobKey hostFault => Sys2Proof.Machine.execSetJobKey hostFault s
  | .svnCommit => Sys2Proof.Machine.execSvnCommit s
  | .debugUnlock hostFault sigOk => Sys2Proof.Machine.execDebugUnlock hostFault sigOk s
  | .nvmUpdate hostFault verdict readBackOk => Sys2Proof.Machine.execNvmUpdate hostFault verdict readBackOk s
  | .restart => Sys2Proof.Machine.execRestart s
  | .longOpComplete opId => Sys2Proof.Machine.execLongOpComplete opId s
  | .heartbeatGraceExpiry => Sys2Proof.Machine.execHeartbeatGraceExpiry s
  | .tallyWindowClose => Sys2Proof.Machine.execTallyWindowClose s
  | .tlyClr by_ block => Sys2Proof.Machine.execTlyClr by_ block s
  | .tlyFreeze by_ freeze => Sys2Proof.Machine.execTlyFreeze by_ freeze s
  | .tlyWinCfgWrite by_ val => Sys2Proof.Machine.execTlyWinCfgWrite by_ val s
  | .counterWrap block k => Sys2Proof.Machine.execCounterWrap block k s
  | .mgmtIdent => Sys2Proof.Machine.execMgmtIdent s
  | .mgmtBoot => Sys2Proof.Machine.execMgmtBoot s
  | .mgmtStatus => Sys2Proof.Machine.execMgmtStatus s
  | .mgmtInput => Sys2Proof.Machine.execMgmtInput s
  | .mgmtTemps => Sys2Proof.Machine.execMgmtTemps s
  | .mgmtRating => Sys2Proof.Machine.execMgmtRating s
  | .mgmtDevid => Sys2Proof.Machine.execMgmtDevid s
  | .mgmtReservedCommand code => Sys2Proof.Machine.execMgmtReservedCommand code s
  | .bypass => Sys2Proof.Machine.execBypass s
  | .idcode => Sys2Proof.Machine.execIdcode s
  | .samplePreload preload => Sys2Proof.Machine.execSamplePreload preload s
  | .extest => Sys2Proof.Machine.execExtest s
  | .highz => Sys2Proof.Machine.execHighz s
  | .clamp => Sys2Proof.Machine.execClamp s
  | .crossingWaitSwallow reader writer => Sys2Proof.Machine.execCrossingWaitSwallow reader writer s
  | .alwaysOnHoldExpiry => Sys2Proof.Machine.execAlwaysOnHoldExpiry s

end Sys2Proof.Machine
end

