-- ==== Sys2Proof/WellFormed.lean ====
section
/-! DEFINITION. Which terms of `Instr` are commands that the module's interfaces can carry. The operand types are exact
everywhere else. -/

namespace Sys2Proof

/-- An access that BAR0 completes as an unsupported request: not 32 bits, or not naturally aligned (R15). -/
def badAccess (off : Word) (size : Nat) : Bool := !(size == 4 && off.toNat % 4 == 0)

/-- The command can arrive at the module's interface. -/
def Instr.wf : Instr → Bool
  | .unsupportedRequest off size _ => badAccess off size
  | .registerWrite _ off _ => off.toNat % 4 == 0
  | .unmappedAccess _ off _ => off.toNat % 4 == 0
  | .flitReceive _ bytes => bytes.length == 272
  | _ => true

end Sys2Proof
end

