-- ==== Sys2Proof/Safety.lean ====
section
/-! DEFINITION. What a safe state and a safe run are: the invariants that statements are made about. -/

namespace Sys2Proof.Machine

/-- What lies outside the package proper: the command queue, the fuses, the NVM, host memory, the Farhies memory, the test port, the
management port's last block, the power stage and the answer of the host bus. Few commands touch it. -/
structure Outer where
  pending : List Instr
  fuses : Fuses
  far : Farhies
  nvm : Mem
  hostMem : Mem
  power : Power
  jtag : Jtag
  bus : BusReply
  mgmtOut : List Byte
  deriving DecidableEq, Repr

/-- The outer part of a state. -/
def State.outer (s : State) : Outer :=
  { pending := s.pending, fuses := s.fuses, far := s.far, nvm := s.nvm, hostMem := s.hostMem, power := s.power, jtag := s.jtag,
    bus := s.bus, mgmtOut := s.mgmtOut }

/-- Two tables agree but at the keys listed: what an operation leaves alone. -/
def sameBut {α : Type} (a b : Tab α) (keys : List Nat) : Prop := ∀ k, k ∉ keys → Tab.find? a k = Tab.find? b k

/-! ### Line requests of a core (R271, R331) -/

/-- A line request of a core, before it leaves. -/
def coreReq (die : Fin 4) (phys : Fin 34) (k : LineKind) (h : Hint) (a : Nat) (v : Line) (dest : Dest) : LineReq :=
  { src := .core die phys, kind := k, addr := a, hint := h, data := v, poison := false, dest := dest, leave := 0 }

/-- Requests that leave their core one in each edge, from edge `e` on. -/
def leaveFrom (e : Nat) (qs : List LineReq) : List LineReq := qs.zipIdx.map (fun x => { x.1 with leave := e + x.2 })

/-! ### Places of Escrow tiles (R193, R196) -/

/-- `i` is the lowest number below `n` that a list does not hold. -/
def LowestFree (l : List Nat) (n i : Nat) : Prop := i < n ∧ i ∉ l ∧ ∀ k < i, k ∈ l

/-- The place that a save takes: the lowest free granule; with none, and with SPILL, the lowest free place of the tier; with none, a
dropped mark where the instruction allows it. -/
def EscSpot (y : Step) (x : MemI) : EscPlace → Prop
  | .hbm g n => n = x.lines ∧ LowestFree y.granules (y.job.getD {}).escGranules g
  | .tier t n => n = x.lines ∧ (∀ g, ¬ LowestFree y.granules (y.job.getD {}).escGranules g) ∧ (y.job.getD {}).spill = true ∧
      LowestFree y.tierPlaces (16384 * (y.job.getD {}).xtEsc) t
  | .dropped => (∀ g, ¬ LowestFree y.granules (y.job.getD {}).escGranules g) ∧
      ((y.job.getD {}).spill = true → ∀ t, ¬ LowestFree y.tierPlaces (16384 * (y.job.getD {}).xtEsc) t) ∧ x.recomp = true

/-- The device address of a place that holds lines. -/
def EscPlaceAt (j : Job) : EscPlace → Option Nat
  | .hbm g _ => some (j.escBase + 65536 * g)
  | .tier t _ => some (2 ^ 44 + 2 ^ 30 * j.xtDep + 65536 * t)
  | .dropped => none

/-! ### Heads that may issue (R108, R109, R112) -/

/-- The head of a stream that has not issued in the present edge is the word `w`, of a class and opcode; the picker may consider it, it
has no fault, its operands and its target are ready, and it does not yield to the other stream. -/
def State.mayIssue (s : State) (d p : Nat) (st : StreamId) (cls op w : Nat) : Prop :=
  ((s.core d p).stream st).issuedAt ≠ some s.edge ∧
    ∃ e, s.head? d p st = some e ∧ e.word.toNat = w ∧ e.outside = false ∧ e.uncorrectable = false ∧ insnOk w = true ∧
      isInsn cls op w = true ∧ s.headFaults d p e = ([], []) ∧ s.headReady d p st w = true ∧ s.yields d p st w = false

/-- A stream whose head has issued: the head has left, and a slip is remembered in its window (R343). -/
def Stream.issued (x : Stream) (w edge : Nat) : Stream :=
  { x with buf := x.buf.tail, head := x.head + 32, wait := none, slipped := x.slipped || decide (x.window + insnSched w < edge),
           issuedAt := some edge }

/-- The commands that issue a head, each with the class and opcode that it issues (R351). -/
def rowInsns : List (RowOp × (Fin 4 → Fin 34 → StreamId → Instr)) :=
  [(.add, .rowAdd), (.sub, .rowSub), (.mul, .rowMul), (.fma, .rowFma), (.min, .rowMin), (.max, .rowMax), (.cmp, .rowCmp),
   (.sel, .rowSel), (.abs, .rowAbs), (.neg, .rowNeg), (.copy, .rowCopy), (.scale2, .rowScale2), (.cvt, .rowCvt),
   (.cvts, .rowCvts), (.exp, .rowExp), (.rcp, .rowRcp), (.rsqrt, .rowRsqrt), (.div, .rowDiv), (.sqrt, .rowSqrt),
   (.red, .rowRed), (.red2, .rowRed2)]
def memInsns : List (Nat × (Fin 4 → Fin 34 → StreamId → Instr)) :=
  [(memReadOp, .memRead), (memWriteOp, .memWrite), (memAddOp, .memAdd), (memReadClearOp, .memReadClear),
   (memReleaseOp, .memRelease), (memEsaveOp, .esave), (memEreadOp, .eread)]
def depInsns : List (Nat × (Fin 4 → Fin 34 → StreamId → Instr)) :=
  [(0, .depWrite), (1, .depRead), (2, .depFetch), (3, .depDrop)]
def streamInsns : List ((Nat × Nat) × (Fin 4 → Fin 34 → StreamId → Instr)) :=
  [((0, 0), .ctrlNop), ((0, 1), .ctrlWait), ((0, 2), .ctrlBarrier), ((0, 3), .skipIfKept), ((0, 4), .ctrlEnd), ((1, 0), .pass),
   ((2, 0), .wload), ((3, 0), .feed), ((5, 0), .drain), ((6, 0), .inject), ((7, 0), .accum), ((8, 0), .contrib)] ++
  rowInsns.map (fun x => ((4, x.1.code), x.2)) ++ depInsns.map (fun x => ((10, x.1), x.2)) ++
  memInsns.map (fun x => ((11, x.1), x.2))

/-- A message of a class that waits first at a port, is for this package, and is one that R396 accepts. -/
def State.offers (s : State) (p c : Nat) (m : Msg) : Prop :=
  (∃ rest, Tab.read [] (s.port p).inbox c = m :: rest) ∧ msgDst m = s.self ∧ msgVersion m = 1 ∧
    transportClass (msgTransport m) = some c

/-! ### Mailbox requests (R496, R501, R502) -/

/-- The oldest request that waits is the frame `w`, of opcode `op` and a version that is served, and the module's state does not
forbid it. -/
def State.asks (s : State) (op w : Nat) : Prop :=
  s.power.phase = .on ∧ s.frame? = some w ∧ bits w 3 0 = 1 ∧ frOpcode w = op ∧ s.forbids w = none

/-- A long request that is not turned away: fewer than eight operations are held, its buffer, where it needs one, is as it needs it,
and no running operation uses its resource. -/
def State.asksLong (s : State) (op : Nat) (room : Nat → Option Reply) (w : Nat) : Prop :=
  s.asks op w ∧ s.mbx.ops.length < 8 ∧ room w = none ∧
    ∀ o ∈ s.mbx.ops, o.done = false → sameResource w o.frame.toNat = false

/-- A state whose request has been accepted as a long operation with the outcome it will have. -/
def State.accepted (s : State) (w result detail : Nat) : State := (s.accept w none result detail).1.answerWith w (s.accept w none result detail).2

/-- The request commands with their opcodes (R499). -/
def requests (hf : Option (BitVec 32)) (ok : Bool) (rs : List Replica) (v : BankVerdict) : List (Nat × Instr) :=
  [(1, .heartbeat), (2, .ident), (3, .ackAttn), (4, .queryOp), (5, .getLatency hf), (6, .getReport hf), (7, .attest hf),
   (8, .getCerts hf), (0x10, .load hf ok), (0x11, .start), (0x12, .stop), (0x13, .eval), (0x14, .checkpoint), (0x15, .restore ok rs),
   (0x16, .ledgerRestore hf), (0x17, .membership hf), (0x18, .stage hf), (0x19, .setJobKey hf), (0x1A, .svnCommit),
   (0x1B, .debugUnlock hf ok), (0x1C, .nvmUpdate hf v ok), (0x1D, .restart)]

/-- The long ones among them, with what each needs of its buffer; and of these, those whose buffer the host bus may refuse. -/
def longRequests (hf : Option (BitVec 32)) (ok : Bool) (rs : List Replica) (v : BankVerdict) : List (Nat × (Nat → Option Reply) × Instr) :=
  [(7, needs 5632, .attest hf), (8, needs 11264, .getCerts hf), (0x10, needs 0x100, .load hf ok), (0x16, needs 4, .ledgerRestore hf),
   (0x17, needs 32, .membership hf), (0x18, needs 0, .stage hf), (0x1B, needs 64, .debugUnlock hf ok), (0x1C, needs 8192, .nvmUpdate hf v ok),
   (0x14, needsOnHostPath 12, .checkpoint), (0x15, needsOnHostPath 4, .restore ok rs), (0x1A, needsNone, .svnCommit),
   (0x1D, needsNone, .restart)]
def bufferRequests (hf : Option (BitVec 32)) (ok : Bool) (v : BankVerdict) : List (Nat × (Nat → Option Reply) × Instr) :=
  (longRequests hf ok [] v).take 8

/-! ### Invariants -/

/-- What every command keeps: the sparse memories of the flash and of the host are in canonical form, and after an unlock by token
the module holds no private key (R488). -/
def State.Inv (s : State) : Prop :=
  Memory.wf s.nvm ∧ Memory.wf s.hostMem ∧ (s.far.unlocked = true → s.far.keySeed = none)

end Sys2Proof.Machine
end

