-- ==== Sys2Proof/Certificates/Slice0/Obligations.lean ====
section
/-! DEFINITION. What is claimed of the model: statements for the provers. Each says which rules of the spec it formalises. -/

open Sys2Proof Sys2Proof.Machine

/-- Whatever command stands at the front of the queue, a step is that command’s effect on the state with the rest of the queue. On an empty queue the step of a powered module answers a state in which one more edge has passed and, besides the edge count, nothing has changed but registers, cores, domain timing and Tally; without power nothing changes. The step of an idle block is the model's choice (log 1). (12_clocks_and_treasury.md, 01_module_overview.md, 95_what_each_step_holds.md) -/
def Obligations.StepRunsTheQueue : Prop :=
  (∀ (s : State) (c : Instr) (rest : List Instr), s.pending = c :: rest → step s = exec c { s with pending := rest }) ∧
  ((∀ s : State, s.pending = [] → s.power.phase = .on →
    ∃ t, step s = .next t ∧ t.edge = s.edge + 1 ∧
      t = { s with edge := s.edge + 1, regs := t.regs, recent := t.recent, cores := t.cores, domains := t.domains, tally := t.tally }) ∧
  ∀ s : State, s.pending = [] → s.power.phase ≠ .on → step s = .next s)

/-- Right after reset the edge count is 0, no command waits, no domain is awake, no job is loaded, the Journal, the mailbox and every memory list nothing, and identity registers read the values that their register maps give. Reset values that the spec does not give are zero (log 6). At reset the flash and host memory list nothing, which is canonical, and no unlock has taken place. (14_startup_and_host.md, 13_faults_and_ledger.md, 01_module_overview.md, 12_clocks_and_treasury.md, 03_arrays_and_cores.md) -/
def Obligations.ResetState : Prop :=
  (State.reset.edge = 0 ∧ State.reset.pending = [] ∧ (∀ i : Nat, (State.reset.domain i).awake = false) ∧ State.reset.step.job = none ∧
  State.reset.jnl.entries = [] ∧ State.reset.mbx.ops = [] ∧ State.reset.mem.near = [] ∧ State.reset.mem.tier = [] ∧
  State.reset.nvm = [] ∧ State.reset.hostMem = [] ∧ State.reset.power.phase = .on ∧
  State.reset.readReg (tsyBase + 0x8000) = 0xE701 ∧ State.reset.readReg (tsyBase + 0x8004) = 0 ∧
  (State.reset.readReg (coreBase 0 0 + 4)).toNat = 6 ∧ State.reset.rf (jnlBase + 4) 15 12 = 4) ∧
  (State.reset.Inv)

/-- While power is on: a write of a mapped register gives each RW field that the writer may write and that is not locked the value written, clears in each such W1C field the bits written 1 except those that the module set in the same edge, leaves each field that the writer may not write, and leaves every other register but the counts of a Teller that TLR_CTL enables; a write of a mirror register changes no register. An access to an unmapped offset is journalled with 0x0A20, a read answering 0; any other size or alignment is answered as an unsupported request and changes nothing else. A read of CLK_EDGE_LO answers the low half of the edge count and latches the high half; a read of a Tally counter latches its high half. Through BAR2 the identity words and, with USER_RD, the Tally mirror are read, other mapped offsets read 0, an unmapped offset reads 0 and is journalled, and every write is discarded and journalled. (01_module_overview.md, 00_scope.md, 12_clocks_and_treasury.md, 14_startup_and_host.md, 15_tally_counters.md) -/
def Obligations.RegisterAccessesComplete : Prop :=
  (∀ (by_ : Writer) (off val : Word) (fs : List Fld) (s : State), s.power.phase = .on → off.toNat % 4 = 0 →
    regFields off.toNat = some fs →
    ∃ t, exec (.registerWrite by_ off val) s = .next t ∧
      t = { s with regs := t.regs, tally := t.tally, rec_ := t.rec_, link := t.link, domains := t.domains, jnl := t.jnl, bus := t.bus } ∧
      t.bus = (if by_ = .host then .done else s.bus) ∧
      (isMirror off.toNat = true → t = { s with bus := t.bus }) ∧
      (∀ o : Nat, o ≠ off.toNat → off.toNat % 0x1000000 ≠ 0x800004 → t.reg o = s.reg o) ∧
      (isMirror off.toNat = false → ∀ f ∈ fs, f.lo ≤ f.hi → f.hi < 32 → (∀ g ∈ fs, g ≠ f → g.hi < f.lo ∨ f.hi < g.lo) →
        (s.mayWrite by_ f = true → s.lockOf off.toNat f = .writable →
          (f.acc = .rw → t.rf off.toNat f.hi f.lo = bits val.toNat f.hi f.lo) ∧
          (f.acc = .w1c → t.rf off.toNat f.hi f.lo =
            bits (s.readReg off.toNat &&& (~~~val ||| BitVec.ofNat 32 (s.freshBits off.toNat))).toNat f.hi f.lo)) ∧
        (s.mayWrite by_ f = false → t.rf off.toNat f.hi f.lo = s.rf off.toNat f.hi f.lo))) ∧
  (∀ (by_ : Writer) (off : Word) (write : Bool) (s : State), s.power.phase = .on → off.toNat % 4 = 0 →
    regFields off.toNat = none →
    exec (.unmappedAccess by_ off write) s =
      .next ((s.notice (Err.aon .notice 0x0A20 0 0 off.toNat)).answer by_ (if write then .done else .value 0))) ∧
  (∀ (off : Word) (size : Nat) (write : Bool) (s : State), s.power.phase = .on → badAccess off size = true →
    exec (.unsupportedRequest off size write) s = .next { s with bus := .unsupported }) ∧
  (∀ s : State, s.power.phase = .on → ∃ t, exec .clkEdgeRead s = .next t ∧ t.bus = .value (BitVec.ofNat 32 s.edge) ∧
    t.reg (tsyBase + 0x8008) = BitVec.ofNat 32 (s.edge / 2 ^ 32) ∧ (∀ o, o ≠ tsyBase + 0x8008 → t.reg o = s.reg o) ∧
    t = { s with regs := t.regs, bus := t.bus }) ∧
  (∀ (b : Fin 10) (k : Fin 16) (s : State), s.power.phase = .on → ∃ t, exec (.tlyCntRead b k) s = .next t ∧
    t.bus = .value (BitVec.ofNat 32 (Tab.read 0 s.tally.counts (16 * b.val + k.val))) ∧
    t.reg (tlyBlock b.val + 0x204 + 8 * k.val) = BitVec.ofNat 32 (Tab.read 0 s.tally.counts (16 * b.val + k.val) / 2 ^ 32) ∧
    (∀ o, o ≠ tlyBlock b.val + 0x204 + 8 * k.val → t.reg o = s.reg o) ∧ t = { s with regs := t.regs, bus := t.bus }) ∧
  (∀ s : State, s.power.phase = .on → exec (.bar2Read 0) s = .next { s with bus := .value (s.readReg 0) } ∧
    exec (.bar2Read 4) s = .next { s with bus := .value (s.readReg 4) }) ∧
  (∀ (off : BitVec 25) (s : State), s.power.phase = .on → off.toNat % 4 = 0 →
    (4 < off.toNat → off.toNat < 0x1000000 →
      exec (.bar2Read off) s = .next { s.notice (Err.aon .notice 0x0A20 0 0 off.toNat) with bus := .value 0 }) ∧
    (0x1000000 ≤ off.toNat → regFields (off.toNat + 0x2000000) = none →
      exec (.bar2Read off) s = .next { s.notice (Err.aon .notice 0x0A20 0 0 ((off.toNat + 0x2000000) % 0x2000000)) with bus := .value 0 }) ∧
    (∀ fs, 0x1000000 ≤ off.toNat → regFields (off.toNat + 0x2000000) = some fs →
      (s.rf (tlyBase + 4) 1 1 = 0 → exec (.bar2Read off) s = .next { s with bus := .value 0 }) ∧
      (s.rf (tlyBase + 4) 1 1 = 1 → ∃ t v, exec (.bar2Read off) s = .next t ∧ t = { s with regs := t.regs, bus := .value v } ∧
        (off.toNat < 0x1010000 → t.regs = s.regs ∧ v = s.readReg (off.toNat + 0x2000000))))) ∧
  ∀ (off : BitVec 25) (val : Word) (s : State), s.power.phase = .on →
    exec (.bar2Write off val) s = .next { s.notice (Err.aon .notice 0x0A21 0 0 off.toNat) with bus := .done }

/-- While HOST_WR is 0, a host write of a mapped register none of whose fields the host may write leaves every register, and everything but the Journal and the host bus, as it was; it is journalled with code 0x0A21 exactly when the value it carries for one of those fields differs from what that field reads. While RUN is 1, the core is stopping or it is not quiet, a write of CLEAR_INBOX or CLEAR_ACC by firmware leaves the state but for a Journal entry of code 0x0A21; while RUN is 1 already, a write of RUN = 1 changes nothing. (14_startup_and_host.md, 03_arrays_and_cores.md) -/
def Obligations.WritesRefused : Prop :=
  (∀ (off val : Word) (fs : List Fld) (s : State), s.power.phase = .on → off.toNat % 4 = 0 → s.hostWr = false →
    regFields off.toNat = some fs → isMirror off.toNat = false → (∀ f ∈ fs, f.host = false) →
    ∃ t, exec (.registerWrite .host off val) s = .next t ∧ t = { s with jnl := t.jnl, bus := .done } ∧
      ((∃ f ∈ fs, bits val.toNat f.hi f.lo ≠ bits (s.readReg off.toNat).toNat f.hi f.lo) →
        t.jnl = (s.notice (Err.aon .notice 0x0A21 0 0 off.toNat)).jnl) ∧
      ((∀ f ∈ fs, bits val.toNat f.hi f.lo = bits (s.readReg off.toNat).toNat f.hi f.lo) → t.jnl = s.jnl)) ∧
  ((∀ (d : Fin 4) (p : Fin 34) (s : State), s.power.phase = .on →
    (s.coreRun d.val p.val = true ∨ (s.core d.val p.val).stopping = true ∨ s.quiet d.val p.val = false) →
    exec (.clearInbox .firmware d p) s = .next (s.notice (Err.aon .notice 0x0A21 0 0 (coreBase d.val p.val + 4))) ∧
    exec (.clearAcc .firmware d p) s = .next (s.notice (Err.aon .notice 0x0A21 0 0 (coreBase d.val p.val + 4)))) ∧
  ∀ (by_ : Writer) (d : Fin 4) (p : Fin 34) (s : State), s.coreRun d.val p.val = true → exec (.coreRunStart by_ d p) s = .next s)

/-- RUN written 1 while it is 0 sets it, lifts the halt (also where CORE_FAULT bits still stand: the model's choice, log 77) and restarts both streams at their base addresses; RUN written 0 clears it; each changes one register and one core. The clear bits, while RUN is 0, the core is not stopping and QUIET is 1, empty the inbox, or the accumulator rows, and mark the weight banks unused, and change nothing else. CE_CLR, which the host may write too, sets the core’s corrected count to 0, or to 1 where a correction fell in the same edge. (03_arrays_and_cores.md, 14_startup_and_host.md) -/
def Obligations.FirmwareMayWrite : Prop :=
  (∀ (d : Fin 4) (p : Fin 34) (s : State), s.power.phase = .on → s.coreRun d.val p.val = false →
    ∃ t, exec (.coreRunStart .firmware d p) s = .next t ∧ t.coreRun d.val p.val = true ∧
      (t.core d.val p.val).halted = false ∧
      (t.core d.val p.val).fwd = Stream.restart (s.reg (coreBase d.val p.val + 0x28)).toNat s.edge ∧
      (t.core d.val p.val).bwd = Stream.restart (s.reg (coreBase d.val p.val + 0x2C)).toNat s.edge ∧
      t = { s with regs := t.regs, cores := t.cores, domains := t.domains } ∧
      t.core d.val p.val = { s.core d.val p.val with halted := false, stopping := false, fwd := (t.core d.val p.val).fwd,
                                                     bwd := (t.core d.val p.val).bwd } ∧
      (∀ o, o ≠ coreBase d.val p.val + 4 → t.reg o = s.reg o)) ∧
  (∀ (d : Fin 4) (p : Fin 34) (s : State), s.power.phase = .on → s.coreRun d.val p.val = true →
    ∃ t, exec (.coreRunStop .firmware d p) s = .next t ∧ t.coreRun d.val p.val = false ∧ t = { s with regs := t.regs, cores := t.cores } ∧
      t.core d.val p.val = { s.core d.val p.val with stopping := true } ∧ (∀ o, o ≠ coreBase d.val p.val + 4 → t.reg o = s.reg o)) ∧
  (∀ (d : Fin 4) (p : Fin 34) (s : State), s.power.phase = .on → s.coreRun d.val p.val = false → (s.core d.val p.val).stopping = false →
    s.quiet d.val p.val = true →
    ∃ t, exec (.clearInbox .firmware d p) s = .next t ∧ (t.core d.val p.val).inbox = 0 ∧
      t = { s with cores := t.cores } ∧ t.core d.val p.val = { s.core d.val p.val with inbox := 0 }) ∧
  (∀ (d : Fin 4) (p : Fin 34) (s : State), s.power.phase = .on → s.coreRun d.val p.val = false → (s.core d.val p.val).stopping = false →
    s.quiet d.val p.val = true →
    ∃ t, exec (.clearAcc .firmware d p) s = .next t ∧ t = { s with cores := t.cores } ∧
      (t.core d.val p.val).store = (s.core d.val p.val).store ∧ (t.core d.val p.val).inbox = (s.core d.val p.val).inbox ∧
      ∀ i r : Nat, i < 4 → rowStateAt (t.core d.val p.val) i r = .empty ∧
        (((t.core d.val p.val).array i).bankInfo 0).used = false ∧ (((t.core d.val p.val).array i).bankInfo 1).used = false) ∧
  ∀ (by_ : Writer) (d : Fin 4) (p : Fin 34) (s : State), s.power.phase = .on →
    ∃ t, exec (.coreCeClr by_ d p) s = .next t ∧ t = { s with regs := t.regs } ∧
      t.rf (coreBase d.val p.val + 0x3C) 15 0 = (if bit (s.freshBits (coreBase d.val p.val + 0x3C)) 0 then 1 else 0) ∧
      ∀ o, o ≠ coreBase d.val p.val + 0x3C → t.reg o = s.reg o

/-- While a core runs and the fetch buffer of a stream has room, a fetch, whatever bit errors its operand lets arise in the store first (log 79), appends the 32 bytes at the stream’s fetch address, marked where the address lies outside every INSTR range or the bytes read as uncorrectable, and the fetch address advances by 32; fetching stops past an END or past the store. The other stream, every other core and every store byte, memory, rings and all that lies outside the package keep their values. (03_arrays_and_cores.md, 10_descriptors.md) -/
def Obligations.FetchAppends : Prop :=
  ∀ (d : Fin 4) (p : Fin 34) (st : StreamId) (l : List (Fin 524288 × Bool)) (s u : State), s.alive = true →
    (s.core d.val p.val).active = true → (s.core d.val p.val).off = false → (s.domain (domCore d.val p.val)).awake = true →
    s.coreRun d.val p.val = true → ((s.core d.val p.val).stream st).ended = false → ((s.core d.val p.val).stream st).stopFetch = false →
    ((s.core d.val p.val).stream st).buf.length < 8 →
    u = (if l.isEmpty then s else s.modCore d.val p.val (fun c => c.upset l)) →
    ∃ t, exec (.instructionFetch d p st l) s = .next t ∧
      (t.core d.val p.val).stream st = { (s.core d.val p.val).stream st with
        buf := ((s.core d.val p.val).stream st).buf ++ [u.fetched d.val p.val ((s.core d.val p.val).stream st).fetchAt],
        fetchAt := ((s.core d.val p.val).stream st).fetchAt + 32,
        stopFetch := (u.fetched d.val p.val ((s.core d.val p.val).stream st).fetchAt).last } ∧
      (s.storeAllowed d.val p.val false true (((s.core d.val p.val).stream st).fetchAt, 32) = true →
        ((s.core d.val p.val).stream st).fetchAt < 2 ^ 22 →
        (u.fetched d.val p.val ((s.core d.val p.val).stream st).fetchAt).word =
          BitVec.ofNat 256 ((u.seen d.val p.val).store.num ((s.core d.val p.val).stream st).fetchAt 32)) ∧
      (t.core d.val p.val).stream (streamOther st) = (s.core d.val p.val).stream (streamOther st) ∧
      (t.core d.val p.val).store = (s.core d.val p.val).store ∧ sameBut t.cores s.cores [34 * d.val + p.val] ∧
      t = { s with regs := t.regs, recent := t.recent, cores := t.cores, jnl := t.jnl }

/-- A CTRL instruction that may issue leaves the head of its stream. NOP does nothing else; WAIT makes the stream wait for the mark it names; BARRIER holds the stream until the barrier edge; SKIP_IF_KEPT passes over as many instructions as it says unless the tile it names is marked dropped; END ends the stream and empties its buffer. Only that stream, Tally counts and, for a slip, the Journal change; BARRIER also notes its edge at the die’s ring. (03_arrays_and_cores.md, 05_training_step.md, 10_descriptors.md) -/
def Obligations.CtrlIssues : Prop :=
  ∀ (d : Fin 4) (p : Fin 34) (st : StreamId) (s : State) (w : Nat) (x : Stream),
    x = ((s.core d.val p.val).stream st).issued w s.edge →
    (s.mayIssue d.val p.val st 0 0 w → ∃ t, exec (.ctrlNop d p st) s = .next t ∧
      t = { s.setCore d.val p.val ((s.core d.val p.val).setStream st x) with jnl := t.jnl, tally := t.tally }) ∧
    (s.mayIssue d.val p.val st 0 1 w → ∃ t, exec (.ctrlWait d p st) s = .next t ∧
      t = { s.setCore d.val p.val ((s.core d.val p.val).setStream st
        { x with wait := some (ctrlMark w), waited := x.waited ++ [ctrlMark w] }) with jnl := t.jnl, tally := t.tally }) ∧
    (s.mayIssue d.val p.val st 0 2 w → ∃ t, exec (.ctrlBarrier d p st) s = .next t ∧
      t = { s.setCore d.val p.val ((s.core d.val p.val).setStream st { x with barrier := true }) with
        rings := t.rings, jnl := t.jnl, tally := t.tally } ∧ sameBut t.rings s.rings [d.val] ∧
      t.ring d.val = { s.ring d.val with eventAt := max (s.ring d.val).eventAt s.edge }) ∧
    (s.mayIssue d.val p.val st 0 3 w → ∃ t, exec (.skipIfKept d p st) s = .next t ∧
      t = { s.setCore d.val p.val ((s.core d.val p.val).setStream st
        (if Tab.find? s.step.escrow (escKey (ctrlStamp w) (ctrlEtile w)) = some .dropped then x
         else { x with buf := x.buf.drop (ctrlSkip w), head := x.head + 32 * ctrlSkip w,
                       fetchAt := max x.fetchAt (x.head + 32 * ctrlSkip w) })) with jnl := t.jnl, tally := t.tally }) ∧
    (s.mayIssue d.val p.val st 0 4 w → ∃ t, exec (.ctrlEnd d p st) s = .next t ∧
      t = { s.setCore d.val p.val ((s.core d.val p.val).setStream st { x with ended := true, buf := [] }) with
        jnl := t.jnl, tally := t.tally })

/-- The picker looks at a stream in the present edge, or in the next where the stream has issued in this one. For every command that issues a head: where the head that it then considers was fetched outside, reads as uncorrectable, is of no defined version, class or opcode, or is the command’s own instruction, and has a fault, the command sets each CORE_FAULT bit of the head, stops both streams of the core, and executes nothing: the streams, the accumulators, the core store and memory keep their values. For every command that issues a head, at the edge in which the picker looks: with no head to consider, or with a sound head of another class or opcode, or with a head that is not ready or that yields to the other stream, nothing changes. (10_descriptors.md, 04_ring_dataflow.md, 03_arrays_and_cores.md) -/
def Obligations.HeadsRejectedOrHeld : Prop :=
  (∀ x ∈ streamInsns, ∀ (d : Fin 4) (p : Fin 34) (st : StreamId) (s u : State) (e : FetchEntry),
    u = s.pickEdge d.val p.val st → u.head? d.val p.val st = some e →
    (e.outside = true ∨ e.uncorrectable = true ∨ insnOk e.word.toNat = false ∨ isInsn x.1.1 x.1.2 e.word.toNat = true) →
    u.headFaults d.val p.val e ≠ ([], []) →
    ∃ t, exec (x.2 d p st) s = .next t ∧ (t.core d.val p.val).halted = true ∧
      (∀ b ∈ (u.headFaults d.val p.val e).1, b < 32 → bit (t.reg (coreBase d.val p.val + 0xC)).toNat b = true) ∧
      t.core d.val p.val = { u.core d.val p.val with halted := true } ∧ sameBut t.cores u.cores [34 * d.val + p.val] ∧
      t.edge = u.edge ∧ t.mem = s.mem ∧ t.dep = s.dep ∧ t.rings = s.rings ∧ t.dies = s.dies ∧ t.mint = s.mint ∧ t.outer = s.outer) ∧
  (∀ x ∈ streamInsns, ∀ (d : Fin 4) (p : Fin 34) (st : StreamId) (s u : State), u = s.pickEdge d.val p.val st →
    (u.head? d.val p.val st = none → exec (x.2 d p st) s = .next s) ∧
    ∀ e, u.head? d.val p.val st = some e → e.outside = false → e.uncorrectable = false → insnOk e.word.toNat = true →
      (isInsn x.1.1 x.1.2 e.word.toNat = false → exec (x.2 d p st) s = .next s) ∧
      (u.headFaults d.val p.val e = ([], []) →
        (u.headReady d.val p.val st e.word.toNat = false ∨ u.yields d.val p.val st e.word.toNat = true) →
        exec (x.2 d p st) s = .next s))

/-- A ROW instruction of any opcode that may issue completes. Where no operand reads as uncorrectable, its results are in its destination and, for CVTS and RED2, in operand C, its flags are ORed into the row unit’s flag word, and besides its core, that word, the corrected count, the random draws, Tally and the Journal nothing changes; where an operand does, STORE_UE is set and no register or store byte is written. In either case accumulator values, memory, rings, the Depository, every other core and what lies outside the package keep their values. (03_arrays_and_cores.md, 10_descriptors.md, 02_number_formats.md) -/
def Obligations.RowResults : Prop :=
  ∀ x ∈ rowInsns, ∀ (d : Fin 4) (p : Fin 34) (st : StreamId) (s : State) (w : Nat),
    s.mayIssue d.val p.val st 4 x.1.code w →
    ∃ t, exec (x.2 d p st) s = .next t ∧ t.mem = s.mem ∧ t.rings = s.rings ∧ t.dep = s.dep ∧ t.dies = s.dies ∧ t.outer = s.outer ∧
      sameBut t.cores s.cores [34 * d.val + p.val] ∧
      (∀ i, ((t.core d.val p.val).array i).acc = ((s.core d.val p.val).array i).acc) ∧
      ((∀ r ∈ (decRow w).needs.reads, (s.seen d.val p.val).readsUe r.1 r.2 = false) →
        (t.core d.val p.val).rowRegs = (((s.core d.val p.val).putOperand (decRow w).dst (s.rowResult d.val p.val (decRow w)).dst).putOperand
          (decRow w).c (s.rowResult d.val p.val (decRow w)).third).rowRegs ∧
        (t.core d.val p.val).store = (((s.core d.val p.val).putOperand (decRow w).dst (s.rowResult d.val p.val (decRow w)).dst).putOperand
          (decRow w).c (s.rowResult d.val p.val (decRow w)).third).store ∧
        t.reg (coreBase d.val p.val + 0x10) =
          s.reg (coreBase d.val p.val + 0x10) ||| BitVec.ofNat 32 (s.rowResult d.val p.val (decRow w)).flags ∧
        sameBut t.regs s.regs [coreBase d.val p.val + 0x10, coreBase d.val p.val + 0x3C] ∧
        t = { s with regs := t.regs, recent := t.recent, cores := t.cores, mint := t.mint, jnl := t.jnl, tally := t.tally }) ∧
      ((∃ r ∈ (decRow w).needs.reads, (s.seen d.val p.val).readsUe r.1 r.2 = true) →
        (t.core d.val p.val).rowRegs = (s.core d.val p.val).rowRegs ∧ (t.core d.val p.val).store = (s.core d.val p.val).store ∧
        bit (t.reg (coreBase d.val p.val + 0xC)).toNat cfUe = true)

/-- ABS clears the sign bit of a code and NEG inverts it, both without flags and whatever the code; COPY keeps the code; SEL takes A where C is a number other than zero and B otherwise, bits unchanged; CMP gives 1.0 where the predicate holds and +0 elsewhere; a NaN operand of ADD, SUB, MUL or DIV gives the canonical NaN, with INVALID exactly if an operand is signalling. Elements packed into bytes read back, element by element: at any width that fills whole bytes, element i of the integer that the bytes spell is the i-th element modulo 2 to the width, and the bytes number width times count over 8. (10_descriptors.md, 02_number_formats.md) -/
def Obligations.RowElements : Prop :=
  (∀ (f : Fmt) (mode : Rnd) (pred imm a b c : Nat), f.ieee = true → a < 2 ^ f.width → b < 2 ^ f.width → c < 2 ^ f.width →
    rowElem .abs f mode pred imm a b c = (a % 2 ^ (f.width - 1), 0) ∧
    rowElem .neg f mode pred imm a b c = (a ^^^ 2 ^ (f.width - 1), 0) ∧
    rowElem .copy f mode pred imm a b c = (a, 0) ∧
    rowElem .sel f mode pred imm a b c = (if (f.decode c).isNan = false ∧ (f.decode c).isZero = false then a else b, 0) ∧
    ((rowElem .cmp f mode pred imm a b c).1 = if (cmpNum pred (f.decode a) (f.decode b)).1 then (f.bias * 2 ^ f.mbits) else 0) ∧
    ((f.decode a).isNan = true ∨ (f.decode b).isNan = true →
      (∀ op ∈ [RowOp.add, .sub, .mul, .div], rowElem op f mode pred imm a b c =
        (f.nanCode, if (f.decode a).isSnan = true ∨ (f.decode b).isSnan = true then fInvalid else 0)))) ∧
  (∀ (w : Nat) (xs : List Nat) (i : Nat), xs.length * w % 8 = 0 → i < xs.length →
    (elementBytes w xs).length = xs.length * w / 8 ∧
    element (numOfBytes (elementBytes w xs)) w i = xs.getD i 0 % 2 ^ w)

/-- Of one NaN and one number, both give the number, with INVALID exactly if the NaN is signalling; of two NaNs the canonical NaN, with INVALID if either is signalling; of -0 and +0 in either order the maximum is +0 and the minimum -0, without flags; of two numbers otherwise the larger and the smaller, without flags. A maximum or minimum reduction gives a NaN only if every element is a NaN, and then the canonical one. (R79) -/
def Obligations.MaximumMinimum : Prop :=
  (∀ (f : Fmt) (a b : Nat), f.ieee = true → a < 2 ^ f.width → b < 2 ^ f.width →
    ((f.decode a).isNan = true → (f.decode b).isNan = false →
      f.max a b = (b, if (f.decode a).isSnan then fInvalid else 0) ∧ f.min a b = (b, if (f.decode a).isSnan then fInvalid else 0)) ∧
    ((f.decode a).isNan = false → (f.decode b).isNan = true →
      f.max a b = (a, if (f.decode b).isSnan then fInvalid else 0) ∧ f.min a b = (a, if (f.decode b).isSnan then fInvalid else 0)) ∧
    ((f.decode a).isNan = true → (f.decode b).isNan = true →
      f.max a b = (f.nanCode, if (f.decode a).isSnan || (f.decode b).isSnan then fInvalid else 0) ∧
      f.min a b = (f.nanCode, if (f.decode a).isSnan || (f.decode b).isSnan then fInvalid else 0)) ∧
    ((f.decode a).isZero = true → (f.decode b).isZero = true → a ≠ b →
      f.max a b = (0, 0) ∧ f.min a b = (2 ^ (f.width - 1), 0)) ∧
    ((f.decode a).isNan = false → (f.decode b).isNan = false → ltNum (f.decode a) (f.decode b) = true →
      f.max a b = (b, 0) ∧ f.max b a = (b, 0) ∧ f.min a b = (a, 0) ∧ f.min b a = (a, 0)) ∧
    ((f.decode a).isNan = false → f.max a a = (a, 0) ∧ f.min a a = (a, 0))) ∧
  ∀ (code : Nat) (xs : List Nat), code = 1 ∨ code = 2 → xs ≠ [] → (∀ x ∈ xs, x < 2 ^ 32) → xs.length % 32 = 0 →
    (Fmt.fp32.decode (reduce code xs []).1).isNan = true →
    (∀ x ∈ xs, (Fmt.fp32.decode x).isNan = true) ∧ (reduce code xs []).1 = Fmt.fp32.nanCode

/-- Code c from 0x01 to 0xFF encodes 2^(c - 128), from 2^-127 to 2^127, with 0x80 encoding 1; code 0x00 is the only NaN code. A scale changes neither the sign of a finite value nor whether it is zero, and makes no infinity: KFS has no sign, no zero and no infinity. (R58) -/
def Obligations.KfsScales : Prop :=
  (∀ c : Nat, 1 ≤ c → c ≤ 0xFF → kfsExp c = some ((c : Int) - 128) ∧ -127 ≤ (c : Int) - 128 ∧ (c : Int) - 128 ≤ 127) ∧
  kfsExp 0x80 = some 0 ∧ (∀ c : Nat, c ≤ 0xFF → (kfsExp c = none ↔ c = 0)) ∧
  (∀ (f : Fmt) (code : Nat), scaledValue f code (some 0) = .nan false) ∧
  ∀ (f : Fmt) (code c m : Nat) (neg : Bool) (e : Int), 1 ≤ c → c ≤ 0xFF → f.decode code = .fin neg m e →
    scaledValue f code (some c) = .fin neg m (e + ((c : Int) - 128))

/-- For each of the ten formats, each rounding mode (stochastic rounding with any draw among them) and each code of the format that is not a NaN, encoding the exact value that the code decodes to gives that code again, and raises no flag. (02_number_formats.md) -/
def Obligations.CodesRoundTrip : Prop :=
  ∀ (f : Fmt) (mode : Rnd) (c : Nat), c < 2 ^ f.width → (f.decode c).isNan = false → f.encode mode (f.decode c) = (c, 0)

/-- A magnitude of which k bits are shifted out becomes the integer below or the one above, and the loss is flagged exactly if those bits are not all zero. To nearest, the error is at most half a unit, and at exactly half the result is even; toward zero takes the one below; upward and downward take the one above exactly on the side their name says; stochastic rounding takes the one above exactly if its 16-bit draw is below the fraction’s first 16 bits. (02_number_formats.md) -/
def Obligations.RoundingModes : Prop :=
  ∀ (mode : Rnd) (neg : Bool) (m k : Nat),
    ((roundShift mode neg m k).2 = true ↔ m % 2 ^ k ≠ 0) ∧
    (m % 2 ^ k = 0 → (roundShift mode neg m k).1 = m / 2 ^ k) ∧
    (m % 2 ^ k ≠ 0 →
      (mode = .rne → 2 * (roundShift mode neg m k).1 * 2 ^ k ≤ 2 * m + 2 ^ k ∧ 2 * m ≤ 2 * (roundShift mode neg m k).1 * 2 ^ k + 2 ^ k ∧
        (2 * (m % 2 ^ k) = 2 ^ k → (roundShift mode neg m k).1 % 2 = 0)) ∧
      (mode = .rtz → (roundShift mode neg m k).1 = m / 2 ^ k) ∧
      (mode = .rup → (roundShift mode neg m k).1 = m / 2 ^ k + (if neg then 0 else 1)) ∧
      (mode = .rdn → (roundShift mode neg m k).1 = m / 2 ^ k + (if neg then 1 else 0)) ∧
      (∀ x, mode = .sr x → (roundShift mode neg m k).1 = m / 2 ^ k + (if x < (m % 2 ^ k) * 65536 / 2 ^ k then 1 else 0)))

/-- A PASS that may issue is queued at its array with its length, bases, bank and formats, and the accumulator rows it will write, and no others, become PENDING; feed lines, weights, accumulator values, store and memory keep their values. A WLOAD that may issue occupies the weight-load unit with the load it names and tags the bank of each array with the format, and changes nothing else of its core but the stream. A FEED adds one fill to its array, due after its edges. A DRAIN keeps its converter busy for one edge a row, and makes the rows it releases EMPTY, all in the edge of issue (log 21); accumulator values stay. None of them changes memory, the rings, another core or what lies outside the package. (10_descriptors.md, 03_arrays_and_cores.md) -/
def Obligations.ArrayInstructions : Prop :=
  (∀ (d : Fin 4) (p : Fin 34) (st : StreamId) (s : State) (w : Nat), s.mayIssue d.val p.val st 1 0 w →
    ∃ t, exec (.pass d p st) s = .next t ∧ t = { s with cores := t.cores, jnl := t.jnl, tally := t.tally } ∧
      sameBut t.cores s.cores [34 * d.val + p.val] ∧ (t.core d.val p.val).store = (s.core d.val p.val).store ∧
      (t.core d.val p.val).rowRegs = (s.core d.val p.val).rowRegs ∧ (t.core d.val p.val).inbox = (s.core d.val p.val).inbox ∧
      ((t.core d.val p.val).array (decPass w).array).queue = ((s.core d.val p.val).array (decPass w).array).queue ++
        [(decPass w).toPass st ((((s.core d.val p.val).array (decPass w).array).bankInfo (decPass w).bank).loadId)] ∧
      ((t.core d.val p.val).array (decPass w).array).acc = ((s.core d.val p.val).array (decPass w).array).acc ∧
      ((t.core d.val p.val).array (decPass w).array).feed = ((s.core d.val p.val).array (decPass w).array).feed ∧
      (∀ b, ((t.core d.val p.val).array (decPass w).array).bankWeights b = ((s.core d.val p.val).array (decPass w).array).bankWeights b) ∧
      ∀ r, rowStateAt (t.core d.val p.val) (decPass w).array r =
        if (decPass w).accb ≤ r ∧ r < (decPass w).accb + (decPass w).len then .pending
        else rowStateAt (s.core d.val p.val) (decPass w).array r) ∧
  ((∀ (d : Fin 4) (p : Fin 34) (st : StreamId) (s : State) (w : Nat), s.mayIssue d.val p.val st 2 0 w →
    ∃ t, exec (.wload d p st) s = .next t ∧ t = { s with cores := t.cores, jnl := t.jnl, tally := t.tally } ∧
      sameBut t.cores s.cores [34 * d.val + p.val] ∧ (t.core d.val p.val).store = (s.core d.val p.val).store ∧
      (t.core d.val p.val).rowRegs = (s.core d.val p.val).rowRegs ∧ (t.core d.val p.val).inbox = (s.core d.val p.val).inbox ∧
      (∃ l, (t.core d.val p.val).load = some l ∧ l.direct = (decWload w).direct ∧ l.trans = (decWload w).transposed ∧
        l.bank = (decWload w).bank ∧ l.fmt = (decWload w).wfmt ∧ l.delivered = 0 ∧ l.issue = s.edge ∧
        ∀ i ∈ (decWload w).direct ++ (decWload w).transposed, i < 4 →
          (((t.core d.val p.val).array i).bankInfo (decWload w).bank).fmt = some (decWload w).wfmt ∧
          (((t.core d.val p.val).array i).bankInfo (decWload w).bank).rows = 0)) ∧
  (∀ (d : Fin 4) (p : Fin 34) (st : StreamId) (s : State) (w : Nat), s.mayIssue d.val p.val st 3 0 w →
    ∃ t, exec (.feed d p st) s = .next t ∧ t.mem = s.mem ∧ t.rings = s.rings ∧ t.dies = s.dies ∧ t.dep = s.dep ∧ t.outer = s.outer ∧
      sameBut t.cores s.cores [34 * d.val + p.val] ∧ (t.core d.val p.val).store = (s.core d.val p.val).store ∧
      (t.core d.val p.val).rowRegs = (s.core d.val p.val).rowRegs ∧
      ((t.core d.val p.val).array (decFeed w).array).acc = ((s.core d.val p.val).array (decFeed w).array).acc ∧
      ((t.core d.val p.val).array (decFeed w).array).fills = ((s.core d.val p.val).array (decFeed w).array).fills ++
        [{ stream := st, due := s.edge + (decFeed w).edges,
           release := if (decFeed w).release then (decFeed w).slot else none }]) ∧
  ∀ (d : Fin 4) (p : Fin 34) (st : StreamId) (s : State) (w : Nat), s.mayIssue d.val p.val st 5 0 w →
    ∃ t, exec (.drain d p st) s = .next t ∧
      t = { s with regs := t.regs, recent := t.recent, cores := t.cores, mint := t.mint, jnl := t.jnl, tally := t.tally } ∧
      sameBut t.regs s.regs [coreBase d.val p.val + 0x10] ∧ sameBut t.cores s.cores [34 * d.val + p.val] ∧
      (t.core d.val p.val).rowRegs = (s.core d.val p.val).rowRegs ∧ (t.core d.val p.val).inbox = (s.core d.val p.val).inbox ∧
      ((t.core d.val p.val).array (decDrain w).array).drainBusy = s.edge + (decDrain w).rows ∧
      ((t.core d.val p.val).array (decDrain w).array).acc = ((s.core d.val p.val).array (decDrain w).array).acc ∧
      ((decDrain w).release = true → ∀ r, (decDrain w).accb ≤ r → r < (decDrain w).accb + (decDrain w).rows →
        rowStateAt (t.core d.val p.val) (decDrain w).array r = .empty))

/-- With a pass waiting and its bank’s rows timed, PASS_START moves it from the queue to the passes in progress at the first edge, on the steps of a pass in progress of the same step length (log 78), at which its array and bank are ready, never earlier than the present edge. PASS_COMPLETE of a pass that has not ended passes edges until s × (N + 255) edges after its start are over; then no pass of the array that is complete is in progress. WEIGHT_ROW_WRITE delivers one more row at its edge; FEED_FILL_COMPLETE ends the fill that is due first, and frees its slot. Besides what passing edges change, each changes its own core alone, or, where a read of the store is uncorrectable, what a core fault changes. (03_arrays_and_cores.md) -/
def Obligations.ArrayEvents : Prop :=
  (∀ (d : Fin 4) (p : Fin 34) (i : Fin 4) (s : State) (x : Pass) (rest : List Pass) (b : Nat), s.alive = true →
    ((s.core d.val p.val).array i.val).queue = x :: rest → (s.core d.val p.val).bankReady i.val x = some b →
    ∃ t r, exec (.passStart d p i) s = .next t ∧
      r.start = ((s.core d.val p.val).array i.val).onStep x (max s.edge (max (((s.core d.val p.val).array i.val).afterLast x) b)) ∧
      s.edge ≤ r.start ∧ t = { s.at r.start with cores := t.cores } ∧ sameBut t.cores (s.at r.start).cores [34 * d.val + p.val] ∧
      ((t.core d.val p.val).array i.val).queue = rest ∧
      ((t.core d.val p.val).array i.val).running = (((s.at r.start).core d.val p.val).array i.val).running ++ [r] ∧ r.pass = x) ∧
  (∀ (d : Fin 4) (p : Fin 34) (i : Fin 4) (s : State) (r : PassRun) (rest : List PassRun), s.alive = true →
    ((s.core d.val p.val).array i.val).running = r :: rest → s.edge ≤ r.start + stepLength r.pass.fa * (stepCount r.pass.fa r.pass.len + 255) →
    ∃ t, exec (.passComplete d p i) s = .next t ∧
      t.edge = r.start + stepLength r.pass.fa * (stepCount r.pass.fa r.pass.len + 255) + 1 ∧ t = s.at t.edge ∧
      ∀ y ∈ ((t.core d.val p.val).array i.val).running, t.edge ≤ y.pass.complete y.start) ∧
  (∀ (d : Fin 4) (p : Fin 34) (s : State) (l : WeightLoad) (due : Nat), s.alive = true → (s.core d.val p.val).load = some l →
    (s.core d.val p.val).rowWriteEdge l l.delivered l.last = some due →
    ∃ t, exec (.weightRowWrite d p) s = .next t ∧ t.edge = max s.edge due ∧
      (l.delivered + 1 = l.total → (t.core d.val p.val).load = none) ∧
      (l.delivered + 1 ≠ l.total → ∃ m, (t.core d.val p.val).load = some m ∧ m.delivered = l.delivered + 1 ∧ m.last = due ∧
        m.direct = l.direct ∧ m.trans = l.trans ∧ m.bank = l.bank ∧ m.fmt = l.fmt) ∧
      (t.core d.val p.val).store = (s.at due |>.core d.val p.val).store ∧ sameBut t.cores (s.at due).cores [34 * d.val + p.val] ∧
      (l.release = false → t.rings = s.rings) ∧ t.mem = s.mem ∧ t.dies = s.dies ∧ t.dep = s.dep ∧ t.mint = s.mint ∧ t.outer = s.outer) ∧
  ∀ (d : Fin 4) (p : Fin 34) (i : Fin 4) (s : State) (f : Fill), s.alive = true →
    firstDue ((s.core d.val p.val).array i.val).fills = some f →
    ∃ t, exec (.feedFillComplete d p i) s = .next t ∧ t.edge = max s.edge f.due ∧
      ((t.core d.val p.val).array i.val).fills = ((s.core d.val p.val).array i.val).fills.erase f ∧
      (∀ n, f.release = some n → n < 16 → bit (t.core d.val p.val).inbox.toNat n = false) ∧
      (f.release = none → t = { s.at f.due with cores := t.cores }) ∧ t.mem = s.mem ∧ t.dies = s.dies ∧ t.dep = s.dep ∧ t.outer = s.outer

/-- An INJECT that may issue puts one entry into its station’s injection queue with the tile, slot, count, lane and address that it names; an ACCUM opens one stream and one exit, with the same fresh identifier; a CONTRIB names its rows at the station, checked already where the stream is open there. Each changes its own stream of the core, the rings of its die, and besides these only domain wakes, fresh identifiers, Tally and, for a slip, the Journal. (04_ring_dataflow.md, 10_descriptors.md) -/
def Obligations.RingInstructionsQueue : Prop :=
  (∀ (d : Fin 4) (p : Fin 34) (st : StreamId) (s : State) (w : Nat), s.mayIssue d.val p.val st 6 0 w →
    ∃ t x, exec (.inject d p st) s = .next t ∧ (t.station d.val p.val).injQ = (s.station d.val p.val).injQ ++ [x] ∧
      x.id = s.nextId ∧ x.count = (decInject w).count ∧ x.slot = (decInject w).slot ∧ x.lines = (decInject w).lines ∧
      x.slotAddr = (decInject w).slotAddr ∧ x.issued = false ∧ x.sent = [] ∧
      ((decInject w).fromCore = true → x.addr = (decInject w).srcAddr % 2 ^ 22) ∧
      ((decInject w).fromCore = false → (decInject w).versioned = false → x.addr = (decInject w).srcAddr) ∧
      t = { s with cores := t.cores, rings := t.rings, domains := t.domains, nextId := t.nextId, jnl := t.jnl, tally := t.tally } ∧
      t.cores = (s.setCore d.val p.val ((s.core d.val p.val).setStream st (((s.core d.val p.val).stream st).issued w s.edge))).cores ∧
      sameBut t.rings s.rings [d.val]) ∧
  (∀ (d : Fin 4) (p : Fin 34) (st : StreamId) (s : State) (w : Nat), s.mayIssue d.val p.val st 7 0 w →
    ∃ t a e, exec (.accum d p st) s = .next t ∧ (t.station d.val p.val).accs = (s.station d.val p.val).accs ++ [a] ∧
      (t.ring d.val).exits = (s.ring d.val).exits ++ [e] ∧ a.id = s.nextId ∧ e.id = s.nextId ∧ a.k = (decAccum w).k ∧
      a.flits = (decAccum w).flits ∧ a.sent = 0 ∧ e.add = (decAccum w).add ∧ e.exit = a.exit ∧ e.poisoned = false ∧
      t = { s with cores := t.cores, rings := t.rings, domains := t.domains, nextId := t.nextId, jnl := t.jnl, tally := t.tally } ∧
      t.cores = (s.setCore d.val p.val ((s.core d.val p.val).setStream st (((s.core d.val p.val).stream st).issued w s.edge))).cores ∧
      sameBut t.rings s.rings [d.val]) ∧
  ∀ (d : Fin 4) (p : Fin 34) (st : StreamId) (s : State) (w : Nat), s.mayIssue d.val p.val st 8 0 w →
    ∃ t, exec (.contrib d p st) s = .next t ∧
      (t.station d.val p.val).contribs = (s.station d.val p.val).contribs ++
        [{ array := (decContrib w).array, accb := (decContrib w).accb, release := (decContrib w).release,
           lane := laneOf (decContrib w).lane, origin := (decContrib w).origin, done := 0, checked := s.streamOpen d.val (decContrib w) }] ∧
      t = { s with cores := t.cores, rings := t.rings, jnl := t.jnl, tally := t.tally } ∧
      t.cores = (s.setCore d.val p.val ((s.core d.val p.val).setStream st (((s.core d.val p.val).stream st).issued w s.edge))).cores ∧
      sameBut t.rings s.rings [d.val]

/-- The first memory injection that waits issues the reads of its lines, in order, at the first edge at which every die concerned has its credits, and its own die’s count falls by them; each other member die gets a copy at its bridge. A multicast copy enters a queue with room, for the next layer where the station has issued its barrier by then. The tile that a station serves sends one line that has not been sent at the first edge in which the lane is free to it: that line counts as sent, or the tile leaves the queue with its last line, and while takers remain the flit is on the next hop with the hop’s edges. (04_ring_dataflow.md) -/
def Obligations.InjectionsMove : Prop :=
  (∀ (d : Fin 4) (j : Fin 34) (s : State) (x : Inj) (e : Nat), s.alive = true → s.ringRuns d.val = true →
    (s.station d.val j.val).injQ.find? (fun y => y.fromMem && !y.issued) = some x → x.nextWindow = false →
    s.creditEdge d.val x = some e →
    ∃ t, exec (.injectReadIssue d j) s = .next t ∧
      t.mem = { s.mem with reqs := s.mem.reqs ++ x.reads (d, j) (d, j) x.group (max s.edge e) } ∧
      Tab.read 0 (t.ring d.val).counts x.cstream = Tab.read 0 (s.ring d.val).counts x.cstream - x.credits ∧
      (∀ n ∈ x.mask, n ≠ d.val → ∃ y ∈ (t.station n j.val).mcast, y.group = x.group ∧ y.lead = false ∧ y.addr = x.addr) ∧
      t.edge = max s.edge e ∧ t = { s.at e with rings := t.rings, mem := t.mem, nextId := t.nextId }) ∧
  (∀ (d : Fin 4) (j : Fin 34) (s : State) (x : Inj) (rest : List Inj), s.alive = true →
    (s.station d.val j.val).mcast = x :: rest → (s.station d.val j.val).injQ.length < 8 →
    ∃ t, exec (.multicastDelivery d j) s = .next t ∧ (t.station d.val j.val).mcast = rest ∧
      (t.station d.val j.val).injQ = (s.station d.val j.val).injQ ++ [{ x with nextWindow := s.barrierIssued d.val j.val }] ∧
      sameBut t.rings s.rings [d.val] ∧ t = { s with rings := t.rings, domains := t.domains }) ∧
  ∀ (d : Fin 4) (j : Fin 34) (lane : Lane) (s : State) (x : Inj) (e i n : Nat) (v : Line) (poison : Bool),
    (s.station d.val j.val).injQ.find? (fun y => y.lane == lane) = some x → s.tileMaySend d.val x = true →
    s.tileEdge d.val j.val lane x.lineFrom = some e → x.nextLine ((s.at e).seen d.val j.val) = some (i, v, poison) →
    (x.fromMem = true ∨ ((s.at e).seen d.val j.val).readsUe (x.addr + 256 * i) 256 = false) →
    n = (if s.active d.val j.val then x.count - 1 else x.count) →
    ∃ t, exec (.injectFlitSend d j lane) s = .next t ∧ t.edge = max s.edge e ∧
      (x.lines ≤ x.sent.length + 1 → ∀ y ∈ (t.station d.val j.val).injQ, y.id ≠ x.id) ∧
      (x.sent.length + 1 < x.lines → ∀ y ∈ (t.station d.val j.val).injQ, y.id = x.id → y = { x with sent := x.sent ++ [i] }) ∧
      (0 < n → ∃ f, t.hop (s.nextHop d.val j.val lane).1 (s.nextHop d.val j.val lane).2.1 lane =
          s.hop (s.nextHop d.val j.val lane).1 (s.nextHop d.val j.val lane).2.1 lane ++ [f] ∧
        f.kind = .tile ∧ f.index = i ∧ f.payload = v ∧ f.poison = poison ∧ f.count = n ∧ f.tile = x.id ∧
        f.due = e + (s.nextHop d.val j.val lane).2.2) ∧
      t.mem = s.mem ∧ t.dies = s.dies ∧ t.dep = s.dep ∧ t.mint = s.mint ∧ t.outer = s.outer

/-- While the segments are awake, a TILE flit with no wrong word that reaches a station whose core is not active, other than its origin, goes on unchanged one hop further; one that comes back to its origin is retired and CIRC_OVER stands; at an active station whose slot can take it, it enters the take buffer where that has room, and goes on with a count one lower while takers remain. A flit in a take buffer whose delivery is in progress and whose slot range lets it be written is written to its place in the core store at the first edge after its arrival in which the write port is free, and the slot becomes valid exactly when that was the last line of a tile with no bad flit. While the core sleeps, the write waits and wakes it. (04_ring_dataflow.md, 03_arrays_and_cores.md) -/
def Obligations.TilesDelivered : Prop :=
  (∀ (d : Fin 4) (j : Fin 34) (lane : Lane) (s : State) (f : RingFlit) (rest : List RingFlit) (e : Nat), s.alive = true →
    s.segmentsAwake d.val = true → pickFlit .tile (s.hop d.val j.val lane) = some (f, rest) → e = s.forwardEdge d.val j.val lane f →
    (s.active d.val j.val = false → f.origin ≠ s.origin d.val j.val → 0 < f.count →
      ∃ t, exec (.ringFlitArrival d j lane []) s = .next t ∧ t.hop d.val j.val lane = rest ∧
        t.hop (s.nextHop d.val j.val lane).1 (s.nextHop d.val j.val lane).2.1 lane =
          s.hop (s.nextHop d.val j.val lane).1 (s.nextHop d.val j.val lane).2.1 lane ++
            [{ f with due := e + (s.nextHop d.val j.val lane).2.2 }] ∧ t.edge = max s.edge e ∧
        t = { s.at e with rings := t.rings, tally := t.tally }) ∧
    (f.origin = s.origin d.val j.val →
      ∃ t, exec (.ringFlitArrival d j lane []) s = .next t ∧ t.hop d.val j.val lane = rest ∧
        bit (t.reg (ringBase d.val + 0xC)).toNat rfCirc = true ∧ t.mem = s.mem ∧ t.dies = s.dies ∧ t.dep = s.dep ∧ t.outer = s.outer) ∧
    (s.active d.val j.val = true → f.origin ≠ s.origin d.val j.val → f.poison = false →
      (s.station d.val j.val).lost.find? (fun x => x.1 == f.tile) = none → ((s.core d.val j.val).slot f.slot).delivering = true →
      ((s.core d.val j.val).slot f.slot).tile = f.tile → ((s.core d.val j.val).slot f.slot).bad = false →
      ((s.station d.val j.val).take lane).length < 64 →
      ∃ t, exec (.ringFlitArrival d j lane []) s = .next t ∧ t.hop d.val j.val lane = rest ∧
        (t.station d.val j.val).take lane = (s.station d.val j.val).take lane ++ [{ f with due := e }] ∧
        (1 < f.count → t.hop (s.nextHop d.val j.val lane).1 (s.nextHop d.val j.val lane).2.1 lane =
          s.hop (s.nextHop d.val j.val lane).1 (s.nextHop d.val j.val lane).2.1 lane ++
            [{ f with count := f.count - 1, due := e + (s.nextHop d.val j.val lane).2.2 }]) ∧
        (t.core d.val j.val).store = ((s.at e).core d.val j.val).store ∧ sameBut t.cores (s.at e).cores [34 * d.val + j.val] ∧
        t = { s.at e with cores := t.cores, rings := t.rings, tally := t.tally })) ∧
  (∀ (d : Fin 4) (j : Fin 34) (lane : Lane) (s u : State) (f : RingFlit) (rest : List RingFlit), s.alive = true →
    (s.station d.val j.val).take lane = f :: rest →
    ((s.domain (domCore d.val j.val)).awake = false →
      exec (.takeWrite d j lane) s = .next (s.wakeSeen (domCore d.val j.val))) ∧
    ((s.domain (domCore d.val j.val)).awake = true → f.slot < 16 → u = s.at ((s.core d.val j.val).takeEdge (f.due + 1)) →
      ((u.core d.val j.val).slot f.slot).delivering = true → ((u.core d.val j.val).slot f.slot).tile = f.tile →
      u.storeAllowed d.val j.val true false (f.addr + 256 * f.index, 256) = true →
      ∃ t, exec (.takeWrite d j lane) s = .next t ∧ t.edge = u.edge ∧
        (t.core d.val j.val).store.line (f.addr + 256 * f.index) = f.payload ∧
        (∀ a, a < f.addr + 256 * f.index ∨ f.addr + 256 * f.index + 256 ≤ a →
          (t.core d.val j.val).store.byte a = (u.core d.val j.val).store.byte a) ∧
        (t.core d.val j.val).slotValid f.slot =
          ((u.core d.val j.val).slotValid f.slot ||
            (decide (f.lines ≤ ((u.core d.val j.val).slot f.slot).written.length + 1) && !((u.core d.val j.val).slot f.slot).bad)) ∧
        (t.station d.val j.val).take lane = rest ∧ sameBut t.cores u.cores [34 * d.val + j.val] ∧ sameBut t.rings u.rings [d.val] ∧
        t = { u with cores := t.cores, rings := t.rings, tally := t.tally }))

/-- With a station’s segments awake and its contributions checked: with nothing to add, to originate or to receive, ACC_FLIT_ADD changes nothing more. Where an addition is the next event, the flit is replaced by the flit whose 64 FP32 elements are the old ones each plus the contribution’s, rounded to nearest even, the addition’s flags are ORed into the core’s flag word, and the count is one lower; where contributors remain it is on the next hop, and at the last contributor a stream that is not poisoned and exits to memory becomes one ADD or WRITE request. Where the station’s own stream is next, its flit carries the contribution exactly. With neither, the next flit of the hop arrives: an inactive station passes it on unchanged, an active one holds it while its accumulate buffer has room. (04_ring_dataflow.md, 02_number_formats.md) -/
def Obligations.AccumulationOrder : Prop :=
  (∀ (d : Fin 4) (j : Fin 34) (lane : Lane) (words : List (Fin 32 × Bool)) (s u : State), s.alive = true →
    s.segmentsAwake d.val = true → u = s.checkContribs d.val j.val lane →
    ((u.accLocal d.val j.val lane).1 = none → pickFlit .acc (u.hop d.val j.val lane) = none →
      exec (.accFlitAdd d j lane words) s = .next u) ∧
    (∀ f rest e, (u.accLocal d.val j.val lane).1 = none → pickFlit .acc (u.hop d.val j.val lane) = some (f, rest) →
      e = u.forwardEdge d.val j.val lane f → f.origin ≠ u.origin d.val j.val → words = [] →
      (u.active d.val j.val = false → ∃ t, exec (.accFlitAdd d j lane words) s = .next t ∧ t.edge = max u.edge e ∧
        t.hop (u.nextHop d.val j.val lane).1 (u.nextHop d.val j.val lane).2.1 lane =
          u.hop (u.nextHop d.val j.val lane).1 (u.nextHop d.val j.val lane).2.1 lane ++
            [{ f with due := e + (u.nextHop d.val j.val lane).2.2 }] ∧ t = { u.at e with rings := t.rings, tally := t.tally }) ∧
      (u.active d.val j.val = true → ((u.station d.val j.val).accBuf lane).contains f = false →
        ((u.station d.val j.val).accBuf lane).length < 256 → ∃ t, exec (.accFlitAdd d j lane words) s = .next t ∧
          t.edge = max u.edge e ∧ (t.station d.val j.val).accBuf lane = (u.station d.val j.val).accBuf lane ++ [f] ∧
          t = { u.at e with rings := t.rings })) ∧
    (∀ f x e, u.accLocal d.val j.val lane = (some (.inl (f, x)), e) → words = [] →
      (∀ g rest, pickFlit .acc (u.hop d.val j.val lane) = some (g, rest) → g = f ∨ e < u.forwardEdge d.val j.val lane g) →
      ∃ t g, exec (.accFlitAdd d j lane words) s = .next t ∧
        g = { f with payload := lineOf ((addLines (lineWords f.payload) ((u.core d.val j.val).contribution x f.index)).map (fun (y : Nat × Nat) => y.1)),
                     count := f.count - 1 } ∧
        t.reg (coreBase d.val j.val + 0x10) = (u.at e).reg (coreBase d.val j.val + 0x10) |||
          BitVec.ofNat 32 (orFlags (addLines (lineWords f.payload) ((u.core d.val j.val).contribution x f.index))) ∧
        (1 < f.count → t.hop (u.nextHop d.val j.val lane).1 (u.nextHop d.val j.val lane).2.1 lane =
            u.hop (u.nextHop d.val j.val lane).1 (u.nextHop d.val j.val lane).2.1 lane ++
              [{ g with due := e + (u.nextHop d.val j.val lane).2.2 }] ∧
          t = { u.at e with regs := t.regs, recent := t.recent, cores := t.cores, rings := t.rings, tally := t.tally }) ∧
        (∀ o, f.count = 1 → u.accExit? f.tile = some o → f.poison = false → o.poisoned = false → o.toCore = false →
          t.mem = { u.mem with
            reqs := u.mem.reqs ++ [{ src := .station d j, kind := if o.add then .add else .write, addr := o.exit + 256 * f.index,
                                     hint := .stream, data := g.payload, poison := false, dest := .none, leave := max u.edge e }] })) ∧
    (∀ a x e, u.accLocal d.val j.val lane = (some (.inr (a, x)), e) → 1 < a.k →
      (∀ g rest, pickFlit .acc (u.hop d.val j.val lane) = some (g, rest) → e < u.forwardEdge d.val j.val lane g) →
      ∃ t f, exec (.accFlitAdd d j lane words) s = .next t ∧
        t.hop (u.nextHop d.val j.val lane).1 (u.nextHop d.val j.val lane).2.1 lane =
          u.hop (u.nextHop d.val j.val lane).1 (u.nextHop d.val j.val lane).2.1 lane ++ [f] ∧
        f.payload = lineOf ((u.core d.val j.val).contribution x a.sent) ∧ f.kind = .acc ∧ f.tile = a.id ∧ f.index = a.sent ∧
        f.count = a.k - 1 ∧ f.origin = u.origin d.val j.val ∧ f.due = e + (u.nextHop d.val j.val lane).2.2 ∧
        t = { u.at e with cores := t.cores, rings := t.rings, tally := t.tally })) ∧
  ∀ (a b : List Nat), addLines a b = (a.zip b).map (fun x => Fmt.fp32.add .rne x.1 x.2)

/-- The return of a stream that falls first raises the die’s count by the tile’s credits where that does not pass INIT; a return that would pass INIT leaves the count as it was and sets CREDIT_OVER. Either way the tile no longer counts as out, and cores, memory and other rings change no more than as edges pass. (04_ring_dataflow.md) -/
def Obligations.CreditsReturn : Prop :=
  ∀ (d k : Fin 4) (s : State) (x : TileOut) (e : Nat), s.alive = true → firstReturn k.val (s.ring d.val).tiles = some (x, e) →
    ∃ t, exec (.creditReturn d k) s = .next t ∧ (t.ring d.val).tiles = (s.ring d.val).tiles.erase x ∧ t.edge = max s.edge e ∧
      (Tab.read 0 (s.ring d.val).counts k.val + x.credits ≤ s.creditInit d.val k.val →
        Tab.read 0 (t.ring d.val).counts k.val = Tab.read 0 (s.ring d.val).counts k.val + x.credits ∧
        t = { s.at e with rings := t.rings }) ∧
      (s.creditInit d.val k.val < Tab.read 0 (s.ring d.val).counts k.val + x.credits →
        Tab.read 0 (t.ring d.val).counts k.val = Tab.read 0 (s.ring d.val).counts k.val ∧
        bit (t.reg (ringBase d.val + 0xC)).toNat rfCreditOver = true) ∧
      sameBut t.rings s.rings [d.val] ∧ t.mem = s.mem ∧ t.dies = s.dies ∧ t.dep = s.dep ∧ t.outer = s.outer

/-- Where the ring of a die runs and every die of it is drained, the barrier edge falls 4 edges after the last event of the ring in DIE span, and 28 edges after it in PACKAGE span: on each die of the ring, every stream that waits at its barrier goes on in a window that opens at that edge, LAYER_COUNT advances by 1, and each enabled credit stream’s count takes INIT; where the work of the step is to be abandoned, its streams end instead. While a die of the ring is not drained the barrier edge does not fall. With a time limit set and the ring not drained, BARRIER_TIMEOUT sets its fault bit after the limit. Enabling a ring that is off sets ENABLE, clears LAYER_COUNT and loads each enabled stream’s count with INIT; enabling it again changes nothing. Disabling clears ENABLE. SPAN changes only while the ring is off and drained, and a write at another time is journalled and ignored. CE_CLR, which the host may write, sets the ring’s corrected count to 0, or to 1 where a correction fell in the same edge. (04_ring_dataflow.md, 05_training_step.md) -/
def Obligations.BarrierAndRingControl : Prop :=
  ((∀ (d : Fin 4) (ends : List PassEnd) (s : State) (e : Nat), s.alive = true → s.ringRuns d.val = true →
    (∀ n ∈ s.ringDies d.val, s.drained n = true) →
    e = (s.ringDies d.val).foldl (fun m n => max m (s.ring n).eventAt) 0 + (if s.package d.val then 28 else 4) →
    ∃ t, exec (.barrierEdge d ends) s = .next t ∧ t.edge = max s.edge e ∧ t.mem = s.mem ∧ t.dies = s.dies ∧ t.dep = s.dep ∧
      t.outer = s.outer ∧
      ∀ n ∈ s.ringDies d.val, t.reg (ringBase n + 0x18) = s.reg (ringBase n + 0x18) + 1 ∧
        (∀ k : Fin 4, s.creditOn n k.val = true → Tab.read 0 (t.ring n).counts k.val = s.creditInit n k.val) ∧
        ∀ (p : Fin 34) (st : StreamId), ((s.core n p.val).stream st).barrier = true →
          (s.abandoning = false → (t.core n p.val).stream st = { (s.core n p.val).stream st with
            barrier := false, window := e, slipped := false, waited := [] }) ∧
          (s.abandoning = true → ((t.core n p.val).stream st).ended = true ∧ ((t.core n p.val).stream st).buf = [])) ∧
  (∀ (d : Fin 4) (ends : List PassEnd) (s : State), (∃ n ∈ s.ringDies d.val, s.drained n = false) →
    exec (.barrierEdge d ends) s = .next s) ∧
  ∀ (d : Fin 4) (s : State), s.alive = true → s.ringOn d.val = true → s.rf (ringBase d.val + 4) 19 4 ≠ 0 → s.drained d.val = false →
    ∃ t, exec (.barrierTimeout d) s = .next t ∧ bit (t.reg (ringBase d.val + 0xC)).toNat rfBarrier = true ∧
      (s.ring d.val).lastBarrier + 65536 * s.rf (ringBase d.val + 4) 19 4 < t.edge ∧ t.mem = s.mem ∧ t.rings = s.rings ∧
      t.dies = s.dies ∧ t.dep = s.dep ∧ t.outer = s.outer) ∧
  ((∀ (d : Fin 4) (s : State), s.power.phase = .on → s.ringOn d.val = false →
    ∃ t, exec (.ringEnable .firmware d) s = .next t ∧ t.ringOn d.val = true ∧ t.reg (ringBase d.val + 0x18) = 0 ∧
      (∀ k : Fin 4, s.creditOn d.val k.val = true → Tab.read 0 (t.ring d.val).counts k.val = s.creditInit d.val k.val) ∧
      sameBut t.rings s.rings [d.val] ∧ t.mem = s.mem ∧ t.cores = s.cores ∧ t.dies = s.dies ∧ t.dep = s.dep ∧ t.edge = s.edge ∧
      t.outer = s.outer) ∧
  (∀ (by_ : Writer) (d : Fin 4) (s : State), s.ringOn d.val = true → exec (.ringEnable by_ d) s = .next s) ∧
  (∀ (d : Fin 4) (s : State), s.power.phase = .on → s.ringOn d.val = true →
    ∃ t, exec (.ringDisable .firmware d) s = .next t ∧ t.ringOn d.val = false ∧ t = { s with regs := t.regs } ∧
      sameBut t.regs s.regs [ringBase d.val + 4] ∧ t.rf (ringBase d.val + 4) 31 1 = s.rf (ringBase d.val + 4) 31 1) ∧
  (∀ (d : Fin 4) (package : Bool) (s : State), s.power.phase = .on →
    (s.ringOn d.val = false → s.drained d.val = true → ∃ t, exec (.ringSpanWrite .firmware d package) s = .next t ∧
      t.package d.val = package ∧ t = { s with regs := t.regs } ∧ sameBut t.regs s.regs [ringBase d.val + 4]) ∧
    (s.ringOn d.val = true ∨ s.drained d.val = false → exec (.ringSpanWrite .firmware d package) s =
      .next (s.notice (Err.aon .notice 0x0A21 0 0 (ringBase d.val + 4))))) ∧
  ∀ (by_ : Writer) (d : Fin 4) (s : State), s.power.phase = .on →
    ∃ t, exec (.ringCeClr by_ d) s = .next t ∧ t = { s with regs := t.regs } ∧ sameBut t.regs s.regs [ringBase d.val + 0x40] ∧
      t.rf (ringBase d.val + 0x40) 15 0 = (if bit (s.freshBits (ringBase d.val + 0x40)) 0 then 1 else 0))

/-- With P the fold of R260, memory-side die P[9:8], stack P[9:6], channel P[5:1] within the stack and pseudo-channel P[0] within the channel; L = a[47:18], below 3,932,160, selects controller row L div 15 and line slot L mod 15; and from P and L the line’s address is recovered, so that two lines never share a place. (R261) -/
def Obligations.AddressPlaces : Prop :=
  (∀ a : Nat, a < 240 * 2 ^ 32 →
    lineDie (lineIndex (foldP a) (a / 2 ^ 18)) = bits (foldP a) 9 8 ∧
    lineStack (lineIndex (foldP a) (a / 2 ^ 18)) = bits (foldP a) 9 6 ∧
    lineChan (lineIndex (foldP a) (a / 2 ^ 18)) = 64 * (bits (foldP a) 9 6 % 4) + 2 * bits (foldP a) 5 1 + bits (foldP a) 0 0 ∧
    a / 2 ^ 18 = bits a 47 18 ∧ a / 2 ^ 18 < 3932160 ∧
    lineRow (lineIndex (foldP a) (a / 2 ^ 18)) = a / 2 ^ 18 / 15 ∧
    lineIndex (foldP a) (a / 2 ^ 18) / 1024 % 15 = a / 2 ^ 18 % 15 ∧
    addressOf [] (foldP a) (a / 2 ^ 18) = a / 256 * 256) ∧
  ∀ a b : Nat, a < 240 * 2 ^ 32 → b < 240 * 2 ^ 32 → placeOf [] a = placeOf [] b → a / 256 = b / 256

/-- For every setting of ranges that R262 does not refuse, each near-memory line has a pseudo-channel below 1,024 and a line index below 3,932,160, from which its address is recovered; and every line of a quarter of a range lies on the die of that quarter. (07_memory_and_vault.md) -/
def Obligations.QuadrantPlaces : Prop :=
  ∀ (qs : List (Nat × Nat)) (a : Nat), qrangesBad qs = false → a < 240 * 2 ^ 32 → a % 256 = 0 →
    (placeOf qs a).1 < 1024 ∧ (placeOf qs a).2 < 3932160 ∧ addressOf qs (placeOf qs a).1 (placeOf qs a).2 = a ∧
    ∀ q ∈ qs, inRange q a = true → (placeOf qs a).1 / 256 = (a - 2 ^ 32 * q.1) / (2 ^ 30 * q.2)

/-- A READ or READ_CLEAR that may issue requests its lines in order, one leaving the core in each edge (R331), each to its place in the core store, and leaves one guard on the bytes they will write. A WRITE or ADD requests its lines with the store’s bytes as data, but for the lines whose words read as uncorrectable, which are not delivered and set STORE_UE. A RELEASE requests its lines without data. None of them writes a byte of memory or of a core store, and no other core, ring, die or block changes. (03_arrays_and_cores.md, 07_memory_and_vault.md, 10_descriptors.md) -/
def Obligations.MemInstructionsRequest : Prop :=
  ∀ (d : Fin 4) (p : Fin 34) (st : StreamId) (s : State) (w e : Nat), e = max s.edge (s.core d.val p.val).nextLeave →
    (∀ x ∈ [(0, LineKind.read, Instr.memRead d p st), (3, .readClear, .memReadClear d p st)], s.mayIssue d.val p.val st 11 x.1 w →
      ∃ t, exec x.2.2 s = .next t ∧ t = { s with mem := t.mem, cores := t.cores, jnl := t.jnl, tally := t.tally } ∧
        sameBut t.cores s.cores [34 * d.val + p.val] ∧
        t.mem = { s.mem with
          reqs := s.mem.reqs ++ leaveFrom e ((List.range (decMem w).lines).map (fun i =>
            coreReq d p x.2.1 (if x.2.1 = .read then (decMem w).hintOf else .stream) (s.memAddr (decMem w) + 256 * i) 0
              (.store d.val p.val ((decMem w).caddr + 256 * i) (s.core d.val p.val).nextId))) } ∧
        (t.core d.val p.val).ops = (s.core d.val p.val).ops ++
          [{ id := (s.core d.val p.val).nextId, stream := st, lo := (decMem w).caddr, hi := (decMem w).caddr + 256 * (decMem w).lines,
             remaining := (decMem w).lines, last := 0, release := none, entry := false }] ∧
        (t.core d.val p.val).nextLeave = e + (decMem w).lines ∧ (t.core d.val p.val).store = (s.core d.val p.val).store) ∧
    (∀ x ∈ [(1, LineKind.write, Instr.memWrite d p st), (2, .add, .memAdd d p st)], s.mayIssue d.val p.val st 11 x.1 w →
      ∃ t, exec x.2.2 s = .next t ∧
        t.mem = { s.mem with
          reqs := s.mem.reqs ++ leaveFrom e (((List.range (decMem w).lines).filter (fun i =>
            !(s.seen d.val p.val).readsUe ((decMem w).caddr + 256 * i) 256)).map (fun i =>
              coreReq d p x.2.1 (decMem w).hintOf (s.memAddr (decMem w) + 256 * i)
                ((s.seen d.val p.val).store.line ((decMem w).caddr + 256 * i)) .none)) } ∧
        (t.core d.val p.val).ops = (s.core d.val p.val).ops ∧ (t.core d.val p.val).store = (s.core d.val p.val).store ∧
        sameBut t.cores s.cores [34 * d.val + p.val] ∧ t.rings = s.rings ∧ t.dies = s.dies ∧ t.dep = s.dep ∧ t.outer = s.outer ∧
        ((s.seen d.val p.val).readsUe (decMem w).caddr (256 * (decMem w).lines) = true →
          bit (t.reg (coreBase d.val p.val + 0xC)).toNat cfUe = true) ∧
        ((s.seen d.val p.val).readsUe (decMem w).caddr (256 * (decMem w).lines) = false →
          sameBut t.regs s.regs [coreBase d.val p.val + 0x3C] ∧
          t = { s with regs := t.regs, recent := t.recent, mem := t.mem, cores := t.cores, jnl := t.jnl, tally := t.tally })) ∧
    (s.mayIssue d.val p.val st 11 4 w →
      ∃ t, exec (.memRelease d p st) s = .next t ∧ t = { s with mem := t.mem, cores := t.cores, jnl := t.jnl, tally := t.tally } ∧
        sameBut t.cores s.cores [34 * d.val + p.val] ∧
        t.mem = { s.mem with
          reqs := s.mem.reqs ++ leaveFrom e ((List.range (decMem w).lines).map (fun i =>
            coreReq d p .release .stream (s.memAddr (decMem w) + 256 * i) 0 .none)) } ∧
        (t.core d.val p.val).ops = (s.core d.val p.val).ops ∧ (t.core d.val p.val).store = (s.core d.val p.val).store)

/-- An ESAVE that may issue, before any step fault, frees the place that an earlier tile of its key held and takes the lowest free granule; with none, and with SPILL, the lowest free place of the tier; with none, a dropped mark where the tile can be recomputed. The index entry names that place, and the tile’s lines are requested there, but for those that read as uncorrectable; a dropped tile requests nothing. With no place, the tile is not saved. After a step fault nothing is saved. An EREAD of a saved tile requests its lines from the tile’s place, with a guard that frees the place where the instruction says so; of a dropped tile, and of one that is not saved, it requests nothing. No core store changes. (05_training_step.md, 10_descriptors.md) -/
def Obligations.EscrowSavesReads : Prop :=
  ∀ (d : Fin 4) (p : Fin 34) (st : StreamId) (s : State) (w e key : Nat) (x : MemI) (j : Job) (y : Step),
    e = max s.edge (s.core d.val p.val).nextLeave → x = decMem w → key = escKey x.stamp x.etile → j = s.step.job.getD {} →
    y = s.step.freeTile key →
    (s.mayIssue d.val p.val st 11 8 w →
      ∃ t, exec (.esave d p st) s = .next t ∧ t.rings = s.rings ∧ t.dies = s.dies ∧ t.dep = s.dep ∧ t.outer = s.outer ∧
        (∀ n q, (t.core n q).store = (s.core n q).store) ∧
        (s.step.faulted = true → t.step = s.step ∧ t.mem = s.mem) ∧
        (s.step.faulted = false →
          (∀ pl base, EscSpot y x pl → EscPlaceAt j pl = some base →
            Tab.find? t.step.escrow key = some pl ∧ t.step.granules = (y.takePlace key pl).granules ∧
            t.step.tierPlaces = (y.takePlace key pl).tierPlaces ∧
            t.mem = { s.mem with
              reqs := s.mem.reqs ++ leaveFrom e (((List.range x.lines).filter (fun i =>
                !(s.seen d.val p.val).readsUe (x.caddr + 256 * i) 256)).map (fun i =>
                  coreReq d p .write x.hintOf (base + 256 * i) ((s.seen d.val p.val).store.line (x.caddr + 256 * i)) .none)) }) ∧
          (EscSpot y x .dropped → Tab.find? t.step.escrow key = some .dropped ∧ t.mem = s.mem) ∧
          ((∀ pl, ¬ EscSpot y x pl) → Tab.find? t.step.escrow key = none ∧ t.mem = s.mem))) ∧
    (s.mayIssue d.val p.val st 11 9 w →
      ∃ t, exec (.eread d p st) s = .next t ∧ t.rings = s.rings ∧ t.dies = s.dies ∧ t.dep = s.dep ∧ t.outer = s.outer ∧
        (t.core d.val p.val).store = (s.core d.val p.val).store ∧ sameBut t.cores s.cores [34 * d.val + p.val] ∧
        t.step.escrow = s.step.escrow ∧
        (Tab.find? s.step.escrow key = none → t.mem = s.mem ∧ (t.core d.val p.val).ops = (s.core d.val p.val).ops) ∧
        (Tab.find? s.step.escrow key = some .dropped →
          t = { s with cores := t.cores, jnl := t.jnl, tally := t.tally } ∧ (t.core d.val p.val).ops = (s.core d.val p.val).ops) ∧
        (∀ pl base, Tab.find? s.step.escrow key = some pl → EscPlaceAt j pl = some base →
          t = { s with mem := t.mem, cores := t.cores, jnl := t.jnl, tally := t.tally } ∧
          t.mem = { s.mem with
            reqs := s.mem.reqs ++ leaveFrom e ((List.range x.lines).map (fun i =>
              coreReq d p .read x.hintOf (base + 256 * i) 0 (.store d.val p.val (x.caddr + 256 * i) (s.core d.val p.val).nextId))) } ∧
          (t.core d.val p.val).ops = (s.core d.val p.val).ops ++
            [{ id := (s.core d.val p.val).nextId, stream := st, lo := x.caddr, hi := x.caddr + 256 * x.lines, remaining := x.lines,
               last := 0, release := if x.erelease then some (key, pl) else none, entry := false }]))

/-- With a read whose lines have all been sent to the core, MEM_READ_COMPLETE passes edges until the edge after the last of them arrives; each line that arrives by then is written whole to its place in the store and none of them is still on its way, the guards of that read are gone, and an Escrow tile that the read frees and no save has replaced is freed. Besides what passing edges change, nothing else changes. With no such read, nothing changes. The oldest read of a pseudo-channel returns and leaves its queue. Where every sector is sound, the line is the data symbols returned: a READ that allocates nothing leaves memory, READ_CLEAR stores a line of zeros, ADD stores the elementwise sum, and a read to a core store is sent over the bridge, whole. A sector with one wrong symbol is corrected and counted, each sector on its own (log 85); with a sector that cannot be corrected HBM_FAULT bit 0 is set and the line is delivered poisoned. A refresh notes the edge of its pseudo-channel, and the symbols that its operand names come to stand wrong (log 79). A scrub read does nothing while scrub is off; a line that returns clean changes nothing but Tally. (07_memory_and_vault.md, 03_arrays_and_cores.md) -/
def Obligations.MemoryPortAndReads : Prop :=
  ((∀ (d : Fin 4) (p : Fin 34) (s : State) (o : MemOp), s.alive = true →
    (s.core d.val p.val).ops.find? (fun o => o.remaining == 0) = some o →
    ∃ t, exec (.memReadComplete d p) s = .next t ∧ t.edge = max s.edge (o.last + 1) ∧
      (t.core d.val p.val).ops = (s.core d.val p.val).ops.filter (fun x => x.id != o.id) ∧
      sameBut t.cores (s.at (o.last + 1)).cores [34 * d.val + p.val] ∧
      (s.edge ≤ o.last →
        (t.core d.val p.val).store = ((s.core d.val p.val).arriving.filter (fun a => decide (a.due ≤ o.last))).foldl
          (fun m a => m.setBytes a.addr a.data) (s.core d.val p.val).store ∧
        ∀ a ∈ (t.core d.val p.val).arriving, o.last < a.due) ∧
      (o.release = none → t = { s.at (o.last + 1) with cores := t.cores }) ∧
      ∀ key pl, o.release = some (key, pl) → t = { s.at (o.last + 1) with cores := t.cores, step := t.step } ∧
        (Tab.find? s.step.escrow key = some pl → t.step = s.step.freeTile key ∧ Tab.find? t.step.escrow key = none) ∧
        (Tab.find? s.step.escrow key ≠ some pl → t.step = s.step)) ∧
  ∀ (d : Fin 4) (p : Fin 34) (s : State), (s.core d.val p.val).ops.find? (fun o => o.remaining == 0) = none →
    exec (.memReadComplete d p) s = .next s) ∧
  ((∀ (d : Fin 4) (ch : Fin 256) (flips : List Flip) (s : State) (x : HbmRead) (li : Nat) (outs : List SectorRead) (v : Line), s.alive = true →
    s.hbmOn d.val = true → (s.die d.val).queue.find? (fun x => x.channel == ch.val) = some x → s.where_ x.req.addr = .near li →
    outs = (s.returned li flips).map sectorOutcome →
    v = BitVec.ofNat 2048 (numOfBytes (((s.returned li flips).flatMap (fun c => c.take 64)).map (BitVec.ofNat 8))) →
    ∃ t, exec (.hbmReadComplete d ch flips) s = .next t ∧ t.edge = s.edge ∧ t.dep = s.dep ∧ t.outer = s.outer ∧
      (x.alloc = .none → (t.die d.val).queue = (s.die d.val).queue.erase x) ∧
      ((∀ o ∈ outs, o = .clean) →
        (x.req.kind = .read → x.alloc = .none → t.mem = s.mem) ∧
        (x.req.kind = .readClear → t.mem = s.mem.putLine (s.steering li) li 0 false) ∧
        (x.req.kind = .add → t.mem = s.mem.putLine (s.steering li) li (addedLine v x.req.data) x.req.poison ∧ t.cores = s.cores) ∧
        (∀ n m a op, x.req.kind = .read ∨ x.req.kind = .readClear → x.req.dest = .store n m a op →
          (t.core n m).arriving = arrive { due := s.edge + s.bridge, addr := a, data := bytesOfNum 256 v.toNat, poison := false }
            (s.core n m).arriving)) ∧
      ((∀ o ∈ outs, o ≠ .bad) → t.rf (hbmBase (lineDie li) + 0x10) 15 0 =
        min (s.rf (hbmBase (lineDie li) + 0x10) 15 0 + countWhere (fun o => o != .clean) outs) 0xFFFF) ∧
      (SectorRead.bad ∈ outs → bit (t.reg (hbmBase (lineDie li) + 0xC)).toNat 0 = true ∧
        ∀ n m a op, x.req.kind = .read ∨ x.req.kind = .readClear → x.req.dest = .store n m a op →
          ∃ y ∈ (t.core n m).arriving, y.due = s.edge + s.bridge ∧ y.addr = a ∧ y.poison = true)) ∧
  (∀ (d : Fin 4) (ch : Fin 256) (ups : List (BitVec 22 × Flip)) (s : State), s.power.phase = .on →
    ∃ t, exec (.hbmRefresh d ch ups) s = .next t ∧ t = { s with mem := t.mem, dies := t.dies } ∧ sameBut t.dies s.dies [d.val] ∧
      t.die d.val = { s.die d.val with refreshed := Tab.put (s.die d.val).refreshed ch.val s.edge } ∧
      t.mem.tier = s.mem.tier ∧ t.mem.reqs = s.mem.reqs ∧ (ups = [] → t.mem = s.mem) ∧
      ∀ line f li, ups = [(line, f)] → line.toNat < 3932160 → li = lineIndex (256 * d.val + ch.val) line.toNat →
        t.mem = (s.returned li [f]).zipIdx.foldl (fun m x => m.putSector (s.steering li) li x.2 x.1) s.mem) ∧
  (∀ (d : Fin 4) (ch : Fin 256) (line : BitVec 22) (flips : List Flip) (s : State), s.rf (hbmBase d.val + 4) 31 24 = 0 →
    exec (.scrubRead d ch line flips) s = .next s) ∧
  ∀ (d : Fin 4) (ch : Fin 256) (line : BitVec 22) (flips : List Flip) (s : State), s.alive = true → s.hbmOn d.val = true →
    s.rf (hbmBase d.val + 4) 31 24 ≠ 0 → line.toNat < 3932160 →
    (∀ x ∈ (s.die d.val).queue, s.where_ x.req.addr ≠ .near (lineIndex (256 * d.val + ch.val) line.toNat)) →
    ∃ t, exec (.scrubRead d ch line flips) s = .next t ∧ t.edge = s.edge ∧ t.cores = s.cores ∧ t.rings = s.rings ∧ t.dep = s.dep ∧
      t.outer = s.outer ∧
      ((∀ c ∈ s.returned (lineIndex (256 * d.val + ch.val) line.toNat) flips, sectorOutcome c = .clean) → t = { s with tally := t.tally }) ∧
      ((∃ c ∈ s.returned (lineIndex (256 * d.val + ch.val) line.toNat) flips, sectorOutcome c = .bad) →
        bit (t.reg (hbmBase d.val + 0xC)).toNat 0 = true))

/-- A WRITE, READ, FETCH or DROP that may issue, and whose source words are not uncorrectable, takes the next place in the order of requests. Where its stream is closing it is refused: STREAM_CLOSED is set at slice stream mod 4. Where no request waits and none is closing: to a stream that is not open it is refused so too; while the stream opens, or the Depository or a memory controller is off, it is held; to a block that is resident and whose entry its slice holds in its cache, a WRITE leaves FILL at least past its rows, a READ below FILL sends its rows to the core store, a READ beyond it sets the fault bit of unwritten rows, FETCH leaves the block resident, and DROP frees its frame and leaves it ABSENT; PIN is as the request says and REF is set. (03_arrays_and_cores.md, 08_depository.md, 10_descriptors.md) -/
def Obligations.DepositoryRequests : Prop :=
  ∀ x ∈ [((0 : Nat), DepKind.write, fun (d : Fin 4) (p : Fin 34) (st : StreamId) => Instr.depWrite d p st),
      (1, .read, fun d p st => .depRead d p st), (2, .fetch, fun d p st => .depFetch d p st), (3, .drop, fun d p st => .depDrop d p st)],
    ∀ (d : Fin 4) (p : Fin 34) (st : StreamId) (s : State) (w e : Nat) (i : DepI), s.mayIssue d.val p.val st 10 x.1 w → i = decDep w →
      e = max s.edge (s.core d.val p.val).nextLeave →
      (x.2.1 = .write → ∀ r ∈ (s.depRegions i).1, (s.seen d.val p.val).readsUe r.1 r.2 = false) →
      (s.dep.closing = some i.stream →
        ∃ t, exec (x.2.2 d p st) s = .next t ∧ bit (t.reg (depBase (i.stream % 4) + 0xC)).toNat 2 = true ∧
          t.dep = { s.dep with issued := s.dep.issued + 1 } ∧ t.mem = s.mem ∧ t.rings = s.rings ∧ t.outer = s.outer) ∧
      (s.dep.closing = none → s.depWaits = [] →
        (s.depDesc? i.stream = none → s.dep.opening ≠ some i.stream →
          ∃ t, exec (x.2.2 d p st) s = .next t ∧ bit (t.reg (depBase (i.stream % 4) + 0xC)).toNat 2 = true ∧
            t.dep = { s.dep with issued := s.dep.issued + 1 } ∧ t.mem = s.mem ∧ t.rings = s.rings ∧ t.outer = s.outer) ∧
        (s.dep.opening = some i.stream ∨ ((s.depDesc? i.stream).isSome = true ∧ (s.depOn = false ∨ s.memFree = false)) →
          ∃ t q, exec (x.2.2 d p st) s = .next t ∧ t.dep = { s.dep with issued := s.dep.issued + 1, held := [q] } ∧
            (∃ rows op, q = { i.req d.val p.val x.2.1 rows op with leave := e, seq := s.dep.issued }) ∧ t.mem = s.mem ∧
            t.rings = s.rings ∧ t.dies = s.dies ∧ t.outer = s.outer) ∧
        (∀ desc k b n, s.depDesc? i.stream = some desc → s.dep.opening ≠ some i.stream → s.depOn = true → s.memFree = true →
          depSlice desc (i.req d.val p.val x.2.1 [] 0) = (k, b) → depBeyond desc (i.req d.val p.val x.2.1 [] 0) = false →
          (s.domain (domMd k 7)).awake = true → (s.slice k).cached b = some n → (s.slice k).cache.length ≤ 4096 → n.loc = .hbm →
          ∃ t, exec (x.2.2 d p st) s = .next t ∧ t.outer = s.outer ∧ t.dep.issued = s.dep.issued + 1 ∧ t.depWaits = [] ∧
            (x.2.1 = .write → ∃ m, (t.slice k).cached b = some m ∧ m = { pinned (i.req d.val p.val .write [] 0) n with
              ref := true, fill := max n.fill (i.pos % descT desc + i.n) }) ∧
            (x.2.1 = .read → i.pos % descT desc + i.n ≤ n.fill → ∀ j, j < i.n → ∃ y ∈ (t.core d.val p.val).arriving,
              y.addr = i.caddr + deliverRow desc i.deliv * j ∧ y.data.length = deliverRow desc i.deliv) ∧
            (x.2.1 = .read → n.fill < i.pos % descT desc + i.n →
              bit (t.reg (depBase k + 0xC)).toNat 4 = true ∧ t.mem = s.mem ∧ (t.slice k).cached b = some n) ∧
            (x.2.1 = .fetch → t.mem = s.mem ∧
              (t.slice k).cached b = some { pinned (i.req d.val p.val .fetch [] 0) n with ref := true }) ∧
            (x.2.1 = .drop → t.mem = s.mem ∧ (t.slice k).cached b = some {} ∧
              (t.slice k).frames = Tab.del (s.slice k).frames n.frame)))

/-- For a requester’s oldest request of a kind, first of its line, and a line that the Vault then holds without an error mark and that no HBM read is outstanding for: the request leaves the queue at the edge at which it reaches the die, or later; READ keeps the line, WRITE replaces its data and makes it dirty, ADD makes it the elementwise FP32 sum, READ_CLEAR makes it zero, RELEASE clears KEEP. STREAM leaves KEEP and the count; KEEP sets KEEP where the line has it or its set holds fewer than KEEP_LIMIT; SPEND sets the count on a write, counts one down on a read, and at the last drops the line. A read to a core store is sent there at the hit’s latency. Near memory keeps its bytes. Bit errors that VAULT_READ’s operand names first come to stand in the banks (log 79). For a requester’s oldest request of a kind, first of its line, to a near-memory line that is not held: READ, ADD and READ_CLEAR join the queue of the line’s pseudo-channel; a WRITE that does not allocate stores the line with its code; one that allocates puts the line, dirty, into the victim’s way, whose own dirty line is written back; a RELEASE does nothing. While the die’s controller is not enabled, or an HBM read of the line is outstanding, or the queue that it needs holds 128 requests, it waits, and nothing changes but the bit errors that VAULT_READ’s operand names. In scratchpad that is in service READ and WRITE are performed; out of service they set fault bit 2; ADD and READ_CLEAR set bit 7 (log 87). Where no memory is, a request sets bit 4; at a tier address a RELEASE does nothing, ADD and READ_CLEAR set bit 7. (07_memory_and_vault.md, 05_training_step.md, 09_schedule_contract.md) -/
def Obligations.VaultRequests : Prop :=
  (∀ (r : Requester) (ups : List (Fin 4 × Fin 40 × Fin 524288 × Bool)) (s : State),
    ∀ x ∈ [(LineKind.read, Instr.vaultRead r ups, ups.foldl (fun s x => s.bankUpset x.1.val x.2.1.val x.2.2.1.val x.2.2.2) s),
           (.write, .vaultWrite r, s), (.add, .vaultAdd r, s), (.readClear, .vaultReadClear r, s), (.release, .vaultRelease r, s)],
    ∀ (u : State) (q : LineReq) (rest : List LineReq) (li k : Nat) (v : VLine), s.alive = true →
      x.2.2.takeReq r x.1 false = some (q, rest) →
      u = { x.2.2.at (x.2.2.arrival q) with mem := { s.mem with reqs := rest } } → u.where_ q.addr = .near li →
      u.hbmOn (lineDie li) = true → (∀ y ∈ (u.die (lineDie li)).queue, u.where_ y.req.addr ≠ .near li) →
      u.held? li = some (k, v) → v.marks = [] →
      ∃ t, exec x.2.1 s = .next t ∧ t = { u with rings := t.rings, cores := t.cores, dies := t.dies, regs := t.regs, tally := t.tally,
                                                 recent := t.recent } ∧
        sameBut t.dies u.dies [lineDie li] ∧
        ((∀ n, q.hint = .spend n → x.1 ≠ .read) → ∃ y, Tab.find? (t.die (lineDie li)).ways k = some y ∧ y.line = li ∧
          (x.1 = .read → y.data = v.data ∧ y.dirty = v.dirty ∧ y.poison = v.poison) ∧
          (x.1 = .write → y.data = q.data ∧ y.dirty = true ∧ y.poison = q.poison) ∧
          (x.1 = .add → y.data = addedLine v.data q.data ∧ y.dirty = true ∧ y.poison = (v.poison || q.poison)) ∧
          (x.1 = .readClear → y.data = 0 ∧ y.dirty = true ∧ y.poison = false) ∧
          (x.1 = .release → y = { v with keep := false }) ∧
          (x.1 = .add ∨ x.1 = .readClear ∨ (x.1 ≠ .release ∧ q.hint = .stream) → y.keep = v.keep ∧ y.count = v.count) ∧
          (x.1 = .read ∨ x.1 = .write → q.hint = .keep →
            y.keep = (v.keep || decide (countWhere (fun w => w.2.keep) ((u.die (lineDie li)).setWays (setOf li)) <
              u.keepLimit (lineDie li)))) ∧
          (∀ n, x.1 = .write → q.hint = .spend n → y.count = n ∧ y.keep = v.keep)) ∧
        (∀ n c, x.1 = .read → q.hint = .spend n → c = (if v.count = 0 then n - 1 else v.count - 1) →
          (c = 0 → Tab.find? (t.die (lineDie li)).ways k = none) ∧
          (0 < c → ∃ y, Tab.find? (t.die (lineDie li)).ways k = some y ∧ y.data = v.data ∧ y.count = c)) ∧
        (x.1 ≠ .read → x.1 ≠ .readClear → t.cores = u.cores ∧ t.rings = u.rings) ∧
        (∀ n m a op, x.1 = .read ∨ x.1 = .readClear → q.dest = .store n m a op → t.rings = u.rings ∧
          (t.core n m).arriving = arrive { due := max u.edge (q.leave + u.vaultHit), addr := a, data := bytesOfNum 256 v.data.toNat,
                                           poison := v.poison } (u.core n m).arriving)) ∧
  (∀ (r : Requester) (ups : List (Fin 4 × Fin 40 × Fin 524288 × Bool)) (s : State),
    ∀ x ∈ [(LineKind.read, Instr.vaultRead r ups, ups.foldl (fun s x => s.bankUpset x.1.val x.2.1.val x.2.2.1.val x.2.2.2) s),
           (.write, .vaultWrite r, s), (.add, .vaultAdd r, s), (.readClear, .vaultReadClear r, s), (.release, .vaultRelease r, s)],
    ∀ (u : State) (q : LineReq) (rest : List LineReq), s.alive = true → x.2.2.takeReq r x.1 false = some (q, rest) →
      u = { x.2.2.at (x.2.2.arrival q) with mem := { s.mem with reqs := rest } } →
      (∀ li, u.where_ q.addr = .near li →
        (u.hbmOn (lineDie li) = false ∨ (∃ y ∈ (u.die (lineDie li)).queue, u.where_ y.req.addr = .near li) ∨
          (u.held? li = none ∧ x.1 ≠ .release ∧ (x.1 = .write → (q.hint = .stream ∨ u.caching (lineDie li) = false)) ∧
            128 ≤ u.channelLoad li) →
          exec x.2.1 s = .next x.2.2) ∧
        (u.hbmOn (lineDie li) = true → (∀ y ∈ (u.die (lineDie li)).queue, u.where_ y.req.addr ≠ .near li) → u.held? li = none →
          (x.1 = .read ∨ x.1 = .add ∨ x.1 = .readClear → u.channelLoad li < 128 →
            ∃ t, exec x.2.1 s = .next t ∧ t = { u with dies := t.dies, tally := t.tally } ∧ sameBut t.dies u.dies [lineDie li] ∧
              t.die (lineDie li) = { u.die (lineDie li) with
                queue := (u.die (lineDie li)).queue ++ [{ req := q, channel := lineChan li,
                                                          alloc := if x.1 = .read ∧ u.caching (lineDie li) = true then missAlloc q.hint else .none }] }) ∧
          (x.1 = .write → q.hint = .stream ∨ u.caching (lineDie li) = false ∨ u.victim li = none → u.channelLoad li < 128 →
            ∃ t, exec x.2.1 s = .next t ∧ t = { u with mem := t.mem, tally := t.tally } ∧
              t.mem = u.mem.putLine (u.steering li) li q.data q.poison) ∧
          (∀ slot old, x.1 = .write → q.hint ≠ .stream → u.caching (lineDie li) = true → u.victim li = some (slot, old) →
            (∀ v, old = some v → v.dirty = true → u.channelLoad v.line < 128) →
            ∃ t y, exec x.2.1 s = .next t ∧ t = { u with mem := t.mem, dies := t.dies, tally := t.tally } ∧
              sameBut t.dies u.dies [lineDie li] ∧ Tab.find? (t.die (lineDie li)).ways (38 * setOf li + slot) = some y ∧
              y.line = li ∧ y.data = q.data ∧ y.dirty = true ∧ y.poison = q.poison ∧
              (∀ n, q.hint = .spend n → y.count = n ∧ y.keep = false) ∧
              (∀ v, old = some v → v.dirty = true →
                t.mem = u.mem.putLine (u.steering v.line) v.line v.data (v.poison || v.marks.any (·.2))) ∧
              ((∀ v, old = some v → v.dirty = false) → t.mem = u.mem)) ∧
          (x.1 = .release → exec x.2.1 s = .next u))) ∧
      (∀ n g o, u.where_ q.addr = .scratch n g o →
        (x.1 = .release → exec x.2.1 s = .next u) ∧
        (x.1 = .write → u.scratchUp n g = true → ∃ t, exec x.2.1 s = .next t ∧ t = { u with dies := t.dies } ∧
          sameBut t.dies u.dies [n] ∧ (t.die n).scratch = (u.die n).scratch.setLine (2 ^ 20 * g + o / 256 * 256) q.data) ∧
        (∀ m l a op, x.1 = .read → u.scratchUp n g = true → (u.die n).scratchMarks = [] → q.dest = .store m l a op →
          ∃ t, exec x.2.1 s = .next t ∧ t = { u with cores := t.cores } ∧ sameBut t.cores u.cores [34 * m + l] ∧
            (t.core m l).arriving = arrive { due := max u.edge (q.leave + u.vaultHit), addr := a,
                                             data := bytesOfNum 256 ((u.die n).scratch.line (2 ^ 20 * g + o / 256 * 256)).toNat,
                                             poison := (u.die n).scratchPoison.contains ((2 ^ 20 * g + o / 256 * 256) / 256) }
              (u.core m l).arriving) ∧
        (x.1 = .read ∨ x.1 = .write → u.scratchUp n g = false → ∃ t, exec x.2.1 s = .next t ∧
          bit (t.reg (vltBase n + 0xC)).toNat 2 = true ∧ t.dies = u.dies ∧ t.mem = u.mem ∧ t.outer = s.outer) ∧
        (x.1 = .add ∨ x.1 = .readClear → ∃ t, exec x.2.1 s = .next t ∧
          bit (t.reg (vltBase n + 0xC)).toNat 7 = true ∧ t.dies = u.dies ∧ t.mem = u.mem ∧ t.outer = s.outer)) ∧
      (∀ o, u.where_ q.addr = .tier o →
        (x.1 = .release → exec x.2.1 s = .next u) ∧
        (x.1 = .add ∨ x.1 = .readClear → ∃ t, exec x.2.1 s = .next t ∧
          bit (t.reg (vltBase (u.homeDie q.addr) + 0xC)).toNat 7 = true ∧ t.dies = u.dies ∧ t.mem = u.mem ∧ t.outer = s.outer)) ∧
      (u.where_ q.addr = .unmapped → ∃ t, exec x.2.1 s = .next t ∧
        bit (t.reg (vltBase (u.homeDie q.addr) + 0xC)).toNat 4 = true ∧ t.dies = u.dies ∧ t.mem = u.mem ∧ t.outer = s.outer))

/-- Enabling MD0’s controller copies the enabled QUADRANT ranges, or, where a range is empty, passes the end or meets another, sets its fault bit and enables nothing; MD1 to MD3 enable only once MD0 has, and a write before that is journalled and ignored; a write to a controller that is on changes nothing. A Vault whose MODE differs from another die’s does not enable and its fault bit 6 stands; with no partition table, or in COMPAT mode, it starts with no line held; with one, it starts with the partitions of its records if each passes the checks and no two meet, sets fault bit 0 where one fails, and while a controller is off the write waits. Disabling leaves no line held and ends a flush, or waits for the controller where lines are dirty or reads outstanding. UNKEEP_ALL clears every KEEP mark and changes nothing else. A flush of an enabled Vault is noted, of a disabled one is over at once, and its completion leaves no line dirty. The count clears, which the host may write, set their counts to 0, or to 1 where an event fell in the same edge. (07_memory_and_vault.md) -/
def Obligations.MemoryControl : Prop :=
  (∀ s : State, s.power.phase = .on → s.hbmOn 0 = false →
    ∃ t, exec (.hbmEnable .firmware) s = .next t ∧ t.outer = s.outer ∧
      (qrangesBad s.qrangeRegs = true → t.hbmOn 0 = false ∧ bit (t.reg (hbmBase 0 + 0xC)).toNat 1 = true ∧ t.mem = s.mem ∧
        t.dies = s.dies ∧ sameBut t.regs s.regs [hbmBase 0 + 0xC]) ∧
      (qrangesBad s.qrangeRegs = false →
        t = ({ s.setRf (hbmBase 0 + 4) 0 0 1 with mem := { s.mem with qranges := s.qrangeRegs } } : State).memResume ∧
        ((∀ d : Fin 4, (s.die d.val).enabling = false ∧ (s.die d.val).disabling = false) →
          (∀ n : Fin 2, (s.teller n.val).flushing = false ∧ (s.teller n.val).computing = false) → t.hbmOn 0 = true ∧
          t = { s with regs := t.regs, mem := { s.mem with qranges := s.qrangeRegs } } ∧ sameBut t.regs s.regs [hbmBase 0 + 4]))) ∧
  (∀ (by_ : Writer) (s : State), s.hbmOn 0 = true → exec (.hbmEnable by_) s = .next s) ∧
  (∀ (m : Fin 3) (s : State), s.power.phase = .on → s.hbmOn (m.val + 1) = false →
    (s.hbmOn 0 = false → exec (.hbmEnableMember .firmware m) s =
      .next (s.notice (Err.aon .notice 0x0A21 0 0 (hbmBase (m.val + 1) + 4)))) ∧
    (s.hbmOn 0 = true → ∃ t, exec (.hbmEnableMember .firmware m) s = .next t ∧
      t = (s.setRf (hbmBase (m.val + 1) + 4) 0 0 1).memResume ∧
      ((∀ d : Fin 4, (s.die d.val).enabling = false ∧ (s.die d.val).disabling = false) →
          (∀ n : Fin 2, (s.teller n.val).flushing = false ∧ (s.teller n.val).computing = false) → t.hbmOn (m.val + 1) = true ∧
        t = { s with regs := t.regs } ∧ sameBut t.regs s.regs [hbmBase (m.val + 1) + 4]))) ∧
  (∀ (by_ : Writer) (d : Fin 4) (which : MemCount) (s : State), s.power.phase = .on →
    ∃ t, exec (.hbmCeClr by_ d which) s = .next t ∧ t = { s with regs := t.regs } ∧ sameBut t.regs s.regs [MemCount.reg d.val which] ∧
      t.rf (MemCount.reg d.val which) 15 0 = (if bit (s.freshBits (MemCount.reg d.val which)) 0 then 1 else 0)) ∧
  (∀ (d : Fin 4) (s : State), s.power.phase = .on → s.vltOn d.val = false →
    ∃ t, exec (.vaultEnable .firmware d) s = .next t ∧ t.outer = s.outer ∧
      ((∃ i : Fin 4, s.modeCompat i.val ≠ s.modeCompat d.val) → t.vltOn d.val = false ∧
        bit (t.reg (vltBase d.val + 0xC)).toNat 6 = true ∧ t.mem = s.mem) ∧
      ((∀ i : Fin 4, s.modeCompat i.val = s.modeCompat d.val) →
        (s.modeCompat d.val = true ∨ s.rf (vltBase d.val + 0x14) 6 0 = 0 →
          t.vltOn d.val = true ∧ t = { s with regs := t.regs, dies := t.dies } ∧ sameBut t.regs s.regs [vltBase d.val + 4] ∧
          sameBut t.dies s.dies [d.val] ∧ (t.die d.val).ways = [] ∧ (t.die d.val).parts = []) ∧
        (s.modeCompat d.val = false → s.rf (vltBase d.val + 0x14) 6 0 ≠ 0 → s.memFree = false →
          t.vltOn d.val = false ∧ (t.die d.val).enabling = true ∧ t = { s with dies := t.dies }) ∧
        (∀ u tb mine, s.modeCompat d.val = false → s.rf (vltBase d.val + 0x14) 6 0 ≠ 0 → s.memFree = true →
          u = s.modDie d.val (fun m => { m with enabling := false }) → tb = u.partTable d.val →
          mine = tb.1.filter (fun x => x.die == d.val || x.version != 1 || decide (3 < x.die)) →
          ((∀ x ∈ mine, x.bad (u.die d.val) = false) → firstMeeting mine = none →
            t = tb.2.vaultStart d.val (mine.map (fun x => { first := x.first, count := x.count, id := x.id })) ∧ t.vltOn d.val = true) ∧
          ((∃ x ∈ mine, x.bad (u.die d.val) = true) → bit (t.reg (vltBase d.val + 0xC)).toNat 0 = true)))) ∧
  (∀ (d : Fin 4) (s : State), s.power.phase = .on → s.vltOn d.val = true →
    ∃ t, exec (.vaultDisable .firmware d) s = .next t ∧ t.outer = s.outer ∧
      (s.hbmOn d.val = true ∨ ((∀ w ∈ (s.die d.val).ways, w.2.dirty = false) ∧ (s.die d.val).queue = []) →
        t.vltOn d.val = false ∧ (t.die d.val).ways = [] ∧ t.rf (vltBase d.val + 8) 1 1 = 0) ∧
      (s.hbmOn d.val = false → ((∃ w ∈ (s.die d.val).ways, w.2.dirty = true) ∨ (s.die d.val).queue ≠ []) →
        t.vltOn d.val = true ∧ (t.die d.val).disabling = true ∧ t = { s with dies := t.dies })) ∧
  (∀ (d : Fin 4) (s : State), s.power.phase = .on →
    (s.vltOn d.val = true → ∃ t, exec (.vaultFlush .firmware d) s = .next t ∧ t.rf (vltBase d.val + 8) 1 1 = 1 ∧
      t = { s with regs := t.regs } ∧ sameBut t.regs s.regs [vltBase d.val + 8]) ∧
    (s.vltOn d.val = false → exec (.vaultFlush .firmware d) s = .next s)) ∧
  (∀ (d : Fin 4) (s : State), s.alive = true → s.hbmOn d.val = true → s.rf (vltBase d.val + 8) 1 1 = 1 →
    ∃ t, exec (.vaultFlushComplete d) s = .next t ∧ t.rf (vltBase d.val + 8) 1 1 = 0 ∧
      (t.die d.val).ways = (s.die d.val).ways.map (fun w => (w.1, { w.2 with dirty := false })) ∧ t.cores = s.cores ∧
      t.rings = s.rings ∧ t.outer = s.outer ∧
      (∀ k v, (s.die d.val).ways = [(k, v)] → v.dirty = true →
        t.mem = s.mem.putLine (s.steering v.line) v.line v.data (v.poison || v.marks.any (·.2)))) ∧
  ∀ (d : Fin 4) (s : State), s.power.phase = .on → ∃ t, exec (.unkeepAll .firmware d) s = .next t ∧
    t = { s with dies := t.dies } ∧ sameBut t.dies s.dies [d.val] ∧
    t.die d.val = { s.die d.val with ways := (s.die d.val).ways.map (fun w => (w.1, { w.2 with keep := false })) }

/-- A tier READ or WRITE, at the edge at which it reaches its die or later, is issued to the port that holds its address; it waits while the port is lost or an earlier WRITE of the line is in flight; beyond the populated capacity it sets fault bit 5 of its home die. A WRITE’s completion leaves the line’s data in the tier, poisoned exactly if the request was, and every byte outside the line as it was. A READ’s completion leaves the tier’s bytes as they were and delivers the line, poisoned if the tier’s line is or the device poisons it. A request that a page transfer reached the port before waits. A populated port that is lost stays lost, and the package needs to leave the job. (01_module_overview.md, 07_memory_and_vault.md, 13_faults_and_ledger.md) -/
def Obligations.TierRequests : Prop :=
  (∀ (r : Requester) (s u : State) (q : LineReq) (rest : List LineReq), s.alive = true →
    ∀ x ∈ [(LineKind.read, Instr.xtRead r), (.write, .xtWrite r)], s.takeReq r x.1 true = some (q, rest) → u = s.at (s.arrival q) →
      (∀ p, u.tierPort? (q.addr % 2 ^ 44) = some p →
        (u.mem.xtLost.contains p = false → u.mem.xt.any (fun y => y.req.kind == .write && y.req.addr == q.addr) = false →
          exec x.2 s = .next { u with mem := { u.mem with reqs := rest, xt := u.mem.xt ++ [{ req := q, port := p, order := u.nextId }] },
                                      nextId := u.nextId + 1 }) ∧
        ((u.mem.xtLost.contains p = true ∨ u.mem.xt.any (fun y => y.req.kind == .write && y.req.addr == q.addr) = true) →
          exec x.2 s = .next s)) ∧
      (u.tierPort? (q.addr % 2 ^ 44) = none → ∃ t, exec x.2 s = .next t ∧ t.mem = { u.mem with reqs := rest } ∧
        bit (t.reg (vltBase (u.homeDie q.addr) + 0xC)).toNat 5 = true ∧ t.outer = s.outer)) ∧
  (∀ (p : Fin 4) (poison : Bool) (s : State) (x : XtReq), s.alive = true → s.mem.xtLost.contains p.val = false →
    s.mem.xt.find? (fun x => x.port == p.val) = some x →
    (s.behindPage x = true → exec (.xtCompletion p poison) s = .next s) ∧
    (s.behindPage x = false →
      ∃ t, exec (.xtCompletion p poison) s = .next t ∧ t.mem.xt = s.mem.xt.erase x ∧ t.mem.near = s.mem.near ∧ t.mem.reqs = s.mem.reqs ∧
        t.outer = s.outer ∧ t.edge = s.edge ∧ t.dep = s.dep ∧
        (x.req.kind = .write → t.mem.tier = s.mem.tier.setLine (x.req.addr % 2 ^ 44 / 256 * 256) x.req.data ∧
          t.mem.tier.line (x.req.addr % 2 ^ 44 / 256 * 256) = x.req.data ∧
          t.mem.tierPoison.contains (x.req.addr % 2 ^ 44 / 256) = x.req.poison ∧ t.cores = s.cores ∧
          ∀ b, b / 256 ≠ x.req.addr % 2 ^ 44 / 256 → t.mem.tier.byte b = s.mem.tier.byte b) ∧
        (x.req.kind ≠ .write → t.mem.tier = s.mem.tier ∧
          ∀ n m a op, x.req.dest = .store n m a op → (t.core n m).arriving =
            arrive { due := s.edge + 2 * s.bridge, addr := a,
                     data := bytesOfNum 256 (s.mem.tier.line (x.req.addr % 2 ^ 44 / 256 * 256)).toNat,
                     poison := poison || s.mem.tierPoison.contains (x.req.addr % 2 ^ 44 / 256) } (s.core n m).arriving))) ∧
  ∀ (p : Fin 4) (s : State), s.alive = true → 0 < s.mem.cxl.getD p.val 0 → s.mem.xtLost.contains p.val = false →
    ∃ t, exec (.cxlPortLost p) s = .next t ∧ t.mem = { s.mem with xtLost := s.mem.xtLost ++ [p.val] } ∧ t.cores = s.cores ∧
      t.outer = s.outer ∧
      (s.verdict (Err.of .depart 0x423 (cxlDomain p.val) p.val) = .act → t.rec_.departNeeded = true)

/-- A write of DEP_OPEN or DEP_CLOSE while one is in progress is ignored and journalled. An open reads the stream’s descriptor, at once or once memory serves its slice; a refused descriptor sets the fault bit that R299 names and ends the open, another is kept. The open completes with the block table written ABSENT, and held requests go on. DEP_CLOSE of a stream that is not open changes nothing; with anything of the stream pending it is noted and waits; else it frees every frame and cached entry of the stream in each slice, and the stream is no longer open. Enabling the Depository with its pool range disabled, or paging without a region, sets a fault bit and does not enable; else it sets ENABLE, and held requests go on. With a fault-queue entry without a transfer, a free frame and fewer than 16 transfers, PAGE_IN_START starts one for the oldest such entry, takes the frame and marks the block MOVING. PAGE_IN_COMPLETE ends the oldest page-in: its block is resident in its frame, the region frame and the fault-queue entry are freed, and then the requests that waited for it are served in order. PAGE_OUT_COMPLETE ends the oldest page-out: its block is in the tier, and its frame is free. A transfer does not end while a port that it uses is lost. PAGE_OUT_START does nothing with 16 transfers, or while a page-in could start, or while the free frames are not below LOW and paging is not going on; at HIGH it stops; with a block that the sweep finds and a free region frame it starts that block out. The front of the intake leaves it once it can proceed, with the requests of its core behind it. (08_depository.md, 07_memory_and_vault.md, 01_module_overview.md) -/
def Obligations.DepositoryStreams : Prop :=
  ((∀ (by_ : Writer) (st : BitVec 16) (s : State), s.power.phase = .on → s.dep.opening.isSome = true →
    exec (.depOpen by_ st) s = .next (s.notice (Err.aon .notice 0x0A21 0 0 (depBase 0 + 0x18)))) ∧
  (∀ (by_ : Writer) (st : BitVec 16) (s : State), s.power.phase = .on → s.dep.closing.isSome = true →
    exec (.depClose by_ st) s = .next (s.notice (Err.aon .notice 0x0A21 0 0 (depBase 0 + 0x1C)))) ∧
  (∀ (by_ : Writer) (st : BitVec 16) (s u : State), s.power.phase = .on → s.dep.opening = none →
    u = { s with dep := { s.dep with opening := some st.toNat, reading := true } } →
    (s.memFree = false → exec (.depOpen by_ st) s = .next u) ∧
    (∀ r, s.memFree = true →
      r = u.readBytes (2 ^ 32 * s.rf (depBase 0 + 0x14) 15 0 + 2 ^ 8 * s.rf (depBase 0 + 0x10) 31 8 + 64 * st.toNat) 64 →
      ∃ t, exec (.depOpen by_ st) s = .next t ∧ t.outer = s.outer ∧ t.dep.reading = false ∧
        (r.2.2.descFault st.toNat r.1 = none → t.dep.opening = some st.toNat ∧ t.depDesc? st.toNat = some r.1) ∧
        (∀ b, r.2.2.descFault st.toNat r.1 = some b → t.dep.opening = none ∧ t.dep.streams = s.dep.streams ∧
          bit (t.reg (depBase (st.toNat % 4) + 0xC)).toNat b = true))) ∧
  (∀ (s : State) (st desc : Nat), s.memFree = true → s.dep.opening = some st → s.dep.reading = false → s.depDesc? st = some desc →
    ∃ t u, exec .depOpenComplete s = .next t ∧ u = s.putBytes (descTable desc)
        ((List.range (descBlocks desc)).flatMap (fun _ => bytesOfNum 8 (DepEntry.word {}))) ∧
      t = ({ u with dep := { s.dep with opening := none } } : State).depSettle ∧
      (s.depWaits = [] → s.dep.closing = none → t = { u with dep := { s.dep with opening := none } } ∧ t.outer = s.outer)) ∧
  (∀ s : State, s.memFree = false → exec .depOpenComplete s = .next s) ∧
  (∀ (by_ : Writer) (st : BitVec 16) (s : State), s.power.phase = .on → s.dep.closing = none → s.depDesc? st.toNat = none →
    exec (.depClose by_ st) s = .next s) ∧
  (∀ (by_ : Writer) (st : BitVec 16) (s : State), s.power.phase = .on → s.dep.closing = none → (s.depDesc? st.toNat).isSome = true →
    (s.dep.opening = some st.toNat ∨ s.depPending st.toNat = true ∨ s.memFree = false) →
    exec (.depClose by_ st) s = .next { s with dep := { s.dep with closing := some st.toNat } }) ∧
  (∀ (by_ : Writer) (st : BitVec 16) (s : State) (desc : Nat), s.power.phase = .on → s.memFree = true → s.dep.closing = none →
    s.dep.opening ≠ some st.toNat → s.depDesc? st.toNat = some desc → s.depPending st.toNat = false →
    (∀ i : Fin 4, (s.slice i.val).forFrame = []) →
    ∃ t, exec (.depClose by_ st) s = .next t ∧ t.dep.closing = none ∧ t.depDesc? st.toNat = none ∧ t.outer = s.outer ∧
      ∀ i : Fin 4, t.slice i.val = { s.slice i.val with
        cache := (s.slice i.val).cache.filter (fun e => keyStream e.1 != st.toNat),
        frames := (s.slice i.val).frames.filter (fun f => keyStream f.2 != st.toNat),
        xtFrames := (s.slice i.val).xtFrames.filter (fun f => keyStream f.2 != st.toNat) }) ∧
  (∀ (by_ : Writer) (s : State), s.depOn = true → exec (.depEnable by_) s = .next s) ∧
  ∀ s : State, s.power.phase = .on → s.depOn = false →
    ∃ t, exec (.depEnable .firmware) s = .next t ∧
      (s.rf (hbmBase 0 + 0x40 + 4 * s.rf (depBase 0 + 4) 7 6) 31 31 = 0 ∨
          (s.pageEn = true ∧ (s.step.job.map (·.xtDep)).getD 0 < 4) →
        t.depOn = false ∧ bit (t.reg (depBase 0 + 0xC)).toNat 7 = true ∧ t.dep = s.dep ∧ t.mem = s.mem ∧ t.outer = s.outer) ∧
      (s.rf (hbmBase 0 + 0x40 + 4 * s.rf (depBase 0 + 4) 7 6) 31 31 ≠ 0 →
          (s.pageEn = true → 4 ≤ (s.step.job.map (·.xtDep)).getD 0) →
        t = (s.setRf (depBase 0 + 4) 0 0 1).depSettle ∧
        (s.depWaits = [] → s.dep.closing = none → t.depOn = true ∧ t = { s with regs := t.regs } ∧
          sameBut t.regs s.regs [depBase 0 + 4]))) ∧
  ((∀ (i : Fin 4) (s : State) (f : FaultEntry) (h : Nat), s.memFree = true → s.depOn = true → (s.slice i.val).nextPageIn = some f →
    s.freeFrame i.val = some h → (s.slice i.val).moves.length < 16 →
    ∃ t m n, exec (.pageInStart i) s = .next t ∧ (t.slice i.val).moves = (s.slice i.val).moves ++ [m] ∧ m.key = f.key ∧
      m.toTier = false ∧ m.hbm = h ∧ Tab.find? (t.slice i.val).frames h = some f.key ∧
      (t.slice i.val).cached f.key = some n ∧ n.loc = .moving ∧ n.frame = m.xt ∧ t.outer = s.outer) ∧
  (∀ (i : Fin 4) (s : State), ((s.slice i.val).nextPageIn = none ∨ s.freeFrame i.val = none ∨ 16 ≤ (s.slice i.val).moves.length) →
    exec (.pageInStart i) s = .next s) ∧
  (∀ (i : Fin 4) (poison : List (Fin 256)) (s : State) (m : PageMove), s.moveFree m = true →
    (s.slice i.val).moves.find? (fun m => !m.toTier) = some m →
    ∃ (u : State) (n : DepEntry), exec (.pageInComplete i poison) s = .next
        (((((s.slice i.val).faults.find? (fun f => f.key == m.key)).map (·.waiting)).getD []).foldl State.depRequest u).depSettle ∧
      (u.slice i.val).moves = (s.slice i.val).moves.erase m ∧ (u.slice i.val).xtFrames = Tab.del (s.slice i.val).xtFrames m.xt ∧
      (u.slice i.val).faults = (s.slice i.val).faults.filter (fun f => f.key != m.key) ∧
      (u.slice i.val).frames = (s.slice i.val).frames ∧
      (u.slice i.val).cached m.key = some n ∧ n.loc = .hbm ∧ n.frame = m.hbm ∧ u.outer = s.outer) ∧
  (∀ (i : Fin 4) (s : State) (m : PageMove), s.moveFree m = true → (s.slice i.val).moves.find? (fun m => m.toTier) = some m →
    ∃ (u : State) (n : DepEntry), exec (.pageOutComplete i) s = .next u.depSettle ∧ (u.slice i.val).moves = (s.slice i.val).moves.erase m ∧
      (u.slice i.val).frames = Tab.del (s.slice i.val).frames m.hbm ∧ (u.slice i.val).xtFrames = (s.slice i.val).xtFrames ∧
      (u.slice i.val).cached m.key = some n ∧ n.loc = .xt ∧ n.frame = m.xt ∧ u.outer = s.outer) ∧
  (∀ (i : Fin 4) (poison : List (Fin 256)) (s : State) (m : PageMove), s.moveFree m = false →
    ((s.slice i.val).moves.find? (fun m => !m.toTier) = some m → exec (.pageInComplete i poison) s = .next s) ∧
    ((s.slice i.val).moves.find? (fun m => m.toTier) = some m → exec (.pageOutComplete i) s = .next s)) ∧
  (∀ (i : Fin 4) (s : State), (16 ≤ (s.slice i.val).moves.length ∨
      ((s.slice i.val).nextPageIn.isSome = true ∧ (s.freeFrame i.val).isSome = true) ∨
      (s.markLow i.val ≤ s.hbmFree i.val ∧ (s.slice i.val).sweeping = false)) → exec (.pageOutStart i) s = .next s) ∧
  (∀ (i : Fin 4) (s : State), s.memFree = true → s.depOn = true → s.pageEn = true → (s.slice i.val).moves.length < 16 →
    ((s.slice i.val).nextPageIn = none ∨ s.freeFrame i.val = none) →
    (s.hbmFree i.val < s.markLow i.val ∨ (s.slice i.val).sweeping = true) →
    (s.markHigh i.val ≤ s.hbmFree i.val →
      exec (.pageOutStart i) s = .next (s.modSlice i.val (fun x => { x with sweeping := false }))) ∧
    (∀ f key y, s.freeRegion i.val = some y →
      s.hbmFree i.val + countWhere (fun (m : PageMove) => m.toTier) (s.slice i.val).moves < s.markHigh i.val →
      (s.sweep i.val ((s.slice i.val).frames.filter (fun f => decide ((s.slice i.val).sweepAt ≤ f.1)) ++
        (s.slice i.val).frames.filter (fun f => decide (f.1 < (s.slice i.val).sweepAt))) [0, 1, 2, 3, 3]).1 = some (f, key) →
      ∃ t m n, exec (.pageOutStart i) s = .next t ∧ (t.slice i.val).moves = (s.slice i.val).moves ++ [m] ∧ m.key = key ∧
        m.toTier = true ∧ m.hbm = f ∧ m.xt = y ∧ Tab.find? (t.slice i.val).xtFrames y = some key ∧
        (t.slice i.val).sweepAt = f + 1 ∧ (t.slice i.val).sweeping = true ∧ (t.slice i.val).cached key = some n ∧ n.loc = .moving ∧
        t.outer = s.outer)) ∧
  (∀ (i : Fin 4) (s : State), (s.slice i.val).intake = [] → exec (.depIntakeRelease i) s = .next s) ∧
  ∀ (i : Fin 4) (s : State) (q : DepReq) (rest : List DepReq), (s.slice i.val).intake = q :: rest →
    (s.memFree = true → s.depOn = true → s.intakeFree i.val q = true →
      exec (.depIntakeRelease i) s = .next (((rest.filter (sameCore q)).foldl State.depRequest
        ((s.modSlice i.val (fun x => { x with intake := rest.filter (fun x => !sameCore q x) })).depRequest q)).depSettle)) ∧
    ((s.memFree = false ∨ s.depOn = false ∨ s.intakeFree i.val q = false) → exec (.depIntakeRelease i) s = .next s))

/-- A write of TLR_ENQ by firmware puts the index behind those queued while fewer than 64 records are queued or in progress; with 64 it is discarded and QUEUE_OVER is set. A record in progress completes, while the memory controllers serve, by posting its layer and status in TLR_LAST and in the report being formed; with status 0, 2 or 3, the layer of an UPDATE record, as it was read at the head of the queue, is then sent to the group, and with no group nothing is sent. QFLUSH does nothing while ENABLE is 1 or the queue is empty; otherwise it empties the queue and posts status 0x43 for the layer of each record, or, while the controllers are off, waits (R548). (06_teller_update.md, 14_startup_and_host.md) -/
def Obligations.TellerQueues : Prop :=
  (∀ (n : Fin 2) (i : BitVec 16) (s : State), s.power.phase = .on →
    ((s.teller n.val).level < 64 → ∃ t, exec (.tlrEnq .firmware n i) s = .next t ∧ t = { s with step := t.step, domains := t.domains } ∧
      t.step = s.step.setTeller n.val { s.teller n.val with queue := (s.teller n.val).queue ++ [i.toNat] } ∧
      sameBut t.domains s.domains [domXd n.val 9]) ∧
    (64 ≤ (s.teller n.val).level → ∃ t, exec (.tlrEnq .firmware n i) s = .next t ∧ t.teller n.val = s.teller n.val ∧
      bit (t.reg (tlrBase n.val + 0xC)).toNat 0 = true ∧ t.mem = s.mem ∧ t.cores = s.cores ∧ t.outer = s.outer)) ∧
  (∀ (n : Fin 2) (s u : State) (i layer status : Nat) (r : Rec), s.memFree = true → (s.teller n.val).current = some (i, layer, status) →
    r = decRec (s.teller n.val).record →
    u = { s.setReg (tlrBase n.val + 0x3C) (BitVec.ofNat 32 (2 ^ 24 * status + layer)) with
          step := { s.step.setTeller n.val { s.teller n.val with current := none, matrix := false } with
            reportDone := s.step.reportDone + (if status = 0 then 1 else 0),
            reportEntries := s.step.reportEntries ++
              (if status = 0 then [] else [{ layer := layer, status := status, teller := n.val }]) } } →
    exec (.recordComplete n) s = .next (if status ∈ [0, 2, 3] ∧ r.op = 0 then u.broadcast i r else u) ∧
    (s.peersOf = 0 → u.broadcast i r = u)) ∧
  (∀ (n : Fin 2) (s : State), (s.teller n.val).current = none ∨ s.memFree = false → exec (.recordComplete n) s = .next s) ∧
  ∀ (n : Fin 2) (s : State), s.power.phase = .on →
    (s.rf (tlrBase n.val + 4) 0 0 = 1 ∨ (s.teller n.val).queue = [] → exec (.qflush .firmware n) s = .next s) ∧
    (s.rf (tlrBase n.val + 4) 0 0 = 0 → (s.teller n.val).queue ≠ [] → s.memFree = true → ∃ t, exec (.qflush .firmware n) s = .next t ∧
      t.outer = s.outer ∧ t = (s.teller n.val).queue.foldl (fun (u : State) i => u.postStatus n.val (u.readRec n.val i).1.layer 0x43)
        (s.setTeller n.val { s.teller n.val with queue := [], flushing := false })) ∧
    (s.rf (tlrBase n.val + 4) 0 0 = 0 → (s.teller n.val).queue ≠ [] → s.memFree = false →
      exec (.qflush .firmware n) s = .next (s.setTeller n.val { s.teller n.val with flushing := true }))

/-- The head of the queue may start where the memory controllers serve, the step is in RUN, ENABLE is 1, no record is in progress and the Teller is awake; it is then read, its FROZEN bit as of the last Posting; otherwise none of the three commands does anything. An UPDATE record that reads as uncorrectable ends with status 0x42, an invalid one with the status of its fault; one that is valid and not frozen is updated, a CONTRIBUTE record contributes, and a valid frozen record ends with status 1 and one more counted in TLR_FROZEN, reading no gradient. Each command leaves a head of another kind alone. (06_teller_update.md) -/
def Obligations.TellerRunsHead : Prop :=
  (∀ (n : Fin 2) (s : State) (i : Nat) (rest : List Nat), (s.teller n.val).queue = i :: rest → s.memFree = true → s.step.post = 0 →
    s.rf (tlrBase n.val + 4) 0 0 = 1 → (s.teller n.val).current = none → (s.domain (domXd n.val 9)).awake = true →
    ∃ s1, s.tellerHead n.val =
      some (i, { (s.readRec n.val i).1 with frozen := s.frozenNow i (s.readRec n.val i).1 }, (s.readRec n.val i).2.1, s1) ∧
      s1.outer = s.outer) ∧
  (∀ (n : Fin 2) (s : State), ((s.teller n.val).queue = [] ∨ s.memFree = false ∨ s.step.post ≠ 0 ∨ s.rf (tlrBase n.val + 4) 0 0 = 0 ∨
      (s.teller n.val).current ≠ none ∨ (s.domain (domXd n.val 9)).awake = false) →
    exec (.tellerUpdate n) s = .next s ∧ exec (.tellerContribute n) s = .next s ∧ exec (.tellerFrozen n) s = .next s) ∧
  ∀ (n : Fin 2) (s s1 : State) (i : Nat) (r : Rec) (ue : Bool), s.tellerHead n.val = some (i, r, ue, s1) →
    (ue = true → ∃ t, exec (.tellerUpdate n) s = .next t ∧ bit (t.reg (tlrBase n.val + 0xC)).toNat 3 = true ∧
      t.teller n.val = { s1.teller n.val with queue := (s1.teller n.val).queue.tail, current := some (i, r.layer, 0x42) } ∧
      t.mem = s1.mem ∧ t.cores = s1.cores ∧ t.outer = s.outer) ∧
    (∀ status, ue = false → r.invalid n.val = some status → ∃ t,
      exec (if r.op = 1 then .tellerContribute n else .tellerUpdate n) s = .next t ∧
      bit (t.reg (tlrBase n.val + 0xC)).toNat (if status = 0x40 then 1 else 2) = true ∧
      t.teller n.val = { s1.teller n.val with queue := (s1.teller n.val).queue.tail, current := some (i, r.layer, status) } ∧
      t.mem = s1.mem ∧ t.cores = s1.cores ∧ t.outer = s.outer) ∧
    (ue = false → r.op ≠ 1 → r.invalid n.val = none → r.frozen = false → ∃ t, exec (.tellerUpdate n) s = .next t ∧
      t = s1.runUpdate n.val i r ∧ t.outer = s.outer) ∧
    (ue = false → r.op = 1 → r.invalid n.val = none → r.frozen = false → ∃ t, exec (.tellerContribute n) s = .next t ∧
      t = s1.runContribute n.val i r ∧ t.outer = s.outer) ∧
    (ue = false → r.invalid n.val = none → r.frozen = true → ∃ t, exec (.tellerFrozen n) s = .next t ∧
      t = { s1 with step := t.step, regs := t.regs, recent := t.recent } ∧ sameBut t.regs s1.regs [tlrBase n.val + 0x30] ∧
      t.step = s1.step.setTeller n.val
        { s1.teller n.val with queue := (s1.teller n.val).queue.tail, current := some (i, r.layer, 1) } ∧
      t.reg (tlrBase n.val + 0x30) = BitVec.ofNat 32 (min ((s1.reg (tlrBase n.val + 0x30)).toNat + 1) (2 ^ 32 - 1))) ∧
    (ue = false → r.op = 1 → exec (.tellerUpdate n) s = .next s) ∧
    (ue = true ∨ r.op ≠ 1 → exec (.tellerContribute n) s = .next s) ∧
    (r.frozen = false → exec (.tellerFrozen n) s = .next s)

/-- From an exponent e of at most 64 and counts GOOD and BAD: a Posting adds one to GOOD, up to 65,535, and leaves e, but for dynamic scaling whose GROWTH steps are complete below EMAX, which raises e by one and clears GOOD; it clears BAD. A non-finite skip lowers e by one, not below EMIN, where scaling is dynamic, clears GOOD and adds one to BAD, up to 255. A skip on a step fault changes none of the three. While a Teller is enabled, a write of SCH_COMPUTE is ignored and journalled. While both are disabled and the memory controllers serve, the engine is woken and computes the values of the step that TLR_STEP holds; nothing outside the package changes. While both are disabled and the controllers are off, the computation waits for them (R548). (06_teller_update.md, 07_memory_and_vault.md, 05_training_step.md) -/
def Obligations.SchedulesAndLossScale : Prop :=
  (∀ (e good bad growth emax emin : Nat), e ≤ 64 → good < 65536 → bad < 256 → growth < 65536 → emin ≤ emax → emax ≤ 64 →
    ∀ (dyn : Bool), ∀ cfg ls : Nat, ls = 2 ^ 16 * good + 2 ^ 8 * bad + e → cfg = 2 ^ 31 * b2n dyn + 2 ^ 24 * emax + 2 ^ 16 * emin + growth →
      (lsAfter ls cfg 0 = if dyn = true ∧ growth ≠ 0 ∧ good + 1 = growth ∧ e < emax then e + 1
        else 2 ^ 16 * min 65535 (good + 1) + e) ∧
      (lsAfter ls cfg 1 = 2 ^ 8 * min 255 (bad + 1) + (if dyn then max (e - 1) emin else e)) ∧
      lsAfter ls cfg 2 = ls) ∧
  ((∀ (n : Fin 2) (s : State), s.power.phase = .on → s.tlrDisabled = false →
    exec (.schCompute .firmware n) s = .next (s.notice (Err.aon .notice 0x0A21 0 0 (tlrBase n.val + 0x8004)))) ∧
  (∀ (n : Fin 2) (s : State), s.power.phase = .on → s.tlrDisabled = true → s.memFree = true →
    ∃ t, exec (.schCompute .firmware n) s = .next t ∧ t.outer = s.outer ∧
      t = ((s.setTeller n.val { s.teller n.val with computing := false }).wakeSeen (domXd n.val 10)).schCompute n.val s.tlrStep) ∧
  ∀ (n : Fin 2) (s : State), s.power.phase = .on → s.tlrDisabled = true → s.memFree = false →
    exec (.schCompute .firmware n) s = .next (s.setTeller n.val { s.teller n.val with computing := true }))

/-- Where a micro-batch may be admitted and a stamp entry is free, admission fills the lowest free entry with a stamp of its step, index, active version, staleness and loss scale, and the next index follows; nothing else changes. With no micro-batch due or no entry free, nothing changes. A layer record that is due in the step in progress is enqueued once, on the Teller that it names. One that has been enqueued and is due in the next step too, where the job overlaps steps, is held for it once and until then nothing is enqueued. (05_training_step.md, 06_teller_update.md) -/
def Obligations.MicrobatchesAdmitted : Prop :=
  (∀ (s : State) (n mb e : Nat) (stale : Bool), s.alive = true → n < 2 ^ 32 → mb < 2 ^ 16 → s.nextAdmission = some (n, mb, stale) →
    LowestFree (s.step.stamps.map (fun (y : Nat × BitVec 128) => y.1)) 32 e →
    ∃ (t : State) (x : BitVec 128), exec .microbatchAdmit s = .next t ∧
      t = { s with step := { s.step with stamps := Tab.put s.step.stamps e x, admitStep := n, nextMb := mb + 1 } } ∧
      stampStep x = n ∧ stampMb x = mb ∧ stampVer x = s.activeVer ∧ stampStale x = stale ∧
      bits x.toNat 127 96 = lossScale (s.stepExp n) % 2 ^ 32) ∧
  (∀ s : State, s.alive = false ∨ s.nextAdmission = none ∨ (∀ e < 32, e ∈ s.step.stamps.map (fun (y : Nat × BitVec 128) => y.1)) →
    exec .microbatchAdmit s = .next s) ∧
  (∀ (i : BitVec 16) (s : State), s.memFree = true → s.step.job.isSome = true → i.toNat ∉ s.step.enqueued →
    (s.step.post = 0 → s.recordDue s.tlrStep i.toNat = true →
      ∃ t, exec (.layerRecordEnqueue i) s = .next t ∧ t.step.enqueued = s.step.enqueued ++ [i.toNat] ∧ t.mem = s.mem ∧ t.cores = s.cores ∧
        t.outer = s.outer ∧ ((s.teller (s.recOf i.toNat).teller).level < 64 →
          t.step = { s.step.setTeller (s.recOf i.toNat).teller
            { s.teller (s.recOf i.toNat).teller with queue := (s.teller (s.recOf i.toNat).teller).queue ++ [i.toNat] } with
              enqueued := s.step.enqueued ++ [i.toNat] })) ∧
    (s.step.post ≠ 0 ∨ s.recordDue s.tlrStep i.toNat = false → exec (.layerRecordEnqueue i) s = .next s)) ∧
  (∀ (i : BitVec 16) (s : State) (j : Job), s.memFree = true → s.step.job = some j → i.toNat ∈ s.step.enqueued →
    (j.overlap = true ∧ s.step.post ≤ 2 ∧ i.toNat ∉ s.step.heldRecords ∧ s.recordDue (s.tlrStep + 1) i.toNat = true →
      exec (.layerRecordEnqueue i) s = .next { s with step := { s.step with heldRecords := s.step.heldRecords ++ [i.toNat] } }) ∧
    (¬ (j.overlap = true ∧ s.step.post ≤ 2 ∧ i.toNat ∉ s.step.heldRecords ∧ s.recordDue (s.tlrStep + 1) i.toNat = true) →
      exec (.layerRecordEnqueue i) s = .next s)) ∧
  ∀ (i : BitVec 16) (s : State), s.memFree = false ∨ s.step.job = none → exec (.layerRecordEnqueue i) s = .next s

/-- A step in RUN settles once the package is update-done, or once it has faulted and its work has ended; until then nothing changes. From SETTLE the vote goes to every other package, its latches taken, once every SECURE is acknowledged, securing complete and no checkpoint due; until then nothing changes. A vote of another step or epoch or of an earlier attempt is discarded and sets a fault bit; any other is kept. In VOTE, once a vote of the attempt in progress is held from every package of the job, this one too, the decision is made: SKIP where one of them has a latch set, otherwise POSTING. The timeout marks the step stalled once. (06_teller_update.md, 13_faults_and_ledger.md, 11_vyvan_link.md) -/
def Obligations.VotesDecide : Prop :=
  (∀ s : State,
    (s.alive = true → s.step.post = 0 → (s.memFree = true ∧ s.updateDone = true) ∨ (s.step.faulted = true ∧ s.workEnded = true) →
      exec .settle s = .next { s with step := { s.step with post := 1 } }) ∧
    (s.alive = false ∨ s.step.post ≠ 0 ∨ ((s.memFree = false ∨ s.updateDone = false) ∧ (s.step.faulted = false ∨ s.workEnded = false)) →
      exec .settle s = .next s)) ∧
  (∀ s : State, s.alive = true → s.step.post = 1 → s.ldg.acksDue = [] → s.securingDone = true → s.checkpointDue = false →
    ∃ (t : State) (v : Vote), exec .voteSend s = .next t ∧
      v = { src := s.self, step := s.tlrStep, epoch := s.epoch, skips := s.skips, nonfinite := s.step.nonfinite, fault := s.step.faulted } ∧
      t = State.tryDecide (State.sendAll
        { s with step := { s.step with post := 2, votedNonfinite := s.step.nonfinite, votedFault := s.step.faulted,
                                       votes := s.step.votes ++ [v] } } 1 s.tlrStep (b2n s.step.nonfinite + 2 * b2n s.step.faulted)) ∧
      t.step.votedNonfinite = s.step.nonfinite ∧ t.step.votedFault = s.step.faulted ∧ t.mem = s.mem ∧ t.cores = s.cores ∧
      t.outer = s.outer ∧
      (s.peers = [] → s.step.votes = [] → t.step.post = (if s.step.nonfinite || s.step.faulted then 4 else 3) ∧ t.regs = s.regs)) ∧
  (∀ s : State, s.step.post ≠ 1 ∨ s.ldg.acksDue ≠ [] ∨ s.securingDone = false ∨ s.checkpointDue = true → exec .voteSend s = .next s) ∧
  (∀ (p : Fin 18) (s : State) (m : Msg) (v : Vote), s.alive = true → s.offers p.val 0 m → msgTransport m = 1 →
    withoutHops m.head ∉ s.link.seen →
    v = { src := msgSrc m, step := msgStep m, epoch := msgEpoch m, skips := msgSkips m, nonfinite := bit (msgBytes m 32 1) 0,
          fault := bit (msgBytes m 32 1) 1 } →
    ((v.step ≠ s.tlrStep ∨ v.epoch ≠ s.epoch ∨ 32768 ≤ (v.skips + 65536 - s.skips) % 65536) → ∃ t, exec (.vote p) s = .next t ∧
      bit (t.reg (tlrBase 0 + 0xC)).toNat 5 = true ∧ t = { s with regs := t.regs, recent := t.recent, link := t.link, jnl := t.jnl }) ∧
    (v.step = s.tlrStep → v.epoch = s.epoch → (v.skips + 65536 - s.skips) % 65536 < 32768 → ∃ t, exec (.vote p) s = .next t ∧
      t = { s with step := t.step, link := t.link, jnl := t.jnl } ∧
      (s.step.post ≠ 2 → t.step = { s.step with votes := s.step.votes ++ [v] }) ∧
      (s.step.post = 2 → (∃ k ∈ s.voters, ∀ y ∈ s.step.votes ++ [v], s.voteNow y = true → y.src ≠ k) →
        t.step = { s.step with votes := s.step.votes ++ [v] }) ∧
      (s.step.post = 2 → (∀ k ∈ s.voters, ∃ y ∈ s.step.votes ++ [v], s.voteNow y = true ∧ y.src = k) →
        t.step.post = (if (s.step.votes ++ [v]).any (fun y => s.voteNow y && (y.nonfinite || y.fault)) then 4 else 3)))) ∧
  (∀ s : State, s.alive = true → s.step.post = 2 → s.step.stalled = false → s.rf (tlrBase 0 + 0x24) 15 8 ≠ 0 →
    ∃ t, exec .voteTimeout s = .next t ∧ t.step = { s.step with stalled := true } ∧ bit (t.reg (tlrBase 0 + 0xC)).toNat 4 = true ∧
      t = { s with step := t.step, regs := t.regs, recent := t.recent, jnl := t.jnl }) ∧
  ∀ s : State, s.step.post ≠ 2 ∨ s.step.stalled = true ∨ s.rf (tlrBase 0 + 0x24) 15 8 = 0 → exec .voteTimeout s = .next s

/-- In POSTING, while the memory controllers serve, the step ends in ENTRY, JNL_STEPFAULTS is 0, and the report that is formed last says posted and names the step. In SKIP, where no micro-batch of the next step is in flight or the work has ended on every die, the step ends in ENTRY and the report says why it was skipped; until then the micro-batches of the next step are marked ABANDONED and nothing else changes. On a package with no layer, schedule engine, staged change, failing bank, cached block-table entry or Ledger in use, a Posting adds 1 to TLR_STEP and gives TLR_LS the value of a posted step, a skip leaves TLR_STEP, and neither changes memory. (05_training_step.md, 06_teller_update.md, 13_faults_and_ledger.md, 14_startup_and_host.md) -/
def Obligations.PostingAndSkip : Prop :=
  (∀ s : State, s.memFree = true → s.step.post = 3 → ∃ (t : State) (r : Report) (rs : List Report), exec .posting s = .next t ∧
    t.step.post = 5 ∧ t.step.lastSkipped = false ∧ t.jnl.stepFaults = 0 ∧ t.mbx.reports = rs ++ [r] ∧ r.outcome = 0 ∧ r.step = s.tlrStep ∧
    t.outer = s.outer) ∧
  (∀ s : State, s.memFree = false ∨ s.step.post ≠ 3 → exec .posting s = .next s) ∧
  (∀ s : State, s.memFree = false ∨ s.step.post ≠ 4 → exec .skip s = .next s) ∧
  (∀ s : State, s.memFree = true → s.step.post = 4 → (s.stampsOf (s.tlrStep + 1) = [] ∨ s.workEnded = true) →
    ∃ (t : State) (r : Report) (rs : List Report), exec .skip s = .next t ∧ t.step.post = 5 ∧ t.step.lastSkipped = true ∧
      t.step.heldRecords = [] ∧ t.mbx.reports = rs ++ [r] ∧ r.outcome = (if s.step.decFault then 2 else 1) ∧ r.step = s.tlrStep ∧
      t.outer = s.outer) ∧
  (∀ s : State, s.memFree = true → s.step.post = 4 → s.stampsOf (s.tlrStep + 1) ≠ [] → s.workEnded = false →
    exec .skip s = .next { s with step := s.step.markAbandoned (s.tlrStep + 1) }) ∧
  ∀ s : State, s.memFree = true → s.layerRecords = [] → s.link.staged = none → (∀ d : Nat, (s.die d).failing = []) → s.ldgOn = false →
    (∀ k : Nat, (s.slice k).cache = []) → s.ldg.building = none → s.rf (tlrBase 0 + 0x8004) 0 0 = 0 → s.rf (tlrBase 1 + 0x8004) 0 0 = 0 →
    s.teller 0 = {} → s.teller 1 = {} →
    (s.step.post = 3 → ∃ t, exec .posting s = .next t ∧ t.reg (tlrBase 0 + 0x20) = BitVec.ofNat 32 (s.tlrStep + 1) ∧
      (t.reg (tlrBase 0 + 0x28)).toNat = lsAfter (s.reg (tlrBase 0 + 0x28)).toNat (s.reg (tlrBase 0 + 0x2C)).toNat 0 % 2 ^ 32 ∧
      t.mem = s.mem) ∧
    (s.step.post = 4 → (s.stampsOf (s.tlrStep + 1) = [] ∨ s.workEnded = true) → ∃ t, exec .skip s = .next t ∧
      t.reg (tlrBase 0 + 0x20) = s.reg (tlrBase 0 + 0x20) ∧ t.mem = s.mem)

/-- Once ENTRY is ready (no stop, no slot that runs or is due, no recovery before its resume, every joiner in and every leaver out, memory serving), step entry, an edge later (log 95), goes to RUN: NONFINITE and the report are empty, no record is enqueued and none held where none was held, the injector stands at the step, and no READY or LEAVE is kept. Until then nothing changes. After a Posting, with a slot asked for, none running and no micro-batch in flight, the slot begins: it runs from the present edge, its sections placed in the cores, and is no longer asked for. A slot that runs ends, at once where every stream has ended and otherwise when its length has passed: the active cores stop running, and that evaluation has ended is noted for the host. Otherwise neither command changes anything. (06_teller_update.md, 02_number_formats.md, 14_startup_and_host.md, 11_vyvan_link.md, 05_training_step.md) -/
def Obligations.StepEntryAndEvaluation : Prop :=
  ((∀ s : State, s.entryReady = true → s.step.heldRecords = [] → s.step.faultNext = none →
    ∃ t, exec .stepEntry s = .next t ∧ t.step.post = 0 ∧ t.step.nonfinite = false ∧ t.step.enqueued = [] ∧ t.step.heldRecords = [] ∧
      t.step.admitStep = (s.at (s.edge + 1)).tlrStep ∧ t.step.reportEntries = [] ∧ t.step.reportDone = 0 ∧ t.link.readies = [] ∧
      t.link.lefts = [] ∧ t.outer = s.outer) ∧
  ∀ s : State, s.entryReady = false → exec .stepEntry s = .next s) ∧
  ((∀ s : State, s.alive = true → s.step.post = 5 → s.step.lastSkipped = false → s.step.evalRequested = true → s.step.evalRunning = false →
    s.step.stamps = [] →
    ∃ t, exec .evalSlotBegin s = .next t ∧
      t.step = { s.step with evalRunning := true, evalRequested := false, evalPlaced := true, evalStart := s.edge, seeded := true } ∧
      t.mem = s.mem ∧ t.rings = s.rings ∧ t.edge = s.edge ∧ t.outer = s.outer) ∧
  (∀ s : State, s.alive = false ∨ s.step.post ≠ 5 ∨ s.step.lastSkipped = true ∨ s.step.evalRequested = false ∨ s.step.evalRunning = true ∨
      s.step.stamps ≠ [] → exec .evalSlotBegin s = .next s) ∧
  (∀ s : State, s.alive = true → s.step.evalRunning = true →
    ∃ t, exec .evalSlotEnd s = .next t ∧ t.step = { s.step with evalRunning := false } ∧ t.mbx = { s.mbx with evalEnded := true } ∧
      t.edge = (if s.streamsEnded then s.edge else max s.edge (s.step.evalStart + 65536 * (s.step.job.map (·.evalLimit)).getD 0)) ∧
      (∀ (d : Fin 4) (j : Fin 34), (s.core d.val j.val).active = true → t.rf (coreBase d.val j.val + 4) 0 0 = 0) ∧
      t.mem = s.mem ∧ t.outer = s.outer) ∧
  ∀ s : State, s.alive = false ∨ s.step.evalRunning = false → exec .evalSlotEnd s = .next s)

/-- An enabled port that is down or training, and not lost, comes UP over the lowest eight lanes that pass where the peer’s capabilities serve, with sequence numbers 0 and full credits, having sent its CAP flit over those lanes; with fewer than eight lanes it is lost for good; where the peer does not serve it stays down. A failed lane of a port that is UP, or the lane for which it retrains, is replaced by the spare where that is free and passes, held flits to be replayed; otherwise the port is lost. VL_PCTL.RETRAIN acts by the same rules. Enabling the link of an I/O die that is enabled changes nothing; enabling it sets ENABLE, applies the shadow bank and makes its enabled ports train. The error count clear, which the host may write, leaves 1 in a count that was raised in the same edge and 0 otherwise. A route word goes to the shadow bank only. (11_vyvan_link.md, 12_clocks_and_treasury.md) -/
def Obligations.PortsTrain : Prop :=
  (∀ (p : Fin 18) (f : Training) (s : State), s.alive = true → s.vlOn (p.val / 9) = true → s.rf (portBase p.val) 0 0 = 1 →
    (s.port p.val).lost = false → ((s.port p.val).state = .down ∨ (s.port p.val).state = .training) →
    ((bitList f.lanes.toNat 9).length < 8 → ∃ t, exec (.portTraining p f) s = .next t ∧ (t.port p.val).state = .down ∧
      (t.port p.val).lost = true ∧ bit (t.reg (vlBase (p.val / 9) + 0xC)).toNat 0 = true ∧ t.mem = s.mem ∧ t.cores = s.cores ∧
      t.outer = s.outer) ∧
    (8 ≤ (bitList f.lanes.toNat 9).length → bit f.linkVersions.toNat 1 = true → f.classes.toNat % 16 = 15 → 256 ≤ f.maxData.toNat →
      ∃ t, exec (.portTraining p f) s = .next t ∧ t = { s with link := t.link } ∧ (∀ q, q ≠ p.val → t.port q = s.port q) ∧
        (t.port p.val).state = .up ∧ (t.port p.val).lanes = (bitList f.lanes.toNat 9).take 8 ∧ (t.port p.val).nextSeq = 0 ∧
        (t.port p.val).expected = 0 ∧ (t.port p.val).replay = [] ∧ (t.port p.val).peer = f.package.toNat ∧
        (t.port p.val).wire = stripe ((bitList f.lanes.toNat 9).take 8) (flitBytes (4 + 2 ^ 16 * 1023) (s.capLine p.val)) ∧
        ∀ c : Fin 4, Tab.read 0 (t.port p.val).credits c.val = classBuffer c.val) ∧
    (8 ≤ (bitList f.lanes.toNat 9).length →
      ¬ (bit f.linkVersions.toNat 1 = true ∧ f.classes.toNat % 16 = 15 ∧ 256 ≤ f.maxData.toNat) →
      ∃ t, exec (.portTraining p f) s = .next t ∧ t = { s with link := t.link, regs := t.regs, recent := t.recent, jnl := t.jnl } ∧
        (t.port p.val).state = .down ∧ (t.port p.val).lost = false ∧ bit (t.reg (vlBase (p.val / 9) + 0xC)).toNat 1 = true)) ∧
  (∀ (p : Fin 18) (lane : Fin 9) (ok : Bool) (s : State), s.alive = true → (s.port p.val).retrainsFor lane.val = true →
    ((s.port p.val).spareInUse = false → ok = true → ∃ t, exec (.portRetrain p lane ok) s = .next t ∧
      t = { s with link := t.link, jnl := t.jnl } ∧ (∀ q, q ≠ p.val → t.port q = s.port q) ∧ (t.port p.val).spareInUse = true ∧
      (t.port p.val).spareFor = lane.val ∧ (t.port p.val).state = .up ∧
      (∀ k, (List.range 9).find? (fun l => !(s.port p.val).lanes.contains l) = some k → (t.port p.val).lanes =
        (List.range 9).filter (fun l => l == k || ((s.port p.val).lanes.contains l && l != lane.val))) ∧
      (t.port p.val).replay = (s.port p.val).replay ∧ (t.port p.val).resend = (s.port p.val).replay.head?.map (·.seq)) ∧
    ((s.port p.val).spareInUse = true ∨ ok = false → ∃ t, exec (.portRetrain p lane ok) s = .next t ∧ (t.port p.val).state = .down ∧
      (t.port p.val).lost = true ∧ (t.port p.val).replay = [] ∧ t.mem = s.mem ∧ t.cores = s.cores ∧ t.outer = s.outer)) ∧
  (∀ (p : Fin 18) (lane : Fin 9) (ok : Bool) (s : State), (s.port p.val).retrainsFor lane.val = false →
    exec (.portRetrain p lane ok) s = .next s ∧ exec (.vlRetrain .firmware p lane ok) s = .next s) ∧
  (∀ (p : Fin 18) (lane : Fin 9) (ok : Bool) (s : State), s.alive = true →
    exec (.vlRetrain .firmware p lane ok) s = exec (.portRetrain p lane ok) s) ∧
  (∀ (by_ : Writer) (io : Fin 2) (s : State), s.vlOn io.val = true → exec (.vlEnable by_ io) s = .next s) ∧
  (∀ (io : Fin 2) (s : State), s.power.phase = .on → s.vlOn io.val = false → (∀ r ∈ s.link.shadow, r.1 < 4096) →
    (s.link.shadow.map (fun (y : Nat × Word) => y.1)).Nodup → ∃ t, exec (.vlEnable .firmware io) s = .next t ∧
    t = { s with regs := t.regs, link := t.link } ∧ t.vlOn io.val = true ∧
    (∀ e < 4096, t.reg (vlBase 0 + 0x10000 + 4 * e) = Tab.read 0 s.link.shadow e) ∧
    ∀ p : Fin 18, p.val / 9 = io.val → s.rf (portBase p.val) 0 0 = 1 → (s.port p.val).state = .down → (s.port p.val).lost = false →
      (t.port p.val).state = .training) ∧
  (∀ (by_ : Writer) (p : Fin 18) (s : State), s.power.phase = .on → ∃ t, exec (.vlPerrClr by_ p) s = .next t ∧
    t = { s with regs := t.regs } ∧ sameBut t.regs s.regs [portBase p.val + 8] ∧
    t.rf (portBase p.val + 8) 31 24 = (if bit (s.freshBits (portBase p.val + 8)) 24 then 1 else 0) ∧
    t.rf (portBase p.val + 8) 15 0 = (if bit (s.freshBits (portBase p.val + 8)) 0 then 1 else 0)) ∧
  ∀ (dest : BitVec 12) (v : Word) (s : State), s.power.phase = .on → ∃ t, exec (.vlRouteWrite .firmware dest v) s = .next t ∧
    t = { s with link := { s.link with shadow := t.link.shadow } } ∧ Tab.read 0 t.link.shadow dest.toNat = routeWord v.toNat ∧
    sameBut t.link.shadow s.link.shadow [dest.toNat]

/-- Bytes that are not 272 stop the model by name, since the interface carries 272 bytes. At a port that is UP, a flit that does not decode is dropped and a NAK is due that names the expected sequence number. A flit that decodes acknowledges the held flits up to its ACK. A HEAD or DATA flit out of sequence is dropped, and a NAK is due; one in sequence advances the expected number by 1 modulo 1,024, and one that completes a message puts it behind those that wait in its class. A port with nothing to send sends a flit that is not held: CTRL where one is due, otherwise IDLE. A flit of class 0 that may be sent is held for replay under the next number, and takes a credit. A NAK that names a held flit makes the port resend from it; at the replay limit a successful retrain clears the send counts and resends from the oldest, and a failed one loses the port. (11_vyvan_link.md) -/
def Obligations.FlitsFlow : Prop :=
  (∀ (p : Fin 18) (bs : List Byte) (s : State), bs.length ≠ 272 → ∃ f, exec (.flitReceive p bs) s = .fault f) ∧
  (∀ (p : Fin 18) (bs : List Byte) (s : State), bs.length = 272 → s.alive = true → (s.port p.val).state = .up →
    (flitRead bs = none → ∃ t, exec (.flitReceive p bs) s = .next t ∧ t = { s with link := t.link } ∧
      t.port p.val = { (s.port p.val).countLanes [] with nakDue := some (s.port p.val).expected }) ∧
    (∀ h v fixed, flitRead bs = some (h, v, fixed) → bits h 2 0 ≤ 4 → ∃ t, exec (.flitReceive p bs) s = .next t ∧
      t.mem = s.mem ∧ t.cores = s.cores ∧ t.rings = s.rings ∧ t.outer = s.outer ∧
      (t.port p.val).replay = (s.port p.val).replay.filter (fun f => decide (512 ≤ (bits h 25 16 + 1024 - f.seq) % 1024)) ∧
      (bits h 2 0 = 1 ∨ bits h 2 0 = 2 → bits h 15 6 = (s.port p.val).expected →
        (t.port p.val).expected = ((s.port p.val).expected + 1) % 1024 ∧ (t.port p.val).nakDue = (s.port p.val).nakDue) ∧
      (bits h 2 0 = 1 ∨ bits h 2 0 = 2 → bits h 15 6 ≠ (s.port p.val).expected →
        (t.port p.val).expected = (s.port p.val).expected ∧ (t.port p.val).nakDue = some (s.port p.val).expected ∧
        (t.port p.val).inbox = (s.port p.val).inbox ∧ (t.port p.val).partialMsg = (s.port p.val).partialMsg) ∧
      (bits h 2 0 = 1 → bits h 15 6 = (s.port p.val).expected → msgFlits v = 0 →
        Tab.read [] (t.port p.val).inbox (bits h 5 4) =
          Tab.read [] (s.port p.val).inbox (bits h 5 4) ++ [{ cls := bits h 5 4, head := v, data := [] }]) ∧
      (∀ m : Msg, bits h 2 0 = 2 → bits h 15 6 = (s.port p.val).expected →
        Tab.find? (s.port p.val).partialMsg (bits h 5 4) = some m → msgFlits m.head = m.data.length + 1 →
        Tab.read [] (t.port p.val).inbox (bits h 5 4) =
          Tab.read [] (s.port p.val).inbox (bits h 5 4) ++ [{ m with data := m.data ++ [(v, bit h 3)] }]))) ∧
  (∀ (p : Fin 18) (s : State) (x : Port), s.alive = true → (s.port p.val).state = .up → (s.port p.val).resend = none →
    x = (s.port p.val).tick →
    ((s.port p.val).egress = [] → exec (.flitTransmit p) s = .next (s.setPort p.val (if x.ctrlDue then x.putCtrl else x.put 0 false 0 0 0)) ∧
      (if x.ctrlDue then x.putCtrl else x.put 0 false 0 0 0).replay = (s.port p.val).replay ∧
      (if x.ctrlDue then x.putCtrl else x.put 0 false 0 0 0).nextSeq = (s.port p.val).nextSeq ∧
      (if x.ctrlDue then x.putCtrl else x.put 0 false 0 0 0).nakDue = none) ∧
    (∀ f, s.ready? x 0 = some f → f.cls = 0 → x.replay.length < 512 → ∃ t, exec (.flitTransmit p) s = .next t ∧
      t = { s with link := t.link, tally := t.tally } ∧
      (t.port p.val).replay = (s.port p.val).replay ++ [{ f with seq := (s.port p.val).nextSeq, sends := 1 }] ∧
      (t.port p.val).nextSeq = ((s.port p.val).nextSeq + 1) % 1024 ∧
      Tab.read 0 (t.port p.val).credits 0 = Tab.read 0 (s.port p.val).credits 0 - 1 ∧
      Tab.read [] (t.port p.val).egress 0 = (Tab.read [] (s.port p.val).egress 0).erase f)) ∧
  (∀ (p : Fin 18) (s : State) (r : Nat) (f : LinkFlit), s.alive = true → (s.port p.val).state = .up → (s.port p.val).resend = some r →
    (s.port p.val).replay.find? (fun g => g.seq == r) = some f →
    ∃ t, exec (.flitTransmit p) s = .next t ∧ (t.port p.val).nextSeq = (s.port p.val).nextSeq ∧
      (t.port p.val).replay = (s.port p.val).replay.map (fun g => if g.seq = r then { g with sends := g.sends + 1 } else g) ∧
      (t.port p.val).resend = (if (s.port p.val).replay.any (fun g => g.seq == (r + 1) % 1024) then some ((r + 1) % 1024) else none) ∧
      (t.port p.val).egress = (s.port p.val).egress ∧ t.mem = s.mem ∧ t.outer = s.outer) ∧
  (∀ (p : Fin 18) (q : BitVec 10) (s : State), s.alive = true → (s.port p.val).state = .up →
    ((∃ f ∈ (s.port p.val).replay, f.seq = q.toNat) → ∃ t, exec (.nak p q) s = .next t ∧ t = { s with link := t.link } ∧
      t.port p.val = { s.port p.val with resend := some q.toNat }) ∧
    ((∀ f ∈ (s.port p.val).replay, f.seq ≠ q.toNat) → exec (.nak p q) s = .next s)) ∧
  ∀ (p : Fin 18) (s : State), s.alive = true → (s.port p.val).state = .up →
    ((∀ f ∈ (s.port p.val).replay, f.sends < 8) → ∀ ok, exec (.replayLimit p ok) s = .next s) ∧
    ((∃ f ∈ (s.port p.val).replay, 8 ≤ f.sends) →
      (∃ t, exec (.replayLimit p true) s = .next t ∧ t = { s with link := t.link } ∧ (∀ f ∈ (t.port p.val).replay, f.sends = 0) ∧
        (t.port p.val).resend = (s.port p.val).replay.head?.map (·.seq)) ∧
      ∃ t, exec (.replayLimit p false) s = .next t ∧ (t.port p.val).state = .down ∧ (t.port p.val).lost = true ∧ t.mem = s.mem ∧
        t.cores = s.cores ∧ t.outer = s.outer)

/-- The first message of a class at a port that is for another package leaves the port’s buffer and is put, its HEAD and its DATA flits in order, behind those of its class at the port that routing gives (of classes 1 to 3 by the counter of its source, which is free, log 49); in class 0 its HOPS is one more, and it stays where it is while that queue holds 256 flits. Where the destination has no port in service, or where a class-0 message has used its hops, it is discarded, and VL_FAULT says so. A message for this package stays. (11_vyvan_link.md) -/
def Obligations.MessagesForwarded : Prop :=
  ∀ (p : Fin 18) (c : Fin 4) (s : State) (m : Msg) (rest : List Msg), Tab.read [] (s.port p.val).inbox c.val = m :: rest → m.cls = c.val →
    (msgDst m = s.self → exec (.messageForward p c) s = .next s) ∧
    (s.alive = true → msgDst m ≠ s.self →
      (c.val = 0 → s.hopLimit (p.val / 9) < bits m.head.toNat 51 48 + 2 → ∃ t, exec (.messageForward p c) s = .next t ∧
        Tab.read [] (t.port p.val).inbox 0 = rest ∧ bit (t.reg (vlBase (p.val / 9) + 0xC)).toNat 5 = true ∧
        t = { s with link := t.link, regs := t.regs, recent := t.recent, jnl := t.jnl }) ∧
      ((c.val = 0 → bits m.head.toNat 51 48 + 2 ≤ s.hopLimit (p.val / 9)) →
        (s.egressPort c.val (msgDst m) (Config.sourceCount m.head) = none → ∃ t, exec (.messageForward p c) s = .next t ∧
          Tab.read [] (t.port p.val).inbox c.val = rest ∧ bit (t.reg (vlBase (p.val / 9) + 0xC)).toNat 4 = true ∧
          t = { s with link := t.link, regs := t.regs, recent := t.recent, jnl := t.jnl }) ∧
        (∀ q, s.egressPort c.val (msgDst m) (Config.sourceCount m.head) = some q →
          (c.val = 0 → 256 ≤ (Tab.read [] (s.port q).egress 0).length → exec (.messageForward p c) s = .next s) ∧
          ((c.val = 0 → (Tab.read [] (s.port q).egress 0).length < 256) →
            ∃ (t : State) (f : LinkFlit) (fs : List LinkFlit), exec (.messageForward p c) s = .next t ∧
              t = { s with link := t.link, regs := t.regs, recent := t.recent, jnl := t.jnl } ∧
              Tab.read [] (t.port p.val).inbox c.val = rest ∧
              Tab.read [] (t.port q).egress c.val = Tab.read [] (s.port q).egress c.val ++ f :: fs ∧ f.type = 1 ∧
              f.payload = (if c.val = 0 then BitVec.ofNat 2048 (setBits m.head.toNat 51 48 (bits m.head.toNat 51 48 + 1)) else m.head) ∧
              fs.map (fun (g : LinkFlit) => (g.payload, g.poison)) = m.data ∧ ∀ g ∈ fs, g.type = 2))))

/-- A class-0 message that this package accepts and has not seen in the epoch leaves the port’s buffer. A STEP_FAULT notice of the attempt in progress, before the latches are taken, faults the attempt, and another does not; READY and LEAVE are noted with their source and the epoch that they name, and an accepting JOIN_ACK with its source; a MGMT message goes to firmware and settles an acknowledgement that its source owed; a SECURE is noted with its step and acknowledged. A JOIN_REQ of a package whose level is known is accepted where it is served, and otherwise refused, the package no longer a joiner. An identical message received again does nothing but leave the buffer. (05_training_step.md, 11_vyvan_link.md, 13_faults_and_ledger.md) -/
def Obligations.ControlMessages : Prop :=
  ∀ (p : Fin 18) (s u : State) (m : Msg), s.alive = true → s.offers p.val 0 m → u = (s.unqueue p.val 0).owe p.val m →
    (withoutHops m.head ∉ s.link.seen →
      (msgTransport m = 2 → ∃ t, exec (.stepFault p) s = .next t ∧ t = { s with step := t.step, link := t.link, jnl := t.jnl } ∧
        t.step = (if msgStep m = s.tlrStep ∧ msgSkips m = s.skips ∧ s.step.post < 2 then { s.step with faulted := true } else s.step)) ∧
      (isMember 1 m = true → ∃ t, exec (.joinReq p) s = .next t ∧ t.step = s.step ∧ t.mem = s.mem ∧ t.cores = s.cores ∧
        t.outer = s.outer ∧ ∀ f, s.featureOf (msgSrc m) = some f →
          (serves f (msgBytes m 34 2) = true →
            t = ({ u with link := { u.link with seen := u.link.seen ++ [withoutHops m.head] } } : State).sendMember (msgSrc m) 2 1 0
              (msgNewEpoch m)) ∧
          (serves f (msgBytes m 34 2) = false → t.link.joiners = s.link.joiners.filter (fun j => j != msgSrc m))) ∧
      (isMember 2 m = true → ∃ t, exec (.joinAck p) s = .next t ∧ t = { s with link := t.link } ∧
        t.link.accepted = (if msgBytes m 33 1 = 1 then s.link.accepted ++ [msgSrc m] else s.link.accepted)) ∧
      (isMember 3 m = true → ∃ t, exec (.ready p) s = .next t ∧ t = { s with link := t.link } ∧
        t.link.readies = s.link.readies ++ [(msgSrc m, msgBytes m 36 4)] ∧ t.link.lefts = s.link.lefts) ∧
      (isMember 4 m = true → ∃ t, exec (.leave p) s = .next t ∧ t = { s with link := t.link } ∧
        t.link.lefts = s.link.lefts ++ [(msgSrc m, msgBytes m 36 4)] ∧ t.link.readies = s.link.readies) ∧
      (msgTransport m = 4 → ∃ t, exec (.mgmt p) s = .next t ∧ t = { s with link := t.link, ldg := t.ldg } ∧
        t.link.firmwareInbox = s.link.firmwareInbox ++ [m.head] ∧ t.ldg = { s.ldg with acksDue := s.ldg.acksDue.erase (msgSrc m) }) ∧
      (msgTransport m = 4 → ∃ t, exec (.secure p) s = .next t ∧ t.ldg = { s.ldg with secures := s.ldg.secures ++ [msgStep m] } ∧
        t = { s with link := t.link, ldg := t.ldg, regs := t.regs, recent := t.recent, jnl := t.jnl })) ∧
    (withoutHops m.head ∈ s.link.seen →
      ∀ x ∈ [(msgTransport m == 2, Instr.stepFault p), (isMember 1 m, .joinReq p), (isMember 2 m, .joinAck p), (isMember 3 m, .ready p),
        (isMember 4 m, .leave p), (msgTransport m == 4, .mgmt p), (msgTransport m == 4, .secure p), (msgTransport m == 1, .vote p)],
      x.1 = true → exec x.2 s = .next u)

/-- While the memory controllers are off, a PIPE, GRAD, BCAST, PARITY or PUT message waits. One that this package accepts: of another epoch it is discarded and VL_FAULT.EPOCH is set; of a later skip count it is held with its port; of an earlier one it is discarded; none of these touches memory. Of the same, its lines are written in order at their addresses (GRAD: added; PARITY with a coefficient: multiplied and XORed in), and it counts: PIPE and PUT in the mark they name, PIPE keeping the stamp; GRAD and BCAST in the counter of their step’s parity and record, their TOTAL kept; PARITY in the lines applied. A PIPE with an outgoing operand (log 84) sends, while the memory controllers serve, the lines that it names as one class-1 message with the stamp of the entry that it names; of a free entry, or while they are off, it sends nothing. With no held message whose skip count VL_SKIPS has reached or passed, or while the memory controllers are off, nothing changes. The first such message leaves the held ones: of another epoch it is discarded and VL_FAULT.EPOCH is set; one that VL_SKIPS has passed is discarded; one that it has reached is applied. (11_vyvan_link.md, 07_memory_and_vault.md, 13_faults_and_ledger.md) -/
def Obligations.DataMessagesApply : Prop :=
  (∀ (p : Fin 18) (s : State) (m : Msg),
    (∀ x ∈ [((0x10 : Nat), (1 : Nat), Instr.pipe p none), (0x11, 2, .grad p), (0x12, 2, .bcast p), (0x18, 3, .parity p), (0x19, 3, .put p)],
      (s.memFree = false → exec x.2.2 s = .next s) ∧
      (s.memFree = true → s.offers p.val x.2.1 m → msgTransport m = x.1 →
        (msgEpoch m ≠ s.epoch → ∃ t, exec x.2.2 s = .next t ∧ bit (t.reg (vlBase (p.val / 9) + 0xC)).toNat 3 = true ∧
          t = { s with link := t.link, regs := t.regs, recent := t.recent, jnl := t.jnl }) ∧
        (msgEpoch m = s.epoch → 0 < (msgSkips m + 65536 - s.skips) % 65536 → (msgSkips m + 65536 - s.skips) % 65536 < 32768 →
          ∃ t, exec x.2.2 s = .next t ∧ t = { s with link := t.link } ∧ t.link.held = s.link.held ++ [(p.val, m)]) ∧
        (msgEpoch m = s.epoch → 32768 ≤ (msgSkips m + 65536 - s.skips) % 65536 →
          exec x.2.2 s = .next ((s.unqueue p.val x.2.1).owe p.val m)))) ∧
    (∀ (u v w : State) (c : Nat), s.memFree = true → msgEpoch m = s.epoch → msgSkips m = s.skips → s.offers p.val c m →
      u = (s.unqueue p.val c).owe p.val m →
      v = m.data.zipIdx.foldl (fun (z : State) d => z.writeLine (msgAddr m + 256 * d.2) d.1.1 d.1.2) u →
      w = m.data.zipIdx.foldl (fun (z : State) d => z.addLine (msgAddr m + 256 * d.2) d.1.1 d.1.2) u →
      (msgTransport m = 0x10 →
        exec (.pipe p none) s = .next ((v.countMark p.val m).keepStamp (BitVec.ofNat 128 (msgBytes m 44 16)))) ∧
      (msgTransport m = 0x11 → ∃ t, exec (.grad p) s = .next t ∧ t = { w with link := t.link } ∧
        Tab.read 0 t.link.gradCount (counterKey p.val (msgStep m) (msgBytes m 38 2)) =
          Tab.read 0 w.link.gradCount (counterKey p.val (msgStep m) (msgBytes m 38 2)) + m.data.length ∧
        Tab.find? t.link.gradTotal (counterKey 0 (msgStep m) (msgBytes m 38 2)) = some (msgBytes m 40 4)) ∧
      (msgTransport m = 0x12 → ∃ t, exec (.bcast p) s = .next t ∧ t = { v with link := t.link } ∧
        Tab.read 0 t.link.bcastCount (counterKey p.val (msgStep m) (msgBytes m 38 2)) =
          Tab.read 0 v.link.bcastCount (counterKey p.val (msgStep m) (msgBytes m 38 2)) + m.data.length ∧
        Tab.find? t.link.bcastTotal (counterKey 0 (msgStep m) (msgBytes m 38 2)) = some (msgBytes m 40 4)) ∧
      (msgTransport m = 0x18 → ∃ t, exec (.parity p) s = .next t ∧ t.outer = s.outer ∧
        (msgBytes m 38 1 = 0 → t = { v with ldg := { v.ldg with applied := v.ldg.applied + m.data.length } })) ∧
      (msgTransport m = 0x19 → exec (.put p) s = .next (v.countMark p.val m))) ∧
    (∀ k total old, k = msgBytes m 38 2 → total = msgBytes m 40 4 → Tab.find? s.link.marks k = old →
      (old.all (fun (y : Nat × Nat) => y.2 == total) = true →
        Tab.find? (s.countMark p.val m).link.marks k = some ((old.map (fun (y : Nat × Nat) => y.1)).getD 0 + m.data.length, total)) ∧
      (old.all (fun (y : Nat × Nat) => y.2 == total) = false → (s.countMark p.val m).link.marks = s.link.marks ∧
        bit ((s.countMark p.val m).reg (vlBase (p.val / 9) + 0xC)).toNat 7 = true))) ∧
  ((∀ (p : Fin 18) (o : PipeOut) (s : State),
    (∀ (stamp : BitVec 128) (r : List (Line × Bool) × State), Tab.find? s.step.stamps o.entry.val = some stamp → s.memFree = true →
      r = s.readLines .stream (o.source.toNat / 256 * 256) o.lines.val → ∃ t, exec (.pipe p (some o)) s = .next t ∧ t.outer = s.outer ∧
      t = r.2.sendMsg o.dst.toNat
        { cls := 1, data := r.1, head := r.2.headLine 0x10 o.dst.toNat (stampStep stamp) r.1.length
            (o.addr.toNat / 256 * 256 + 2 ^ 48 * o.mark.toNat + 2 ^ 64 * o.total.toNat + 2 ^ 96 * stamp.toNat) }) ∧
    (Tab.find? s.step.stamps o.entry.val = none ∨ s.memFree = false → exec (.pipe p (some o)) s = .next s)) ∧
  (∀ s : State, (∀ x ∈ s.link.held, 0 < (msgSkips x.2 + 65536 - s.skips) % 65536 ∧ (msgSkips x.2 + 65536 - s.skips) % 65536 < 32768) ∨
      s.memFree = false → exec .heldMessageApply s = .next s) ∧
  ∀ (s u : State) (p : Nat) (m : Msg), s.memFree = true → s.link.held.find? (fun x => (msgSkips x.2 + 65536 - s.skips) % 65536 == 0 ||
      decide (32768 ≤ (msgSkips x.2 + 65536 - s.skips) % 65536)) = some (p, m) →
    u = ({ s with link := { s.link with held := s.link.held.erase (p, m) } } : State).owe p m →
    (msgEpoch m ≠ s.epoch → ∃ t, exec .heldMessageApply s = .next t ∧ bit (t.reg (vlBase (p / 9) + 0xC)).toNat 3 = true ∧
      t = { s with link := t.link, regs := t.regs, recent := t.recent, jnl := t.jnl }) ∧
    (msgEpoch m = s.epoch → (msgSkips m + 65536 - s.skips) % 65536 = 0 → exec .heldMessageApply s = .next (u.applyData p m)) ∧
    (msgEpoch m = s.epoch → 32768 ≤ (msgSkips m + 65536 - s.skips) % 65536 → exec .heldMessageApply s = .next u))

/-- Every region’s grant is at least its floor and at most the greater of floor and demand, and exactly its floor at weight 0. Where the budget does not pass the sum of the floors, the grants are the floors; otherwise they sum to at most the budget, and to less only if every region with a weight has its demand. The throttle level is the smallest from 0 to 63 at which the throttled demand fits the grant, and 63 where none does; a region at level L swallows exactly L of any 64 consecutive mesh edges. While power is on, an allowance period counts one in TSY_PERIOD, shows the measurements in TSY_VIN and TSY_PIN and each region’s demand in TSY_RSTAT, and computes the grants that wait to take effect: the floors while HOLD is set, which it is from below 63 V until 66 V or more, and otherwise the grants of R427 from budget and demands. An overdraw sets its fault bit. When waiting grants take effect each region shows its grant and the level of its last demand, and TSY_PIN their sum; with none waiting nothing changes. A TSY_RCFG write by firmware that would raise the floors’ sum above 3,200 W is ignored and journalled; any other takes effect. (12_clocks_and_treasury.md) -/
def Obligations.GrantsFollowBudget : Prop :=
  ((∀ (b : Int) (l : List (Nat × Nat × Nat)), (grantsOf b l).length = l.length ∧
    (∀ (i : Nat) (x : Nat × Nat × Nat) (a : Nat), l[i]? = some x → (grantsOf b l)[i]? = some a → x.2.1 ≤ a ∧ a ≤ max x.1 x.2.1 ∧ (x.2.2 = 0 → a = x.2.1)) ∧
    (b ≤ ((l.map (fun (x : Nat × Nat × Nat) => x.2.1)).sum : Nat) → grantsOf b l = l.map (fun (x : Nat × Nat × Nat) => x.2.1)) ∧
    (((l.map (fun (x : Nat × Nat × Nat) => x.2.1)).sum : Nat) ≤ b → ((grantsOf b l).sum : Nat) ≤ b ∧
      (((grantsOf b l).sum : Nat) = b ∨ ∀ (i : Nat) (x : Nat × Nat × Nat) (a : Nat), l[i]? = some x → (grantsOf b l)[i]? = some a → 0 < x.2.2 → x.1 ≤ a))) ∧
  (∀ demand grant : Nat, levelOf demand grant ≤ 63 ∧
    (demand * (64 - levelOf demand grant) ≤ grant * 64 ∨ levelOf demand grant = 63) ∧
    ∀ l, l < levelOf demand grant → grant * 64 < demand * (64 - l)) ∧
  ∀ level k : Nat, level ≤ 63 → ((List.range 64).filter (fun i => throttles level (k + i))).length = level) ∧
  ((∀ (m : Measurement) (s : State), s.power.phase = .on →
    ∃ (t : State) (ds : List Nat), exec (.allowancePeriod m) s = .next t ∧
      t = { s with regs := t.regs, recent := t.recent, jnl := t.jnl, tsy := t.tsy } ∧
      ds = (List.range 64).map (fun r =>
        demandOf ((m.power[r]?).getD (0, 0)).1 ((m.power[r]?).getD (0, 0)).2 (s.rf (tsyRcfg r) 23 12)) ∧
      t.reg (tsyBase + 0x1C) = s.reg (tsyBase + 0x1C) + 1 ∧
      t.reg (tsyBase + 0x14) = BitVec.ofNat 32 (2 ^ 16 * min 0xFFFF m.iin + min 0xFFFF (m.vin / 10)) ∧
      t.rf (tsyBase + 0x18) 15 0 = min 0xFFFF m.pin ∧
      (∀ r : Fin 64, t.rf (tsyRstat r.val) 23 12 = (ds[r.val]?).getD 0 ∧ t.rf (tsyRstat r.val) 11 0 = s.rf (tsyRstat r.val) 11 0) ∧
      t.rf (tsyBase + 8) 2 2 = (if m.vin < 63000 then 1 else if 66000 ≤ m.vin then 0 else s.rf (tsyBase + 8) 2 2) ∧
      t.rf (tsyBase + 8) 7 6 = s.rf (tsyBase + 8) 7 6 ∧ t.tsy.capped = [] ∧
      t.tsy.pending = (if t.rf (tsyBase + 8) 2 2 = 1 then (List.range 64).map s.tsyFloor
        else grantsOf (budget (s.inputLimit m.vinMin) m.pAon (s.overdraw m)) ((List.range 64).map (fun r =>
          ((ds[r]?).getD 0, s.tsyFloor r, s.rf (tsyRcfg r) 31 24)))) ∧
      (0 < s.overdraw m → bit (t.reg (tsyBase + 0xC)).toNat 0 = true)) ∧
  (∀ s : State, s.tsy.pending = [] → exec .grantEffect s = .next s) ∧
  (∀ s : State, s.power.phase = .on → s.tsy.pending ≠ [] →
    ∃ t, exec .grantEffect s = .next t ∧ t = { s with regs := t.regs, tsy := { s.tsy with pending := [], meshAt := [] } } ∧
      t.rf (tsyBase + 0x18) 31 16 = s.tsy.pending.sum % 65536 ∧
      ∀ r : Fin 64, t.rf (tsyRstat r.val) 11 0 = (s.tsy.pending[r.val]?).getD 0 % 4096 ∧
        t.rf (tsyRstat r.val) 29 24 = levelOf (s.rf (tsyRstat r.val) 23 12) ((s.tsy.pending[r.val]?).getD 0) ∧
        t.rf (tsyRstat r.val) 23 12 = s.rf (tsyRstat r.val) 23 12) ∧
  ∀ (r : Fin 64) (v : Word) (s : State), s.power.phase = .on →
    exec (.tsyRcfgWrite .firmware r v) s = .next
      (if 3200 < ((List.range 64).map (fun k => if k = r.val then bits v.toNat 11 0 else s.tsyFloor k)).sum
       then s.notice (Err.aon .notice 0x0A21 0 0 (tsyRcfg r.val)) else s.setReg (tsyRcfg r.val) v))

/-- Where every standby PLL locks, a decided change is prepared; otherwise LOCK_FAIL is set and the change ends. A prepared change is posted for the edge 4,096 on. A die acknowledges a posted change, once, up to 1,024 edges before its edge, and later not at all. Where an acknowledgement is missing by then, ACK_TIMEOUT is set and the change ends, no domain’s point or swallow count changed. Once all ten have acknowledged, an awake domain switches to the new point; when the last awake domain has, TSY_STATUS.OP changes and the change ends. (12_clocks_and_treasury.md) -/
def Obligations.PointChanges : Prop :=
  (∀ (locked : BitVec 10) (s : State), s.power.phase = .on → s.tsy.phase = .decided →
    (locked = 0x3FF → exec (.opChangePrepare locked) s = .next { s with tsy := { s.tsy with phase := .prepared } }) ∧
    (locked ≠ 0x3FF → ∃ t, exec (.opChangePrepare locked) s = .next t ∧
      t = { s with tsy := { s.tsy with phase := .idle }, regs := t.regs, recent := t.recent, jnl := t.jnl } ∧
      bit (t.reg (tsyBase + 0xC)).toNat 2 = true ∧ sameBut t.regs s.regs [tsyBase + 0xC])) ∧
  (∀ s : State, s.power.phase = .on → s.tsy.phase = .prepared → ∃ t, exec .change s = .next t ∧
    t = { s with regs := t.regs, tsy := { s.tsy with phase := .posted, changeEdge := s.edge + 4096, acks := [], switched := [] } } ∧
    sameBut t.regs s.regs [tsyBase + 0x8010] ∧ t.reg (tsyBase + 0x8010) = BitVec.ofNat 32 (s.edge + 4096)) ∧
  (∀ (die : Fin 10) (s : State), s.power.phase = .on → s.tsy.phase = .posted →
    (s.edge + 1024 ≤ s.tsy.changeEdge → die.val ∉ s.tsy.acks →
      exec (.changeAck die) s = .next { s with tsy := { s.tsy with acks := die.val :: s.tsy.acks } }) ∧
    (s.tsy.changeEdge < s.edge + 1024 ∨ die.val ∈ s.tsy.acks → exec (.changeAck die) s = .next s)) ∧
  (∀ s : State, s.power.phase = .on → s.tsy.phase = .posted →
    (s.tsy.acks.length < 10 → ∃ t, exec .cancel s = .next t ∧ t.tsy = { s.tsy with phase := .idle, acks := [] } ∧
      bit (t.reg (tsyBase + 0xC)).toNat 1 = true ∧ t.rf (tsyBase + 8) 7 6 = s.rf (tsyBase + 8) 7 6 ∧
      t.edge = max s.edge (s.tsy.changeEdge - 1024) ∧
      (∀ k, (t.domain k).opIndex = (s.domain k).opIndex ∧ (t.domain k).swallowed = (s.domain k).swallowed) ∧
      t.mem = s.mem ∧ t.rings = s.rings ∧ t.outer = s.outer) ∧
    (10 ≤ s.tsy.acks.length → exec .cancel s = .next s)) ∧
  ∀ (i : Fin 231) (s : State), s.power.phase = .on → i.val < 228 → s.tsy.acks.length = 10 → (s.domain i.val).awake = true →
    i.val ∉ s.tsy.switched →
    ∃ t, exec (.opChangeSwitch i) s = .next t ∧ (t.domain i.val).opIndex = s.tsy.nextOp ∧
      (∀ k, k ≠ i.val → (t.domain k).opIndex = (s.domain k).opIndex) ∧
      ((∀ k, k < 228 → (s.domain k).awake = true → k = i.val ∨ k ∈ s.tsy.switched) →
        t.tsy.phase = .idle ∧ t.rf (tsyBase + 8) 7 6 = s.tsy.nextOp % 4 ∧ s.tsy.changeEdge + 3 ≤ t.edge) ∧
      (∀ k, k < 228 → (s.domain k).awake = true → k ≠ i.val → k ∉ s.tsy.switched →
        t.tsy = { s.tsy with phase := .switching, switched := i.val :: s.tsy.switched } ∧
        t.rf (tsyBase + 8) 7 6 = s.rf (tsyBase + 8) 7 6) ∧
      t.mem = s.mem ∧ t.rings = s.rings ∧ t.outer = s.outer

/-- With no change in progress: a throttled region that is not capped goes to the next mesh edge that its pattern swallows, and each awake domain of it, and no other, swallows one edge; a hard cap swallows the edges it is given, once a period. A droop swallows its edges in its domain alone. A token raises the receiver’s S to the sender’s where that is larger. A reader ahead of its writer swallows the difference. A skew of 4 or more across a crossing is held: the leading domain swallows it, and CLK_SKEW counts it with both domains; a smaller one is not. CLK_SKEW’s clear leaves 1 in a count raised in the same edge, and otherwise 0. (12_clocks_and_treasury.md) -/
def Obligations.DomainsSwallow : Prop :=
  (∀ (r : Fin 64) (s : State), s.power.phase = .on → s.tsy.phase = .idle → r.val ∉ s.tsy.capped →
    (0 < s.rf (tsyRstat r.val) 29 24 → ∃ t k, exec (.throttleSwallow r) s = .next t ∧ Tab.read 0 s.tsy.meshAt r.val ≤ k ∧
      throttles (s.rf (tsyRstat r.val) 29 24) k = true ∧
      (∀ j, Tab.read 0 s.tsy.meshAt r.val ≤ j → j < k → throttles (s.rf (tsyRstat r.val) 29 24) j = false) ∧
      Tab.read 0 t.tsy.meshAt r.val = k + 1 ∧ sameBut t.tsy.meshAt s.tsy.meshAt [r.val] ∧
      (∀ i, t.domain i = { s.domain i with swallowed :=
        (s.domain i).swallowed + if i < 228 ∧ (s.domain i).awake = true ∧ domRegion i = r.val then 1 else 0 }) ∧
      t = { s with domains := t.domains, tsy := { s.tsy with meshAt := t.tsy.meshAt }, tally := t.tally }) ∧
    (s.rf (tsyRstat r.val) 29 24 = 0 → exec (.throttleSwallow r) s = .next s) ∧
    ∀ n : Nat, ∃ t, exec (.hardCap r n) s = .next t ∧
      (∀ i, t.domain i = { s.domain i with swallowed :=
        (s.domain i).swallowed + if i < 228 ∧ (s.domain i).awake = true ∧ domRegion i = r.val then n else 0 }) ∧
      t = { s with domains := t.domains, tsy := { s.tsy with capped := r.val :: s.tsy.capped }, tally := t.tally } ∧
      exec (.hardCap r n) t = .next t ∧ exec (.throttleSwallow r) t = .next t) ∧
  (∀ (i : Fin 231) (n : Fin 5) (s : State), s.power.phase = .on → i.val < 228 → s.tsy.phase = .idle → (s.domain i.val).awake = true →
    ∃ t, exec (.droopSwallow i n) s = .next t ∧ t = { s with domains := t.domains, tally := t.tally } ∧
      (t.domain i.val).swallowed = (s.domain i.val).swallowed + n.val ∧ ∀ k, k ≠ i.val → t.domain k = s.domain k) ∧
  (∀ (a b : Fin 231) (s : State), s.crossing a.val b.val = true → s.tsy.phase = .idle →
    ((s.domain b.val).deferred = 0 → ∃ t, exec (.stretchToken a b) s = .next t ∧
      t = { s with domains := t.domains, tally := t.tally } ∧
      (t.domain b.val).swallowed = max (s.domain a.val).swallowed (s.domain b.val).swallowed ∧
      ∀ k, k ≠ b.val → t.domain k = s.domain k) ∧
    (∃ t, exec (.crossingWaitSwallow a b) s = .next t ∧ t = { s with domains := t.domains, tally := t.tally } ∧
      (t.domain a.val).swallowed = (s.domain a.val).swallowed + (s.domEdge a.val - s.domEdge b.val) ∧
      ∀ k, k ≠ a.val → t.domain k = s.domain k)) ∧
  (∀ (a b : Fin 231) (s : State), s.crossing a.val b.val = false →
    exec (.stretchToken a b) s = .next s ∧ exec (.crossingWaitSwallow a b) s = .next s) ∧
  (∀ (a b : Fin 231) (s : State) (lo hi lead skew : Nat), lo = min a.val b.val → hi = max a.val b.val →
    skew = max (s.domEdge lo) (s.domEdge hi) - min (s.domEdge lo) (s.domEdge hi) →
    lead = (if s.domEdge hi < s.domEdge lo then lo else hi) →
    (s.crossing lo hi = false ∨ skew < 4 → exec (.skewHold a b) s = .next s) ∧
    (s.crossing lo hi = true → s.tsy.phase = .idle → 4 ≤ skew → ∃ t, exec (.skewHold a b) s = .next t ∧
      t = { s with domains := t.domains, regs := t.regs, recent := t.recent, tally := t.tally, jnl := t.jnl } ∧
      (t.domain lead).swallowed = (s.domain lead).swallowed + skew ∧ (∀ k, k ≠ lead → t.domain k = s.domain k) ∧
      sameBut t.regs s.regs [tsyBase + 0x8014] ∧ t.rf (tsyBase + 0x8014) 31 17 = min (s.rf (tsyBase + 0x8014) 31 17 + 1) 0x7FFF ∧
      t.rf (tsyBase + 0x8014) 15 8 = lo ∧ t.rf (tsyBase + 0x8014) 7 0 = hi)) ∧
  ∀ (by_ : Writer) (s : State), s.power.phase = .on →
    exec (.clkSkewClr by_) s = .next (s.setRf (tsyBase + 0x8014) 31 17 (if bit (s.freshBits (tsyBase + 0x8014)) 17 then 1 else 0))

/-- An awake domain whose sleep condition holds closes its gate in the edge after it has held for 64 edges, with the segments of its die where it is one, and beside the gates nothing changes then; where the condition has not held for them by then it stays awake, and where it does not hold nothing changes. A sleeping domain that may sleep, and whose core, if it is one, is not in the Reserve, opens its gate the full wake latency after a wake condition was seen, with the swallow count and the point of its die control, and one wake more; with no wake condition it stays asleep. A Depository slice that wakes then serves what waits for it. (12_clocks_and_treasury.md, 03_arrays_and_cores.md) -/
def Obligations.DomainsSleepAndWake : Prop :=
  (∀ (i : Fin 231) (s u : State), s.power.phase = .on → (s.domain i.val).awake = true → u = s.at (s.edge + (64 - (s.domain i.val).rested) + 1) →
    (s.mayRest i.val = true → u.mayRest i.val = true → (u.domain i.val).rested = 64 → ∃ t, exec (.domainSleep i) s = .next t ∧
      t = { u with domains := t.domains } ∧ (t.domain i.val).awake = false ∧
      (∀ k, k ∉ u.sleepGroup i.val false → t.domain k = u.domain k) ∧ ∀ k, (t.domain k).swallowed = (u.domain k).swallowed ∧
        (t.domain k).opIndex = (u.domain k).opIndex ∧ (t.domain k).wakes = (u.domain k).wakes) ∧
    (s.mayRest i.val = true → u.mayRest i.val = false ∨ (u.domain i.val).rested ≠ 64 → exec (.domainSleep i) s = .next u) ∧
    (s.mayRest i.val = false → exec (.domainSleep i) s = .next s)) ∧
  ∀ (i : Fin 231) (s : State), s.power.phase = .on → (s.domain i.val).awake = false →
    (domSleepable i.val = false → exec (.domainWake i) s = .next s) ∧
    (s.wakeFrom i.val = none → exec (.domainWake i) s = .next s) ∧
    ((domAt i.val).1 = 0 → (domAt i.val).2.2 < 34 → (s.core (domAt i.val).2.1 (domAt i.val).2.2).active = false →
      exec (.domainWake i) s = .next s) ∧
    ∀ (e : Nat) (u : State), domSleepable i.val = true → s.wakeFrom i.val = some e → u = s.at (e + domWake i.val + s.wakeHold i.val) →
      ((domAt i.val).1 = 0 → (domAt i.val).2.2 < 34 → (s.core (domAt i.val).2.1 (domAt i.val).2.2).active = true) →
      ((domAt i.val).1 = 1 → exec (.domainWake i) s = .next (u.openGate i.val).depSettle) ∧
      ((domAt i.val).1 ≠ 1 → ∃ t, exec (.domainWake i) s = .next t ∧ t = { u with domains := t.domains, rings := t.rings } ∧
        t.edge = max s.edge (e + domWake i.val + s.wakeHold i.val) ∧
        (t.domain i.val).awake = true ∧ (t.domain i.val).wakes = min ((s.domain i.val).wakes + 1) 0xFFFF ∧
        (t.domain i.val).deferred = 0 ∧
        (i.val < 156 → (t.domain i.val).swallowed = (s.domain (domCdCtl (i.val / 39))).swallowed ∧
          (t.domain i.val).opIndex = (s.domain (domCdCtl (i.val / 39))).opIndex) ∧
        (196 ≤ i.val → (t.domain i.val).swallowed = (s.domain (domXd ((i.val - 196) / 16) 15)).swallowed ∧
          (t.domain i.val).opIndex = (s.domain (domXd ((i.val - 196) / 16) 15)).opIndex) ∧ t.outer = s.outer)

/-- A notice with fewer than 3,840 entries held is appended with the next SEQ, its code and TLR_STEP, and SEQ advances; with more it is dropped, counted in LOST, and its region remembered. With 4,095 held, an error of class STEP, RESTORE or DEPART takes the last place as FATAL with code 0x0A25, and a fatal dump is due. JNL_POP, which the host may write, releases the oldest entries and clears LOST; DUMP_RELEASE clears DUMP_HELD. While power is on, a Rating update from a sound source publishes the weighted sum of the five scores over 4, at most 255, with the scores; reaching THRESH while armed disarms, and falling below THRESH less HYST arms. A faulted source sets RATING_FAULT and publishes nothing. A unit without a reserve that the update reports lost makes a fatal error pend where none does. A domain whose swallows do not pass THRESH starts its window anew; one that passes it once more counts on, and is flagged slow and journalled at the end of the window. (01_module_overview.md, 13_faults_and_ledger.md) -/
def Obligations.JournalAndRating : Prop :=
  ((∀ (s : State) (e : Err), s.jnl.entries.length < 3840 → ∃ x, (s.notice e).jnl.entries = s.jnl.entries ++ [x] ∧
    x.seq = s.jnl.seq ∧ x.code = e.code ∧ x.region = e.region ∧ x.step = s.tlrStep ∧ x.cls = .notice ∧
    x.lostBefore = s.jnl.lostRegions.contains e.region ∧ (s.notice e).jnl.seq = (s.jnl.seq + 1) % 2 ^ 32 ∧
    s.notice e = { s with jnl := (s.notice e).jnl }) ∧
  (∀ (s : State) (e : Err), 3840 ≤ s.jnl.entries.length → (s.notice e).jnl.entries = s.jnl.entries ∧
    (s.notice e).jnl.lost = min (s.jnl.lost + 1) 0xFFFF ∧ (s.notice e).jnl.lostRegions.contains e.region = true ∧
    s.notice e = { s with jnl := (s.notice e).jnl }) ∧
  (∀ (s : State) (e : Err), (e.cls = .step ∨ e.cls = .restore ∨ e.cls = .depart) → s.jnl.entries.length = 4095 →
    s.fatal.pending = none → s.fatal.stopped = false → ∃ x, (s.report e).jnl.entries = s.jnl.entries ++ [x] ∧ x.cls = .fatal ∧
      x.code = 0x0A25 ∧ x.seq = s.jnl.seq ∧ (s.report e).fatal.pending = some (s.jnl.seq, 0x0A25)) ∧
  (∀ (by_ : Writer) (n : BitVec 13) (s : State), s.power.phase = .on → ∃ t, exec (.jnlPop by_ n) s = .next t ∧
    t = { s with jnl := t.jnl } ∧
    t.jnl = { s.jnl with
      entries := s.jnl.entries.drop n.toNat, lost := 0, oldest := (s.jnl.oldest + min n.toNat s.jnl.entries.length) % 4096 }) ∧
  ∀ (by_ : Writer) (s : State), s.power.phase = .on →
    exec (.dumpRelease by_) s = .next { s with fatal := { s.fatal with dumpHeld := false } }) ∧
  ((∀ (h : Health) (s : State) (r : Nat), s.power.phase = .on → h.sourceFaulted = false →
    r = ratingOf (s.reg (ldgBase + 0x48)).toNat (scoresOf h ((List.range 231).any (fun i => (s.domain i).slow))) →
    ∃ t, exec (.ratingUpdate h) s = .next t ∧ r ≤ 255 ∧ t.rf (ldgBase + 0x3C) 7 0 = r ∧
      t.rf (ldgBase + 0x3C) 15 8 = min 255 (h.corrected / 16) ∧ t.rf (ldgBase + 0x3C) 31 24 = min 255 (4 * h.droop) ∧
      t.rf (ldgBase + 0x40) 7 0 = min 255 (32 * h.retrains + h.replays / 64) ∧
      (s.ldg.armed = true → s.rf (ldgBase + 0x44) 7 0 ≤ r → t.ldg.armed = false) ∧
      (r + s.rf (ldgBase + 0x44) 15 8 < s.rf (ldgBase + 0x44) 7 0 → t.ldg.armed = true) ∧
      t.power = { s.power with dieTemp := h.dieTemp, stackTemp := h.stackTemp } ∧ t.mem = s.mem ∧ t.cores = s.cores ∧
      t.rings = s.rings ∧ t.nvm = s.nvm ∧ t.hostMem = s.hostMem) ∧
  (∀ (h : Health) (s : State), s.power.phase = .on → h.sourceFaulted = true → ∃ t, exec (.ratingUpdate h) s = .next t ∧
    t.rf (ldgBase + 0xC) 3 3 = 1 ∧ t.reg (ldgBase + 0x3C) = s.reg (ldgBase + 0x3C) ∧ t.mem = s.mem ∧ t.cores = s.cores ∧
    t.rings = s.rings ∧ t.nvm = s.nvm ∧ t.hostMem = s.hostMem) ∧
  (∀ (h : Health) (s : State), s.power.phase = .on → h.lost ≠ [] → s.fatal.pending = none → s.fatal.stopped = false →
    ∃ t, exec (.ratingUpdate h) s = .next t ∧ t.fatal.pending.isSome = true) ∧
  ∀ (i : Fin 231) (n : Nat) (s : State), s.power.phase = .on →
    (n ≤ s.rf (ldgBase + 0x4C) 15 0 → exec (.slowUnitFlag i n) s =
      .next (s.setDomain i.val { s.domain i.val with slowPeriods := 0, originated := 0 })) ∧
    (s.rf (ldgBase + 0x4C) 15 0 < n → ∃ t, exec (.slowUnitFlag i n) s = .next t ∧
      t = { s with domains := t.domains, jnl := t.jnl } ∧
      t.domain i.val = { s.domain i.val with
        slowPeriods := (s.domain i.val).slowPeriods + 1, originated := 0,
        slow := (s.domain i.val).slow || decide (s.rf (ldgBase + 0x4C) 23 16 ≤ (s.domain i.val).slowPeriods + 1) } ∧
      ∀ k, k ≠ i.val → t.domain k = s.domain k))

/-- With no error being handled the oldest queued error leaves the queue: a STEP error of the skipped attempt does nothing more, another acts by its class; while one is handled, or with none queued, nothing changes. In ENTRY, while the memory controllers serve, a pending recovery stops every core, ring and Teller, empties the rings, and waits for the image where a core store is suspect; one that waits for a restore forgets the lost lines that read as good; at another stage, or elsewhere in the step, nothing changes. A pending fatal error stops every core and ring and ends every long operation; with memory in service and no dump held, a dump is written and held, complete unless a further fatal error cut it short; with memory off nothing is flushed. While a snapshot is built, a securing read sends image lines on, in order, and takes the digest with the last; otherwise it does nothing. (13_faults_and_ledger.md) -/
def Obligations.RecoveryRuns : Prop :=
  (∀ s : State, s.jnl.queue = [] ∨ s.jnl.handling.isSome = true ∨ s.alive = false → exec .queuedErrorRun s = .next s) ∧
  (∀ (s u : State) (q : QueuedErr) (rest : List QueuedErr), s.jnl.queue = q :: rest → s.alive = true → s.jnl.handling = none →
    u = { s with jnl := { s.jnl with queue := rest } } →
    (q.ref.cls = .step → q.later = false → exec .queuedErrorRun s = .next u) ∧
    (q.ref.cls ≠ .step ∨ q.later = true → exec .queuedErrorRun s = .next (u.act q.ref.cls q.ref.region q.ref.code q.seq q.addr)) ∧
    (q.ref.cls = .step → q.later = true → ∃ t, exec .queuedErrorRun s = .next t ∧ t.jnl.queue = rest ∧
      (s.step.post < 2 → t.step.faulted = true) ∧ (2 ≤ s.step.post → t.step.faultNext = some q.seq) ∧ t.mem = s.mem ∧
      t.cores = s.cores ∧ t.outer = s.outer) ∧
    (q.ref.cls = .restore → ∃ t, exec .queuedErrorRun s = .next t ∧ t.jnl.queue = rest ∧ t.rec_.stage = .pendingSkip ∧
      t.jnl.handling = some ⟨.restore, q.ref.region, q.ref.code⟩ ∧ t.mem = s.mem ∧ t.cores = s.cores ∧ t.outer = s.outer) ∧
    (q.ref.cls = .depart → ∃ t, exec .queuedErrorRun s = .next t ∧ t.jnl.queue = rest ∧ t.rec_.departNeeded = true ∧
      t.mem = s.mem ∧ t.cores = s.cores ∧ t.outer = s.outer)) ∧
  (∀ (f : RecoveryFinds) (s : State), s.memFree = true → s.step.post = 5 → s.rec_.stage = .pendingSkip →
    ∃ t, exec (.restoreRecovery f) s = .next t ∧
    (∀ (d : Fin 4) (p : Fin 34), t.coreRun d.val p.val = false) ∧ (∀ d : Fin 4, t.ringOn d.val = false) ∧ t.tlrDisabled = true ∧
    t.rings = [] ∧ t.rec_.cores = t.suspectCores ∧ (t.rec_.cores ≠ [] → t.rec_.stage = .imageNeeded) ∧ t.outer = s.outer) ∧
  (∀ (f : RecoveryFinds) (s : State), s.memFree = true → s.step.post = 5 → s.rec_.stage = .restoreNeeded →
    ∃ t, exec (.restoreRecovery f) s = .next t ∧ t = { s with rec_ := t.rec_ } ∧
      t.rec_.lost = s.rec_.lost.filter (fun a => !s.lineGood a)) ∧
  (∀ (f : RecoveryFinds) (s : State), s.memFree = false ∨ s.step.post ≠ 5 ∨ (s.rec_.stage ≠ .pendingSkip ∧ s.rec_.stage ≠ .restoreNeeded) →
    exec (.restoreRecovery f) s = .next s) ∧
  (∀ (r : BitVec 11) (cut : Option (Fin 11)) (s : State), s.power.phase ≠ .on ∨ s.fatal.stopped = true ∨ s.fatal.pending = none →
    exec (.fatalDump r cut) s = .next s) ∧
  (∀ (r : BitVec 11) (cut : Option (Fin 11)) (s : State) (cause : Nat × Nat), s.power.phase = .on → s.fatal.stopped = false →
    s.fatal.pending = some cause →
    ∃ t, exec (.fatalDump r cut) s = .next t ∧ t.fatal.stopped = true ∧ t.fatal.pending = none ∧ t.fatal.selfRefresh = true ∧
      (∀ (d : Fin 4) (p : Fin 34), t.coreRun d.val p.val = false) ∧ (∀ d : Fin 4, t.ringOn d.val = false) ∧
      (∀ o ∈ t.mbx.ops, o.done = true) ∧ (s.memUp = false → t.fatal.flushed = false ∧ t.mem = s.mem) ∧
      (s.memUp = true → s.fatal.dumpHeld = false → t.fatal.dumpHeld = true ∧ t.fatal.complete = cut.isNone ∧ t.fatal.flushed = true) ∧
      t.outer = s.outer) ∧
  (∀ (n : Nat) (s : State), s.ldg.building = none ∨ s.memFree = false ∨ s.ldgOn = false ∨ s.ldg.digest ≠ none →
    exec (.securingRead n) s = .next s) ∧
  ∀ (n m : Nat) (s : State), s.ldg.building = some m → s.memFree = true → s.ldgOn = true → s.ldg.digest = none →
    ∃ t, exec (.securingRead n) s = .next t ∧ t.ldg.building = some m ∧
      t.ldg.read = (if s.ldg.read < (s.reg (ldgBase + 0x1C)).toNat then min (s.ldg.read + n) (s.reg (ldgBase + 0x1C)).toNat else s.ldg.read) ∧
      (t.ldg.digest.isSome = true ↔ t.ldg.read = (s.reg (ldgBase + 0x1C)).toNat) ∧ t.outer = s.outer

/-- Once, while power is on: the first bank, in the order tried, that passes every check is booted, physical cores 0 to 31 of each die are active, and the boot stage reads 3; where neither passes, the stage reads 0xF and no bank is booted. NVM, fuses, host memory and waiting commands stay. After that COLD_START changes nothing. That cores 0 to 31 are the active ones is the model’s choice (log 6). (01_module_overview.md, 14_startup_and_host.md) -/
def Obligations.ColdStartBoots : Prop :=
  (∀ (f : BootFinds) (s : State) (b : Bool), s.power.phase = .on → s.far.bootDone = false → 
    (bankOrder s.nvm).find? (fun b => bankReason s.nvm (bankBase b) s.fuses (if b then f.bankB else f.bankA) == 0) = some b →
    ∃ t, exec (.coldStart f) s = .next t ∧ t.far.bootDone = true ∧ t.far.bank = some b ∧ t.rf 8 31 28 = 3 ∧
      (∀ (d : Fin 4) (p : Fin 34), p.val < 32 → (t.core d.val p.val).active = true ∧ (t.core d.val p.val).activeIndex = p.val) ∧
      t.nvm = s.nvm ∧ t.fuses = s.fuses ∧ t.hostMem = s.hostMem ∧ t.pending = s.pending ∧ t.power = s.power) ∧
  (∀ (f : BootFinds) (s : State), s.power.phase = .on → s.far.bootDone = false →
    bankReason s.nvm (bankBase false) s.fuses f.bankA ≠ 0 → bankReason s.nvm (bankBase true) s.fuses f.bankB ≠ 0 →
    ∃ t, exec (.coldStart f) s = .next t ∧ t.rf 8 31 28 = 0xF ∧ t = { s with regs := t.regs, far := { s.far with bootDone := true } }) ∧
  ∀ (f : BootFinds) (s : State), s.power.phase ≠ .on ∨ s.far.bootDone = true → exec (.coldStart f) s = .next s

/-- A module without power comes up once VIN has passed 64 V (after an over-voltage trip, once PWR_EN is low and VIN below 78 V), with no job, no Journal entry and edge count 0; the flash stays. PWR_EN’s fall or VIN below 58 V, VIN above 81 V, or a temperature at a trip point removes the dies’ supplies: cores, rings and near memory lose what they hold, Journal, mailbox and flash stay. After the hold the always-on part goes too, but not after a thermal trip with VIN in range: there the Journal’s entries stay, and once PWR_EN has fallen, a new power-up keeps them. A link reset sets the mailbox’s tail, count and head to 0 and leaves job, Journal and long operations. (01_module_overview.md, 13_faults_and_ledger.md, 14_startup_and_host.md, 16_module_interface.md) -/
def Obligations.PowerComesAndGoes : Prop :=
  (∀ (vin : Nat) (s : State), s.power.phase = .off →
    (s.power.overVoltage && (s.power.pwrEn || decide (78000 ≤ vin))) = false →
    (64000 < vin → s.power.alwaysOn = true → ∃ t, exec (.powerUp vin) s = .next t ∧ t.power = { vin := vin } ∧ t.step = {} ∧
      t.mem.near = [] ∧ t.jnl.entries = s.jnl.entries ∧ t.jnl.seq = s.jnl.seq ∧ t.nvm = s.nvm ∧ t.pending = s.pending) ∧
    (64000 < vin → s.power.alwaysOn = false → ∃ t, exec (.powerUp vin) s = .next t ∧ t.power = { vin := vin } ∧ t.power.phase = .on ∧ t.regs = [] ∧
      t.edge = 0 ∧ t.step = {} ∧ t.jnl = {} ∧ t.mem.near = [] ∧ t.nvm = s.nvm ∧ t.fuses = s.fuses ∧ t.hostMem = s.hostMem ∧
      t.pending = s.pending) ∧
    (vin ≤ 64000 → exec (.powerUp vin) s = .next s)) ∧
  (∀ (vin : Nat) (s : State), s.power.phase ≠ .off ∨ (s.power.overVoltage && (s.power.pwrEn || decide (78000 ≤ vin))) = true →
    exec (.powerUp vin) s = .next s) ∧
  (∀ s : State, s.power.phase = .on →
    (∀ c : Instr, (∃ vin : Nat, c = .powerDown true vin ∨ (vin < 58000 ∧ c = .powerDown false vin) ∨ (81000 < vin ∧ c = .overVoltageTrip vin)) ∨
        (∃ die stack : Int, (115 ≤ die ∨ 105 ≤ stack) ∧ c = .thermalTrip die stack) →
      ∃ t, exec c s = .next t ∧ t.power.phase = .holding ∧ t.cores = [] ∧ t.rings = [] ∧ t.dies = [] ∧ t.mem.near = [] ∧
        t.step = {} ∧ t.edge = s.edge ∧ t.jnl = s.jnl ∧ t.mbx = s.mbx ∧ t.nvm = s.nvm ∧ t.fuses = s.fuses ∧
        t.hostMem = s.hostMem ∧ t.pending = s.pending) ∧
    (∀ vin : Nat, 58000 ≤ vin → exec (.powerDown false vin) s = .next { s with power := { s.power with vin := vin } }) ∧
    (∀ vin : Nat, vin ≤ 81000 → exec (.overVoltageTrip vin) s = .next s) ∧
    (∀ die stack : Int, die < 115 → stack < 105 → exec (.thermalTrip die stack) s = .next s) ∧
    (∀ hot : Bool, ∃ t, exec (.linkReset hot) s = .next t ∧ t.rf 0x100 15 0 = 0 ∧ t.rf 0x104 15 0 = 0 ∧ t.rf 0x108 15 0 = 0 ∧
      t.mbx = { s.mbx with taken := 0 } ∧ t = { s with regs := t.regs, mbx := t.mbx, power := t.power, bus := .none } ∧
      t.power = { s.power with perstN := t.power.perstN } ∧ (hot = true → t.power = s.power))) ∧
  ∀ s : State, s.power.phase = .holding →
    ((s.power.thermTrip = false ∨ s.power.vin < 58000 ∨ 81000 < s.power.vin) → ∃ t, exec .alwaysOnHoldExpiry s = .next t ∧ t.power.phase = .off ∧ t.power.alwaysOn = false ∧
      t.jnl = {} ∧ t.mbx = {} ∧ t.nvm = s.nvm ∧ t.fuses = s.fuses ∧ t.hostMem = s.hostMem ∧ t.pending = s.pending) ∧
    (s.power.thermTrip = true → 58000 ≤ s.power.vin → s.power.vin ≤ 81000 → exec .alwaysOnHoldExpiry s = .next s ∧
      ∀ vin : Nat, 58000 ≤ vin → vin ≤ 81000 → exec (.powerDown true vin) s =
        .next { s with power := { s.power with vin := vin, pwrEn := false, thermTrip := false, phase := .off } })

/-- A tail that passes on by 1 to 32 with at most 32 requests outstanding is taken; another one that differs is ignored and flagged. A reply head up to the count is taken. A request command acts only on a waiting frame of its opcode and version. A request that the module’s state forbids is answered so, and does nothing else; and so is a frame of a reserved version or opcode; one that it does not forbid is answered with result 0x10. An answer takes one request, counts one reply, and writes its frame into the slot of the same index. (14_startup_and_host.md) -/
def Obligations.MailboxRing : Prop :=
  (∀ (by_ : Writer) (tail : BitVec 16) (s : State), s.power.phase = .on →
    ((tail.toNat + 65536 - s.rf 0x100 15 0) % 65536 = 0 → exec (.mbxReqTailWrite by_ tail) s = .next s) ∧
    (0 < (tail.toNat + 65536 - s.rf 0x100 15 0) % 65536 → (tail.toNat + 65536 - s.rf 0x100 15 0) % 65536 ≤ 32 →
      (tail.toNat + 65536 - s.rf 0x108 15 0) % 65536 ≤ 32 →
      exec (.mbxReqTailWrite by_ tail) s = .next (s.setRf 0x100 15 0 tail.toNat)) ∧
    (0 < (tail.toNat + 65536 - s.rf 0x100 15 0) % 65536 →
      (32 < (tail.toNat + 65536 - s.rf 0x100 15 0) % 65536 ∨ 32 < (tail.toNat + 65536 - s.rf 0x108 15 0) % 65536) → ∃ t, exec (.mbxReqTailWrite by_ tail) s = .next t ∧
      t = { s with regs := t.regs, recent := t.recent, jnl := t.jnl } ∧ sameBut t.regs s.regs [0x10C] ∧ t.rf 0x100 15 0 = s.rf 0x100 15 0 ∧ bit (t.reg 0x10C).toNat 16 = true) ∧
    exec (.mbxRplHeadWrite by_ tail) s = .next
      (if (tail.toNat + 65536 - s.rf 0x108 15 0) % 65536 ≤ (s.rf 0x104 15 0 + 65536 - s.rf 0x108 15 0) % 65536
       then s.setRf 0x108 15 0 tail.toNat else s)) ∧
  (∀ (hf : Option (BitVec 32)) (ok : Bool) (rs : List Replica) (v : BankVerdict), ∀ x ∈ requests hf ok rs v, ∀ s : State,
    (s.frame? = none → exec x.2 s = .next s) ∧
    ∀ w, s.frame? = some w →
      (bits w 3 0 ≠ 1 ∨ frOpcode w ≠ x.1 → exec x.2 s = .next s) ∧
      (∀ r, s.power.phase = .on → bits w 3 0 = 1 → frOpcode w = x.1 → s.forbids w = some r →
        exec x.2 s = .next (s.answerWith w r))) ∧
  (∀ s : State, (s.frame? = none → exec .badFrame s = .next s) ∧
    ∀ w, s.power.phase = .on → s.frame? = some w →
      (bits w 3 0 = 1 → frOpcode w ∈ opcodes → exec .badFrame s = .next s) ∧
      (bits w 3 0 ≠ 1 ∨ frOpcode w ∉ opcodes →
        exec .badFrame s = .next (s.answerWith w ((s.forbids w).getD { result := 0x10 })))) ∧
  (∀ (s : State) (w : Nat) (r : Reply), s.answerWith w r = { s with regs := (s.answerWith w r).regs, tally := (s.answerWith w r).tally, mbx := (s.answerWith w r).mbx } ∧
    (s.answerWith w r).mbx.taken = (s.mbx.taken + 1) % 65536 ∧ (s.answerWith w r).rf 0x104 15 0 = (s.rf 0x104 15 0 + 1) % 65536 ∧
    (s.answerWith w r).slotWords (0x2000 + 64 * (s.mbx.taken % 32)) 16 = s.replyFrame w r % 2 ^ 512) ∧
  ∀ (s : State) (w : Nat) (r : Reply), r.result < 256 → r.opId < 65536 → s.jnl.seq < 2 ^ 32 →
    bits (s.replyFrame w r) 3 0 = 1 ∧ bits (s.replyFrame w r) 15 8 = frOpcode w ∧ bits (s.replyFrame w r) 31 16 = frTag w ∧
    bits (s.replyFrame w r) 39 32 = r.result ∧ bits (s.replyFrame w r) 63 48 = r.opId ∧
    bits (s.replyFrame w r) 95 64 = r.detail % 2 ^ 32 ∧ bits (s.replyFrame w r) 127 96 = s.jnl.seq

/-- HEARTBEAT only answers. IDENT makes a fresh nonce and answers with it. ACK_ATTN clears the latched code it names, but for one latched in the same edge. QUERY_OP answers with the state of an operation, and forgets one that is done. GET_LATENCY and GET_REPORT write the descriptor or the oldest unread report into the buffer; SET_JOB_KEY takes a key from it, once before the first LOAD. START lifts STOP and the host’s halt, and where the first step begins, a schedule program that the load found invalid faults it (log 95); STOP asks for admission to stop, EVAL asks for a slot where the job has one; each with a job loaded, and otherwise is not permitted. (14_startup_and_host.md, 06_teller_update.md) -/
def Obligations.ShortRequests : Prop :=
  ∀ (s : State) (w : Nat),
    (s.asks 1 w → exec .heartbeat s = .next (s.answerWith w {})) ∧
    (s.asks 2 w → ∃ t g, exec .ident s = .next t ∧ t.far = { s.far with nonce := some g } ∧ t.mbx.ops = s.mbx.ops ∧
      t = { s with regs := t.regs, tally := t.tally, mbx := t.mbx, far := t.far, free := t.free }) ∧
    (s.asks 3 w →
      (frArg w 0 1 ∉ latchedCodes → exec .ackAttn s = .next (s.answerWith w { result := 0x11, detail := 24 })) ∧
      (frArg w 0 1 ∈ latchedCodes → ∃ t, exec .ackAttn s = .next t ∧ t = { s with regs := t.regs, tally := t.tally, mbx := t.mbx } ∧
        t.mbx.evalEnded = (s.mbx.evalEnded && (frArg w 0 1 != 0x18 || bit (s.freshBits 0x110) 3)) ∧
        t.mbx.abandoned = (s.mbx.abandoned && (frArg w 0 1 != 0x20 || bit (s.freshBits 0x110) 4)) ∧
        t.mbx.restoreFailed = (s.mbx.restoreFailed && (frArg w 0 1 != 0x90 || bit (s.freshBits 0x110) 13)) ∧ t.mbx.ops = s.mbx.ops)) ∧
    (s.asks 4 w →
      (s.mbx.ops.find? (fun o => o.id == frArg w 0 2) = none → exec .queryOp s = .next (s.answerWith w { result := 0x11, detail := 24 })) ∧
      ∀ o, s.mbx.ops.find? (fun o => o.id == frArg w 0 2) = some o →
        (o.done = false → exec .queryOp s = .next (s.answerWith w { result := 4, opId := frArg w 0 2 })) ∧
        (o.done = true → ∃ t, exec .queryOp s = .next t ∧ t = { s with regs := t.regs, tally := t.tally, mbx := t.mbx } ∧
          t.mbx.ops = s.mbx.ops.filter (fun x => x.id != frArg w 0 2))) ∧
    (s.asks 5 w →
      (∀ r, bufferBad w 120 = some r → ∀ hf, exec (.getLatency hf) s = .next (s.answerWith w r)) ∧
      (bufferBad w 120 = none → exec (.getLatency none) s =
          .next ((s.toHostMem (frAddr w) (latencyBytes s.fuses.stepMajor)).answerWith w {}) ∧
        ∀ o, exec (.getLatency (some o)) s = .next (s.answerWith w { result := 0x14, detail := o.toNat }))) ∧
    (s.asks 6 w →
      (s.mbx.reports = [] → ∀ hf, exec (.getReport hf) s = .next (s.answerWith w {})) ∧
      ∀ r rest, s.mbx.reports = r :: rest →
        (∀ y, bufferBad w r.toBytes.length = some y → ∀ hf, exec (.getReport hf) s = .next (s.answerWith w y)) ∧
        (bufferBad w r.toBytes.length = none → (∃ t, exec (.getReport none) s = .next t ∧
          t.hostMem = s.hostMem.setBytes (frAddr w) r.toBytes ∧ t.mbx.reports = rest ∧
          t = { s with regs := t.regs, tally := t.tally, mbx := t.mbx, hostMem := t.hostMem }) ∧
          ∀ o, exec (.getReport (some o)) s = .next (s.answerWith w { result := 0x14, detail := o.toNat }))) ∧
    (∀ x ∈ [((0x11 : Nat), Instr.start), (0x12, .stop), (0x13, .eval)], s.asks x.1 w → s.step.job = none →
      exec x.2 s = .next (s.answerWith w { result := 0x12, detail := s.attn })) ∧
    (∀ u, s.asks 0x11 w → s.step.job ≠ none → u = (if s.step.stopped && s.step.post == 0 then s.progFaults else s) →
      exec .start s = .next
        (({ u with step := { u.step with stopped := false, stopRequested := false }, mbx := { u.mbx with haltedHost := false } } : State).answerWith
          w {}) ∧
      (s.rf (tlrBase 0 + 0x8010) 1 1 = 0 → s.rf (tlrBase 1 + 0x8010) 1 1 = 0 → u = s)) ∧
    (s.asks 0x12 w → s.step.job ≠ none → ∃ t, exec .stop s = .next t ∧
      t.step = (if s.step.stopped then s.step else { s.step with stopRequested := true }) ∧
      t = { s with regs := t.regs, tally := t.tally, mbx := t.mbx, step := t.step }) ∧
    (∀ j, s.asks 0x13 w → s.step.job = some j → j.evalLimit ≠ 0 → ∃ t, exec .eval s = .next t ∧
      t.step = { s.step with evalRequested := true } ∧ t = { s with regs := t.regs, tally := t.tally, mbx := t.mbx, step := t.step }) ∧
    (∀ j, s.asks 0x13 w → s.step.job = some j → j.evalLimit = 0 →
      exec .eval s = .next (s.answerWith w { result := 0x12, detail := s.attn })) ∧
    (s.asks 0x19 w → s.far.jobKey ≠ none ∨ s.far.firstLoad = true → ∀ hf, exec (.setJobKey hf) s =
      .next (s.answerWith w { result := 0x12, detail := s.attn })) ∧
    (s.asks 0x19 w → s.far.jobKey = none → s.far.firstLoad = false →
      (∀ y, bufferBad w 1952 = some y → ∀ hf, exec (.setJobKey hf) s = .next (s.answerWith w y)) ∧
      (bufferBad w 1952 = none → ∀ o, exec (.setJobKey (some o)) s = .next (s.answerWith w { result := 0x14, detail := o.toNat }))) ∧
    (s.asks 0x19 w → bufferBad w 1952 = none → s.far.jobKey = none → s.far.firstLoad = false → ∃ t, exec (.setJobKey none) s = .next t ∧
      t.far = { s.far with jobKey := some (s.hostMem.bytes (frAddr w) 1952) } ∧ t = { s with regs := t.regs, tally := t.tally, mbx := t.mbx, far := t.far })

/-- A long request is answered with result 3 while eight operations are held; otherwise with the bad field of its buffer; otherwise, while a running operation uses its resource, as not permitted; each changes nothing else. A request whose buffer the host bus refuses is accepted and its outcome will be 0x14. ATTEST and GET_CERTS without a secret key are not permitted, nor is a LOAD where none may be made. A LOAD that is refused is journalled, leaves job, memory, cores and the use of SET_JOB_KEY as they were, and its outcome will be the refusal. A completion for an id that no running operation has changes nothing. One that fails its buffer, or that has done its work at acceptance, ends with the outcome it has; a copy is made once memory serves, or in a fatal stop, then it ends with result 0; a checkpoint waits until the Posting it names, and is then written; a Ledger restore ends with what the rebuild gives; each waits until then. Each end sets OP_DONE. When the heartbeat’s grace runs out while it is set, the host’s halt is raised and admission is asked to stop; otherwise nothing changes. (00_scope.md, 14_startup_and_host.md, 13_faults_and_ledger.md) -/
def Obligations.LongRequestsEnd : Prop :=
  ((∀ (hf : Option (BitVec 32)) (ok : Bool) (rs : List Replica) (v : BankVerdict), ∀ x ∈ longRequests hf ok rs v, ∀ (s : State) (w : Nat),
    s.asks x.1 w →
    (8 ≤ s.mbx.ops.length → exec x.2.2 s = .next (s.answerWith w { result := 3 })) ∧
    (s.mbx.ops.length < 8 → ∀ r, x.2.1 w = some r → exec x.2.2 s = .next (s.answerWith w r)) ∧
    (s.mbx.ops.length < 8 → x.2.1 w = none → (∃ o ∈ s.mbx.ops, o.done = false ∧ sameResource w o.frame.toNat = true) →
      exec x.2.2 s = .next (s.answerWith w { result := 0x12, detail := s.attn }))) ∧
  (∀ (o : BitVec 32) (ok : Bool) (v : BankVerdict), ∀ x ∈ bufferRequests (some o) ok v, ∀ (s : State) (w : Nat), s.asksLong x.1 x.2.1 w →
    ∃ t, exec x.2.2 s = .next t ∧ t = { s with regs := t.regs, tally := t.tally, mbx := t.mbx } ∧
      t.mbx.ops = s.mbx.ops ++ [{ id := s.mbx.nextOp, frame := BitVec.ofNat 512 w, hostFault := some o.toNat, result := 0x14,
                                  detail := o.toNat, done := false }]) ∧
  (∀ (s : State) (w : Nat), s.attestKey = none →
    (s.asksLong 7 (needs 5632) w → exec (.attest none) s = .next (s.answerWith w { result := 0x12, detail := s.attn })) ∧
    (s.asksLong 8 (needs 11264) w → exec (.getCerts none) s = .next (s.answerWith w { result := 0x12, detail := s.attn }))) ∧
  ∀ (s : State) (w : Nat) (ok : Bool), s.asksLong 0x10 (needs 0x100) w →
    ((if frArg w 0 1 = 1 then s.rec_.stage ≠ .imageNeeded else s.mayLoad = false) →
      exec (.load none ok) s = .next (s.answerWith w { result := 0x12, detail := s.attn })) ∧
    ∀ r : Refused, (if frArg w 0 1 = 1 then s.rec_.stage = .imageNeeded else s.mayLoad = true) →
      s.loadRefusal (imageAt s.hostMem (frAddr w) (frLen w)) ok = some r →
      ∃ t, exec (.load none ok) s = .next t ∧
        t = { s with regs := t.regs, recent := t.recent, tally := t.tally, mbx := t.mbx, jnl := t.jnl } ∧
        t.mbx.ops = s.mbx.ops ++ [{ id := s.mbx.nextOp, frame := BitVec.ofNat 512 w, hostFault := none, result := r.1,
                                    detail := r.2, done := false }]) ∧
  ((∀ (i : BitVec 16) (s : State), (∀ o ∈ s.mbx.ops, o.id = i.toNat → o.done = true) → exec (.longOpComplete i) s = .next s) ∧
  (∀ (i : BitVec 16) (s : State) (o : LongOp), s.power.phase = .on → s.mbx.ops.find? (fun o => o.id == i.toNat && !o.done) = some o →
    (o.hostFault ≠ none ∨ frOpcode o.frame.toNat ∉ [0x14, 0x16, 0x18] →
      exec (.longOpComplete i) s = .next (s.finishOp o.id o.result o.detail)) ∧
    (o.hostFault = none → frOpcode o.frame.toNat = 0x18 →
      (s.memFree = true ∨ s.fatal.stopped = true → exec (.longOpComplete i) s =
        .next ((s.stageCopy o.frame.toNat).finishOp o.id 0 0)) ∧
      (s.memFree = false → s.fatal.stopped = false → exec (.longOpComplete i) s = .next s)) ∧
    (o.hostFault = none → frOpcode o.frame.toNat = 0x14 →
      (s.memFree = true ∧ frArg o.frame.toNat 0 4 + 1 = s.tlrStep → exec (.longOpComplete i) s =
        .next ((s.writeCheckpoint o.frame.toNat).1.finishOp o.id (s.writeCheckpoint o.frame.toNat).2.1
          (s.writeCheckpoint o.frame.toNat).2.2)) ∧
      (s.memFree = false ∨ frArg o.frame.toNat 0 4 + 1 ≠ s.tlrStep → exec (.longOpComplete i) s = .next s)) ∧
    (o.hostFault = none → frOpcode o.frame.toNat = 0x16 →
      (s.memFree = true → exec (.longOpComplete i) s =
        .next ((s.ledgerRestore o.frame.toNat).1.finishOp o.id (s.ledgerRestore o.frame.toNat).2.1 (s.ledgerRestore o.frame.toNat).2.2)) ∧
      (s.memFree = false → exec (.longOpComplete i) s = .next s))) ∧
  (∀ (s : State) (id r x : Nat), (s.finishOp id r x).mbx.opDone = true ∧
    s.finishOp id r x = { s with mbx := (s.finishOp id r x).mbx } ∧
    (s.finishOp id r x).mbx.ops.length = s.mbx.ops.length ∧
    ∀ o ∈ (s.finishOp id r x).mbx.ops, (o.id = id → o.done = true ∧ o.result = r ∧ o.detail = x) ∧ (o.id ≠ id → o ∈ s.mbx.ops)) ∧
  ∀ s : State, (s.alive = true → s.mbx.firstRequest = true → s.rf 0x114 7 0 ≠ 0 → s.mbx.haltedHost = false →
      ∃ t, exec .heartbeatGraceExpiry s = .next t ∧ t = { s with step := t.step, mbx := { s.mbx with haltedHost := true } } ∧
        t.step = (if s.step.stopped then s.step else { s.step with stopRequested := true })) ∧
    (s.alive = false ∨ s.mbx.firstRequest = false ∨ s.rf 0x114 7 0 = 0 ∨ s.mbx.haltedHost = true →
      exec .heartbeatGraceExpiry s = .next s))

/-- An accepted request is held as an operation, and its answer names it. ATTEST and GET_CERTS write their bytes to the buffer; LOAD places the image, and ends the use of SET_JOB_KEY; CHECKPOINT and STAGE wait for their end; RESTORE from a store, of a state that passes, stands in ENTRY before the step after the one named, halts lifted, and of one that does not pass changes nothing but the mailbox; while the memory controllers are off it is answered with result 2; a Ledger restore is journalled; MEMBERSHIP stages its record; SVN_COMMIT raises the fused SVN, or is refused where the other bank’s is lower and it was not told to; an unlock erases the private key; NVM_UPDATE writes the other bank only; RESTART ends a fatal stop. (11_vyvan_link.md, 13_faults_and_ledger.md, 14_startup_and_host.md, 10_descriptors.md) -/
def Obligations.LongRequestsAccepted : Prop :=
  (∀ (s : State) (w r x : Nat), ∃ o : LongOp, o.id = s.mbx.nextOp ∧ o.frame = BitVec.ofNat 512 w ∧ o.result = r ∧ o.detail = x ∧
    o.done = false ∧ (s.accepted w r x).mbx.ops = s.mbx.ops ++ [o] ∧
    s.accepted w r x = { s with regs := (s.accepted w r x).regs, tally := (s.accepted w r x).tally, mbx := (s.accepted w r x).mbx }) ∧
  ∀ (s : State) (w : Nat),
    (∀ k, s.attestKey = some k →
      (s.asksLong 7 (needs 5632) w → exec (.attest none) s =
        .next ((s.toHostMem (frAddr w) (s.attestation k (frArg w 0 32))).accepted w 0 0)) ∧
      (s.asksLong 8 (needs 11264) w → exec (.getCerts none) s =
        .next ((s.toHostMem (frAddr w) (s.nvm.bytes 0x3800000 5632 ++ s.akCert k)).accepted w 0 0))) ∧
    (∀ (ok : Bool) (x : Image) (s1 : State), s.asksLong 0x10 (needs 0x100) w → s1 = { s with far := { s.far with firstLoad := true } } →
      x = imageAt s.hostMem (frAddr w) (frLen w) → s.loadRefusal x ok = none →
      (frArg w 0 1 ≠ 1 → s.mayLoad = true → exec (.load none ok) s =
        .next ((s1.placeImage x).accepted w 0 (x.holds s.fuses.stepMajor).length)) ∧
      (frArg w 0 1 = 1 → s.rec_.stage = .imageNeeded → exec (.load none ok) s = .next ((s1.placeRecovery x).accepted w 0 0))) ∧
    (s.asksLong 0x14 (needsOnHostPath 12) w →
      (s.step.job ≠ none → s.tlrStep ≤ frArg w 0 4 ∨ (frArg w 0 4 + 1 = s.tlrStep ∧ (s.step.post < 2 ∨ 5 ≤ s.step.post)) →
        exec .checkpoint s = .next (s.accepted w 0 0)) ∧
      (s.step.job ≠ none → frArg w 0 4 + 1 < s.tlrStep ∨ (frArg w 0 4 + 1 = s.tlrStep ∧ 2 ≤ s.step.post ∧ s.step.post < 5) →
        exec .checkpoint s = .next (s.answerWith w { result := 0x11, detail := 24 })) ∧
      (s.step.job = none → exec .checkpoint s = .next (s.answerWith w { result := 0x12, detail := s.attn }))) ∧
    (s.asksLong 0x18 (needs 0) w → frArg w 8 1 ≤ 1 → frLen w = 0 ∨
        (s.where_ (frArg w 0 8) ≠ .unmapped ∧ s.where_ (frArg w 0 8 + frLen w - 1) ≠ .unmapped) →
      exec (.stage none) s = .next (s.accepted w 0 0)) ∧
    (s.asksLong 0x18 (needs 0) w → 1 < frArg w 8 1 → exec (.stage none) s = .next (s.answerWith w { result := 0x11, detail := 32 })) ∧
    (∀ rs : List Replica, s.asksLong 0x15 (needsOnHostPath 4) w →
      (∀ ok, s.step.job = none → exec (.restore ok rs) s = .next (s.answerWith w { result := 0x12, detail := s.attn })) ∧
      (∀ ok, s.step.job ≠ none → s.memFree = false → exec (.restore ok rs) s = .next (s.answerWith w { result := 2 })) ∧
      (s.step.job ≠ none → s.memFree = true → frArg w 4 2 ≠ 0xFFFF →
        (∃ t, exec (.restore true rs) s = .next t ∧ t.step.post = 5 ∧ t.rec_.haltedLs = false ∧ t.rec_.haltedSteps = false ∧
          (s.link.staged = none → t.tlrStep = (frArg w 0 4 + 1) % 2 ^ 32)) ∧
        ∃ t, exec (.restore false rs) s = .next t ∧ t = { s with regs := t.regs, recent := t.recent, tally := t.tally, mbx := t.mbx } ∧
          t.mbx.restoreFailed = true)) ∧
    (s.asksLong 0x16 (needs 4) w → s.step.job ≠ none → s.ldgOn = true → exec (.ledgerRestore none) s =
      .next ((s.notice (Err.aon .notice 0x923 0 0 (s.hostMem.num (frAddr w) 4))).accepted w 0 0)) ∧
    (s.asksLong 0x16 (needs 4) w → s.step.job = none ∨ s.ldgOn = false → exec (.ledgerRestore none) s =
      .next (s.answerWith w { result := 0x12, detail := s.attn })) ∧
    (s.asksLong 0x17 (needs 32) w → frLen w < 32 + 8 * s.hostMem.num (frAddr w + 28) 2 + 4 * s.hostMem.num (frAddr w + 30) 2 →
      exec (.membership none) s = .next (s.answerWith w { result := 0x11, detail := 16 })) ∧
    (s.asksLong 0x17 (needs 32) w → 32 + 8 * s.hostMem.num (frAddr w + 28) 2 + 4 * s.hostMem.num (frAddr w + 30) 2 ≤ frLen w →
      ∃ t g, exec (.membership none) s = .next t ∧ t.link.staged = some g ∧ g.step = s.hostMem.num (frAddr w) 4 ∧
        g.epoch = s.hostMem.num (frAddr w + 4) 4 ∧ t.epoch = s.epoch ∧ t.step = s.step ∧ t.mem = s.mem ∧ t.cores = s.cores) ∧
    (s.asksLong 0x1A needsNone w →
      (headerValid s.nvm (bankBase (!(s.far.bank.getD false))) = true →
        s.nvm.num (bankBase (!(s.far.bank.getD false)) + 0xC) 4 < s.rf 0xC 15 8 → frArg w 0 1 ≠ 1 →
        exec .svnCommit s = .next (s.accepted w 0x42 0)) ∧
      ((headerValid s.nvm (bankBase (!(s.far.bank.getD false))) = false ∨
          s.rf 0xC 15 8 ≤ s.nvm.num (bankBase (!(s.far.bank.getD false)) + 0xC) 4 ∨ frArg w 0 1 = 1) →
        ∃ t, exec .svnCommit s = .next t ∧ t.fuses = { s.fuses with svn := max s.fuses.svn (s.rf 0xC 15 8) } ∧
          t = { s with regs := t.regs, tally := t.tally, mbx := t.mbx, fuses := t.fuses })) ∧
    (s.asksLong 0x1B (needs 64) w → ∀ g, s.far.nonce = some g → s.hostMem.num (frAddr w) 32 = s.far.devidDigest.toNat →
      s.hostMem.num (frAddr w + 32) 32 = g.toNat →
      (∃ t, exec (.debugUnlock none true) s = .next t ∧ t.far = { s.far with keySeed := none, unlocked := true } ∧ t.rf 0x10 2 2 = 1 ∧
        t = { s with regs := t.regs, tally := t.tally, mbx := t.mbx, far := t.far }) ∧
      exec (.debugUnlock none false) s = .next (s.accepted w 0x41 0)) ∧
    (s.asksLong 0x1B (needs 64) w → (∀ g, s.far.nonce = some g → s.hostMem.num (frAddr w) 32 ≠ s.far.devidDigest.toNat ∨
        s.hostMem.num (frAddr w + 32) 32 ≠ g.toNat) → ∀ ok, exec (.debugUnlock none ok) s = .next (s.accepted w 0x41 0)) ∧
    (∀ (v : BankVerdict) (ok : Bool), s.asksLong 0x1C (needs 8192) w →
      (bankSize < frLen w → exec (.nvmUpdate none v ok) s = .next (s.answerWith w { result := 0x11, detail := 16 })) ∧
      (frLen w ≤ bankSize →
        (bankReason s.hostMem (frAddr w) s.fuses v ≠ 0 → exec (.nvmUpdate none v ok) s =
          .next (s.accepted w 0x40 (bankReason s.hostMem (frAddr w) s.fuses v))) ∧
        (bankReason s.hostMem (frAddr w) s.fuses v = 0 → ∃ t, exec (.nvmUpdate none v ok) s = .next t ∧
          t = { s with regs := t.regs, tally := t.tally, mbx := t.mbx, nvm := t.nvm } ∧ (ok = true → t.rf 0x10 5 5 = 1) ∧
          ∀ a, (a < bankBase s.idleBank ∨ bankBase s.idleBank + bankSize ≤ a) → t.nvm.byte a = s.nvm.byte a))) ∧
    (s.asksLong 0x1D needsNone w →
      (s.fatal.stopped = true ∧ s.fatal.flushed = true ∧ s.inputHeld = true → ∃ t, exec .restart s = .next t ∧
        t.fatal.stopped = false ∧ t.fatal.selfRefresh = false) ∧
      (¬ (s.fatal.stopped = true ∧ s.fatal.flushed = true ∧ s.inputHeld = true) →
        exec .restart s = .next (s.answerWith w { result := 0x12, detail := s.attn })))

/-- While windows run, and not otherwise, a window’s end puts each derived register to the units counted for it, at most 2^32 − 1, counts one window and starts a new one. TLY_CLR clears the sixteen counters of its block and no other. FREEZE sets its bit. A window configuration of another value starts a new window; of the same value it does not. An enabled counter at its last value wraps to 0, its overflow bit is set, and at 0 it does not wrap again. The host may write all four. (15_tally_counters.md) -/
def Obligations.TallyControls : Prop :=
  (∀ s : State, s.power.phase = .on → s.rf (tlyBase + 4) 0 0 = 1 → s.rf (tlyBase + 8) 16 16 = 1 → ∃ t, exec .tallyWindowClose s = .next t ∧
    t = { s with regs := t.regs, tally := { s.tally with units := [] } } ∧ t.reg (tlyBase + 0xC) = s.reg (tlyBase + 0xC) + 1 ∧
    ∀ o ∈ derivedRegs, t.reg o = BitVec.ofNat 32 (min (Tab.read 0 s.tally.units o) 0xFFFFFFFF)) ∧
  (∀ s : State, s.power.phase ≠ .on ∨ s.rf (tlyBase + 4) 0 0 = 0 ∨ s.rf (tlyBase + 8) 16 16 = 0 → exec .tallyWindowClose s = .next s) ∧
  (∀ (by_ : Writer) (b : Fin 10) (s : State), s.power.phase = .on → ∃ t, exec (.tlyClr by_ b) s = .next t ∧
    t = { s with tally := { s.tally with counts := t.tally.counts } } ∧
    ∀ i, Tab.read 0 t.tally.counts i = if i / 16 = b.val then 0 else Tab.read 0 s.tally.counts i) ∧
  (∀ (by_ : Writer) (f : Bool) (s : State), s.power.phase = .on →
    exec (.tlyFreeze by_ f) s = .next (s.setRf (tlyBase + 4) 2 2 (b2n f))) ∧
  (∀ (by_ : Writer) (v : Word) (s : State), s.power.phase = .on → ∃ t, exec (.tlyWinCfgWrite by_ v) s = .next t ∧
    t = { s with regs := t.regs, tally := t.tally } ∧ (t.reg (tlyBase + 8)).toNat = bits v.toNat 16 0 ∧
    t.tally = if (s.reg (tlyBase + 8)).toNat = bits v.toNat 16 0 then s.tally else { s.tally with units := [] }) ∧
  ∀ (b : Fin 10) (k : Fin 16) (s : State), s.power.phase = .on → s.rf (tlyBase + 4) 0 0 = 1 → s.rf (tlyBase + 4) 2 2 = 0 →
    s.rf (tlyBlock b.val + 0x100 + 4 * k.val) 31 31 = 1 → Tab.read 0 s.tally.counts (16 * b.val + k.val) = 2 ^ 64 - 1 →
    ∃ t, exec (.counterWrap b k) s = .next t ∧ t = { s with tally := t.tally, recent := t.recent } ∧
      Tab.read 0 t.tally.counts (16 * b.val + k.val) = 0 ∧ bit (Tab.read 0 t.tally.ovf b.val) k.val = true ∧
      (∀ i, i ≠ 16 * b.val + k.val → Tab.read 0 t.tally.counts i = Tab.read 0 s.tally.counts i) ∧
      exec (.counterWrap b k) t = .next t

/-- While the always-on supply is up, each command of the management port answers with its block: identity and feature, boot, status field and pending codes, input measurements, temperatures with their limits, Rating, digest of the DevID key; a reserved command answers with no bytes. Nothing but the block last read changes. Without the supply nothing changes. With power, BYPASS and IDCODE select their registers, IDCODE with the stepping, the device number, the manufacturer and a 1; SAMPLE/PRELOAD selects the boundary register and takes what is preloaded, or cells that nothing constrains (log 8). While HOST_PERST_N is low and no job is loaded EXTEST drives the pins from it, HIGHZ floats them and CLAMP holds them; otherwise each selects BYPASS. None drives the pins that was not asked to, and nothing but the port and the free values changes. (16_module_interface.md) -/
def Obligations.OutsidePorts : Prop :=
  (∀ s : State,
    (∀ x ∈ ([(.mgmtIdent, bytesOfNum 8 ((s.readReg 0).toNat + 2 ^ 32 * (s.readReg 4).toNat)), (.mgmtBoot, bytesOfNum 4 (s.readReg 8).toNat),
        (.mgmtStatus, bytesOfNum 4 (s.attn + 2 ^ 8 * s.pendingCodes)),
        (.mgmtInput, bytesOfNum 8 ((s.readReg (tsyBase + 0x14)).toNat + 2 ^ 32 * (s.readReg (tsyBase + 0x18)).toNat)),
        (.mgmtTemps, [BitVec.ofInt 8 s.power.dieTemp, BitVec.ofInt 8 s.power.stackTemp, 105, 95]),
        (.mgmtRating, bytesOfNum 8 ((s.readReg (ldgBase + 0x3C)).toNat + 2 ^ 32 * (s.readReg (ldgBase + 0x40)).toNat)),
        (.mgmtDevid, bytesOfNum 32 s.far.devidDigest.toNat)] : List (Instr × List Byte)),
      (s.power.alwaysOn = true → exec x.1 s = .next { s with mgmtOut := x.2 }) ∧ (s.power.alwaysOn = false → exec x.1 s = .next s)) ∧
    ∀ code : Byte, (s.power.alwaysOn = true → 7 ≤ code.toNat → exec (.mgmtReservedCommand code) s = .next { s with mgmtOut := [] }) ∧
      (code.toNat < 7 → exec (.mgmtReservedCommand code) s = .next s)) ∧
  (∀ s : State, s.power.alwaysOn = true →
    exec .bypass s = .next { s with jtag := s.jtag.toBypass } ∧
    exec .idcode s = .next { s with jtag := { s.jtag.toBypass with selected := .idcode, shift := s.fuses.idcode } } ∧
    s.fuses.idcode.toNat % 2 = 1 ∧ bits s.fuses.idcode.toNat 27 12 = 0x4B31 ∧
    bits s.fuses.idcode.toNat 11 1 = s.fuses.manufacturer.toNat ∧ bits s.fuses.idcode.toNat 31 28 = s.fuses.stepMajor % 16 ∧
    (∀ v : BitVec 64, ∃ t, exec (.samplePreload (some v)) s = .next t ∧
      t = { s with free := t.free, jtag := { s.jtag.toBypass with selected := .boundary, cells := v } }) ∧
    (∃ (t : State) (v : BitVec 64), exec (.samplePreload none) s = .next t ∧
      t = { s with free := t.free, jtag := { s.jtag.toBypass with selected := .boundary, cells := v } }) ∧
    (s.pinsFree = true →
      exec .extest s = .next { s with jtag := { s.jtag.toBypass with selected := .boundary, driving := true } } ∧
      exec .highz s = .next { s with jtag := { s.jtag.toBypass with floating := true } } ∧
      exec .clamp s = .next { s with jtag := { s.jtag.toBypass with clamped := true } }) ∧
    (s.pinsFree = false → ∀ x ∈ [Instr.extest, .highz, .clamp], exec x s = .next { s with jtag := s.jtag.toBypass }))

/-- From every state in which the sparse memories of the flash and of the host are in canonical form and no private key is held after an unlock by token, every step that answers a next state answers one in which all this holds. Whatever the state, a step takes exactly the first command from the queue and adds none, the fused SVN never falls, and the other fuses never change. (14_startup_and_host.md) -/
def Obligations.InvariantKept : Prop :=
  (∀ s t : State, s.Inv → step s = .next t → t.Inv) ∧
  ∀ s t : State, step s = .next t → t.pending = s.pending.tail ∧ s.fuses.svn ≤ t.fuses.svn ∧ t.fuses = { s.fuses with svn := t.fuses.svn }
end

