-- ==== Sys2Proof/Laws/Issue.lean ====
section
/-! SUPPORT. What a command does with the head of its stream: nothing, a rejection, or the head is taken and its effect runs. -/

namespace Sys2Proof.Machine

/-- A stream that has not issued in the present edge is looked at in it. -/
theorem State.pickEdge_same {s : State} {d p : Nat} {st : StreamId} (h : ((s.core d p).stream st).issuedAt ≠ some s.edge) :
    s.pickEdge d p st = s := if_neg h

/-- A head that may issue is taken, and its effect runs on the state that this leaves. -/
theorem State.issue_taken {s : State} {d p : Nat} {st : StreamId} {cls op w : Nat} {mine : Nat → Bool} {f : State → Nat → State}
    (h : s.mayIssue d p st cls op w) (hm : mine w = true) : s.issue d p st mine f = f (s.took d p st w) w := by
  obtain ⟨hp, e, he, rfl, ho, hu, hk, -, hf, hr, hy⟩ := h
  simp [State.issue, State.pickEdge_same hp, he, ho, hu, hk, hm, hf, hr, hy]

/-- No head to consider at the edge of the pick: nothing changes. -/
theorem State.issue_none {s : State} {d p : Nat} {st : StreamId} {mine : Nat → Bool} {f : State → Nat → State}
    (h : (s.pickEdge d p st).head? d p st = none) : s.issue d p st mine f = s := by
  simp [State.issue, h]

/-- A sound head of another command: nothing changes. -/
theorem State.issue_other {s : State} {d p : Nat} {st : StreamId} {mine : Nat → Bool} {f : State → Nat → State} {e : FetchEntry}
    (h : (s.pickEdge d p st).head? d p st = some e) (ho : e.outside = false) (hu : e.uncorrectable = false)
    (hk : insnOk e.word.toNat = true) (hm : mine e.word.toNat = false) : s.issue d p st mine f = s := by
  simp [State.issue, h, ho, hu, hk, hm]

/-- A head with a fault is rejected, at the edge of the pick. -/
theorem State.issue_reject {s : State} {d p : Nat} {st : StreamId} {mine : Nat → Bool} {f : State → Nat → State} {e : FetchEntry}
    (h : (s.pickEdge d p st).head? d p st = some e)
    (hb : e.outside = true ∨ e.uncorrectable = true ∨ insnOk e.word.toNat = false ∨ mine e.word.toNat = true)
    (hf : (s.pickEdge d p st).headFaults d p e ≠ ([], [])) :
    s.issue d p st mine f = (s.pickEdge d p st).reject d p ((s.pickEdge d p st).headFaults d p e) := by
  unfold State.issue
  dsimp only
  rw [h]
  dsimp only
  rw [if_neg, if_pos]
  · simpa using hf
  · rcases hb with hb | hb | hb | hb <;> simp [hb]

/-- A head without a fault that is not ready, or that yields, stays. -/
theorem State.issue_waits {s : State} {d p : Nat} {st : StreamId} {mine : Nat → Bool} {f : State → Nat → State} {e : FetchEntry}
    (h : (s.pickEdge d p st).head? d p st = some e) (hf : (s.pickEdge d p st).headFaults d p e = ([], []))
    (hw : (s.pickEdge d p st).headReady d p st e.word.toNat = false ∨ (s.pickEdge d p st).yields d p st e.word.toNat = true) :
    s.issue d p st mine f = s := by
  unfold State.issue
  dsimp only
  rw [h]
  dsimp only
  split
  · rfl
  · rw [if_neg (by simp [hf]), if_pos]
    rcases hw with hw | hw <;> simp [hw]

/-- Taking a head changes its stream alone, and Tally and the Journal. -/
theorem State.took_eq (s : State) (d p : Nat) (st : StreamId) (w : Nat) :
    ∃ j t, s.took d p st w =
      { s.setCore d p ((s.core d p).setStream st (((s.core d p).stream st).issued w s.edge)) with jnl := j, tally := t } := by
  have hc : ∀ (u : State) (b e x v : Nat), ∃ t, u.count b e x v = { u with tally := t } := fun u b e x v => by
    unfold State.count
    split
    · exact ⟨_, rfl⟩
    · exact ⟨u.tally, rfl⟩
  have hn : ∀ (u : State) (e : Err), ∃ j, u.notice e = { u with jnl := j } := fun u e => by
    unfold State.notice State.journal
    dsimp only
    split
    · exact ⟨_, rfl⟩
    · exact ⟨_, rfl⟩
  unfold State.took
  dsimp only
  obtain ⟨t1, h1⟩ := hc (s.setCore d p ((s.core d p).setStream st (((s.core d p).stream st).issued w s.edge))) (blkCd d)
    (if st = .fwd then 0x14 else 0x15) p 1
  have h1' : State.count (s.setCore d p ((s.core d p).setStream st { (s.core d p).stream st with
      buf := ((s.core d p).stream st).buf.tail, head := ((s.core d p).stream st).head + 32, wait := none,
      slipped := ((s.core d p).stream st).slipped || decide (((s.core d p).stream st).window + insnSched w < s.edge),
      issuedAt := some s.edge }))
      (blkCd d) (if st = .fwd then 0x14 else 0x15) p 1 = _ := h1
  rw [h1']
  split
  · obtain ⟨t2, h2⟩ := hc { s.setCore d p ((s.core d p).setStream st (((s.core d p).stream st).issued w s.edge)) with tally := t1 }
      (blkCd d) 0x16 p 1
    rw [h2]
    split
    · exact ⟨_, _, rfl⟩
    · obtain ⟨j, h3⟩ := hn { s.setCore d p ((s.core d p).setStream st (((s.core d p).stream st).issued w s.edge)) with tally := t2 }
        (Err.of .notice 0x121 (domCore d p) (slipUnit d p st) ((s.edge - ((s.core d p).stream st).window) % 2 ^ 32) (insnSched w))
      rw [h3]
      exact ⟨_, _, rfl⟩
  · exact ⟨_, _, rfl⟩

end Sys2Proof.Machine
end

