-- ==== Sys2Proof/Laws/OuterBase.lean ====
section
/-! SUPPORT. The outer part of a state under record updates, choices and folds. -/

namespace Sys2Proof.Machine

/-- An update of any field but those of the outer part leaves it. -/
@[simp] theorem outer_update (s : State) (edge : Nat) (regs : Tab Word) (cores : Tab Core) (rings : Tab Ring) (dies : Tab MemDie)
    (mem : Memories) (dep : Depository) (step : Step) (mint : Mint) (link : Link) (domains : Tab Domain) (tsy : Treasury)
    (jnl : Journal) (fatal : Fatal) (rec_ : Recovery) (ldg : Ledger) (mbx : Mailbox) (tally : Tally) (recent : Fresh) (nextId free : Nat) :
    State.outer { s with edge := edge, regs := regs, cores := cores, rings := rings, dies := dies, mem := mem, dep := dep, step := step,
                         mint := mint, link := link, domains := domains, tsy := tsy, jnl := jnl, fatal := fatal, rec_ := rec_, ldg := ldg,
                         mbx := mbx, tally := tally, recent := recent, nextId := nextId, free := free } = s.outer := rfl

/-- A fold of operations that leave the outer part leaves it. -/
@[simp] theorem foldl_outer {α : Type} (f : State → α → State) (h : ∀ s x, (f s x).outer = s.outer) (l : List α) (s : State) :
    (l.foldl f s).outer = s.outer := by
  induction l generalizing s with
  | nil => rfl
  | cons a t ih => rw [List.foldl_cons, ih, h]

/-- The outer part of a choice. -/
@[simp] theorem ite_outer (c : Prop) [Decidable c] (a b : State) : (if c then a else b).outer = if c then a.outer else b.outer := by
  split <;> rfl

/-- The outer part of an optional state with a default. -/
theorem getD_outer {s d : State} {o : Option State} (h : ∀ t, o = some t → t.outer = s.outer) (hd : d.outer = s.outer) :
    (o.getD d).outer = s.outer := by
  cases o with
  | none => exact hd
  | some t => exact h t rfl

/-- The outer part of the second of a pair. -/
theorem pair_outer {α : Type} {x : α} {t s : State} (h : t.outer = s.outer) : (x, t).2.outer = s.outer := h

/-- The outer part of the third of a triple. -/
theorem triple_outer {α β : Type} {x : α} {y : β} {t s : State} (h : t.outer = s.outer) : (x, y, t).2.2.outer = s.outer := h

end Sys2Proof.Machine
end

