-- ==== Sys2Proof/Laws/OuterOps.lean ====
section
/-! SUPPORT. What the operations of Machine/Ops.lean leave of the outer part of a state. -/

set_option linter.unusedTactic false
set_option linter.unnecessarySeqFocus false
set_option linter.unreachableTactic false
set_option linter.unusedSimpArgs false

namespace Sys2Proof.Machine

@[simp] theorem State.setReg_outer (s : State) (off : Nat) (v : Word) : (State.setReg s off v).outer = s.outer := by
  rfl

@[simp] theorem State.setRf_outer (s : State) (off hi lo v : Nat) : (State.setRf s off hi lo v).outer = s.outer := by
  rfl

@[simp] theorem State.markFresh_outer (s : State) (off mask : Nat) : (State.markFresh s off mask).outer = s.outer := by
  rfl

@[simp] theorem State.orReg_outer (s : State) (off mask : Nat) : (State.orReg s off mask).outer = s.outer := by
  rfl

@[simp] theorem State.countRf_outer (s : State) (off hi lo n : Nat) : (State.countRf s off hi lo n).outer = s.outer := by
  rfl

@[simp] theorem State.clearRf_outer (s : State) (off hi lo : Nat) : (State.clearRf s off hi lo).outer = s.outer := by
  rfl

@[simp] theorem State.setTlrStep_outer (s : State) (v : Nat) : (State.setTlrStep s v).outer = s.outer := by
  rfl

@[simp] theorem State.setCore_outer (s : State) (d p : Nat) (c : Core) : (State.setCore s d p c).outer = s.outer := by
  rfl

@[simp] theorem State.modCore_outer (s : State) (d p : Nat) (f : Core → Core) : (State.modCore s d p f).outer = s.outer := by
  rfl

@[simp] theorem State.setRing_outer (s : State) (d : Nat) (r : Ring) : (State.setRing s d r).outer = s.outer := by
  rfl

@[simp] theorem State.modRing_outer (s : State) (d : Nat) (f : Ring → Ring) : (State.modRing s d f).outer = s.outer := by
  rfl

@[simp] theorem State.modStation_outer (s : State) (d j : Nat) (f : Station → Station) : (State.modStation s d j f).outer = s.outer := by
  rfl

@[simp] theorem State.setDie_outer (s : State) (d : Nat) (m : MemDie) : (State.setDie s d m).outer = s.outer := by
  rfl

@[simp] theorem State.modDie_outer (s : State) (d : Nat) (f : MemDie → MemDie) : (State.modDie s d f).outer = s.outer := by
  rfl

@[simp] theorem State.setDomain_outer (s : State) (i : Nat) (m : Domain) : (State.setDomain s i m).outer = s.outer := by
  rfl

@[simp] theorem State.modDomain_outer (s : State) (i : Nat) (f : Domain → Domain) : (State.modDomain s i f).outer = s.outer := by
  rfl

@[simp] theorem State.setPort_outer (s : State) (p : Nat) (q : Port) : (State.setPort s p q).outer = s.outer := by
  rfl

@[simp] theorem State.modPort_outer (s : State) (p : Nat) (f : Port → Port) : (State.modPort s p f).outer = s.outer := by
  rfl

@[simp] theorem State.modSlice_outer (s : State) (i : Nat) (f : Slice → Slice) : (State.modSlice s i f).outer = s.outer := by
  rfl

@[simp] theorem State.count_outer (s : State) (b ev unit v : Nat) : (State.count s b ev unit v).outer = s.outer := by
  simp [State.count]

@[simp] theorem State.units_outer (s : State) (off n : Nat) : (State.units s off n).outer = s.outer := by
  simp [State.units]

@[simp] theorem State.freeBelow_outer (s : State) (n : Nat) : (State.freeBelow s n).2.outer = s.outer := by
  rfl

@[simp] theorem State.fresh_outer (s : State) : (State.fresh s).2.outer = s.outer := by
  rfl

@[simp] theorem State.journal_outer (s : State) (e : Err) (joined queued escalated : Bool) : (State.journal s e joined queued escalated).outer = s.outer := by
  simp [State.journal]

@[simp] theorem State.notice_outer (s : State) (e : Err) : (State.notice s e).outer = s.outer := by
  simp [State.notice]

@[simp] theorem State.noticeOpen_outer (s : State) (info : Nat) : (State.noticeOpen s info).outer = s.outer := by
  simp [State.noticeOpen]

@[simp] theorem State.corrected_outer (s : State) (e : Err) (count sat : Nat) : (State.corrected s e count sat).outer = s.outer := by
  simp [State.corrected]

@[simp] theorem State.ignored_outer (s : State) (off : Nat) : (State.ignored s off).outer = s.outer := by
  simp [State.ignored]

@[simp] theorem State.enqueueFlits_outer (s : State) (p c : Nat) (flits : List LinkFlit) : (State.enqueueFlits s p c flits).outer = s.outer := by
  simp [State.enqueueFlits]

@[simp] theorem State.enqueueMsg_outer (s : State) (p : Nat) (m : Msg) : (State.enqueueMsg s p m).outer = s.outer := by
  simp [State.enqueueMsg]

@[simp] theorem State.sendMsg_outer (s : State) (dst : Nat) (m : Msg) : (State.sendMsg s dst m).outer = s.outer := by
  unfold State.sendMsg
  dsimp only
  repeat' split
  all_goals first | rfl | simp

@[simp] theorem State.sendAll_outer (s : State) (transport step fields : Nat) : (State.sendAll s transport step fields).outer = s.outer := by
  simp [State.sendAll]

@[simp] theorem State.raiseStepFault_outer (s : State) (seq : Nat) : (State.raiseStepFault s seq).outer = s.outer := by
  simp [State.raiseStepFault]

@[simp] theorem State.faultBy_outer (s : State) (cls : ErrClass) (region code : Nat) : (State.faultBy s cls region code).outer = s.outer := by
  simp [State.faultBy]

@[simp] theorem State.act_outer (s : State) (cls : ErrClass) (region code seq addr : Nat) : (State.act s cls region code seq addr).outer = s.outer := by
  unfold State.act
  split <;> simp

@[simp] theorem State.report_outer (s : State) (e : Err) : (State.report s e).outer = s.outer := by
  unfold State.report
  repeat' split
  all_goals simp

@[simp] theorem State.sendSecure_outer (s : State) : (State.sendSecure s).outer = s.outer := by
  simp [State.sendSecure]

@[simp] theorem State.reports_outer (s : State) (es : List Err) : (State.reports s es).outer = s.outer := by
  simp [State.reports]

@[simp] theorem State.raiseBits_outer (s : State) (off : Nat) (bs : List Nat) (err : Nat → Err) : (State.raiseBits s off bs err).outer = s.outer := by
  simp [State.raiseBits]

end Sys2Proof.Machine
end

