-- ==== Sys2Proof/Laws/OuterFlags.lean ====
section
/-! SUPPORT. What the operations of Machine/Flags.lean leave of the outer part of a state. -/

set_option linter.unusedTactic false
set_option linter.unnecessarySeqFocus false
set_option linter.unreachableTactic false
set_option linter.unusedSimpArgs false

namespace Sys2Proof.Machine

@[simp] theorem State.mintAdvance_outer (s : State) (lane n : Nat) : (State.mintAdvance s lane n).outer = s.outer := by
  rfl

end Sys2Proof.Machine
end

