-- ==== Sys2Proof/Laws/OuterPicker.lean ====
section
/-! SUPPORT. What the operations of Machine/Picker.lean leave of the outer part of a state. -/

set_option linter.unusedTactic false
set_option linter.unnecessarySeqFocus false
set_option linter.unreachableTactic false
set_option linter.unusedSimpArgs false

namespace Sys2Proof.Machine

@[simp] theorem State.modStore_outer (s : State) (d p : Nat) (f : Core → Core) : (State.modStore s d p f).outer = s.outer := by
  rfl

@[simp] theorem State.halt_outer (s : State) (d p : Nat) : (State.halt s d p).outer = s.outer := by
  rfl

@[simp] theorem State.coreFault_outer (s : State) (d p : Nat) (bs : List Nat) : (State.coreFault s d p bs).outer = s.outer := by
  simp [State.coreFault]

@[simp] theorem State.ringFault_outer (s : State) (d j : Nat) (bs : List Nat) : (State.ringFault s d j bs).outer = s.outer := by
  simp [State.ringFault]

@[simp] theorem State.storeCorrected_outer (s : State) (d p w : Nat) : (State.storeCorrected s d p w).outer = s.outer := by
  simp [State.storeCorrected]

@[simp] theorem State.storeRead_outer (s : State) (d p a n : Nat) : (State.storeRead s d p a n).outer = s.outer := by
  simp [State.storeRead]

end Sys2Proof.Machine
end

