-- ==== Sys2Proof/Laws/OuterPasses.lean ====
section
/-! SUPPORT. What the operations of Machine/Passes.lean leave of the outer part of a state. -/

set_option linter.unusedTactic false
set_option linter.unnecessarySeqFocus false
set_option linter.unreachableTactic false
set_option linter.unusedSimpArgs false

namespace Sys2Proof.Machine

@[simp] theorem State.advanceArray_outer (s : State) (d p edge i : Nat) : (State.advanceArray s d p edge i).outer = s.outer := by
  simp [State.advanceArray]

@[simp] theorem State.settleStop_outer (s : State) (d p : Nat) : (State.settleStop s d p).outer = s.outer := by
  simp [State.settleStop]

@[simp] theorem State.advanceCores_outer (s : State) (edge : Nat) : (State.advanceCores s edge).outer = s.outer := by
  simp [State.advanceCores]

end Sys2Proof.Machine
end

