-- ==== Sys2Proof/Laws/OuterPrivilege.lean ====
section
/-! SUPPORT. What the operations of Machine/Privilege.lean leave of the outer part of a state. -/

set_option linter.unusedTactic false
set_option linter.unnecessarySeqFocus false
set_option linter.unreachableTactic false
set_option linter.unusedSimpArgs false

namespace Sys2Proof.Machine

@[simp] theorem State.gate_outer (s : State) (by_ : Writer) (host : Bool) (off : Nat) (k : State → State) (hk : ∀ t : State, (k t).outer = t.outer) : (State.gate s by_ host off k).outer = s.outer := by
  unfold State.gate
  try dsimp only
  repeat' split
  all_goals first | with_reducible rfl | (simp; done) | (simp [*]; done) | (refine (foldl_outer _ ?_ _ _).trans ?_ <;> intros <;> (try dsimp only) <;> (repeat' split) <;> simp)

@[simp] theorem State.wakeSeen_outer (s : State) (i : Nat) : (State.wakeSeen s i).outer = s.outer := by
  simp [State.wakeSeen]

@[simp] theorem State.openGate_outer (s : State) (i : Nat) : (State.openGate s i).outer = s.outer := by
  simp [State.openGate]

end Sys2Proof.Machine
end

