-- ==== Sys2Proof/Laws/OuterRest.lean ====
section
/-! SUPPORT. What the operations of Machine/Rest.lean leave of the outer part of a state. -/

set_option linter.unusedTactic false
set_option linter.unnecessarySeqFocus false
set_option linter.unreachableTactic false
set_option linter.unusedSimpArgs false

namespace Sys2Proof.Machine

@[simp] theorem State.restOver_outer (s : State) (n : Nat) : (State.restOver s n).outer = s.outer := by
  simp [State.restOver]

end Sys2Proof.Machine
end

