-- ==== Sys2Proof/Laws/OuterEdges.lean ====
section
/-! SUPPORT. What the operations of Machine/Edges.lean leave of the outer part of a state. -/

set_option linter.unusedTactic false
set_option linter.unnecessarySeqFocus false
set_option linter.unreachableTactic false
set_option linter.unusedSimpArgs false

namespace Sys2Proof.Machine

@[simp] theorem State.pass_outer (s : State) (n : Nat) : (State.pass s n).outer = s.outer := by
  simp [State.pass]

@[simp] theorem State.at_outer (s : State) (due : Nat) : (State.at s due).outer = s.outer := by
  simp [State.at]

@[simp] theorem State.idle_outer (s : State) : (State.idle s).outer = s.outer := by
  simp [State.idle]

end Sys2Proof.Machine
end

