-- ==== Sys2Proof/Laws/OuterIssue.lean ====
section
/-! SUPPORT. What the operations of Machine/Issue.lean leave of the outer part of a state. -/

set_option linter.unusedTactic false
set_option linter.unnecessarySeqFocus false
set_option linter.unreachableTactic false
set_option linter.unusedSimpArgs false

namespace Sys2Proof.Machine

@[simp] theorem State.reject_outer (s : State) (d p : Nat) (f : List Nat × List Nat) : (State.reject s d p f).outer = s.outer := by
  simp [State.reject]

@[simp] theorem State.took_outer (s : State) (d p : Nat) (st : StreamId) (w : Nat) : (State.took s d p st w).outer = s.outer := by
  simp [State.took]

@[simp] theorem State.pickEdge_outer (s : State) (d p : Nat) (st : StreamId) : (State.pickEdge s d p st).outer = s.outer := by
  simp [State.pickEdge]

@[simp] theorem State.issue_outer (s : State) (d p : Nat) (st : StreamId) (mine : Nat → Bool) (effect : State → Nat → State) (heffect : ∀ (t : State) (x : Nat), (effect t x).outer = t.outer) : (State.issue s d p st mine effect).outer = s.outer := by
  unfold State.issue
  try dsimp only
  repeat' split
  all_goals first | with_reducible rfl | (simp; done) | (simp [*]; done) | (refine (foldl_outer _ ?_ _ _).trans ?_ <;> intros <;> (try dsimp only) <;> (repeat' split) <;> simp)

theorem execInstructionFetch_outer (die : Fin 4) (phys : Fin 34) (st : StreamId) (upsets : List (Fin 524288 × Bool)) (s0 : State) : ∀ t, execInstructionFetch die phys st s0 upsets = .next t → t.outer = s0.outer := by
  intro t h
  unfold execInstructionFetch at h
  dsimp only at h
  repeat' split at h
  all_goals rw [← Host.Outcome.next.inj h]; try simp

theorem execCtrlNop_outer (die : Fin 4) (phys : Fin 34) (st : StreamId) (s : State) : ∀ t, execCtrlNop die phys st s = .next t → t.outer = s.outer := by
  intro t h
  rw [← Host.Outcome.next.inj h]
  simp

@[simp] theorem State.modStream_outer (s : State) (d p : Nat) (st : StreamId) (f : Stream → Stream) : (State.modStream s d p st f).outer = s.outer := by
  rfl

theorem execCtrlWait_outer (die : Fin 4) (phys : Fin 34) (st : StreamId) (s : State) : ∀ t, execCtrlWait die phys st s = .next t → t.outer = s.outer := by
  intro t h
  rw [← Host.Outcome.next.inj h]
  simp

theorem execCtrlBarrier_outer (die : Fin 4) (phys : Fin 34) (st : StreamId) (s : State) : ∀ t, execCtrlBarrier die phys st s = .next t → t.outer = s.outer := by
  intro t h
  rw [← Host.Outcome.next.inj h]
  simp

theorem execSkipIfKept_outer (die : Fin 4) (phys : Fin 34) (st : StreamId) (s : State) : ∀ t, execSkipIfKept die phys st s = .next t → t.outer = s.outer := by
  intro t h
  rw [← Host.Outcome.next.inj h]
  simp

theorem execCtrlEnd_outer (die : Fin 4) (phys : Fin 34) (st : StreamId) (s : State) : ∀ t, execCtrlEnd die phys st s = .next t → t.outer = s.outer := by
  intro t h
  rw [← Host.Outcome.next.inj h]
  simp

end Sys2Proof.Machine
end

