-- ==== Sys2Proof/Laws/OuterInbox.lean ====
section
/-! SUPPORT. What the operations of Machine/Inbox.lean leave of the outer part of a state. -/

set_option linter.unusedTactic false
set_option linter.unnecessarySeqFocus false
set_option linter.unreachableTactic false
set_option linter.unusedSimpArgs false

namespace Sys2Proof.Machine

@[simp] theorem State.tileReleased_outer (s : State) (id rel : Nat) : (State.tileReleased s id rel).outer = s.outer := by
  rfl

@[simp] theorem State.releaseSlot_outer (s : State) (d p i : Nat) : (State.releaseSlot s d p i).outer = s.outer := by
  rfl

@[simp] theorem State.releaseSlotQ_outer (s : State) (d p : Nat) (i : Option Nat) : (State.releaseSlot? s d p i).outer = s.outer := by
  unfold State.releaseSlot?
  split <;> simp

end Sys2Proof.Machine
end

