-- ==== Sys2Proof/Laws/OuterArrays.lean ====
section
/-! SUPPORT. What the operations of Machine/Arrays.lean leave of the outer part of a state. -/

set_option linter.unusedTactic false
set_option linter.unnecessarySeqFocus false
set_option linter.unreachableTactic false
set_option linter.unusedSimpArgs false

namespace Sys2Proof.Machine

@[simp] theorem State.queuePass_outer (s : State) (d p : Nat) (st : StreamId) (x : PassI) : (State.queuePass s d p st x).outer = s.outer := by
  rfl

theorem execPass_outer (die : Fin 4) (phys : Fin 34) (st : StreamId) (s : State) : ∀ t, execPass die phys st s = .next t → t.outer = s.outer := by
  intro t h
  rw [← Host.Outcome.next.inj h]
  simp

theorem execPassStart_outer (die : Fin 4) (phys : Fin 34) (array : Fin 4) (s : State) : ∀ t, execPassStart die phys array s = .next t → t.outer = s.outer := by
  intro t h
  unfold execPassStart at h
  dsimp only at h
  repeat' split at h
  all_goals rw [← Host.Outcome.next.inj h]; try simp

theorem execPassComplete_outer (die : Fin 4) (phys : Fin 34) (array : Fin 4) (s : State) : ∀ t, execPassComplete die phys array s = .next t → t.outer = s.outer := by
  intro t h
  unfold execPassComplete at h
  repeat' split at h
  all_goals rw [← Host.Outcome.next.inj h]; try simp

theorem execWload_outer (die : Fin 4) (phys : Fin 34) (st : StreamId) (s : State) : ∀ t, execWload die phys st s = .next t → t.outer = s.outer := by
  intro t h
  rw [← Host.Outcome.next.inj h]
  simp

theorem execWeightRowWrite_outer (die : Fin 4) (phys : Fin 34) (s : State) : ∀ t, execWeightRowWrite die phys s = .next t → t.outer = s.outer := by
  intro t h
  unfold execWeightRowWrite at h
  dsimp only at h
  repeat' split at h
  all_goals rw [← Host.Outcome.next.inj h]; try simp

@[simp] theorem State.beginFeed_outer (s : State) (d p : Nat) (st : StreamId) (x : Feed) : (State.beginFeed s d p st x).outer = s.outer := by
  simp [State.beginFeed]

theorem execFeed_outer (die : Fin 4) (phys : Fin 34) (st : StreamId) (s : State) : ∀ t, execFeed die phys st s = .next t → t.outer = s.outer := by
  intro t h
  rw [← Host.Outcome.next.inj h]
  simp

theorem execFeedFillComplete_outer (die : Fin 4) (phys : Fin 34) (array : Fin 4) (s : State) : ∀ t, execFeedFillComplete die phys array s = .next t → t.outer = s.outer := by
  intro t h
  unfold execFeedFillComplete at h
  dsimp only at h
  repeat' split at h
  all_goals rw [← Host.Outcome.next.inj h]; try simp

end Sys2Proof.Machine
end

