-- ==== Sys2Proof/Laws/OuterRowUnit.lean ====
section
/-! SUPPORT. What the operations of Machine/RowUnit.lean leave of the outer part of a state. -/

set_option linter.unusedTactic false
set_option linter.unnecessarySeqFocus false
set_option linter.unreachableTactic false
set_option linter.unusedSimpArgs false

namespace Sys2Proof.Machine

@[simp] theorem State.rowRun_outer (s : State) (d p : Nat) (x : RowI) : (State.rowRun s d p x).outer = s.outer := by
  simp [State.rowRun]

@[simp] theorem State.rowIssue_outer (s : State) (die : Fin 4) (phys : Fin 34) (st : StreamId) (op : RowOp) : (State.rowIssue s die phys st op).outer = s.outer := by
  simp [State.rowIssue]

theorem execRowAdd_outer (die : Fin 4) (phys : Fin 34) (st : StreamId) (s : State) : ∀ t, execRowAdd die phys st s = .next t → t.outer = s.outer := by
  intro t h
  rw [← Host.Outcome.next.inj h]
  simp

theorem execRowSub_outer (die : Fin 4) (phys : Fin 34) (st : StreamId) (s : State) : ∀ t, execRowSub die phys st s = .next t → t.outer = s.outer := by
  intro t h
  rw [← Host.Outcome.next.inj h]
  simp

theorem execRowMul_outer (die : Fin 4) (phys : Fin 34) (st : StreamId) (s : State) : ∀ t, execRowMul die phys st s = .next t → t.outer = s.outer := by
  intro t h
  rw [← Host.Outcome.next.inj h]
  simp

theorem execRowFma_outer (die : Fin 4) (phys : Fin 34) (st : StreamId) (s : State) : ∀ t, execRowFma die phys st s = .next t → t.outer = s.outer := by
  intro t h
  rw [← Host.Outcome.next.inj h]
  simp

theorem execRowMin_outer (die : Fin 4) (phys : Fin 34) (st : StreamId) (s : State) : ∀ t, execRowMin die phys st s = .next t → t.outer = s.outer := by
  intro t h
  rw [← Host.Outcome.next.inj h]
  simp

theorem execRowMax_outer (die : Fin 4) (phys : Fin 34) (st : StreamId) (s : State) : ∀ t, execRowMax die phys st s = .next t → t.outer = s.outer := by
  intro t h
  rw [← Host.Outcome.next.inj h]
  simp

theorem execRowCmp_outer (die : Fin 4) (phys : Fin 34) (st : StreamId) (s : State) : ∀ t, execRowCmp die phys st s = .next t → t.outer = s.outer := by
  intro t h
  rw [← Host.Outcome.next.inj h]
  simp

theorem execRowSel_outer (die : Fin 4) (phys : Fin 34) (st : StreamId) (s : State) : ∀ t, execRowSel die phys st s = .next t → t.outer = s.outer := by
  intro t h
  rw [← Host.Outcome.next.inj h]
  simp

theorem execRowAbs_outer (die : Fin 4) (phys : Fin 34) (st : StreamId) (s : State) : ∀ t, execRowAbs die phys st s = .next t → t.outer = s.outer := by
  intro t h
  rw [← Host.Outcome.next.inj h]
  simp

theorem execRowNeg_outer (die : Fin 4) (phys : Fin 34) (st : StreamId) (s : State) : ∀ t, execRowNeg die phys st s = .next t → t.outer = s.outer := by
  intro t h
  rw [← Host.Outcome.next.inj h]
  simp

theorem execRowCopy_outer (die : Fin 4) (phys : Fin 34) (st : StreamId) (s : State) : ∀ t, execRowCopy die phys st s = .next t → t.outer = s.outer := by
  intro t h
  rw [← Host.Outcome.next.inj h]
  simp

theorem execRowScale2_outer (die : Fin 4) (phys : Fin 34) (st : StreamId) (s : State) : ∀ t, execRowScale2 die phys st s = .next t → t.outer = s.outer := by
  intro t h
  rw [← Host.Outcome.next.inj h]
  simp

theorem execRowCvt_outer (die : Fin 4) (phys : Fin 34) (st : StreamId) (s : State) : ∀ t, execRowCvt die phys st s = .next t → t.outer = s.outer := by
  intro t h
  rw [← Host.Outcome.next.inj h]
  simp

theorem execRowCvts_outer (die : Fin 4) (phys : Fin 34) (st : StreamId) (s : State) : ∀ t, execRowCvts die phys st s = .next t → t.outer = s.outer := by
  intro t h
  rw [← Host.Outcome.next.inj h]
  simp

theorem execRowExp_outer (die : Fin 4) (phys : Fin 34) (st : StreamId) (s : State) : ∀ t, execRowExp die phys st s = .next t → t.outer = s.outer := by
  intro t h
  rw [← Host.Outcome.next.inj h]
  simp

theorem execRowRcp_outer (die : Fin 4) (phys : Fin 34) (st : StreamId) (s : State) : ∀ t, execRowRcp die phys st s = .next t → t.outer = s.outer := by
  intro t h
  rw [← Host.Outcome.next.inj h]
  simp

theorem execRowRsqrt_outer (die : Fin 4) (phys : Fin 34) (st : StreamId) (s : State) : ∀ t, execRowRsqrt die phys st s = .next t → t.outer = s.outer := by
  intro t h
  rw [← Host.Outcome.next.inj h]
  simp

theorem execRowDiv_outer (die : Fin 4) (phys : Fin 34) (st : StreamId) (s : State) : ∀ t, execRowDiv die phys st s = .next t → t.outer = s.outer := by
  intro t h
  rw [← Host.Outcome.next.inj h]
  simp

theorem execRowSqrt_outer (die : Fin 4) (phys : Fin 34) (st : StreamId) (s : State) : ∀ t, execRowSqrt die phys st s = .next t → t.outer = s.outer := by
  intro t h
  rw [← Host.Outcome.next.inj h]
  simp

theorem execRowRed_outer (die : Fin 4) (phys : Fin 34) (st : StreamId) (s : State) : ∀ t, execRowRed die phys st s = .next t → t.outer = s.outer := by
  intro t h
  rw [← Host.Outcome.next.inj h]
  simp

theorem execRowRed2_outer (die : Fin 4) (phys : Fin 34) (st : StreamId) (s : State) : ∀ t, execRowRed2 die phys st s = .next t → t.outer = s.outer := by
  intro t h
  rw [← Host.Outcome.next.inj h]
  simp

@[simp] theorem State.drainRun_outer (s : State) (d p : Nat) (x : Drain) : (State.drainRun s d p x).outer = s.outer := by
  rfl

theorem execDrain_outer (die : Fin 4) (phys : Fin 34) (st : StreamId) (s : State) : ∀ t, execDrain die phys st s = .next t → t.outer = s.outer := by
  intro t h
  rw [← Host.Outcome.next.inj h]
  simp

end Sys2Proof.Machine
end

