-- ==== Sys2Proof/Laws/OuterRing.lean ====
section
/-! SUPPORT. What the operations of Machine/Ring.lean leave of the outer part of a state. -/

set_option linter.unusedTactic false
set_option linter.unnecessarySeqFocus false
set_option linter.unreachableTactic false
set_option linter.unusedSimpArgs false

namespace Sys2Proof.Machine

@[simp] theorem State.setHop_outer (s : State) (d j : Nat) (lane : Lane) (l : List RingFlit) : (State.setHop s d j lane l).outer = s.outer := by
  rfl

@[simp] theorem State.ringEvent_outer (s : State) (d e : Nat) : (State.ringEvent s d e).outer = s.outer := by
  unfold State.ringEvent
  try dsimp only
  all_goals repeat' split
  all_goals (first | with_reducible rfl | (simp; done) | (simp [*]; done) | (refine (foldl_outer _ ?_ _ _).trans ?_ <;> intros <;> (try dsimp only) <;> (repeat' split) <;> (first | with_reducible rfl | (simp; done) | (simp [*]; done) | (refine (foldl_outer _ ?_ _ _).trans ?_ <;> intros <;> (try dsimp only) <;> (repeat' split) <;> (first | with_reducible rfl | (simp; done) | (simp [*]; done))))) | ((first | refine State.issue_outer _ _ _ _ _ _ ?_ | refine State.gate_outer _ _ _ _ _ ?_ | refine State.arrive_outer _ _ _ _ _ ?_ | refine State.arriveData_outer _ _ _ _ _ ?_ | refine State.inTurn_outer _ _ _ _ ?_ | refine State.once_outer _ _ _ ?_) <;> intros <;> (try dsimp only) <;> (repeat' split) <;> (first | with_reducible rfl | (simp; done) | (simp [*]; done) | (refine (foldl_outer _ ?_ _ _).trans ?_ <;> intros <;> (try dsimp only) <;> (repeat' split) <;> (first | with_reducible rfl | (simp; done) | (simp [*]; done))))))

@[simp] theorem State.sendFlit_outer (s : State) (d j : Nat) (lane : Lane) (f : RingFlit) (e : Nat) : (State.sendFlit s d j lane f e).outer = s.outer := by
  simp [State.sendFlit]

@[simp] theorem State.ringFaultNew_outer (s : State) (d j b : Nat) : (State.ringFaultNew s d j b).outer = s.outer := by
  simp [State.ringFaultNew]

@[simp] theorem State.wakeRing_outer (s : State) (d : Nat) : (State.wakeRing s d).outer = s.outer := by
  simp [State.wakeRing]

theorem execInject_outer (die : Fin 4) (phys : Fin 34) (st : StreamId) (s : State) : ∀ t, execInject die phys st s = .next t → t.outer = s.outer := by
  intro t h
  rw [← Host.Outcome.next.inj h]
  simp

@[simp] theorem State.multicast_outer (s : State) (d j : Nat) (x : Inj) : (State.multicast s d j x).outer = s.outer := by
  simp [State.multicast]

theorem execInjectReadIssue_outer (die : Fin 4) (station : Fin 34) (s : State) : ∀ t, execInjectReadIssue die station s = .next t → t.outer = s.outer := by
  intro t h
  unfold execInjectReadIssue at h
  dsimp only at h
  repeat' split at h
  all_goals rw [← Host.Outcome.next.inj h]; try simp

theorem execMulticastDelivery_outer (die : Fin 4) (station : Fin 34) (s : State) : ∀ t, execMulticastDelivery die station s = .next t → t.outer = s.outer := by
  intro t h
  unfold execMulticastDelivery at h
  dsimp only at h
  repeat' split at h
  all_goals rw [← Host.Outcome.next.inj h]; try simp

@[simp] theorem State.lose_outer (s : State) (d j : Nat) (tile lines n : Nat) : (State.lose s d j tile lines n).outer = s.outer := by
  simp [State.lose]

@[simp] theorem State.leaveBad_outer (s : State) (d j i lines : Nat) : (State.leaveBad s d j i lines).outer = s.outer := by
  unfold State.leaveBad
  try dsimp only
  all_goals repeat' split
  all_goals (first | with_reducible rfl | (simp; done) | (simp [*]; done) | (refine (foldl_outer _ ?_ _ _).trans ?_ <;> intros <;> (try dsimp only) <;> (repeat' split) <;> (first | with_reducible rfl | (simp; done) | (simp [*]; done) | (refine (foldl_outer _ ?_ _ _).trans ?_ <;> intros <;> (try dsimp only) <;> (repeat' split) <;> (first | with_reducible rfl | (simp; done) | (simp [*]; done))))) | ((first | refine State.issue_outer _ _ _ _ _ _ ?_ | refine State.gate_outer _ _ _ _ _ ?_ | refine State.arrive_outer _ _ _ _ _ ?_ | refine State.arriveData_outer _ _ _ _ _ ?_ | refine State.inTurn_outer _ _ _ _ ?_ | refine State.once_outer _ _ _ ?_) <;> intros <;> (try dsimp only) <;> (repeat' split) <;> (first | with_reducible rfl | (simp; done) | (simp [*]; done) | (refine (foldl_outer _ ?_ _ _).trans ?_ <;> intros <;> (try dsimp only) <;> (repeat' split) <;> (first | with_reducible rfl | (simp; done) | (simp [*]; done))))))

@[simp] theorem State.takeFlit_outer (s : State) (d j : Nat) (lane : Lane) (f : RingFlit) : (State.takeFlit s d j lane f).outer = s.outer := by
  unfold State.takeFlit
  dsimp only
  repeat' split
  all_goals first | rfl | simp

theorem execTakeWrite_outer (die : Fin 4) (station : Fin 34) (lane : Lane) (s : State) : ∀ t, execTakeWrite die station lane s = .next t → t.outer = s.outer := by
  intro t h
  unfold execTakeWrite at h
  dsimp only at h
  repeat' split at h
  all_goals rw [← Host.Outcome.next.inj h]; try simp

@[simp] theorem State.passFlit_outer (s : State) (d j : Nat) (lane : Lane) (f : RingFlit) (count e : Nat) : (State.passFlit s d j lane f count e).outer = s.outer := by
  simp [State.passFlit]

@[simp] theorem State.sendTile_outer (s : State) (d j : Nat) (lane : Lane) (x : Inj) (ln : Nat × Line × Bool) (e : Nat) : (State.sendTile s d j lane x ln e).outer = s.outer := by
  unfold State.sendTile
  try dsimp only
  all_goals repeat' split
  all_goals (first | with_reducible rfl | (simp; done) | (simp [*]; done) | (refine (foldl_outer _ ?_ _ _).trans ?_ <;> intros <;> (try dsimp only) <;> (repeat' split) <;> (first | with_reducible rfl | (simp; done) | (simp [*]; done) | (refine (foldl_outer _ ?_ _ _).trans ?_ <;> intros <;> (try dsimp only) <;> (repeat' split) <;> (first | with_reducible rfl | (simp; done) | (simp [*]; done))))) | ((first | refine State.issue_outer _ _ _ _ _ _ ?_ | refine State.gate_outer _ _ _ _ _ ?_ | refine State.arrive_outer _ _ _ _ _ ?_ | refine State.arriveData_outer _ _ _ _ _ ?_ | refine State.inTurn_outer _ _ _ _ ?_ | refine State.once_outer _ _ _ ?_) <;> intros <;> (try dsimp only) <;> (repeat' split) <;> (first | with_reducible rfl | (simp; done) | (simp [*]; done) | (refine (foldl_outer _ ?_ _ _).trans ?_ <;> intros <;> (try dsimp only) <;> (repeat' split) <;> (first | with_reducible rfl | (simp; done) | (simp [*]; done))))))

theorem execInjectFlitSend_outer (die : Fin 4) (station : Fin 34) (lane : Lane) (s : State) : ∀ t, execInjectFlitSend die station lane s = .next t → t.outer = s.outer := by
  intro t h
  unfold execInjectFlitSend at h
  dsimp only at h
  repeat' split at h
  all_goals rw [← Host.Outcome.next.inj h]; try simp

@[simp] theorem State.flitEcc_outer (s : State) (d j : Nat) (f : RingFlit) (words : List (Fin 32 × Bool)) : (State.flitEcc s d j f words).1.outer = s.outer := by
  unfold State.flitEcc
  repeat' split
  all_goals simp

theorem execRingFlitArrival_outer (die : Fin 4) (station : Fin 34) (lane : Lane) (words : List (Fin 32 × Bool)) (s : State) : ∀ t, execRingFlitArrival die station lane words s = .next t → t.outer = s.outer := by
  intro t h
  unfold execRingFlitArrival at h
  dsimp only at h
  repeat' split at h
  all_goals rw [← Host.Outcome.next.inj h]; try simp

theorem execAccum_outer (die : Fin 4) (phys : Fin 34) (st : StreamId) (s : State) : ∀ t, execAccum die phys st s = .next t → t.outer = s.outer := by
  intro t h
  rw [← Host.Outcome.next.inj h]
  simp

theorem execContrib_outer (die : Fin 4) (phys : Fin 34) (st : StreamId) (s : State) : ∀ t, execContrib die phys st s = .next t → t.outer = s.outer := by
  intro t h
  rw [← Host.Outcome.next.inj h]
  simp

@[simp] theorem State.contributed_outer (s : State) (d j : Nat) (x : Contrib) (i flits : Nat) : (State.contributed s d j x i flits).outer = s.outer := by
  simp [State.contributed]

@[simp] theorem State.modExit_outer (s : State) (id : Nat) (f : AccExit → AccExit) : (State.modExit s id f).outer = s.outer := by
  rfl

@[simp] theorem State.dropExit_outer (s : State) (id : Nat) : (State.dropExit s id).outer = s.outer := by
  rfl

@[simp] theorem State.accDeliver_outer (s : State) (die : Fin 4) (station : Fin 34) (f : RingFlit) : (State.accDeliver s die station f).outer = s.outer := by
  unfold State.accDeliver
  split <;> simp

@[simp] theorem State.accPass_outer (s : State) (die : Fin 4) (station : Fin 34) (lane : Lane) (f : RingFlit) (e : Nat) : (State.accPass s die station lane f e).outer = s.outer := by
  simp [State.accPass]

@[simp] theorem State.accOriginate_outer (s : State) (die : Fin 4) (station : Fin 34) (lane : Lane) (a : AccStream) (x : Contrib) (e : Nat) : (State.accOriginate s die station lane a x e).outer = s.outer := by
  unfold State.accOriginate
  dsimp only
  repeat' split
  all_goals first | rfl | simp

@[simp] theorem State.checkContrib_outer (s : State) (d j : Nat) (lane : Lane) (origin flits : Nat) : (State.checkContrib s d j lane origin flits).outer = s.outer := by
  unfold State.checkContrib
  try dsimp only
  all_goals repeat' split
  all_goals (first | with_reducible rfl | (simp; done) | (simp [*]; done) | (refine (foldl_outer _ ?_ _ _).trans ?_ <;> intros <;> (try dsimp only) <;> (repeat' split) <;> (first | with_reducible rfl | (simp; done) | (simp [*]; done) | (refine (foldl_outer _ ?_ _ _).trans ?_ <;> intros <;> (try dsimp only) <;> (repeat' split) <;> (first | with_reducible rfl | (simp; done) | (simp [*]; done))))) | ((first | refine State.issue_outer _ _ _ _ _ _ ?_ | refine State.gate_outer _ _ _ _ _ ?_ | refine State.arrive_outer _ _ _ _ _ ?_ | refine State.arriveData_outer _ _ _ _ _ ?_ | refine State.inTurn_outer _ _ _ _ ?_ | refine State.once_outer _ _ _ ?_) <;> intros <;> (try dsimp only) <;> (repeat' split) <;> (first | with_reducible rfl | (simp; done) | (simp [*]; done) | (refine (foldl_outer _ ?_ _ _).trans ?_ <;> intros <;> (try dsimp only) <;> (repeat' split) <;> (first | with_reducible rfl | (simp; done) | (simp [*]; done))))))

@[simp] theorem State.checkContribs_outer (s : State) (d j : Nat) (lane : Lane) : (State.checkContribs s d j lane).outer = s.outer := by
  unfold State.checkContribs
  try dsimp only
  all_goals repeat' split
  all_goals (first | with_reducible rfl | (simp; done) | (simp [*]; done) | (refine (foldl_outer _ ?_ _ _).trans ?_ <;> intros <;> (try dsimp only) <;> (repeat' split) <;> (first | with_reducible rfl | (simp; done) | (simp [*]; done) | (refine (foldl_outer _ ?_ _ _).trans ?_ <;> intros <;> (try dsimp only) <;> (repeat' split) <;> (first | with_reducible rfl | (simp; done) | (simp [*]; done))))) | ((first | refine State.issue_outer _ _ _ _ _ _ ?_ | refine State.gate_outer _ _ _ _ _ ?_ | refine State.arrive_outer _ _ _ _ _ ?_ | refine State.arriveData_outer _ _ _ _ _ ?_ | refine State.inTurn_outer _ _ _ _ ?_ | refine State.once_outer _ _ _ ?_) <;> intros <;> (try dsimp only) <;> (repeat' split) <;> (first | with_reducible rfl | (simp; done) | (simp [*]; done) | (refine (foldl_outer _ ?_ _ _).trans ?_ <;> intros <;> (try dsimp only) <;> (repeat' split) <;> (first | with_reducible rfl | (simp; done) | (simp [*]; done))))))

@[simp] theorem State.accTake_outer (s : State) (d j : Nat) (lane : Lane) (f : RingFlit) : (State.accTake s d j lane f).outer = s.outer := by
  simp [State.accTake]

@[simp] theorem State.accAdd_outer (s : State) (die : Fin 4) (station : Fin 34) (lane : Lane) (f0 : RingFlit) (x : Contrib) (words : List (Fin 32 × Bool)) (e : Nat) : (State.accAdd s die station lane f0 x words e).outer = s.outer := by
  unfold State.accAdd
  try dsimp only
  all_goals repeat' split
  all_goals (first | with_reducible rfl | (simp; done) | (simp [*]; done) | (refine (foldl_outer _ ?_ _ _).trans ?_ <;> intros <;> (try dsimp only) <;> (repeat' split) <;> (first | with_reducible rfl | (simp; done) | (simp [*]; done) | (refine (foldl_outer _ ?_ _ _).trans ?_ <;> intros <;> (try dsimp only) <;> (repeat' split) <;> (first | with_reducible rfl | (simp; done) | (simp [*]; done))))) | ((first | refine State.issue_outer _ _ _ _ _ _ ?_ | refine State.gate_outer _ _ _ _ _ ?_ | refine State.arrive_outer _ _ _ _ _ ?_ | refine State.arriveData_outer _ _ _ _ _ ?_ | refine State.inTurn_outer _ _ _ _ ?_ | refine State.once_outer _ _ _ ?_) <;> intros <;> (try dsimp only) <;> (repeat' split) <;> (first | with_reducible rfl | (simp; done) | (simp [*]; done) | (refine (foldl_outer _ ?_ _ _).trans ?_ <;> intros <;> (try dsimp only) <;> (repeat' split) <;> (first | with_reducible rfl | (simp; done) | (simp [*]; done))))))

@[simp] theorem State.accArrive_outer (s : State) (d j : Nat) (lane : Lane) (f0 : RingFlit) (words : List (Fin 32 × Bool)) : (State.accArrive s d j lane f0 words).outer = s.outer := by
  unfold State.accArrive
  try dsimp only
  all_goals repeat' split
  all_goals (first | with_reducible rfl | (simp; done) | (simp [*]; done) | (refine (foldl_outer _ ?_ _ _).trans ?_ <;> intros <;> (try dsimp only) <;> (repeat' split) <;> (first | with_reducible rfl | (simp; done) | (simp [*]; done) | (refine (foldl_outer _ ?_ _ _).trans ?_ <;> intros <;> (try dsimp only) <;> (repeat' split) <;> (first | with_reducible rfl | (simp; done) | (simp [*]; done))))) | ((first | refine State.issue_outer _ _ _ _ _ _ ?_ | refine State.gate_outer _ _ _ _ _ ?_ | refine State.arrive_outer _ _ _ _ _ ?_ | refine State.arriveData_outer _ _ _ _ _ ?_ | refine State.inTurn_outer _ _ _ _ ?_ | refine State.once_outer _ _ _ ?_) <;> intros <;> (try dsimp only) <;> (repeat' split) <;> (first | with_reducible rfl | (simp; done) | (simp [*]; done) | (refine (foldl_outer _ ?_ _ _).trans ?_ <;> intros <;> (try dsimp only) <;> (repeat' split) <;> (first | with_reducible rfl | (simp; done) | (simp [*]; done))))))

theorem execAccFlitAdd_outer (die : Fin 4) (station : Fin 34) (lane : Lane) (words : List (Fin 32 × Bool)) (s0 : State) : ∀ t, execAccFlitAdd die station lane words s0 = .next t → t.outer = s0.outer := by
  intro t h
  unfold execAccFlitAdd at h
  dsimp only at h
  repeat' split at h
  all_goals rw [← Host.Outcome.next.inj h]; try simp

theorem execCreditReturn_outer (die : Fin 4) (stream : Fin 4) (s : State) : ∀ t, execCreditReturn die stream s = .next t → t.outer = s.outer := by
  intro t h
  unfold execCreditReturn at h
  dsimp only at h
  repeat' split at h
  all_goals rw [← Host.Outcome.next.inj h]; try simp

@[simp] theorem State.clearMarks_outer (s : State) (ms : List Nat) : (State.clearMarks s ms).outer = s.outer := by
  rfl

@[simp] theorem State.refillCredits_outer (s : State) (d edge : Nat) : (State.refillCredits s d edge).outer = s.outer := by
  unfold State.refillCredits
  try dsimp only
  all_goals repeat' split
  all_goals (first | with_reducible rfl | (simp; done) | (simp [*]; done) | (refine (foldl_outer _ ?_ _ _).trans ?_ <;> intros <;> (try dsimp only) <;> (repeat' split) <;> (first | with_reducible rfl | (simp; done) | (simp [*]; done) | (refine (foldl_outer _ ?_ _ _).trans ?_ <;> intros <;> (try dsimp only) <;> (repeat' split) <;> (first | with_reducible rfl | (simp; done) | (simp [*]; done))))) | ((first | refine State.issue_outer _ _ _ _ _ _ ?_ | refine State.gate_outer _ _ _ _ _ ?_ | refine State.arrive_outer _ _ _ _ _ ?_ | refine State.arriveData_outer _ _ _ _ _ ?_ | refine State.inTurn_outer _ _ _ _ ?_ | refine State.once_outer _ _ _ ?_) <;> intros <;> (try dsimp only) <;> (repeat' split) <;> (first | with_reducible rfl | (simp; done) | (simp [*]; done) | (refine (foldl_outer _ ?_ _ _).trans ?_ <;> intros <;> (try dsimp only) <;> (repeat' split) <;> (first | with_reducible rfl | (simp; done) | (simp [*]; done))))))

@[simp] theorem State.barrierOn_outer (s : State) (edge d : Nat) : (State.barrierOn s edge d).outer = s.outer := by
  simp [State.barrierOn]

theorem execBarrierEdge_outer (die : Fin 4) (ends : List PassEnd) (s : State) : ∀ t, execBarrierEdge die s ends = .next t → t.outer = s.outer := by
  intro t h
  unfold execBarrierEdge at h
  try dsimp only at h
  repeat' split at h
  all_goals (first | (cases h; done) | (simp only [Host.Outcome.next.injEq, Option.some.injEq] at h; subst h; (first | with_reducible rfl | (simp; done) | (simp [*]; done) | (refine (foldl_outer _ ?_ _ _).trans ?_ <;> intros <;> (try dsimp only) <;> (repeat' split) <;> (first | with_reducible rfl | (simp; done) | (simp [*]; done) | (refine (foldl_outer _ ?_ _ _).trans ?_ <;> intros <;> (try dsimp only) <;> (repeat' split) <;> (first | with_reducible rfl | (simp; done) | (simp [*]; done))))) | ((first | refine State.issue_outer _ _ _ _ _ _ ?_ | refine State.gate_outer _ _ _ _ _ ?_ | refine State.arrive_outer _ _ _ _ _ ?_ | refine State.arriveData_outer _ _ _ _ _ ?_ | refine State.inTurn_outer _ _ _ _ ?_ | refine State.once_outer _ _ _ ?_) <;> intros <;> (try dsimp only) <;> (repeat' split) <;> (first | with_reducible rfl | (simp; done) | (simp [*]; done) | (refine (foldl_outer _ ?_ _ _).trans ?_ <;> intros <;> (try dsimp only) <;> (repeat' split) <;> (first | with_reducible rfl | (simp; done) | (simp [*]; done))))))))

theorem execBarrierTimeout_outer (die : Fin 4) (s : State) : ∀ t, execBarrierTimeout die s = .next t → t.outer = s.outer := by
  intro t h
  unfold execBarrierTimeout at h
  dsimp only at h
  repeat' split at h
  all_goals rw [← Host.Outcome.next.inj h]; try simp

@[simp] theorem State.ringStart_outer (s : State) (d : Nat) : (State.ringStart s d).outer = s.outer := by
  simp [State.ringStart]

theorem execRingEnable_outer (by_ : Writer) (die : Fin 4) (s : State) : ∀ t, execRingEnable by_ die s = .next t → t.outer = s.outer := by
  intro t h
  rw [← Host.Outcome.next.inj h]
  simp

theorem execRingDisable_outer (by_ : Writer) (die : Fin 4) (s : State) : ∀ t, execRingDisable by_ die s = .next t → t.outer = s.outer := by
  intro t h
  rw [← Host.Outcome.next.inj h]
  simp

theorem execRingSpanWrite_outer (by_ : Writer) (die : Fin 4) (package : Bool) (s : State) : ∀ t, execRingSpanWrite by_ die package s = .next t → t.outer = s.outer := by
  intro t h
  rw [← Host.Outcome.next.inj h]
  simp

theorem execRingCeClr_outer (by_ : Writer) (die : Fin 4) (s : State) : ∀ t, execRingCeClr by_ die s = .next t → t.outer = s.outer := by
  intro t h
  rw [← Host.Outcome.next.inj h]
  simp

end Sys2Proof.Machine
end

