-- ==== Sys2Proof/Laws/OuterNear.lean ====
section
/-! SUPPORT. What the operations of Machine/Near.lean leave of the outer part of a state. -/

set_option linter.unusedTactic false
set_option linter.unnecessarySeqFocus false
set_option linter.unreachableTactic false
set_option linter.unusedSimpArgs false

namespace Sys2Proof.Machine

@[simp] theorem State.copyUe_outer (s : State) (a : Nat) : (State.copyUe s a).outer = s.outer := by
  simp [State.copyUe]

@[simp] theorem State.vltFault_outer (s : State) (d b a : Nat) : (State.vltFault s d b a).outer = s.outer := by
  simp [State.vltFault]

@[simp] theorem State.hbmTally_outer (s : State) (li : Nat) (write : Bool) : (State.hbmTally s li write).outer = s.outer := by
  simp [State.hbmTally]

@[simp] theorem State.hbmWrite_outer (s : State) (li : Nat) (v : Line) (poison : Bool) : (State.hbmWrite s li v poison).outer = s.outer := by
  simp [State.hbmWrite]

@[simp] theorem State.rowFails_outer (s : State) (li : Nat) : (State.rowFails s li).outer = s.outer := by
  simp [State.rowFails]

@[simp] theorem State.symbolFixed_outer (s : State) (li k pos : Nat) : (State.symbolFixed s li k pos).outer = s.outer := by
  simp [State.symbolFixed]

@[simp] theorem State.hbmUe_outer (s : State) (li a : Nat) (scrub : Bool) : (State.hbmUe s li a scrub).outer = s.outer := by
  simp [State.hbmUe]

@[simp] theorem State.hbmUpset_outer (s : State) (li : Nat) (flips : List Flip) : (State.hbmUpset s li flips).outer = s.outer := by
  simp [State.hbmUpset]

@[simp] theorem State.sectorFixed_outer (s : State) (li a k pos : Nat) : (State.sectorFixed s li a k pos).outer = s.outer := by
  simp [State.sectorFixed]

@[simp] theorem State.hbmCheck_outer (s : State) (li : Nat) (flips : List Flip) (scrub : Bool) : (State.hbmCheck s li flips scrub).2.2.outer = s.outer := by
  unfold State.hbmCheck
  extract_lets a codes outs fixed v single m t t1 s1
  have ht : t1.outer = s.outer := by
    simp only [t1]
    split <;> simp [t]
  have h1 : s1.outer = s.outer := by
    simp only [s1]
    split
    · refine (foldl_outer _ (fun u o => ?_) _ _).trans ht
      split <;> simp
    · rfl
  split
  · exact (State.hbmUe_outer ..).trans h1
  · exact h1

@[simp] theorem State.setWay_outer (s : State) (d k : Nat) (w : VLine) : (State.setWay s d k w).outer = s.outer := by
  rfl

@[simp] theorem State.dropWay_outer (s : State) (d k : Nat) : (State.dropWay s d k).outer = s.outer := by
  rfl

@[simp] theorem State.touchWay_outer (s : State) (d k : Nat) (w : VLine) : (State.touchWay s d k w).outer = s.outer := by
  rfl

@[simp] theorem State.mayKeep_outer (s : State) (li : Nat) (already : Bool) : (State.mayKeep s li already).2.outer = s.outer := by
  unfold State.mayKeep
  dsimp only
  repeat' split
  all_goals first | rfl | simp

@[simp] theorem State.writeBack_outer (s : State) (d : Nat) (w : VLine) : (State.writeBack s d w).outer = s.outer := by
  simp [State.writeBack]

theorem State.allocate_outer (s : State) (w : VLine) : ∀ t, State.allocate s w = some t → t.outer = s.outer := by
  intro t h
  unfold State.allocate at h
  dsimp only at h
  repeat' split at h
  all_goals first
    | cases h; done
    | rw [← Option.some.inj h]; try simp

@[simp] theorem State.vaultCorrected_outer (s : State) (d dom bank a : Nat) : (State.vaultCorrected s d dom bank a).outer = s.outer := by
  simp [State.vaultCorrected]

@[simp] theorem State.readWay_outer (s : State) (k : Nat) (w : VLine) : (State.readWay s k w).2.2.2.outer = s.outer := by
  unfold State.readWay
  dsimp only
  split <;> simp

@[simp] theorem State.vltTally_outer (s : State) (li : Nat) (hit : Bool) : (State.vltTally s li hit).outer = s.outer := by
  simp [State.vltTally]

@[simp] theorem State.readHint_outer (s : State) (h : Hint) (k : Nat) (w : VLine) : (State.readHint s h k w).outer = s.outer := by
  unfold State.readHint
  split <;> simp

@[simp] theorem State.writeHint_outer (s : State) (h : Hint) (k : Nat) (w : VLine) (v : Line) (poison : Bool) : (State.writeHint s h k w v poison).outer = s.outer := by
  unfold State.writeHint
  split <;> simp

@[simp] theorem State.fill_outer (s : State) (li : Nat) (v : Line) (poison : Bool) (a : Fill?) : (State.fill s li v poison a).outer = s.outer := by
  unfold State.fill
  try dsimp only
  repeat' split
  · rfl
  · rfl
  · exact getD_outer (fun t h => (State.allocate_outer _ _ t h).trans (by simp)) (by simp)
  · exact getD_outer (fun t h => State.allocate_outer _ _ t h) rfl

@[simp] theorem State.missWrite_outer (s : State) (h : Hint) (li : Nat) (v : Line) (poison : Bool) : (State.missWrite s h li v poison).outer = s.outer := by
  unfold State.missWrite
  try dsimp only
  repeat' split
  · simp
  · simp
  · exact getD_outer (fun t h => (State.allocate_outer _ _ t h).trans (by simp)) (by simp)
  · exact getD_outer (fun t h => State.allocate_outer _ _ t h) (by simp)

@[simp] theorem State.scratchRead_outer (s : State) (d g o a : Nat) : (State.scratchRead s d g o a).2.2.outer = s.outer := by
  unfold State.scratchRead
  dsimp only
  repeat' split
  all_goals first | rfl | simp

@[simp] theorem State.scratchWrite_outer (s : State) (d g o : Nat) (v : Line) (poison : Bool) : (State.scratchWrite s d g o v poison).outer = s.outer := by
  rfl

@[simp] theorem State.bankUpset_outer (s : State) (d bank word : Nat) (double : Bool) : (State.bankUpset s d bank word double).outer = s.outer := by
  unfold State.bankUpset
  split <;> simp

@[simp] theorem State.cxlTally_outer (s : State) (port n : Nat) (write : Bool) : (State.cxlTally s port n write).outer = s.outer := by
  simp [State.cxlTally]

@[simp] theorem State.tierPut_outer (s : State) (o : Nat) (v : Line) (poison : Bool) : (State.tierPut s o v poison).outer = s.outer := by
  rfl

@[simp] theorem State.tierSpoil_outer (s : State) (o : Nat) : (State.tierSpoil s o).outer = s.outer := by
  rfl

@[simp] theorem State.toStore_outer (s : State) (d p a op : Nat) (v : Line) (poison : Bool) (due : Nat) : (State.toStore s d p a op v poison due).outer = s.outer := by
  rfl

@[simp] theorem State.toTiles_outer (s : State) (j group index : Nat) (v : Line) (poison : Bool) (due : Nat) : (State.toTiles s j group index v poison due).outer = s.outer := by
  unfold State.toTiles
  dsimp only
  split <;> simp

@[simp] theorem State.deliver_outer (s : State) (t : Dest) (v : Line) (poison : Bool) (due : Nat) : (State.deliver s t v poison due).outer = s.outer := by
  unfold State.deliver
  repeat' split
  all_goals simp

end Sys2Proof.Machine
end

