-- ==== Sys2Proof/Laws/OuterVault.lean ====
section
/-! SUPPORT. What the operations of Machine/Vault.lean leave of the outer part of a state. -/

set_option linter.unusedTactic false
set_option linter.unnecessarySeqFocus false
set_option linter.unreachableTactic false
set_option linter.unusedSimpArgs false

namespace Sys2Proof.Machine

@[simp] theorem State.hitRead_outer (s : State) (q : LineReq) (k : Nat) (w : VLine) : (State.hitRead s q k w).outer = s.outer := by
  simp [State.hitRead]

@[simp] theorem State.hitAdd_outer (s : State) (q : LineReq) (k : Nat) (w : VLine) : (State.hitAdd s q k w).outer = s.outer := by
  simp [State.hitAdd]

@[simp] theorem State.hitReadClear_outer (s : State) (q : LineReq) (k : Nat) (w : VLine) : (State.hitReadClear s q k w).outer = s.outer := by
  simp [State.hitReadClear]

@[simp] theorem State.hit_outer (s : State) (q : LineReq) (k : Nat) (w : VLine) : (State.hit s q k w).outer = s.outer := by
  unfold State.hit
  split <;> simp

theorem State.miss_outer (s : State) (q : LineReq) (li : Nat) : ∀ t, State.miss s q li = some t → t.outer = s.outer := by
  intro t h
  unfold State.miss at h
  try dsimp only at h
  repeat' split at h
  all_goals (first | (cases h; done) | (simp only [Host.Outcome.next.injEq, Option.some.injEq] at h; subst h; (first | with_reducible rfl | (simp; done) | (simp [*]; done) | (refine (foldl_outer _ ?_ _ _).trans ?_ <;> intros <;> (try dsimp only) <;> (repeat' split) <;> (first | with_reducible rfl | (simp; done) | (simp [*]; done) | (refine (foldl_outer _ ?_ _ _).trans ?_ <;> intros <;> (try dsimp only) <;> (repeat' split) <;> (first | with_reducible rfl | (simp; done) | (simp [*]; done))))) | ((first | refine State.issue_outer _ _ _ _ _ _ ?_ | refine State.gate_outer _ _ _ _ _ ?_ | refine State.arrive_outer _ _ _ _ _ ?_ | refine State.arriveData_outer _ _ _ _ _ ?_ | refine State.inTurn_outer _ _ _ _ ?_ | refine State.once_outer _ _ _ ?_) <;> intros <;> (try dsimp only) <;> (repeat' split) <;> (first | with_reducible rfl | (simp; done) | (simp [*]; done) | (refine (foldl_outer _ ?_ _ _).trans ?_ <;> intros <;> (try dsimp only) <;> (repeat' split) <;> (first | with_reducible rfl | (simp; done) | (simp [*]; done))))))))

theorem State.serveNear_outer (s : State) (q : LineReq) (li : Nat) : ∀ t, State.serveNear s q li = some t → t.outer = s.outer := by
  intro t h
  unfold State.serveNear at h
  extract_lets d tally at h
  have ht (b : Bool) : (tally b).outer = s.outer := by
    simp only [tally]
    split
    · rfl
    · exact State.vltTally_outer s li b
  split at h
  · cases h
  · split at h
    · cases h
    · split at h
      · rw [← Option.some.inj h, State.hit_outer, ht]
      · exact (State.miss_outer _ q li t h).trans (ht false)

@[simp] theorem State.serveScratch_outer (s : State) (q : LineReq) (d g o : Nat) : (State.serveScratch s q d g o).outer = s.outer := by
  unfold State.serveScratch
  split <;> simp

@[simp] theorem State.refuse_outer (s : State) (q : LineReq) (b : Nat) : (State.refuse s q b).outer = s.outer := by
  simp [State.refuse]

theorem State.serve_outer (s : State) (q : LineReq) : ∀ t, State.serve s q = some t → t.outer = s.outer := by
  intro t h
  unfold State.serve at h
  split at h
  · exact State.serveNear_outer s q _ t h
  · rw [← Option.some.inj h]; exact State.serveScratch_outer s q _ _ _
  · split at h
    · rw [← Option.some.inj h]
    · rw [← Option.some.inj h]; exact State.refuse_outer s q _
  · rw [← Option.some.inj h]; exact State.refuse_outer s q _

@[simp] theorem State.vaultRow_outer (s : State) (r : Requester) (k : LineKind) : (State.vaultRow s r k).outer = s.outer := by
  unfold State.vaultRow
  split
  · rfl
  · split
    · rfl
    · exact getD_outer (fun t h => (State.serve_outer _ _ t h).trans (State.at_outer _ _)) rfl

theorem execVaultRead_outer (r : Requester) (upsets : List (Fin 4 × Fin 40 × Fin 524288 × Bool)) (s : State) : ∀ t, execVaultRead r s upsets = .next t → t.outer = s.outer := by
  intro t h
  rw [← Host.Outcome.next.inj h]
  simp

theorem execVaultWrite_outer (r : Requester) (s : State) : ∀ t, execVaultWrite r s = .next t → t.outer = s.outer := by
  intro t h
  rw [← Host.Outcome.next.inj h]
  simp

theorem execVaultAdd_outer (r : Requester) (s : State) : ∀ t, execVaultAdd r s = .next t → t.outer = s.outer := by
  intro t h
  rw [← Host.Outcome.next.inj h]
  simp

theorem execVaultReadClear_outer (r : Requester) (s : State) : ∀ t, execVaultReadClear r s = .next t → t.outer = s.outer := by
  intro t h
  rw [← Host.Outcome.next.inj h]
  simp

theorem execVaultRelease_outer (r : Requester) (s : State) : ∀ t, execVaultRelease r s = .next t → t.outer = s.outer := by
  intro t h
  rw [← Host.Outcome.next.inj h]
  simp

@[simp] theorem State.hbmReturn_outer (s : State) (x : HbmRead) (flips : List Flip) : (State.hbmReturn s x flips).outer = s.outer := by
  unfold State.hbmReturn
  repeat' split
  all_goals simp

@[simp] theorem State.hbmNext_outer (s : State) (d : Nat) (x : HbmRead) (flips : List Flip) : (State.hbmNext s d x flips).outer = s.outer := by
  unfold State.hbmNext
  try dsimp only
  all_goals repeat' split
  all_goals (first | with_reducible rfl | (simp; done) | (simp [*]; done) | (refine (foldl_outer _ ?_ _ _).trans ?_ <;> intros <;> (try dsimp only) <;> (repeat' split) <;> (first | with_reducible rfl | (simp; done) | (simp [*]; done) | (refine (foldl_outer _ ?_ _ _).trans ?_ <;> intros <;> (try dsimp only) <;> (repeat' split) <;> (first | with_reducible rfl | (simp; done) | (simp [*]; done))))) | ((first | refine State.issue_outer _ _ _ _ _ _ ?_ | refine State.gate_outer _ _ _ _ _ ?_ | refine State.arrive_outer _ _ _ _ _ ?_ | refine State.arriveData_outer _ _ _ _ _ ?_ | refine State.inTurn_outer _ _ _ _ ?_ | refine State.once_outer _ _ _ ?_) <;> intros <;> (try dsimp only) <;> (repeat' split) <;> (first | with_reducible rfl | (simp; done) | (simp [*]; done) | (refine (foldl_outer _ ?_ _ _).trans ?_ <;> intros <;> (try dsimp only) <;> (repeat' split) <;> (first | with_reducible rfl | (simp; done) | (simp [*]; done))))))

theorem execHbmReadComplete_outer (die : Fin 4) (channel : Fin 256) (flips : List Flip) (s : State) : ∀ t, execHbmReadComplete die channel flips s = .next t → t.outer = s.outer := by
  intro t h
  unfold execHbmReadComplete at h
  dsimp only at h
  repeat' split at h
  all_goals rw [← Host.Outcome.next.inj h]; try simp

theorem execHbmRefresh_outer (die : Fin 4) (channel : Fin 256) (upsets : List (BitVec 22 × Flip)) (s : State) : ∀ t, execHbmRefresh die channel s upsets = .next t → t.outer = s.outer := by
  intro t h
  rw [← Host.Outcome.next.inj h]
  simp

theorem execScrubRead_outer (die : Fin 4) (channel : Fin 256) (line : BitVec 22) (flips : List Flip) (s : State) : ∀ t, execScrubRead die channel line flips s = .next t → t.outer = s.outer := by
  intro t h
  unfold execScrubRead at h
  dsimp only at h
  repeat' split at h
  all_goals rw [← Host.Outcome.next.inj h]; try simp

theorem State.toPort_outer (s : State) (q : LineReq) (rest : List LineReq) : ∀ t, State.toPort s q rest = some t → t.outer = s.outer := by
  intro t h
  unfold State.toPort at h
  try dsimp only at h
  repeat' split at h
  all_goals (first | (cases h; done) | (simp only [Host.Outcome.next.injEq, Option.some.injEq] at h; subst h; (first | with_reducible rfl | (simp; done) | (simp [*]; done) | (refine (foldl_outer _ ?_ _ _).trans ?_ <;> intros <;> (try dsimp only) <;> (repeat' split) <;> (first | with_reducible rfl | (simp; done) | (simp [*]; done) | (refine (foldl_outer _ ?_ _ _).trans ?_ <;> intros <;> (try dsimp only) <;> (repeat' split) <;> (first | with_reducible rfl | (simp; done) | (simp [*]; done))))) | ((first | refine State.issue_outer _ _ _ _ _ _ ?_ | refine State.gate_outer _ _ _ _ _ ?_ | refine State.arrive_outer _ _ _ _ _ ?_ | refine State.arriveData_outer _ _ _ _ _ ?_ | refine State.inTurn_outer _ _ _ _ ?_ | refine State.once_outer _ _ _ ?_) <;> intros <;> (try dsimp only) <;> (repeat' split) <;> (first | with_reducible rfl | (simp; done) | (simp [*]; done) | (refine (foldl_outer _ ?_ _ _).trans ?_ <;> intros <;> (try dsimp only) <;> (repeat' split) <;> (first | with_reducible rfl | (simp; done) | (simp [*]; done))))))))

@[simp] theorem State.xtRow_outer (s : State) (r : Requester) (k : LineKind) : (State.xtRow s r k).outer = s.outer := by
  unfold State.xtRow
  split
  · rfl
  · split
    · rfl
    · exact getD_outer (fun t h => (State.toPort_outer _ _ _ t h).trans (State.at_outer _ _)) rfl

theorem execXtRead_outer (r : Requester) (s : State) : ∀ t, execXtRead r s = .next t → t.outer = s.outer := by
  intro t h
  rw [← Host.Outcome.next.inj h]
  simp

theorem execXtWrite_outer (r : Requester) (s : State) : ∀ t, execXtWrite r s = .next t → t.outer = s.outer := by
  intro t h
  rw [← Host.Outcome.next.inj h]
  simp

@[simp] theorem State.xtDone_outer (s : State) (x : XtReq) (poison : Bool) : (State.xtDone s x poison).outer = s.outer := by
  unfold State.xtDone
  try dsimp only
  all_goals repeat' split
  all_goals (first | with_reducible rfl | (simp; done) | (simp [*]; done) | (refine (foldl_outer _ ?_ _ _).trans ?_ <;> intros <;> (try dsimp only) <;> (repeat' split) <;> (first | with_reducible rfl | (simp; done) | (simp [*]; done) | (refine (foldl_outer _ ?_ _ _).trans ?_ <;> intros <;> (try dsimp only) <;> (repeat' split) <;> (first | with_reducible rfl | (simp; done) | (simp [*]; done))))) | ((first | refine State.issue_outer _ _ _ _ _ _ ?_ | refine State.gate_outer _ _ _ _ _ ?_ | refine State.arrive_outer _ _ _ _ _ ?_ | refine State.arriveData_outer _ _ _ _ _ ?_ | refine State.inTurn_outer _ _ _ _ ?_ | refine State.once_outer _ _ _ ?_) <;> intros <;> (try dsimp only) <;> (repeat' split) <;> (first | with_reducible rfl | (simp; done) | (simp [*]; done) | (refine (foldl_outer _ ?_ _ _).trans ?_ <;> intros <;> (try dsimp only) <;> (repeat' split) <;> (first | with_reducible rfl | (simp; done) | (simp [*]; done))))))

theorem execXtCompletion_outer (port : Fin 4) (poison : Bool) (s : State) : ∀ t, execXtCompletion port poison s = .next t → t.outer = s.outer := by
  intro t h
  unfold execXtCompletion at h
  repeat' split at h
  all_goals rw [← Host.Outcome.next.inj h]; try simp

theorem execCxlPortLost_outer (port : Fin 4) (s : State) : ∀ t, execCxlPortLost port s = .next t → t.outer = s.outer := by
  intro t h
  rw [← Host.Outcome.next.inj h]
  simp

@[simp] theorem State.makeRoom_outer (s : State) (li : Nat) : (State.makeRoom s li).outer = s.outer := by
  unfold State.makeRoom
  try dsimp only
  all_goals repeat' split
  all_goals (first | with_reducible rfl | (simp; done) | (simp [*]; done) | (refine (foldl_outer _ ?_ _ _).trans ?_ <;> intros <;> (try dsimp only) <;> (repeat' split) <;> (first | with_reducible rfl | (simp; done) | (simp [*]; done) | (refine (foldl_outer _ ?_ _ _).trans ?_ <;> intros <;> (try dsimp only) <;> (repeat' split) <;> (first | with_reducible rfl | (simp; done) | (simp [*]; done))))) | ((first | refine State.issue_outer _ _ _ _ _ _ ?_ | refine State.gate_outer _ _ _ _ _ ?_ | refine State.arrive_outer _ _ _ _ _ ?_ | refine State.arriveData_outer _ _ _ _ _ ?_ | refine State.inTurn_outer _ _ _ _ ?_ | refine State.once_outer _ _ _ ?_) <;> intros <;> (try dsimp only) <;> (repeat' split) <;> (first | with_reducible rfl | (simp; done) | (simp [*]; done) | (refine (foldl_outer _ ?_ _ _).trans ?_ <;> intros <;> (try dsimp only) <;> (repeat' split) <;> (first | with_reducible rfl | (simp; done) | (simp [*]; done))))))

@[simp] theorem State.settleStep_outer (s : State) (a : Nat) : (State.settleStep s a).outer = s.outer := by
  unfold State.settleStep
  split
  · simp
  · split
    · simp
    · split
      · rfl
      · split
        · exact getD_outer (fun t h => State.toPort_outer _ _ _ t h) rfl
        · refine getD_outer (fun t h => (State.serve_outer _ _ t h).trans ?_) rfl
          simp only [outer_update]
          split <;> simp

@[simp] theorem State.settleLine_outer (s : State) (a : Nat) : (State.settleLine s a).outer = s.outer := by
  unfold State.settleLine
  try dsimp only
  all_goals repeat' split
  all_goals (first | with_reducible rfl | (simp; done) | (simp [*]; done) | (refine (foldl_outer _ ?_ _ _).trans ?_ <;> intros <;> (try dsimp only) <;> (repeat' split) <;> (first | with_reducible rfl | (simp; done) | (simp [*]; done) | (refine (foldl_outer _ ?_ _ _).trans ?_ <;> intros <;> (try dsimp only) <;> (repeat' split) <;> (first | with_reducible rfl | (simp; done) | (simp [*]; done))))) | ((first | refine State.issue_outer _ _ _ _ _ _ ?_ | refine State.gate_outer _ _ _ _ _ ?_ | refine State.arrive_outer _ _ _ _ _ ?_ | refine State.arriveData_outer _ _ _ _ _ ?_ | refine State.inTurn_outer _ _ _ _ ?_ | refine State.once_outer _ _ _ ?_) <;> intros <;> (try dsimp only) <;> (repeat' split) <;> (first | with_reducible rfl | (simp; done) | (simp [*]; done) | (refine (foldl_outer _ ?_ _ _).trans ?_ <;> intros <;> (try dsimp only) <;> (repeat' split) <;> (first | with_reducible rfl | (simp; done) | (simp [*]; done))))))

@[simp] theorem State.windowIn_outer (s : State) (li : Nat) : (State.windowIn s li).outer = s.outer := by
  unfold State.windowIn
  try dsimp only
  all_goals repeat' split
  all_goals (first | with_reducible rfl | (simp; done) | (simp [*]; done) | (refine (foldl_outer _ ?_ _ _).trans ?_ <;> intros <;> (try dsimp only) <;> (repeat' split) <;> (first | with_reducible rfl | (simp; done) | (simp [*]; done) | (refine (foldl_outer _ ?_ _ _).trans ?_ <;> intros <;> (try dsimp only) <;> (repeat' split) <;> (first | with_reducible rfl | (simp; done) | (simp [*]; done))))) | ((first | refine State.issue_outer _ _ _ _ _ _ ?_ | refine State.gate_outer _ _ _ _ _ ?_ | refine State.arrive_outer _ _ _ _ _ ?_ | refine State.arriveData_outer _ _ _ _ _ ?_ | refine State.inTurn_outer _ _ _ _ ?_ | refine State.once_outer _ _ _ ?_) <;> intros <;> (try dsimp only) <;> (repeat' split) <;> (first | with_reducible rfl | (simp; done) | (simp [*]; done) | (refine (foldl_outer _ ?_ _ _).trans ?_ <;> intros <;> (try dsimp only) <;> (repeat' split) <;> (first | with_reducible rfl | (simp; done) | (simp [*]; done))))))

@[simp] theorem State.enter_outer (s : State) (li : Nat) : (State.enter s li).outer = s.outer := by
  unfold State.enter
  try dsimp only
  all_goals repeat' split
  all_goals (first | with_reducible rfl | (simp; done) | (simp [*]; done) | (refine (foldl_outer _ ?_ _ _).trans ?_ <;> intros <;> (try dsimp only) <;> (repeat' split) <;> (first | with_reducible rfl | (simp; done) | (simp [*]; done) | (refine (foldl_outer _ ?_ _ _).trans ?_ <;> intros <;> (try dsimp only) <;> (repeat' split) <;> (first | with_reducible rfl | (simp; done) | (simp [*]; done))))) | ((first | refine State.issue_outer _ _ _ _ _ _ ?_ | refine State.gate_outer _ _ _ _ _ ?_ | refine State.arrive_outer _ _ _ _ _ ?_ | refine State.arriveData_outer _ _ _ _ _ ?_ | refine State.inTurn_outer _ _ _ _ ?_ | refine State.once_outer _ _ _ ?_) <;> intros <;> (try dsimp only) <;> (repeat' split) <;> (first | with_reducible rfl | (simp; done) | (simp [*]; done) | (refine (foldl_outer _ ?_ _ _).trans ?_ <;> intros <;> (try dsimp only) <;> (repeat' split) <;> (first | with_reducible rfl | (simp; done) | (simp [*]; done))))))

@[simp] theorem State.readLine_outer (s0 : State) (a : Nat) (h : Hint) : (State.readLine s0 a h).2.2.outer = s0.outer := by
  unfold State.readLine
  try dsimp only
  all_goals repeat' split
  all_goals (first | with_reducible rfl | (simp; done) | (simp [*]; done) | (refine (foldl_outer _ ?_ _ _).trans ?_ <;> intros <;> (try dsimp only) <;> (repeat' split) <;> (first | with_reducible rfl | (simp; done) | (simp [*]; done) | (refine (foldl_outer _ ?_ _ _).trans ?_ <;> intros <;> (try dsimp only) <;> (repeat' split) <;> (first | with_reducible rfl | (simp; done) | (simp [*]; done))))) | ((first | refine State.issue_outer _ _ _ _ _ _ ?_ | refine State.gate_outer _ _ _ _ _ ?_ | refine State.arrive_outer _ _ _ _ _ ?_ | refine State.arriveData_outer _ _ _ _ _ ?_ | refine State.inTurn_outer _ _ _ _ ?_ | refine State.once_outer _ _ _ ?_) <;> intros <;> (try dsimp only) <;> (repeat' split) <;> (first | with_reducible rfl | (simp; done) | (simp [*]; done) | (refine (foldl_outer _ ?_ _ _).trans ?_ <;> intros <;> (try dsimp only) <;> (repeat' split) <;> (first | with_reducible rfl | (simp; done) | (simp [*]; done))))))

@[simp] theorem State.writeLine_outer (s0 : State) (a : Nat) (v : Line) (poison : Bool) (h : Hint) : (State.writeLine s0 a v poison h).outer = s0.outer := by
  unfold State.writeLine
  try dsimp only
  all_goals repeat' split
  all_goals (first | with_reducible rfl | (simp; done) | (simp [*]; done) | (refine (foldl_outer _ ?_ _ _).trans ?_ <;> intros <;> (try dsimp only) <;> (repeat' split) <;> (first | with_reducible rfl | (simp; done) | (simp [*]; done) | (refine (foldl_outer _ ?_ _ _).trans ?_ <;> intros <;> (try dsimp only) <;> (repeat' split) <;> (first | with_reducible rfl | (simp; done) | (simp [*]; done))))) | ((first | refine State.issue_outer _ _ _ _ _ _ ?_ | refine State.gate_outer _ _ _ _ _ ?_ | refine State.arrive_outer _ _ _ _ _ ?_ | refine State.arriveData_outer _ _ _ _ _ ?_ | refine State.inTurn_outer _ _ _ _ ?_ | refine State.once_outer _ _ _ ?_) <;> intros <;> (try dsimp only) <;> (repeat' split) <;> (first | with_reducible rfl | (simp; done) | (simp [*]; done) | (refine (foldl_outer _ ?_ _ _).trans ?_ <;> intros <;> (try dsimp only) <;> (repeat' split) <;> (first | with_reducible rfl | (simp; done) | (simp [*]; done))))))

@[simp] theorem State.kindFault_outer (s : State) (a : Nat) : (State.kindFault s a).outer = s.outer := by
  unfold State.kindFault
  split <;> simp

@[simp] theorem State.addLine_outer (s : State) (a : Nat) (v : Line) (poison : Bool) : (State.addLine s a v poison).outer = s.outer := by
  simp [State.addLine]

@[simp] theorem State.readClearLine_outer (s : State) (a : Nat) : (State.readClearLine s a).2.2.outer = s.outer := by
  unfold State.readClearLine
  split <;> simp

@[simp] theorem State.readLines_outer (s : State) (h : Hint) (a : Nat) (m0 : Nat) : (State.readLines s h a m0).2.outer = s.outer := by
  induction m0 generalizing s h a <;> simp_all [State.readLines]
  done

@[simp] theorem State.readBytes_outer (s : State) (a n : Nat) : (State.readBytes s a n).2.2.outer = s.outer := by
  simp [State.readBytes]

@[simp] theorem State.writeBytes_outer (s : State) (h : Hint) (a : Nat) (bs : List Byte) (m0 : Nat) : (State.writeBytes s h a bs m0).outer = s.outer := by
  induction m0 generalizing s h a bs with
  | zero => rfl
  | succ n ih =>
    unfold State.writeBytes
    split
    · rfl
    · extract_lets o here n old v
      have ho : old.2.2.outer = s.outer := by
        by_cases hn : n = 256
        · simp [old, hn]
        · simp [old, hn]
      simp only [ih, State.writeLine_outer, ho]

@[simp] theorem State.putBytes_outer (s : State) (a : Nat) (bs : List Byte) (h : Hint) : (State.putBytes s a bs h).outer = s.outer := by
  simp [State.putBytes]

theorem execHbmCeClr_outer (by_ : Writer) (die : Fin 4) (which : MemCount) (s : State) : ∀ t, execHbmCeClr by_ die which s = .next t → t.outer = s.outer := by
  intro t h
  rw [← Host.Outcome.next.inj h]
  simp

@[simp] theorem State.partTable_outer (s : State) (d : Nat) : (State.partTable s d).2.outer = s.outer := by
  simp [State.partTable]

@[simp] theorem State.vaultStart_outer (s : State) (d : Nat) (ps : List Partition) : (State.vaultStart s d ps).outer = s.outer := by
  rfl

@[simp] theorem State.vaultTry_outer (s0 : State) (d : Nat) : (State.vaultTry s0 d).outer = s0.outer := by
  unfold State.vaultTry
  try dsimp only
  all_goals repeat' split
  all_goals (first | with_reducible rfl | (simp; done) | (simp [*]; done) | (refine (foldl_outer _ ?_ _ _).trans ?_ <;> intros <;> (try dsimp only) <;> (repeat' split) <;> (first | with_reducible rfl | (simp; done) | (simp [*]; done) | (refine (foldl_outer _ ?_ _ _).trans ?_ <;> intros <;> (try dsimp only) <;> (repeat' split) <;> (first | with_reducible rfl | (simp; done) | (simp [*]; done))))) | ((first | refine State.issue_outer _ _ _ _ _ _ ?_ | refine State.gate_outer _ _ _ _ _ ?_ | refine State.arrive_outer _ _ _ _ _ ?_ | refine State.arriveData_outer _ _ _ _ _ ?_ | refine State.inTurn_outer _ _ _ _ ?_ | refine State.once_outer _ _ _ ?_) <;> intros <;> (try dsimp only) <;> (repeat' split) <;> (first | with_reducible rfl | (simp; done) | (simp [*]; done) | (refine (foldl_outer _ ?_ _ _).trans ?_ <;> intros <;> (try dsimp only) <;> (repeat' split) <;> (first | with_reducible rfl | (simp; done) | (simp [*]; done))))))

theorem execVaultEnable_outer (by_ : Writer) (die : Fin 4) (s : State) : ∀ t, execVaultEnable by_ die s = .next t → t.outer = s.outer := by
  intro t h
  rw [← Host.Outcome.next.inj h]
  simp

@[simp] theorem State.cleanWays_outer (s : State) (d : Nat) : (State.cleanWays s d).outer = s.outer := by
  simp [State.cleanWays]

@[simp] theorem State.finishReads_outer (s : State) (d : Nat) : (State.finishReads s d).outer = s.outer := by
  simp [State.finishReads]

@[simp] theorem State.vaultOff_outer (s : State) (d : Nat) : (State.vaultOff s d).outer = s.outer := by
  unfold State.vaultOff
  try dsimp only
  all_goals repeat' split
  all_goals (first | with_reducible rfl | (simp; done) | (simp [*]; done) | (refine (foldl_outer _ ?_ _ _).trans ?_ <;> intros <;> (try dsimp only) <;> (repeat' split) <;> (first | with_reducible rfl | (simp; done) | (simp [*]; done) | (refine (foldl_outer _ ?_ _ _).trans ?_ <;> intros <;> (try dsimp only) <;> (repeat' split) <;> (first | with_reducible rfl | (simp; done) | (simp [*]; done))))) | ((first | refine State.issue_outer _ _ _ _ _ _ ?_ | refine State.gate_outer _ _ _ _ _ ?_ | refine State.arrive_outer _ _ _ _ _ ?_ | refine State.arriveData_outer _ _ _ _ _ ?_ | refine State.inTurn_outer _ _ _ _ ?_ | refine State.once_outer _ _ _ ?_) <;> intros <;> (try dsimp only) <;> (repeat' split) <;> (first | with_reducible rfl | (simp; done) | (simp [*]; done) | (refine (foldl_outer _ ?_ _ _).trans ?_ <;> intros <;> (try dsimp only) <;> (repeat' split) <;> (first | with_reducible rfl | (simp; done) | (simp [*]; done))))))

@[simp] theorem State.vaultClear_outer (s : State) (d : Nat) : (State.vaultClear s d).outer = s.outer := by
  unfold State.vaultClear
  try dsimp only
  all_goals repeat' split
  all_goals (first | with_reducible rfl | (simp; done) | (simp [*]; done) | (refine (foldl_outer _ ?_ _ _).trans ?_ <;> intros <;> (try dsimp only) <;> (repeat' split) <;> (first | with_reducible rfl | (simp; done) | (simp [*]; done) | (refine (foldl_outer _ ?_ _ _).trans ?_ <;> intros <;> (try dsimp only) <;> (repeat' split) <;> (first | with_reducible rfl | (simp; done) | (simp [*]; done))))) | ((first | refine State.issue_outer _ _ _ _ _ _ ?_ | refine State.gate_outer _ _ _ _ _ ?_ | refine State.arrive_outer _ _ _ _ _ ?_ | refine State.arriveData_outer _ _ _ _ _ ?_ | refine State.inTurn_outer _ _ _ _ ?_ | refine State.once_outer _ _ _ ?_) <;> intros <;> (try dsimp only) <;> (repeat' split) <;> (first | with_reducible rfl | (simp; done) | (simp [*]; done) | (refine (foldl_outer _ ?_ _ _).trans ?_ <;> intros <;> (try dsimp only) <;> (repeat' split) <;> (first | with_reducible rfl | (simp; done) | (simp [*]; done))))))

theorem execVaultDisable_outer (by_ : Writer) (die : Fin 4) (s : State) : ∀ t, execVaultDisable by_ die s = .next t → t.outer = s.outer := by
  intro t h
  rw [← Host.Outcome.next.inj h]
  simp

@[simp] theorem State.vaultResume_outer (s : State) : (State.vaultResume s).outer = s.outer := by
  unfold State.vaultResume
  try dsimp only
  all_goals repeat' split
  all_goals (first | with_reducible rfl | (simp; done) | (simp [*]; done) | (refine (foldl_outer _ ?_ _ _).trans ?_ <;> intros <;> (try dsimp only) <;> (repeat' split) <;> (first | with_reducible rfl | (simp; done) | (simp [*]; done) | (refine (foldl_outer _ ?_ _ _).trans ?_ <;> intros <;> (try dsimp only) <;> (repeat' split) <;> (first | with_reducible rfl | (simp; done) | (simp [*]; done))))) | ((first | refine State.issue_outer _ _ _ _ _ _ ?_ | refine State.gate_outer _ _ _ _ _ ?_ | refine State.arrive_outer _ _ _ _ _ ?_ | refine State.arriveData_outer _ _ _ _ _ ?_ | refine State.inTurn_outer _ _ _ _ ?_ | refine State.once_outer _ _ _ ?_) <;> intros <;> (try dsimp only) <;> (repeat' split) <;> (first | with_reducible rfl | (simp; done) | (simp [*]; done) | (refine (foldl_outer _ ?_ _ _).trans ?_ <;> intros <;> (try dsimp only) <;> (repeat' split) <;> (first | with_reducible rfl | (simp; done) | (simp [*]; done))))))

theorem execVaultFlush_outer (by_ : Writer) (die : Fin 4) (s : State) : ∀ t, execVaultFlush by_ die s = .next t → t.outer = s.outer := by
  intro t h
  rw [← Host.Outcome.next.inj h]
  simp

theorem execVaultFlushComplete_outer (die : Fin 4) (s : State) : ∀ t, execVaultFlushComplete die s = .next t → t.outer = s.outer := by
  intro t h
  rw [← Host.Outcome.next.inj h]
  simp

theorem execUnkeepAll_outer (by_ : Writer) (die : Fin 4) (s : State) : ∀ t, execUnkeepAll by_ die s = .next t → t.outer = s.outer := by
  intro t h
  rw [← Host.Outcome.next.inj h]
  simp

end Sys2Proof.Machine
end

