-- ==== Sys2Proof/Laws/OuterMemInsn.lean ====
section
/-! SUPPORT. What the operations of Machine/MemInsn.lean leave of the outer part of a state. -/

set_option linter.unusedTactic false
set_option linter.unnecessarySeqFocus false
set_option linter.unreachableTactic false
set_option linter.unusedSimpArgs false

namespace Sys2Proof.Machine

@[simp] theorem State.queueLines_outer (s : State) (d p : Nat) (qs : List LineReq) : (State.queueLines s d p qs).outer = s.outer := by
  rfl

@[simp] theorem State.startRead_outer (s : State) (die : Fin 4) (phys : Fin 34) (st : StreamId) (k : LineKind) (h : Hint) (a caddr n : Nat) (release : Option (Nat × EscPlace)) : (State.startRead s die phys st k h a caddr n release).outer = s.outer := by
  rfl

@[simp] theorem State.startWrite_outer (s : State) (die : Fin 4) (phys : Fin 34) (k : LineKind) (h : Hint) (a caddr n : Nat) : (State.startWrite s die phys k h a caddr n).outer = s.outer := by
  simp [State.startWrite]

theorem execMemRead_outer (die : Fin 4) (phys : Fin 34) (st : StreamId) (s : State) : ∀ t, execMemRead die phys st s = .next t → t.outer = s.outer := by
  intro t h
  rw [← Host.Outcome.next.inj h]
  simp

theorem execMemWrite_outer (die : Fin 4) (phys : Fin 34) (st : StreamId) (s : State) : ∀ t, execMemWrite die phys st s = .next t → t.outer = s.outer := by
  intro t h
  rw [← Host.Outcome.next.inj h]
  simp

theorem execMemAdd_outer (die : Fin 4) (phys : Fin 34) (st : StreamId) (s : State) : ∀ t, execMemAdd die phys st s = .next t → t.outer = s.outer := by
  intro t h
  rw [← Host.Outcome.next.inj h]
  simp

theorem execMemReadClear_outer (die : Fin 4) (phys : Fin 34) (st : StreamId) (s : State) : ∀ t, execMemReadClear die phys st s = .next t → t.outer = s.outer := by
  intro t h
  rw [← Host.Outcome.next.inj h]
  simp

theorem execMemRelease_outer (die : Fin 4) (phys : Fin 34) (st : StreamId) (s : State) : ∀ t, execMemRelease die phys st s = .next t → t.outer = s.outer := by
  intro t h
  rw [← Host.Outcome.next.inj h]
  exact State.issue_outer _ _ _ _ _ _ (fun t w => by simp)

@[simp] theorem State.escFault_outer (s : State) (stamp etile : Nat) : (State.escFault s stamp etile).outer = s.outer := by
  simp [State.escFault]

@[simp] theorem State.keepTile_outer (s : State) (key : Nat) : (State.keepTile s key).outer = s.outer := by
  rfl

theorem execEsave_outer (die : Fin 4) (phys : Fin 34) (st : StreamId) (s : State) : ∀ t, execEsave die phys st s = .next t → t.outer = s.outer := by
  intro t h
  rw [← Host.Outcome.next.inj h]
  refine State.issue_outer _ _ _ _ _ _ (fun t w => ?_)
  dsimp only
  repeat' split
  all_goals simp

theorem execEread_outer (die : Fin 4) (phys : Fin 34) (st : StreamId) (s : State) : ∀ t, execEread die phys st s = .next t → t.outer = s.outer := by
  intro t h
  rw [← Host.Outcome.next.inj h]
  refine State.issue_outer _ _ _ _ _ _ (fun t w => ?_)
  dsimp only
  repeat' split
  all_goals simp

@[simp] theorem State.freeRead_outer (s : State) (r : Option (Nat × EscPlace)) : (State.freeRead s r).outer = s.outer := by
  unfold State.freeRead
  split <;> simp

theorem execMemReadComplete_outer (die : Fin 4) (phys : Fin 34) (s : State) : ∀ t, execMemReadComplete die phys s = .next t → t.outer = s.outer := by
  intro t h
  unfold execMemReadComplete at h
  dsimp only at h
  repeat' split at h
  all_goals rw [← Host.Outcome.next.inj h]; try simp

end Sys2Proof.Machine
end

