-- ==== Sys2Proof/Laws/OuterDepository.lean ====
section
/-! SUPPORT. What the operations of Machine/Depository.lean leave of the outer part of a state. -/

set_option linter.unusedTactic false
set_option linter.unnecessarySeqFocus false
set_option linter.unreachableTactic false
set_option linter.unusedSimpArgs false

namespace Sys2Proof.Machine

@[simp] theorem State.endEval_outer (s : State) : (State.endEval s).outer = s.outer := by
  rfl

@[simp] theorem State.depFault_outer (s : State) (d b stream plane : Nat) : (State.depFault s d b stream plane).outer = s.outer := by
  simp [State.depFault]

@[simp] theorem State.depLast_outer (s : State) (d stream plane : Nat) : (State.depLast s d stream plane).outer = s.outer := by
  simp [State.depLast]

@[simp] theorem State.cacheEntry_outer (s : State) (d key : Nat) (e : DepEntry) : (State.cacheEntry s d key e).outer = s.outer := by
  unfold State.cacheEntry
  dsimp only
  repeat' split
  all_goals first | rfl | simp

@[simp] theorem State.depEntry_outer (s : State) (d key : Nat) : (State.depEntry s d key).2.outer = s.outer := by
  unfold State.depEntry
  split <;> simp

@[simp] theorem State.depWriteBack_outer (s : State) (d : Nat) : (State.depWriteBack s d).outer = s.outer := by
  simp [State.depWriteBack]

@[simp] theorem State.depRows_outer (s : State) (q : DepReq) (op addr : Nat) (rows : List (List Byte × Bool)) (due : Nat) : (State.depRows s q op addr rows due).outer = s.outer := by
  rfl

@[simp] theorem State.openWidth_outer (s : State) : (State.openWidth s).2.outer = s.outer := by
  rfl

@[simp] theorem State.depPoisoned_outer (s : State) (q : DepReq) : (State.depPoisoned s q).outer = s.outer := by
  unfold State.depPoisoned
  split <;> simp

@[simp] theorem State.depRefuse_outer (s : State) (d b : Nat) (q : DepReq) : (State.depRefuse s d b q).outer = s.outer := by
  simp [State.depRefuse]

@[simp] theorem State.depStore_outer (s : State) (d key : Nat) (q : DepReq) (desc : Nat) (e : DepEntry) (a : Nat) : (State.depStore s d key q desc e a).outer = s.outer := by
  simp [State.depStore]

@[simp] theorem State.depLoad_outer (s : State) (d key : Nat) (q : DepReq) (desc : Nat) (e : DepEntry) (a : Nat) : (State.depLoad s d key q desc e a).outer = s.outer := by
  unfold State.depLoad
  split <;> simp

@[simp] theorem State.depResident_outer (s : State) (d key : Nat) (q : DepReq) (desc : Nat) (e0 : DepEntry) : (State.depResident s d key q desc e0).outer = s.outer := by
  unfold State.depResident
  repeat' split
  all_goals simp

@[simp] theorem State.depMiss_outer (s : State) (d key : Nat) (q : DepReq) : (State.depMiss s d key q).outer = s.outer := by
  simp [State.depMiss]

@[simp] theorem State.depAbsent_outer (s : State) (d key : Nat) (q : DepReq) (desc : Nat) : (State.depAbsent s d key q desc).outer = s.outer := by
  unfold State.depAbsent
  repeat' split
  all_goals simp

@[simp] theorem State.stopPageOut_outer (s : State) (d : Nat) (m : PageMove) : (State.stopPageOut s d m).outer = s.outer := by
  rfl

@[simp] theorem State.depHold_outer (s : State) (q : DepReq) : (State.depHold s q).outer = s.outer := by
  rfl

@[simp] theorem State.depServe_outer (s : State) (d key : Nat) (q : DepReq) (desc : Nat) : (State.depServe s d key q desc).outer = s.outer := by
  unfold State.depServe
  dsimp only
  repeat' split
  all_goals first | rfl | simp

@[simp] theorem State.depRequest_outer (s : State) (q : DepReq) : (State.depRequest s q).outer = s.outer := by
  unfold State.depRequest
  repeat' split
  all_goals simp

@[simp] theorem State.depFrames_outer (s : State) (d : Nat) : (State.depFrames s d).outer = s.outer := by
  unfold State.depFrames
  refine (foldl_outer _ (fun t x => ?_) _ _).trans ?_
  · repeat' split
    all_goals simp
  · simp

@[simp] theorem State.depRound_outer (s : State) : (State.depRound s).outer = s.outer := by
  simp [State.depRound]

@[simp] theorem State.depRetry_outer (s : State) : (State.depRetry s).outer = s.outer := by
  simp [State.depRetry]

@[simp] theorem State.tableAbsent_outer (s : State) (desc : Nat) : (State.tableAbsent s desc).outer = s.outer := by
  simp [State.tableAbsent]

@[simp] theorem State.depFinishClose_outer (s : State) : (State.depFinishClose s).outer = s.outer := by
  unfold State.depFinishClose
  repeat' split
  all_goals simp

@[simp] theorem State.depSettle_outer (s : State) : (State.depSettle s).outer = s.outer := by
  simp [State.depSettle]

@[simp] theorem State.depSend_outer (s : State) (q0 : DepReq) : (State.depSend s q0).outer = s.outer := by
  simp [State.depSend]

theorem execDepWrite_outer (die : Fin 4) (phys : Fin 34) (st : StreamId) (s : State) : ∀ t, execDepWrite die phys st s = .next t → t.outer = s.outer := by
  intro t h
  rw [← Host.Outcome.next.inj h]
  simp

theorem execDepRead_outer (die : Fin 4) (phys : Fin 34) (st : StreamId) (s : State) : ∀ t, execDepRead die phys st s = .next t → t.outer = s.outer := by
  intro t h
  rw [← Host.Outcome.next.inj h]
  simp

theorem execDepFetch_outer (die : Fin 4) (phys : Fin 34) (st : StreamId) (s : State) : ∀ t, execDepFetch die phys st s = .next t → t.outer = s.outer := by
  intro t h
  rw [← Host.Outcome.next.inj h]
  simp

theorem execDepDrop_outer (die : Fin 4) (phys : Fin 34) (st : StreamId) (s : State) : ∀ t, execDepDrop die phys st s = .next t → t.outer = s.outer := by
  intro t h
  rw [← Host.Outcome.next.inj h]
  simp

@[simp] theorem State.depReadDesc_outer (s : State) (st : Nat) : (State.depReadDesc s st).outer = s.outer := by
  unfold State.depReadDesc
  dsimp only
  split <;> simp

theorem execDepOpen_outer (by_ : Writer) (stream : BitVec 16) (s : State) : ∀ t, execDepOpen by_ stream s = .next t → t.outer = s.outer := by
  intro t h
  rw [← Host.Outcome.next.inj h]
  simp

theorem execDepOpenComplete_outer (s : State) : ∀ t, execDepOpenComplete s = .next t → t.outer = s.outer := by
  intro t h
  unfold execDepOpenComplete at h
  repeat' split at h
  all_goals rw [← Host.Outcome.next.inj h]; try simp

theorem execDepClose_outer (by_ : Writer) (stream : BitVec 16) (s : State) : ∀ t, execDepClose by_ stream s = .next t → t.outer = s.outer := by
  intro t h
  rw [← Host.Outcome.next.inj h]
  simp

theorem execDepEnable_outer (by_ : Writer) (s : State) : ∀ t, execDepEnable by_ s = .next t → t.outer = s.outer := by
  intro t h
  rw [← Host.Outcome.next.inj h]
  simp

@[simp] theorem State.sweepRound_outer (s : State) (d cls : Nat) (m0 : List (Nat × Nat)) : (State.sweepRound s d cls m0).2.outer = s.outer := by
  induction m0 generalizing s with
  | nil => rfl
  | cons x l ih =>
    obtain ⟨f, key⟩ := x
    unfold State.sweepRound
    dsimp only
    split
    · exact ih s
    · split
      · rw [ih]; exact State.cacheEntry_outer _ _ _ _
      · split
        · exact ih s
        · rfl

@[simp] theorem State.sweep_outer (s : State) (d : Nat) (order : List (Nat × Nat)) (m0 : List Nat) : (State.sweep s d order m0).2.outer = s.outer := by
  induction m0 generalizing s with
  | nil => rfl
  | cons x l ih =>
    unfold State.sweep
    dsimp only
    split
    · exact State.sweepRound_outer s d x order
    · rw [ih]; exact State.sweepRound_outer s d x order

@[simp] theorem State.startMove_outer (s : State) (d key : Nat) (toTier : Bool) (h y : Nat) : (State.startMove s d key toTier h y).outer = s.outer := by
  rfl

@[simp] theorem State.beforeMove_outer (s : State) (m : PageMove) : (State.beforeMove s m).outer = s.outer := by
  simp [State.beforeMove]

theorem execPageOutStart_outer (slice : Fin 4) (s : State) : ∀ t, execPageOutStart slice s = .next t → t.outer = s.outer := by
  intro t h
  unfold execPageOutStart at h
  dsimp only at h
  repeat' split at h
  all_goals rw [← Host.Outcome.next.inj h]; try simp

@[simp] theorem State.copyFrame_outer (s : State) (a b : Nat) : (State.copyFrame s a b).outer = s.outer := by
  simp [State.copyFrame]

theorem execPageOutComplete_outer (slice : Fin 4) (s : State) : ∀ t, execPageOutComplete slice s = .next t → t.outer = s.outer := by
  intro t h
  unfold execPageOutComplete at h
  dsimp only at h
  repeat' split at h
  all_goals rw [← Host.Outcome.next.inj h]; try simp

theorem execPageInStart_outer (slice : Fin 4) (s : State) : ∀ t, execPageInStart slice s = .next t → t.outer = s.outer := by
  intro t h
  unfold execPageInStart at h
  dsimp only at h
  repeat' split at h
  all_goals rw [← Host.Outcome.next.inj h]; try simp

theorem execPageInComplete_outer (slice : Fin 4) (poison : List (Fin 256)) (s : State) : ∀ t, execPageInComplete slice s poison = .next t → t.outer = s.outer := by
  intro t h
  unfold execPageInComplete at h
  dsimp only at h
  repeat' split at h
  all_goals rw [← Host.Outcome.next.inj h]; try simp

theorem execDepIntakeRelease_outer (slice : Fin 4) (s : State) : ∀ t, execDepIntakeRelease slice s = .next t → t.outer = s.outer := by
  intro t h
  unfold execDepIntakeRelease at h
  dsimp only at h
  repeat' split at h
  all_goals rw [← Host.Outcome.next.inj h]; try simp

end Sys2Proof.Machine
end

