-- ==== Sys2Proof/Laws/OuterTeller.lean ====
section
/-! SUPPORT. What the operations of Machine/Teller.lean leave of the outer part of a state. -/

set_option linter.unusedTactic false
set_option linter.unnecessarySeqFocus false
set_option linter.unreachableTactic false
set_option linter.unusedSimpArgs false

namespace Sys2Proof.Machine

@[simp] theorem State.tlrFlags_outer (s : State) (n fl : Nat) : (State.tlrFlags s n fl).outer = s.outer := by
  simp [State.tlrFlags]

@[simp] theorem State.tlrFault_outer (s : State) (n b : Nat) (cls : ErrClass) (unit addr info : Nat) : (State.tlrFault s n b cls unit addr info).outer = s.outer := by
  simp [State.tlrFault]

@[simp] theorem State.setTeller_outer (s : State) (n : Nat) (t : Teller) : (State.setTeller s n t).outer = s.outer := by
  rfl

@[simp] theorem State.enqueueRec_outer (s : State) (n i : Nat) : (State.enqueueRec s n i).outer = s.outer := by
  simp [State.enqueueRec]

theorem execTlrEnq_outer (by_ : Writer) (teller : Fin 2) (index : BitVec 16) (s : State) : ∀ t, execTlrEnq by_ teller index s = .next t → t.outer = s.outer := by
  intro t h
  rw [← Host.Outcome.next.inj h]
  simp

@[simp] theorem State.postStatus_outer (s : State) (n layer status : Nat) : (State.postStatus s n layer status).outer = s.outer := by
  simp [State.postStatus]

@[simp] theorem State.readRec_outer (s : State) (n i : Nat) : (State.readRec s n i).2.2.outer = s.outer := by
  simp [State.readRec]

@[simp] theorem State.flushQueue_outer (s : State) (n : Nat) : (State.flushQueue s n).outer = s.outer := by
  unfold State.flushQueue
  dsimp only
  split
  · exact (foldl_outer _ (fun _ _ => by simp) _ _).trans (by simp)
  · simp

theorem execQflush_outer (by_ : Writer) (teller : Fin 2) (s : State) : ∀ t, execQflush by_ teller s = .next t → t.outer = s.outer := by
  intro t h
  rw [← Host.Outcome.next.inj h]
  simp

@[simp] theorem State.beginRec_outer (s : State) (n i layer status : Nat) : (State.beginRec s n i layer status).outer = s.outer := by
  rfl

theorem State.recBad_outer (s : State) (n i : Nat) (r : Rec) (ue : Bool) (a : Nat) : ∀ t, State.recBad s n i r ue a = some t → t.outer = s.outer := by
  intro t h
  unfold State.recBad at h
  try dsimp only at h
  repeat' split at h
  all_goals (first | (cases h; done) | (simp only [Host.Outcome.next.injEq, Option.some.injEq] at h; subst h; (first | with_reducible rfl | (simp; done) | (simp [*]; done) | (refine (foldl_outer _ ?_ _ _).trans ?_ <;> intros <;> (try dsimp only) <;> (repeat' split) <;> (first | with_reducible rfl | (simp; done) | (simp [*]; done) | (refine (foldl_outer _ ?_ _ _).trans ?_ <;> intros <;> (try dsimp only) <;> (repeat' split) <;> (first | with_reducible rfl | (simp; done) | (simp [*]; done))))) | ((first | refine State.issue_outer _ _ _ _ _ _ ?_ | refine State.gate_outer _ _ _ _ _ ?_ | refine State.arrive_outer _ _ _ _ _ ?_ | refine State.arriveData_outer _ _ _ _ _ ?_ | refine State.inTurn_outer _ _ _ _ ?_ | refine State.once_outer _ _ _ ?_) <;> intros <;> (try dsimp only) <;> (repeat' split) <;> (first | with_reducible rfl | (simp; done) | (simp [*]; done) | (refine (foldl_outer _ ?_ _ _).trans ?_ <;> intros <;> (try dsimp only) <;> (repeat' split) <;> (first | with_reducible rfl | (simp; done) | (simp [*]; done))))))))

@[simp] theorem State.readWords_outer (s : State) (a n : Nat) : (State.readWords s a n).2.2.outer = s.outer := by
  simp [State.readWords]

@[simp] theorem State.takeGrad_outer (s : State) (a : Nat) (m0 : Nat) : (State.takeGrad s a m0).2.outer = s.outer := by
  induction m0 generalizing s a <;> simp_all [State.takeGrad]
  done

@[simp] theorem State.readArrays_outer (s : State) (a : Nat) (m0 : List (Nat × Nat)) : (State.readArrays s a m0).2.2.outer = s.outer := by
  induction m0 generalizing s a <;> simp_all [State.readArrays]
  done

@[simp] theorem State.writeWeights_outer (s : State) (n : Nat) (r : Rec) (w : List CodeF) : (State.writeWeights s n r w).outer = s.outer := by
  unfold State.writeWeights
  split <;> simp

@[simp] theorem State.runUpdate_outer (s : State) (n i : Nat) (r : Rec) : (State.runUpdate s n i r).outer = s.outer := by
  simp [State.runUpdate]

theorem State.tellerHead_outer (s : State) (n : Nat) {i : Nat} {r : Rec} {ue : Bool} {t : State}
    (h : s.tellerHead n = some (i, r, ue, t)) : t.outer = s.outer := by
  unfold State.tellerHead at h
  extract_lets x at h
  split at h
  · cases h
  · split at h
    · extract_lets r s1 at h
      simp only [Option.some.injEq, Prod.mk.injEq] at h
      obtain ⟨-, -, -, h⟩ := h
      rw [← h]
      exact State.readRec_outer s n _
    · cases h

theorem execTellerUpdate_outer (teller : Fin 2) (s : State) : ∀ t, execTellerUpdate teller s = .next t → t.outer = s.outer := by
  intro t h
  unfold execTellerUpdate at h
  extract_lets n at h
  split at h
  · rw [← Host.Outcome.next.inj h]
  · rename_i i r ue s1 hh
    have h1 := State.tellerHead_outer s n hh
    split at h
    · rw [← Host.Outcome.next.inj h]
    · split at h
      · rename_i u hu
        rw [← Host.Outcome.next.inj h]; exact (State.recBad_outer _ _ _ _ _ _ _ hu).trans h1
      · rw [← Host.Outcome.next.inj h]
        split
        · rfl
        · exact (State.runUpdate_outer _ _ _ _).trans h1

@[simp] theorem State.groupPeers_outer (s : State) : (State.groupPeers s).2.outer = s.outer := by
  unfold State.groupPeers
  dsimp only
  repeat' split
  all_goals first | rfl | simp

@[simp] theorem State.sendLines_outer (s : State) (transport dst a rec total : Nat) (l : List (Line × Bool)) : (State.sendLines s transport dst a rec total l).outer = s.outer := by
  simp [State.sendLines]

@[simp] theorem State.runContribute_outer (s : State) (n i : Nat) (r : Rec) : (State.runContribute s n i r).outer = s.outer := by
  unfold State.runContribute
  dsimp only
  repeat' split
  all_goals first | rfl | simp

theorem execTellerContribute_outer (teller : Fin 2) (s : State) : ∀ t, execTellerContribute teller s = .next t → t.outer = s.outer := by
  intro t h
  unfold execTellerContribute at h
  extract_lets n at h
  split at h
  · rw [← Host.Outcome.next.inj h]
  · rename_i i r ue s1 hh
    have h1 := State.tellerHead_outer s n hh
    split at h
    · rw [← Host.Outcome.next.inj h]
    · split at h
      · rename_i u hu
        rw [← Host.Outcome.next.inj h]; exact (State.recBad_outer _ _ _ _ _ _ _ hu).trans h1
      · rw [← Host.Outcome.next.inj h]
        split
        · rfl
        · exact (State.runContribute_outer _ _ _ _).trans h1

theorem execTellerFrozen_outer (teller : Fin 2) (s : State) : ∀ t, execTellerFrozen teller s = .next t → t.outer = s.outer := by
  intro t h
  unfold execTellerFrozen at h
  extract_lets n at h
  split at h
  · rw [← Host.Outcome.next.inj h]
  · rename_i i r ue s1 hh
    have h1 := State.tellerHead_outer s n hh
    split at h
    · rw [← Host.Outcome.next.inj h]
    · rw [← Host.Outcome.next.inj h]; simp [h1]

@[simp] theorem State.broadcast_outer (s : State) (i : Nat) (r : Rec) : (State.broadcast s i r).outer = s.outer := by
  simp [State.broadcast]

theorem execRecordComplete_outer (teller : Fin 2) (s : State) : ∀ t, execRecordComplete teller s = .next t → t.outer = s.outer := by
  intro t h
  unfold execRecordComplete at h
  dsimp only at h
  repeat' split at h
  all_goals rw [← Host.Outcome.next.inj h]; try simp

@[simp] theorem State.schCompute_outer (s : State) (n t : Nat) : (State.schCompute s n t).outer = s.outer := by
  simp [State.schCompute]

@[simp] theorem State.schNow_outer (s : State) (n : Nat) : (State.schNow s n).outer = s.outer := by
  unfold State.schNow
  dsimp only
  split <;> simp

@[simp] theorem State.memResume_outer (s : State) : (State.memResume s).outer = s.outer := by
  simp [State.memResume]

theorem execSchCompute_outer (by_ : Writer) (engine : Fin 2) (s : State) : ∀ t, execSchCompute by_ engine s = .next t → t.outer = s.outer := by
  intro t h
  rw [← Host.Outcome.next.inj h]
  simp

theorem execHbmEnable_outer (by_ : Writer) (s : State) : ∀ t, execHbmEnable by_ s = .next t → t.outer = s.outer := by
  intro t h
  rw [← Host.Outcome.next.inj h]
  simp

theorem execHbmEnableMember_outer (by_ : Writer) (member : Fin 3) (s : State) : ∀ t, execHbmEnableMember by_ member s = .next t → t.outer = s.outer := by
  intro t h
  rw [← Host.Outcome.next.inj h]
  simp

end Sys2Proof.Machine
end

