-- ==== Sys2Proof/Laws/OuterLink.lean ====
section
/-! SUPPORT. What the operations of Machine/Link.lean leave of the outer part of a state. -/

set_option linter.unusedTactic false
set_option linter.unnecessarySeqFocus false
set_option linter.unreachableTactic false
set_option linter.unusedSimpArgs false

namespace Sys2Proof.Machine

@[simp] theorem State.vlFault_outer (s : State) (p b : Nat) (cls : ErrClass) (info : Nat) : (State.vlFault s p b cls info).outer = s.outer := by
  simp [State.vlFault]

@[simp] theorem State.sendCap_outer (s : State) (p : Nat) (lanes : List Nat) : (State.sendCap s p lanes).outer = s.outer := by
  rfl

theorem execPortTraining_outer (port : Fin 18) (found : Training) (s : State) : ∀ t, execPortTraining port found s = .next t → t.outer = s.outer := by
  intro t h
  rw [← Host.Outcome.next.inj h]
  simp

@[simp] theorem State.rerouteHead_outer (lost : Nat) (s : State) (f : LinkFlit) : (State.rerouteHead lost s f).outer = s.outer := by
  unfold State.rerouteHead
  dsimp only
  repeat' split
  all_goals first | rfl | simp

@[simp] theorem State.losePort_outer (s : State) (p : Nat) : (State.losePort s p).outer = s.outer := by
  simp [State.losePort]

@[simp] theorem State.retrain_outer (s : State) (p lane : Nat) (spareOk : Bool) : (State.retrain s p lane spareOk).outer = s.outer := by
  simp [State.retrain]

theorem execPortRetrain_outer (port : Fin 18) (lane : Fin 9) (spareOk : Bool) (s : State) : ∀ t, execPortRetrain port lane spareOk s = .next t → t.outer = s.outer := by
  intro t h
  rw [← Host.Outcome.next.inj h]
  simp

theorem execVlRetrain_outer (by_ : Writer) (port : Fin 18) (lane : Fin 9) (spareOk : Bool) (s : State) : ∀ t, execVlRetrain by_ port lane spareOk s = .next t → t.outer = s.outer := by
  intro t h
  rw [← Host.Outcome.next.inj h]
  simp

@[simp] theorem State.applyRoutes_outer (s : State) : (State.applyRoutes s).outer = s.outer := by
  simp [State.applyRoutes]

@[simp] theorem State.vlStart_outer (s : State) (io : Nat) : (State.vlStart s io).outer = s.outer := by
  simp [State.vlStart]

theorem execVlEnable_outer (by_ : Writer) (io : Fin 2) (s : State) : ∀ t, execVlEnable by_ io s = .next t → t.outer = s.outer := by
  intro t h
  rw [← Host.Outcome.next.inj h]
  simp

theorem execVlPerrClr_outer (by_ : Writer) (port : Fin 18) (s : State) : ∀ t, execVlPerrClr by_ port s = .next t → t.outer = s.outer := by
  intro t h
  rw [← Host.Outcome.next.inj h]
  simp

theorem execVlRouteWrite_outer (by_ : Writer) (dest : BitVec 12) (val : Word) (s : State) : ∀ t, execVlRouteWrite by_ dest val s = .next t → t.outer = s.outer := by
  intro t h
  rw [← Host.Outcome.next.inj h]
  exact State.gate_outer _ _ _ _ _ (fun t => by simp)

theorem execFlitTransmit_outer (port : Fin 18) (s : State) : ∀ t, execFlitTransmit port s = .next t → t.outer = s.outer := by
  intro t h
  unfold execFlitTransmit at h
  dsimp only at h
  repeat' split at h
  all_goals rw [← Host.Outcome.next.inj h]; try simp

@[simp] theorem State.fecCorrected_outer (s : State) (p : Nat) (fixed : List Nat) : (State.fecCorrected s p fixed).outer = s.outer := by
  simp [State.fecCorrected]

@[simp] theorem State.laneCheck_outer (s : State) (p : Nat) : (State.laneCheck s p).outer = s.outer := by
  unfold State.laneCheck
  dsimp only
  split <;> simp

@[simp] theorem State.flitIn_outer (s : State) (p h : Nat) (v : Line) : (State.flitIn s p h v).outer = s.outer := by
  simp [State.flitIn]

theorem execFlitReceive_outer (port : Fin 18) (bytes : List Byte) (s : State) : ∀ t, execFlitReceive port bytes s = .next t → t.outer = s.outer := by
  intro t h
  unfold execFlitReceive at h
  try dsimp only at h
  repeat' split at h
  all_goals (first | (cases h; done) | (simp only [Host.Outcome.next.injEq, Option.some.injEq] at h; subst h; (first | with_reducible rfl | (simp; done) | (simp [*]; done) | (refine (foldl_outer _ ?_ _ _).trans ?_ <;> intros <;> (try dsimp only) <;> (repeat' split) <;> (first | with_reducible rfl | (simp; done) | (simp [*]; done) | (refine (foldl_outer _ ?_ _ _).trans ?_ <;> intros <;> (try dsimp only) <;> (repeat' split) <;> (first | with_reducible rfl | (simp; done) | (simp [*]; done))))) | ((first | refine State.issue_outer _ _ _ _ _ _ ?_ | refine State.gate_outer _ _ _ _ _ ?_ | refine State.arrive_outer _ _ _ _ _ ?_ | refine State.arriveData_outer _ _ _ _ _ ?_ | refine State.inTurn_outer _ _ _ _ ?_ | refine State.once_outer _ _ _ ?_) <;> intros <;> (try dsimp only) <;> (repeat' split) <;> (first | with_reducible rfl | (simp; done) | (simp [*]; done) | (refine (foldl_outer _ ?_ _ _).trans ?_ <;> intros <;> (try dsimp only) <;> (repeat' split) <;> (first | with_reducible rfl | (simp; done) | (simp [*]; done))))))))

theorem execNak_outer (port : Fin 18) (seq : BitVec 10) (s : State) : ∀ t, execNak port seq s = .next t → t.outer = s.outer := by
  intro t h
  rw [← Host.Outcome.next.inj h]
  simp

theorem execReplayLimit_outer (port : Fin 18) (retrainOk : Bool) (s : State) : ∀ t, execReplayLimit port retrainOk s = .next t → t.outer = s.outer := by
  intro t h
  rw [← Host.Outcome.next.inj h]
  simp

@[simp] theorem State.unqueue_outer (s : State) (p c : Nat) : (State.unqueue s p c).outer = s.outer := by
  rfl

@[simp] theorem State.owe_outer (s : State) (p : Nat) (m : Msg) : (State.owe s p m).outer = s.outer := by
  rfl

theorem execMessageForward_outer (port : Fin 18) (cls : Fin 4) (s : State) : ∀ t, execMessageForward port cls s = .next t → t.outer = s.outer := by
  intro t h
  unfold execMessageForward at h
  dsimp only at h
  repeat' split at h
  all_goals rw [← Host.Outcome.next.inj h]; try simp

end Sys2Proof.Machine
end

