-- ==== Sys2Proof/Laws/OuterMessages.lean ====
section
/-! SUPPORT. What the operations of Machine/Messages.lean leave of the outer part of a state. -/

set_option linter.unusedTactic false
set_option linter.unnecessarySeqFocus false
set_option linter.unreachableTactic false
set_option linter.unusedSimpArgs false

namespace Sys2Proof.Machine

@[simp] theorem State.once_outer (s : State) (m : Msg) (f : State → State) (hf : ∀ t : State, (f t).outer = t.outer) : (State.once s m f).outer = s.outer := by
  unfold State.once
  try dsimp only
  repeat' split
  all_goals first | with_reducible rfl | (simp; done) | (simp [*]; done) | (refine (foldl_outer _ ?_ _ _).trans ?_ <;> intros <;> (try dsimp only) <;> (repeat' split) <;> simp)

@[simp] theorem State.inTurn_outer (s : State) (p : Nat) (m : Msg) (f : State → State) (hf : ∀ t : State, (f t).outer = t.outer) : (State.inTurn s p m f).outer = s.outer := by
  unfold State.inTurn
  try dsimp only
  repeat' split
  all_goals first | with_reducible rfl | (simp; done) | (simp [*]; done) | (refine (foldl_outer _ ?_ _ _).trans ?_ <;> intros <;> (try dsimp only) <;> (repeat' split) <;> simp)

@[simp] theorem State.arrive_outer (s : State) (p c : Nat) (mine : Msg → Bool) (f : State → Msg → State) (hf : ∀ (t : State) (x : Msg), (f t x).outer = t.outer) : (State.arrive s p c mine f).outer = s.outer := by
  unfold State.arrive
  try dsimp only
  repeat' split
  all_goals first | with_reducible rfl | (simp; done) | (simp [*]; done) | (refine (foldl_outer _ ?_ _ _).trans ?_ <;> intros <;> (try dsimp only) <;> (repeat' split) <;> simp)

theorem execStepFault_outer (port : Fin 18) (s : State) : ∀ t, execStepFault port s = .next t → t.outer = s.outer := by
  intro t h
  rw [← Host.Outcome.next.inj h]
  simp

@[simp] theorem State.sendMember_outer (s : State) (dst op accept level epoch : Nat) : (State.sendMember s dst op accept level epoch).outer = s.outer := by
  simp [State.sendMember]

theorem execJoinReq_outer (port : Fin 18) (s : State) : ∀ t, execJoinReq port s = .next t → t.outer = s.outer := by
  intro t h
  unfold execJoinReq at h
  try dsimp only at h
  repeat' split at h
  all_goals (first | (cases h; done) | (simp only [Host.Outcome.next.injEq, Option.some.injEq] at h; subst h; (first | with_reducible rfl | (simp; done) | (simp [*]; done) | (refine (foldl_outer _ ?_ _ _).trans ?_ <;> intros <;> (try dsimp only) <;> (repeat' split) <;> (first | with_reducible rfl | (simp; done) | (simp [*]; done) | (refine (foldl_outer _ ?_ _ _).trans ?_ <;> intros <;> (try dsimp only) <;> (repeat' split) <;> (first | with_reducible rfl | (simp; done) | (simp [*]; done))))) | ((first | refine State.issue_outer _ _ _ _ _ _ ?_ | refine State.gate_outer _ _ _ _ _ ?_ | refine State.arrive_outer _ _ _ _ _ ?_ | refine State.arriveData_outer _ _ _ _ _ ?_ | refine State.inTurn_outer _ _ _ _ ?_ | refine State.once_outer _ _ _ ?_) <;> intros <;> (try dsimp only) <;> (repeat' split) <;> (first | with_reducible rfl | (simp; done) | (simp [*]; done) | (refine (foldl_outer _ ?_ _ _).trans ?_ <;> intros <;> (try dsimp only) <;> (repeat' split) <;> (first | with_reducible rfl | (simp; done) | (simp [*]; done))))))))

theorem execJoinAck_outer (port : Fin 18) (s : State) : ∀ t, execJoinAck port s = .next t → t.outer = s.outer := by
  intro t h
  rw [← Host.Outcome.next.inj h]
  simp

theorem execReady_outer (port : Fin 18) (s : State) : ∀ t, execReady port s = .next t → t.outer = s.outer := by
  intro t h
  rw [← Host.Outcome.next.inj h]
  exact State.arrive_outer _ _ _ _ _ (fun t m => by simp)

theorem execLeave_outer (port : Fin 18) (s : State) : ∀ t, execLeave port s = .next t → t.outer = s.outer := by
  intro t h
  rw [← Host.Outcome.next.inj h]
  exact State.arrive_outer _ _ _ _ _ (fun t m => by simp)

theorem execMgmt_outer (port : Fin 18) (s : State) : ∀ t, execMgmt port s = .next t → t.outer = s.outer := by
  intro t h
  rw [← Host.Outcome.next.inj h]
  exact State.arrive_outer _ _ _ _ _ (fun t m => by simp)

theorem execSecure_outer (port : Fin 18) (s : State) : ∀ t, execSecure port s = .next t → t.outer = s.outer := by
  intro t h
  rw [← Host.Outcome.next.inj h]
  simp

@[simp] theorem State.lines_outer (s : State) (m : Msg) (f : State → Nat → Line → Bool → State) (hf : ∀ (t : State) (x : Nat) (y : Line) (z : Bool), (f t x y z).outer = t.outer) : (State.lines s m f).outer = s.outer := by
  unfold State.lines
  try dsimp only
  repeat' split
  all_goals first | with_reducible rfl | (simp; done) | (simp [*]; done) | (refine (foldl_outer _ ?_ _ _).trans ?_ <;> intros <;> (try dsimp only) <;> (repeat' split) <;> simp)

@[simp] theorem State.writeLines_outer (s : State) (m : Msg) : (State.writeLines s m).outer = s.outer := by
  simp [State.writeLines]

@[simp] theorem State.countMark_outer (s : State) (p : Nat) (m : Msg) : (State.countMark s p m).outer = s.outer := by
  simp [State.countMark]

@[simp] theorem State.keepStamp_outer (s : State) (x : BitVec 128) : (State.keepStamp s x).outer = s.outer := by
  unfold State.keepStamp
  repeat' split
  all_goals simp

@[simp] theorem State.applyPipe_outer (s : State) (p : Nat) (m : Msg) : (State.applyPipe s p m).outer = s.outer := by
  simp [State.applyPipe]

@[simp] theorem State.applyGrad_outer (s : State) (p : Nat) (m : Msg) : (State.applyGrad s p m).outer = s.outer := by
  simp [State.applyGrad]

@[simp] theorem State.applyBcast_outer (s : State) (p : Nat) (m : Msg) : (State.applyBcast s p m).outer = s.outer := by
  simp [State.applyBcast]

@[simp] theorem State.applyParity_outer (s : State) (m : Msg) : (State.applyParity s m).outer = s.outer := by
  simp [State.applyParity]

@[simp] theorem State.applyPut_outer (s : State) (p : Nat) (m : Msg) : (State.applyPut s p m).outer = s.outer := by
  simp [State.applyPut]

@[simp] theorem State.arriveData_outer (s : State) (p c t : Nat) (f : State → Msg → State) (hf : ∀ (t : State) (x : Msg), (f t x).outer = t.outer) : (State.arriveData s p c t f).outer = s.outer := by
  unfold State.arriveData
  try dsimp only
  repeat' split
  all_goals first | with_reducible rfl | (simp; done) | (simp [*]; done) | (refine (foldl_outer _ ?_ _ _).trans ?_ <;> intros <;> (try dsimp only) <;> (repeat' split) <;> simp)

@[simp] theorem State.sendPipe_outer (s : State) (o : PipeOut) (stamp : BitVec 128) : (State.sendPipe s o stamp).outer = s.outer := by
  simp [State.sendPipe]

theorem execPipe_outer (port : Fin 18) (out : Option PipeOut) (s : State) : ∀ t, execPipe port s out = .next t → t.outer = s.outer := by
  intro t h
  unfold execPipe at h
  repeat' split at h
  all_goals rw [← Host.Outcome.next.inj h]; try simp

theorem execGrad_outer (port : Fin 18) (s : State) : ∀ t, execGrad port s = .next t → t.outer = s.outer := by
  intro t h
  rw [← Host.Outcome.next.inj h]
  simp

theorem execBcast_outer (port : Fin 18) (s : State) : ∀ t, execBcast port s = .next t → t.outer = s.outer := by
  intro t h
  rw [← Host.Outcome.next.inj h]
  simp

theorem execParity_outer (port : Fin 18) (s : State) : ∀ t, execParity port s = .next t → t.outer = s.outer := by
  intro t h
  rw [← Host.Outcome.next.inj h]
  simp

theorem execPut_outer (port : Fin 18) (s : State) : ∀ t, execPut port s = .next t → t.outer = s.outer := by
  intro t h
  rw [← Host.Outcome.next.inj h]
  simp

@[simp] theorem State.applyData_outer (s : State) (p : Nat) (m : Msg) : (State.applyData s p m).outer = s.outer := by
  simp [State.applyData]

theorem execHeldMessageApply_outer (s : State) : ∀ t, execHeldMessageApply s = .next t → t.outer = s.outer := by
  intro t h
  unfold execHeldMessageApply at h
  dsimp only at h
  repeat' split at h
  all_goals rw [← Host.Outcome.next.inj h]; try simp

end Sys2Proof.Machine
end

