-- ==== Sys2Proof/Laws/OuterCoreCtl.lean ====
section
/-! SUPPORT. What the operations of Machine/CoreCtl.lean leave of the outer part of a state. -/

set_option linter.unusedTactic false
set_option linter.unnecessarySeqFocus false
set_option linter.unreachableTactic false
set_option linter.unusedSimpArgs false

namespace Sys2Proof.Machine

@[simp] theorem State.startCore_outer (s : State) (d p : Nat) : (State.startCore s d p).outer = s.outer := by
  simp [State.startCore]

theorem execCoreRunStart_outer (by_ : Writer) (die : Fin 4) (phys : Fin 34) (s : State) : ∀ t, execCoreRunStart by_ die phys s = .next t → t.outer = s.outer := by
  intro t h
  rw [← Host.Outcome.next.inj h]
  simp

@[simp] theorem State.stopCore_outer (s : State) (d p : Nat) : (State.stopCore s d p).outer = s.outer := by
  rfl

theorem execCoreRunStop_outer (by_ : Writer) (die : Fin 4) (phys : Fin 34) (s : State) : ∀ t, execCoreRunStop by_ die phys s = .next t → t.outer = s.outer := by
  intro t h
  rw [← Host.Outcome.next.inj h]
  simp

@[simp] theorem State.whenQuiet_outer (s : State) (by_ : Writer) (d p : Nat) (f : Core → Core) : (State.whenQuiet s by_ d p f).outer = s.outer := by
  simp [State.whenQuiet]

theorem execClearInbox_outer (by_ : Writer) (die : Fin 4) (phys : Fin 34) (s : State) : ∀ t, execClearInbox by_ die phys s = .next t → t.outer = s.outer := by
  intro t h
  rw [← Host.Outcome.next.inj h]
  simp

theorem execClearAcc_outer (by_ : Writer) (die : Fin 4) (phys : Fin 34) (s : State) : ∀ t, execClearAcc by_ die phys s = .next t → t.outer = s.outer := by
  intro t h
  rw [← Host.Outcome.next.inj h]
  simp

theorem execCoreCeClr_outer (by_ : Writer) (die : Fin 4) (phys : Fin 34) (s : State) : ∀ t, execCoreCeClr by_ die phys s = .next t → t.outer = s.outer := by
  intro t h
  rw [← Host.Outcome.next.inj h]
  simp

end Sys2Proof.Machine
end

