-- ==== Sys2Proof/Laws/OuterPosting.lean ====
section
/-! SUPPORT. What the operations of Machine/Posting.lean leave of the outer part of a state. -/

set_option linter.unusedTactic false
set_option linter.unnecessarySeqFocus false
set_option linter.unreachableTactic false
set_option linter.unusedSimpArgs false

namespace Sys2Proof.Machine

theorem execMicrobatchAdmit_outer (s : State) : ∀ t, execMicrobatchAdmit s = .next t → t.outer = s.outer := by
  intro t h
  unfold execMicrobatchAdmit at h
  dsimp only at h
  repeat' split at h
  all_goals rw [← Host.Outcome.next.inj h]; try simp

theorem execLayerRecordEnqueue_outer (record : BitVec 16) (s : State) : ∀ t, execLayerRecordEnqueue record s = .next t → t.outer = s.outer := by
  intro t h
  rw [← Host.Outcome.next.inj h]
  simp

@[simp] theorem State.setPost_outer (s : State) (v : Nat) : (State.setPost s v).outer = s.outer := by
  rfl

theorem execSettle_outer (s : State) : ∀ t, execSettle s = .next t → t.outer = s.outer := by
  intro t h
  rw [← Host.Outcome.next.inj h]
  simp

@[simp] theorem State.beginHandling_outer (s : State) : (State.beginHandling s).outer = s.outer := by
  unfold State.beginHandling
  split <;> simp

@[simp] theorem State.tryDecide_outer (s : State) : (State.tryDecide s).outer = s.outer := by
  simp [State.tryDecide]

theorem execVoteSend_outer (s : State) : ∀ t, execVoteSend s = .next t → t.outer = s.outer := by
  intro t h
  unfold execVoteSend at h
  split at h <;> (rw [← Host.Outcome.next.inj h]; try simp)

theorem execVote_outer (port : Fin 18) (s : State) : ∀ t, execVote port s = .next t → t.outer = s.outer := by
  intro t h
  rw [← Host.Outcome.next.inj h]
  simp

theorem execVoteTimeout_outer (s : State) : ∀ t, execVoteTimeout s = .next t → t.outer = s.outer := by
  intro t h
  rw [← Host.Outcome.next.inj h]
  simp

@[simp] theorem State.lsDecide_outer (s : State) (outcome : Nat) : (State.lsDecide s outcome).outer = s.outer := by
  simp [State.lsDecide]

@[simp] theorem State.formReport_outer (s : State) (outcome step abandoned : Nat) : (State.formReport s outcome step abandoned).outer = s.outer := by
  rfl

@[simp] theorem State.zeroLines_outer (s : State) (a : Nat) (m0 : Nat) : (State.zeroLines s a m0).outer = s.outer := by
  induction m0 generalizing s a <;> simp_all [State.zeroLines]
  done

@[simp] theorem State.snapshotCurrent_outer (s : State) : (State.snapshotCurrent s).outer = s.outer := by
  unfold State.snapshotCurrent
  split <;> simp

@[simp] theorem State.beginSecuring_outer (s : State) (n : Nat) (changed : Bool) : (State.beginSecuring s n changed).outer = s.outer := by
  simp [State.beginSecuring]

@[simp] theorem State.rewriteOwner_outer (s : State) (o : Nat × Nat × Nat) : (State.rewriteOwner s o).outer = s.outer := by
  simp [State.rewriteOwner]

@[simp] theorem State.readMarked_outer (s : State) (a n : Nat) : (State.readMarked s a n).2.outer = s.outer := by
  simp [State.readMarked]

@[simp] theorem State.putAway_outer (s : State) (dst : Nat) (bs : List (Byte × Bool)) : (State.putAway s dst bs).outer = s.outer := by
  simp [State.putAway]

@[simp] theorem State.handOver_outer (s : State) (members : List Nat) : (State.handOver s members).outer = s.outer := by
  unfold State.handOver
  refine (foldl_outer _ (fun t x => ?_) _ _).trans ?_
  · repeat' split
    all_goals simp
  · simp

@[simp] theorem State.applyMembership_outer (s : State) (g : Staged) : (State.applyMembership s g).outer = s.outer := by
  simp [State.applyMembership]

@[simp] theorem State.emptySlot_outer (s : State) (d k : Nat) : (State.emptySlot s d k).outer = s.outer := by
  simp [State.emptySlot]

@[simp] theorem State.replaceBank_outer (s : State) (d : Nat) (b : Nat) : (State.replaceBank s d b).outer = s.outer := by
  unfold State.replaceBank
  dsimp only
  repeat' split
  all_goals first | rfl | simp

@[simp] theorem State.replaceBanks_outer (s : State) : (State.replaceBanks s).outer = s.outer := by
  simp [State.replaceBanks]

@[simp] theorem State.copyLines_outer (s : State) (a b : Nat) (m0 : Nat) : (State.copyLines s a b m0).outer = s.outer := by
  induction m0 generalizing s a b <;> simp_all [State.copyLines]
  done

@[simp] theorem State.copyLayer_outer (s : State) (r : Rec) : (State.copyLayer s r).outer = s.outer := by
  simp [State.copyLayer]

@[simp] theorem State.frozenCopies_outer (s : State) : (State.frozenCopies s).outer = s.outer := by
  simp [State.frozenCopies]

@[simp] theorem State.stopAtDecision_outer (s : State) : (State.stopAtDecision s).outer = s.outer := by
  simp [State.stopAtDecision]

@[simp] theorem State.schPost_outer (s : State) (n : Nat) : (State.schPost s n).outer = s.outer := by
  simp [State.schPost]

@[simp] theorem State.depPosting_outer (s : State) : (State.depPosting s).outer = s.outer := by
  simp [State.depPosting]

theorem execPosting_outer (s : State) : ∀ t, execPosting s = .next t → t.outer = s.outer := by
  intro t h
  unfold execPosting at h
  dsimp only at h
  repeat' split at h
  all_goals rw [← Host.Outcome.next.inj h]; try simp

@[simp] theorem State.stopTeller_outer (s : State) (n : Nat) : (State.stopTeller s n).outer = s.outer := by
  simp [State.stopTeller]

@[simp] theorem State.clearGrads_outer (s : State) (n : Nat) : (State.clearGrads s n).outer = s.outer := by
  simp [State.clearGrads]

@[simp] theorem State.skipBatches_outer (s : State) (n gone : Nat) : (State.skipBatches s n gone).outer = s.outer := by
  simp [State.skipBatches]

@[simp] theorem State.skipMark_outer (s : State) (gone : Nat) : (State.skipMark s gone).outer = s.outer := by
  rfl

@[simp] theorem State.faultLimit_outer (s : State) : (State.faultLimit s).outer = s.outer := by
  simp [State.faultLimit]

theorem execSkip_outer (s : State) : ∀ t, execSkip s = .next t → t.outer = s.outer := by
  intro t h
  unfold execSkip at h
  dsimp only at h
  repeat' split at h
  all_goals rw [← Host.Outcome.next.inj h]; try simp

@[simp] theorem State.reseed_outer (s : State) : (State.reseed s).outer = s.outer := by
  simp [State.reseed]

@[simp] theorem State.clearAllMarks_outer (s : State) : (State.clearAllMarks s).outer = s.outer := by
  rfl

@[simp] theorem State.clearCounters_outer (s : State) (n : Nat) : (State.clearCounters s n).outer = s.outer := by
  rfl

@[simp] theorem State.progFaults_outer (s : State) : (State.progFaults s).outer = s.outer := by
  simp [State.progFaults]

@[simp] theorem State.placeSection_outer (s : State) (d j : Nat) (x : CoreSection) : (State.placeSection s d j x).outer = s.outer := by
  simp [State.placeSection]

@[simp] theorem State.fillCore_outer (s : State) (d j k : Nat) : (State.fillCore s d j k).outer = s.outer := by
  simp [State.fillCore]

@[simp] theorem State.dropCore_outer (s : State) (d j : Nat) : (State.dropCore s d j).outer = s.outer := by
  simp [State.dropCore]

@[simp] theorem State.replaceCore_outer (s : State) (d j : Nat) : (State.replaceCore s d j).outer = s.outer := by
  unfold State.replaceCore
  split <;> simp

@[simp] theorem State.replaceSlow_outer (s : State) : (State.replaceSlow s).outer = s.outer := by
  simp [State.replaceSlow]

@[simp] theorem State.placeSections_outer (s : State) (eval : Bool) (mine : CoreSection → Bool) : (State.placeSections s eval mine).outer = s.outer := by
  unfold State.placeSections
  split <;> simp

@[simp] theorem State.leaveEval_outer (s : State) : (State.leaveEval s).outer = s.outer := by
  simp [State.leaveEval]

theorem execStepEntry_outer (sb : State) : ∀ t, execStepEntry sb = .next t → t.outer = sb.outer := by
  intro t h
  unfold execStepEntry at h
  dsimp only at h
  repeat' split at h
  all_goals rw [← Host.Outcome.next.inj h]; try simp

theorem execEvalSlotBegin_outer (s : State) : ∀ t, execEvalSlotBegin s = .next t → t.outer = s.outer := by
  intro t h
  unfold execEvalSlotBegin at h
  split at h
  · rw [← Host.Outcome.next.inj h]
  · rw [← Host.Outcome.next.inj h]
    refine (foldl_outer _ (fun t i => ?_) _ _).trans ?_
    · split <;> simp
    · simp

theorem execEvalSlotEnd_outer (s : State) : ∀ t, execEvalSlotEnd s = .next t → t.outer = s.outer := by
  intro t h
  unfold execEvalSlotEnd at h
  split at h
  · rw [← Host.Outcome.next.inj h]
  · rw [← Host.Outcome.next.inj h, State.endEval_outer]
    refine (foldl_outer _ (fun t i => ?_) _ _).trans ?_
    · split
      · exact State.setRf_outer _ _ _ _ _
      · rfl
    · split
      · rfl
      · exact State.at_outer _ _

end Sys2Proof.Machine
end

