-- ==== Sys2Proof/Laws/OuterTreasury.lean ====
section
/-! SUPPORT. What the operations of Machine/Treasury.lean leave of the outer part of a state. -/

set_option linter.unusedTactic false
set_option linter.unnecessarySeqFocus false
set_option linter.unreachableTactic false
set_option linter.unusedSimpArgs false

namespace Sys2Proof.Machine

@[simp] theorem State.tsyFault_outer (s : State) (b : Nat) : (State.tsyFault s b).outer = s.outer := by
  simp [State.tsyFault]

@[simp] theorem State.decideOp_outer (s : State) : (State.decideOp s).outer = s.outer := by
  simp [State.decideOp]

@[simp] theorem State.vinFlag_outer (s : State) (b code : Nat) (on : Bool) : (State.vinFlag s b code on).outer = s.outer := by
  simp [State.vinFlag]

@[simp] theorem State.vinHold_outer (s : State) (vin : Nat) : (State.vinHold s vin).outer = s.outer := by
  simp [State.vinHold]

theorem execAllowancePeriod_outer (m : Measurement) (s : State) : ∀ t, execAllowancePeriod m s = .next t → t.outer = s.outer := by
  intro t h
  unfold execAllowancePeriod at h
  split at h <;> (rw [← Host.Outcome.next.inj h]; try simp)

theorem execGrantEffect_outer (s : State) : ∀ t, execGrantEffect s = .next t → t.outer = s.outer := by
  intro t h
  unfold execGrantEffect at h
  split at h <;> (rw [← Host.Outcome.next.inj h]; try simp)

@[simp] theorem State.stretched_outer (s : State) (i : Nat) : (State.stretched s i).outer = s.outer := by
  unfold State.stretched
  try dsimp only
  all_goals repeat' split
  all_goals (first | with_reducible rfl | (simp; done) | (simp [*]; done) | (refine (foldl_outer _ ?_ _ _).trans ?_ <;> intros <;> (try dsimp only) <;> (repeat' split) <;> (first | with_reducible rfl | (simp; done) | (simp [*]; done) | (refine (foldl_outer _ ?_ _ _).trans ?_ <;> intros <;> (try dsimp only) <;> (repeat' split) <;> (first | with_reducible rfl | (simp; done) | (simp [*]; done))))) | ((first | refine State.issue_outer _ _ _ _ _ _ ?_ | refine State.gate_outer _ _ _ _ _ ?_ | refine State.arrive_outer _ _ _ _ _ ?_ | refine State.arriveData_outer _ _ _ _ _ ?_ | refine State.inTurn_outer _ _ _ _ ?_ | refine State.once_outer _ _ _ ?_) <;> intros <;> (try dsimp only) <;> (repeat' split) <;> (first | with_reducible rfl | (simp; done) | (simp [*]; done) | (refine (foldl_outer _ ?_ _ _).trans ?_ <;> intros <;> (try dsimp only) <;> (repeat' split) <;> (first | with_reducible rfl | (simp; done) | (simp [*]; done))))))

@[simp] theorem State.swallow_outer (s : State) (i n : Nat) (own : Bool) : (State.swallow s i n own).outer = s.outer := by
  unfold State.swallow
  repeat' split
  all_goals simp

@[simp] theorem State.swallowRegion_outer (s : State) (r n : Nat) : (State.swallowRegion s r n).outer = s.outer := by
  simp [State.swallowRegion]

theorem execThrottleSwallow_outer (region : Fin 64) (s : State) : ∀ t, execThrottleSwallow region s = .next t → t.outer = s.outer := by
  intro t h
  unfold execThrottleSwallow at h
  dsimp only at h
  repeat' split at h
  all_goals rw [← Host.Outcome.next.inj h]; try simp

theorem execHardCap_outer (region : Fin 64) (edges : Nat) (s : State) : ∀ t, execHardCap region edges s = .next t → t.outer = s.outer := by
  intro t h
  unfold execHardCap at h
  dsimp only at h
  repeat' split at h
  all_goals rw [← Host.Outcome.next.inj h]; try simp

theorem execTsyRcfgWrite_outer (by_ : Writer) (region : Fin 64) (val : Word) (s : State) : ∀ t, execTsyRcfgWrite by_ region val s = .next t → t.outer = s.outer := by
  intro t h
  rw [← Host.Outcome.next.inj h]
  simp

theorem execOpChangePrepare_outer (locked : BitVec 10) (s : State) : ∀ t, execOpChangePrepare locked s = .next t → t.outer = s.outer := by
  intro t h
  unfold execOpChangePrepare at h
  repeat' split at h
  all_goals rw [← Host.Outcome.next.inj h]; try simp

theorem execChange_outer (s : State) : ∀ t, execChange s = .next t → t.outer = s.outer := by
  intro t h
  unfold execChange at h
  split at h <;> (rw [← Host.Outcome.next.inj h]; try simp)

theorem execChangeAck_outer (die : Fin 10) (s : State) : ∀ t, execChangeAck die s = .next t → t.outer = s.outer := by
  intro t h
  unfold execChangeAck at h
  split at h <;> (rw [← Host.Outcome.next.inj h]; try simp)

theorem execCancel_outer (s : State) : ∀ t, execCancel s = .next t → t.outer = s.outer := by
  intro t h
  unfold execCancel at h
  split at h
  · rw [← Host.Outcome.next.inj h, State.tsyFault_outer]
    exact (outer_update ..).trans (State.at_outer _ _)
  · rw [← Host.Outcome.next.inj h]

@[simp] theorem State.swallowDeferred_outer (s : State) : (State.swallowDeferred s).outer = s.outer := by
  simp [State.swallowDeferred]

@[simp] theorem State.opSettle_outer (s : State) : (State.opSettle s).outer = s.outer := by
  simp [State.opSettle]

theorem execOpChangeSwitch_outer (domain : Fin 231) (s : State) : ∀ t, execOpChangeSwitch domain s = .next t → t.outer = s.outer := by
  intro t h
  unfold execOpChangeSwitch at h
  dsimp only at h
  repeat' split at h
  all_goals rw [← Host.Outcome.next.inj h]; try simp

theorem execStretchToken_outer (sender : Fin 231) (receiver : Fin 231) (s : State) : ∀ t, execStretchToken sender receiver s = .next t → t.outer = s.outer := by
  intro t h
  unfold execStretchToken at h
  split at h <;> (rw [← Host.Outcome.next.inj h]; try simp)

theorem execDroopSwallow_outer (domain : Fin 231) (edges : Fin 5) (s : State) : ∀ t, execDroopSwallow domain edges s = .next t → t.outer = s.outer := by
  intro t h
  unfold execDroopSwallow at h
  split at h <;> (rw [← Host.Outcome.next.inj h]; try simp)

theorem execCrossingWaitSwallow_outer (reader : Fin 231) (writer : Fin 231) (s : State) : ∀ t, execCrossingWaitSwallow reader writer s = .next t → t.outer = s.outer := by
  intro t h
  unfold execCrossingWaitSwallow at h
  split at h <;> (rw [← Host.Outcome.next.inj h]; try simp)

theorem execSkewHold_outer (a : Fin 231) (b : Fin 231) (s : State) : ∀ t, execSkewHold a b s = .next t → t.outer = s.outer := by
  intro t h
  unfold execSkewHold at h
  dsimp only at h
  repeat' split at h
  all_goals rw [← Host.Outcome.next.inj h]; try simp

theorem execClkSkewClr_outer (by_ : Writer) (s : State) : ∀ t, execClkSkewClr by_ s = .next t → t.outer = s.outer := by
  intro t h
  rw [← Host.Outcome.next.inj h]
  simp

theorem execDomainSleep_outer (domain : Fin 231) (s : State) : ∀ t, execDomainSleep domain s = .next t → t.outer = s.outer := by
  intro t h
  unfold execDomainSleep at h
  dsimp only at h
  repeat' split at h
  all_goals rw [← Host.Outcome.next.inj h]; try simp

theorem execDomainWake_outer (domain : Fin 231) (s : State) : ∀ t, execDomainWake domain s = .next t → t.outer = s.outer := by
  intro t h
  unfold execDomainWake at h
  dsimp only at h
  repeat' split at h
  all_goals rw [← Host.Outcome.next.inj h]; try simp

end Sys2Proof.Machine
end

