-- ==== Sys2Proof/Laws/OuterRecovery.lean ====
section
/-! SUPPORT. What the operations of Machine/Recovery.lean leave of the outer part of a state. -/

set_option linter.unusedTactic false
set_option linter.unnecessarySeqFocus false
set_option linter.unreachableTactic false
set_option linter.unusedSimpArgs false

namespace Sys2Proof.Machine

theorem execQueuedErrorRun_outer (s : State) : ∀ t, execQueuedErrorRun s = .next t → t.outer = s.outer := by
  intro t h
  unfold execQueuedErrorRun at h
  repeat' split at h
  all_goals rw [← Host.Outcome.next.inj h]; try simp

@[simp] theorem State.depCloseAll_outer (s : State) : (State.depCloseAll s).outer = s.outer := by
  simp [State.depCloseAll]

@[simp] theorem State.quiesce_outer (s : State) : (State.quiesce s).outer = s.outer := by
  simp [State.quiesce]

@[simp] theorem State.recoverOn_outer (s : State) : (State.recoverOn s).outer = s.outer := by
  rfl

@[simp] theorem State.retrainStack_outer (s : State) (k : Nat) (bad : Bool) : (State.retrainStack s k bad).outer = s.outer := by
  simp [State.retrainStack]

@[simp] theorem State.repairRow_outer (s : State) (d channel row : Nat) (spent : Bool) : (State.repairRow s d channel row spent).outer = s.outer := by
  unfold State.repairRow
  repeat' split
  all_goals first | rfl | simp

@[simp] theorem State.repairMemory_outer (s : State) (f : RecoveryFinds) : (State.repairMemory s f).outer = s.outer := by
  simp [State.repairMemory]

theorem execRestoreRecovery_outer (finds : RecoveryFinds) (s : State) : ∀ t, execRestoreRecovery s finds = .next t → t.outer = s.outer := by
  intro t h
  unfold execRestoreRecovery at h
  repeat' split at h
  all_goals rw [← Host.Outcome.next.inj h]; try simp

theorem execJnlPop_outer (by_ : Writer) (n : BitVec 13) (s : State) : ∀ t, execJnlPop by_ n s = .next t → t.outer = s.outer := by
  intro t h
  rw [← Host.Outcome.next.inj h]
  exact State.gate_outer _ _ _ _ _ (fun t => by simp)

theorem execDumpRelease_outer (by_ : Writer) (s : State) : ∀ t, execDumpRelease by_ s = .next t → t.outer = s.outer := by
  intro t h
  rw [← Host.Outcome.next.inj h]
  exact State.gate_outer _ _ _ _ _ (fun t => by simp)

@[simp] theorem State.markBanks_outer (s : State) (banks : List Nat) : (State.markBanks s banks).outer = s.outer := by
  simp [State.markBanks]

@[simp] theorem State.secureNow_outer (s : State) : (State.secureNow s).outer = s.outer := by
  simp [State.secureNow]

@[simp] theorem State.ofArmed_outer (s : State) (b : Bool) : (State.ofArmed s b).outer = s.outer := by
  rfl

@[simp] theorem State.publish_outer (s : State) (x : Nat × Nat × Nat × Nat × Nat) : (State.publish s x).outer = s.outer := by
  simp [State.publish]

@[simp] theorem State.unitLost_outer (s : State) (u : LostUnit) : (State.unitLost s u).outer = s.outer := by
  unfold State.unitLost
  split <;> simp

theorem execSlowUnitFlag_outer (domain : Fin 231) (swallows : Nat) (s : State) : ∀ t, execSlowUnitFlag domain swallows s = .next t → t.outer = s.outer := by
  intro t h
  unfold execSlowUnitFlag at h
  dsimp only at h
  repeat' split at h
  all_goals rw [← Host.Outcome.next.inj h]; try simp

@[simp] theorem State.imageLine_outer (s : State) (t : Nat) : (State.imageLine s t).2.2.outer = s.outer := by
  unfold State.imageLine
  split <;> simp

@[simp] theorem State.takeBases_outer (s : State) : (State.takeBases s).outer = s.outer := by
  simp [State.takeBases]

@[simp] theorem State.secureLine_outer (s : State) (t : Nat) : (State.secureLine s t).outer = s.outer := by
  simp [State.secureLine]

@[simp] theorem State.secureLines_outer (s : State) (m0 : Nat) : (State.secureLines s m0).outer = s.outer := by
  induction m0 generalizing s <;> simp_all [State.secureLines]
  done

@[simp] theorem State.secureDigest_outer (s : State) (m : Nat) : (State.secureDigest s m).outer = s.outer := by
  simp [State.secureDigest]

theorem execSecuringRead_outer (lines : Nat) (s : State) : ∀ t, execSecuringRead lines s = .next t → t.outer = s.outer := by
  intro t h
  unfold execSecuringRead at h
  repeat' split at h
  all_goals rw [← Host.Outcome.next.inj h]; try simp

end Sys2Proof.Machine
end

