-- ==== Sys2Proof/Laws/OuterAccess.lean ====
section
/-! SUPPORT. What the operations of Machine/Access.lean leave of the outer part of a state. -/

set_option linter.unusedTactic false
set_option linter.unnecessarySeqFocus false
set_option linter.unreachableTactic false
set_option linter.unusedSimpArgs false

namespace Sys2Proof.Machine

@[simp] theorem State.writeFields_outer (s : State) (by_ : Writer) (off : Nat) (val : Word) (fs : List Fld) : (State.writeFields s by_ off val fs).outer = s.outer := by
  unfold State.writeFields
  refine (foldl_outer _ (fun t x => ?_) _ _).trans ?_
  · repeat' split
    all_goals simp
  · simp

@[simp] theorem State.portOff_outer (s : State) (p : Nat) : (State.portOff s p).outer = s.outer := by
  rfl

@[simp] theorem State.afterWrite_outer (s t : State) (by_ : Writer) (off : Nat) (val : Word) : (State.afterWrite s t by_ off val).outer = t.outer := by
  unfold State.afterWrite
  extract_lets o b cleared
  repeat' split
  all_goals (first | with_reducible rfl | (simp; done))

@[simp] theorem State.unmapped_outer (s : State) (off : Nat) : (State.unmapped s off).outer = s.outer := by
  simp [State.unmapped]

@[simp] theorem State.regWrite_outer (s : State) (by_ : Writer) (off : Nat) (val : Word) (fs : List Fld) : (State.regWrite s by_ off val fs).outer = s.outer := by
  unfold State.regWrite
  split
  · rfl
  · extract_lets t
    have ht : t.outer = s.outer := (State.afterWrite_outer _ _ _ _ _).trans (State.writeFields_outer _ _ _ _ _)
    split
    · exact (State.ignored_outer _ _).trans ht
    · exact ht

end Sys2Proof.Machine
end

