-- ==== Sys2Proof/Laws/OuterTally.lean ====
section
/-! SUPPORT. What the operations of Machine/Tally.lean leave of the outer part of a state. -/

set_option linter.unusedTactic false
set_option linter.unnecessarySeqFocus false
set_option linter.unreachableTactic false
set_option linter.unusedSimpArgs false

namespace Sys2Proof.Machine

theorem execTallyWindowClose_outer (s : State) : ∀ t, execTallyWindowClose s = .next t → t.outer = s.outer := by
  intro t h
  unfold execTallyWindowClose at h
  split at h <;> (rw [← Host.Outcome.next.inj h]; try simp)

theorem execTlyClr_outer (by_ : Writer) (block : Fin 10) (s : State) : ∀ t, execTlyClr by_ block s = .next t → t.outer = s.outer := by
  intro t h
  rw [← Host.Outcome.next.inj h]
  exact State.gate_outer _ _ _ _ _ (fun t => by simp)

theorem execTlyFreeze_outer (by_ : Writer) (freeze : Bool) (s : State) : ∀ t, execTlyFreeze by_ freeze s = .next t → t.outer = s.outer := by
  intro t h
  rw [← Host.Outcome.next.inj h]
  simp

theorem execTlyWinCfgWrite_outer (by_ : Writer) (val : Word) (s : State) : ∀ t, execTlyWinCfgWrite by_ val s = .next t → t.outer = s.outer := by
  intro t h
  rw [← Host.Outcome.next.inj h]
  simp

theorem execCounterWrap_outer (block : Fin 10) (k : Fin 16) (s : State) : ∀ t, execCounterWrap block k s = .next t → t.outer = s.outer := by
  intro t h
  unfold execCounterWrap at h
  split at h <;> (rw [← Host.Outcome.next.inj h]; try simp)

end Sys2Proof.Machine
end

