-- ==== Sys2Proof/Laws/OuterPower.lean ====
section
/-! SUPPORT. What the operations of Machine/Power.lean leave of the outer part of a state. -/

set_option linter.unusedTactic false
set_option linter.unnecessarySeqFocus false
set_option linter.unreachableTactic false
set_option linter.unusedSimpArgs false

namespace Sys2Proof.Machine

@[simp] theorem State.freeLines_outer (s : State) (a : Nat) (m0 : Nat) : (State.freeLines s a m0).outer = s.outer := by
  induction m0 generalizing s a <;> simp_all [State.freeLines]
  done

@[simp] theorem State.dumpSection_outer (src : State) (reachable : Nat) (s : State) (id : Nat) : (State.dumpSection src reachable s id).outer = s.outer := by
  unfold State.dumpSection
  repeat' split
  all_goals simp

@[simp] theorem State.furtherFatal_outer (s : State) : (State.furtherFatal s).outer = s.outer := by
  simp [State.furtherFatal]

@[simp] theorem State.stopDies_outer (s : State) : (State.stopDies s).outer = s.outer := by
  simp [State.stopDies]

@[simp] theorem State.writeDump_outer (s : State) (reachable : Nat) (cut : Option (Fin 11)) (cause : Nat × Nat) : (State.writeDump s reachable cut cause).outer = s.outer := by
  unfold State.writeDump
  split <;> simp

@[simp] theorem State.laterDump_outer (s : State) (cause : Nat × Nat) : (State.laterDump s cause).outer = s.outer := by
  simp [State.laterDump]

theorem execFatalDump_outer (reachable : BitVec 11) (cut : Option (Fin 11)) (s : State) : ∀ t, execFatalDump reachable s cut = .next t → t.outer = s.outer := by
  intro t h
  unfold execFatalDump at h
  split at h
  · rw [← Host.Outcome.next.inj h]
  · split at h
    · rw [← Host.Outcome.next.inj h]
    · rw [← Host.Outcome.next.inj h]
      refine (outer_update ..).trans ?_
      have h1 (m : Nat) : ((s.sendAll 2 s.tlrStep m).stopDies).outer = s.outer := by simp
      split
      · exact (outer_update ..).trans (h1 _)
      · split
        · rw [State.laterDump_outer, h1]
        · rw [State.writeDump_outer, h1]

@[simp] theorem State.applyConfig_outer (s : State) (e : Nat × Nat) : (State.applyConfig s e).outer = s.outer := by
  unfold State.applyConfig
  repeat' split
  all_goals simp

@[simp] theorem State.bootMemory_outer (s : State) (f : BootFinds) : (State.bootMemory s f).outer = s.outer := by
  simp [State.bootMemory]

@[simp] theorem State.bootCores_outer (s : State) : (State.bootCores s).outer = s.outer := by
  simp [State.bootCores]

end Sys2Proof.Machine
end

