-- ==== Sys2Proof/Laws/OuterImage.lean ====
section
/-! SUPPORT. What the operations of Machine/Image.lean leave of the outer part of a state. -/

set_option linter.unusedTactic false
set_option linter.unnecessarySeqFocus false
set_option linter.unreachableTactic false
set_option linter.unusedSimpArgs false

namespace Sys2Proof.Machine

@[simp] theorem State.vaultStop_outer (s : State) (d : Nat) : (State.vaultStop s d).outer = s.outer := by
  simp [State.vaultStop]

@[simp] theorem State.setAddr_outer (s : State) (lo a align : Nat) : (State.setAddr s lo a align).outer = s.outer := by
  rfl

@[simp] theorem State.loadMemory_outer (s : State) (x : Image) : (State.loadMemory s x).outer = s.outer := by
  simp [State.loadMemory]

@[simp] theorem State.loadData_outer (s : State) (x : Image) : (State.loadData s x).outer = s.outer := by
  simp [State.loadData]

@[simp] theorem State.loadTables_outer (s : State) (x : Image) : (State.loadTables s x).outer = s.outer := by
  simp [State.loadTables]

@[simp] theorem State.loadRings_outer (s : State) (x : Image) : (State.loadRings s x).outer = s.outer := by
  simp [State.loadRings]

@[simp] theorem State.startTellers_outer (s : State) : (State.startTellers s).outer = s.outer := by
  simp [State.startTellers]

@[simp] theorem State.loadLink_outer (s : State) : (State.loadLink s).outer = s.outer := by
  simp [State.loadLink]

@[simp] theorem State.placeImage_outer (s : State) (x : Image) : (State.placeImage s x).outer = s.outer := by
  simp [State.placeImage]

@[simp] theorem State.placeRecovery_outer (s : State) (x : Image) : (State.placeRecovery s x).outer = s.outer := by
  simp [State.placeRecovery]

end Sys2Proof.Machine
end

