-- ==== Sys2Proof/Laws/OuterMailbox.lean ====
section
/-! SUPPORT. What the operations of Machine/Mailbox.lean leave of the outer part of a state. -/

set_option linter.unusedTactic false
set_option linter.unnecessarySeqFocus false
set_option linter.unreachableTactic false
set_option linter.unusedSimpArgs false

namespace Sys2Proof.Machine

theorem execMbxReqTailWrite_outer (by_ : Writer) (tail : BitVec 16) (s : State) : ∀ t, execMbxReqTailWrite by_ tail s = .next t → t.outer = s.outer := by
  intro t h
  rw [← Host.Outcome.next.inj h]
  simp

theorem execMbxRplHeadWrite_outer (by_ : Writer) (head : BitVec 16) (s : State) : ∀ t, execMbxRplHeadWrite by_ head s = .next t → t.outer = s.outer := by
  intro t h
  rw [← Host.Outcome.next.inj h]
  simp

@[simp] theorem State.putSlot_outer (s : State) (off : Nat) (m0 : Nat) (m1 : Nat) : (State.putSlot s off m0 m1).outer = s.outer := by
  induction m0 generalizing s off m1 with
  | zero => rfl
  | succ n ih =>
    unfold State.putSlot
    rw [ih]; exact State.setReg_outer _ _ _

@[simp] theorem State.answerWith_outer (s : State) (w : Nat) (r : Reply) : (State.answerWith s w r).outer = s.outer := by
  simp [State.answerWith]

@[simp] theorem State.notPermitted_outer (s : State) : (State.notPermitted s).1.outer = s.outer := by
  rfl

@[simp] theorem State.dma_outer (s : State) (n : Nat) : (State.dma s n).outer = s.outer := State.count_outer s _ _ _ _

theorem execBadFrame_outer (s : State) : ∀ t, execBadFrame s = .next t → t.outer = s.outer := by
  intro t h
  unfold execBadFrame at h
  repeat' split at h
  all_goals rw [← Host.Outcome.next.inj h]; try simp

@[simp] theorem State.requestStop_outer (s : State) : (State.requestStop s).outer = s.outer := by
  simp [State.requestStop]

@[simp] theorem State.accept_outer (s : State) (w : Nat) (hostFault : Option (BitVec 32)) (result detail : Nat) : (State.accept s w hostFault result detail).1.outer = s.outer := by
  have h : (State.accept s w hostFault result detail).1.outer =
      (if hostFault.isNone then s.dma (readsBuffer w) else s).outer := rfl
  rw [h]
  split
  · exact State.dma_outer s _
  · rfl

end Sys2Proof.Machine
end

