-- ==== Sys2Proof/Laws/OuterRestore.lean ====
section
/-! SUPPORT. What the operations of Machine/Restore.lean leave of the outer part of a state. -/

set_option linter.unusedTactic false
set_option linter.unnecessarySeqFocus false
set_option linter.unreachableTactic false
set_option linter.unusedSimpArgs false

namespace Sys2Proof.Machine

@[simp] theorem State.readShard_outer (s : State) (x : Shard) (job : Nat) : (State.readShard s x job).2.outer = s.outer := by
  unfold State.readShard
  refine pair_outer ?_
  generalize x.parts = l
  suffices h : ∀ (l : List (Nat × Nat)) (a : List (Byte × Bool) × State), (l.foldl (fun (a : List (Byte × Bool) × State) p =>
      let y := a.2.readMarked p.1 p.2
      (a.1 ++ y.1, y.2)) a).2.outer = a.2.outer from h l ([], s)
  intro l
  induction l with
  | nil => intro a; rfl
  | cons p l ih => intro a; rw [List.foldl_cons, ih]; simp

@[simp] theorem State.writeParts_outer (s : State) (bs : List Byte) (m0 : List (Nat × Nat)) : (State.writeParts s bs m0).outer = s.outer := by
  induction m0 generalizing s bs <;> simp_all [State.writeParts]
  done

@[simp] theorem State.rewind_outer (s : State) (m : Nat) (ls : Word) : (State.rewind s m ls).outer = s.outer := by
  simp [State.rewind]

@[simp] theorem State.joinReady_outer (s : State) : (State.joinReady s).outer = s.outer := by
  unfold State.joinReady
  split <;> simp

@[simp] theorem State.rebuildFails_outer (s : State) (audit : Bool) : (State.rebuildFails s audit).1.outer = s.outer := by
  simp [State.rebuildFails]

@[simp] theorem State.writeImage_outer (s : State) (lines : List Line) : (State.writeImage s lines).outer = s.outer := by
  unfold State.writeImage
  refine (foldl_outer _ (fun t x => ?_) _ _).trans ?_
  · repeat' split
    all_goals simp
  · simp

@[simp] theorem State.sendHeld_outer (s : State) (lines : List (Line × Bool)) (dst j : Nat) : (State.sendHeld s lines dst j).outer = s.outer := by
  simp [State.sendHeld]

@[simp] theorem State.ledgerSurvivor_outer (s : State) (m : Nat) (pairs : List (Nat × Nat)) : (State.ledgerSurvivor s m pairs).1.outer = s.outer := by
  unfold State.ledgerSurvivor
  dsimp only
  repeat' split
  all_goals first | rfl | simp

@[simp] theorem State.ledgerReplacement_outer (s : State) (m : Nat) (pairs : List (Nat × Nat)) : (State.ledgerReplacement s m pairs).1.outer = s.outer := by
  unfold State.ledgerReplacement
  dsimp only
  repeat' split
  all_goals first | rfl | simp

@[simp] theorem State.ledgerRestore_outer (s : State) (w : Nat) : (State.ledgerRestore s w).1.outer = s.outer := by
  unfold State.ledgerRestore
  dsimp only
  repeat' split
  all_goals first | rfl | simp

@[simp] theorem State.restartModule_outer (s : State) : (State.restartModule s).outer = s.outer := by
  simp [State.restartModule]

@[simp] theorem State.finishOp_outer (s : State) (id result detail : Nat) : (State.finishOp s id result detail).outer = s.outer := by
  rfl

theorem execHeartbeatGraceExpiry_outer (s : State) : ∀ t, execHeartbeatGraceExpiry s = .next t → t.outer = s.outer := by
  intro t h
  unfold execHeartbeatGraceExpiry at h
  split at h <;> (rw [← Host.Outcome.next.inj h]; try simp)

end Sys2Proof.Machine
end

