-- ==== Sys2Proof/Laws/Tab.lean ====
section
/-! SUPPORT. Sparse tables and memories: what a read gives after a write, and that every operation keeps the canonical form. -/

namespace Sys2Proof.Machine

variable {α : Type}

/-- Keys strictly rising. -/
abbrev Tab.Sorted (t : Tab α) : Prop := t.Pairwise (fun a b => a.1 < b.1)

@[simp] theorem Tab.find?_nil (i : Nat) : Tab.find? ([] : Tab α) i = none := rfl

@[simp] theorem Tab.read_nil (d : α) (i : Nat) : Tab.read d [] i = d := rfl

/-- Looking up the key that was put finds its value. -/
@[simp] theorem Tab.find?_put_same (t : Tab α) (i : Nat) (v : α) : Tab.find? (Tab.put t i v) i = some v := by
  induction t with
  | nil => simp [Tab.put, Tab.find?]
  | cons p t ih =>
    obtain ⟨k, w⟩ := p
    simp only [Tab.put]
    split
    · simp [Tab.find?]
    · split
      · simp [Tab.find?]
      · rename_i h1 h2; simp [Tab.find?, h2, ih]

/-- Putting at one key leaves the look-up of every other. -/
theorem Tab.find?_put_other (t : Tab α) {i j : Nat} (v : α) (h : j ≠ i) : Tab.find? (Tab.put t i v) j = Tab.find? t j := by
  induction t with
  | nil => simp [Tab.put, Tab.find?, h]
  | cons p t ih =>
    obtain ⟨k, w⟩ := p
    simp only [Tab.put]
    split
    · simp [Tab.find?, h]
    · split
      · rename_i h1 h2; subst h2; simp [Tab.find?, h]
      · simp [Tab.find?, ih]

/-- An unlisted key is not found. -/
@[simp] theorem Tab.find?_del_same (t : Tab α) (i : Nat) : Tab.find? (Tab.del t i) i = none := by
  induction t with
  | nil => rfl
  | cons p t ih =>
    obtain ⟨k, w⟩ := p
    by_cases hk : k = i
    · simpa [Tab.del, hk] using ih
    · have : i ≠ k := fun h => hk h.symm
      simpa [Tab.del, hk, Tab.find?, this] using ih

/-- Unlisting one key leaves the look-up of every other. -/
theorem Tab.find?_del_other (t : Tab α) {i j : Nat} (h : j ≠ i) : Tab.find? (Tab.del t i) j = Tab.find? t j := by
  induction t with
  | nil => rfl
  | cons p t ih =>
    obtain ⟨k, w⟩ := p
    by_cases hk : k = i
    · subst hk; simpa [Tab.del, Tab.find?, h] using ih
    · by_cases hj : j = k
      · simp [Tab.del, hk, Tab.find?, hj]
      · simpa [Tab.del, hk, Tab.find?, hj] using ih

/-- A read of what was just written gives it. -/
@[simp] theorem Tab.read_write_same [DecidableEq α] (d : α) (t : Tab α) (i : Nat) (v : α) : Tab.read d (Tab.write d t i v) i = v := by
  unfold Tab.write Tab.read
  split
  · rename_i h; simp [h]
  · simp

/-- A write leaves every other key. -/
theorem Tab.read_write_other [DecidableEq α] (d e : α) (t : Tab α) {i j : Nat} (v : α) (h : j ≠ i) :
    Tab.read e (Tab.write d t i v) j = Tab.read e t j := by
  unfold Tab.write Tab.read
  split
  · rw [Tab.find?_del_other t h]
  · rw [Tab.find?_put_other t v h]

/-- What a read gives after a write, at any key. -/
theorem Tab.read_write [DecidableEq α] (d : α) (t : Tab α) (i j : Nat) (v : α) :
    Tab.read d (Tab.write d t i v) j = if j = i then v else Tab.read d t j := by
  split
  · rename_i h; subst h; simp
  · rename_i h; exact Tab.read_write_other d d t v h

/-- Every pair of a table after a put is the new one or an old one. -/
theorem Tab.mem_put {t : Tab α} {i : Nat} {v : α} {p : Nat × α} (h : p ∈ Tab.put t i v) : p = (i, v) ∨ p ∈ t := by
  induction t with
  | nil => simp [Tab.put] at h; exact .inl h
  | cons q t ih =>
    obtain ⟨k, w⟩ := q
    simp only [Tab.put] at h
    split at h
    · rcases List.mem_cons.mp h with h | h
      · exact .inl h
      · exact .inr h
    · split at h
      · rcases List.mem_cons.mp h with h | h
        · exact .inl h
        · exact .inr (List.mem_cons_of_mem _ h)
      · rcases List.mem_cons.mp h with h | h
        · exact .inr (h ▸ List.mem_cons_self)
        · exact (ih h).imp id (List.mem_cons_of_mem _)

/-- Putting keeps the keys rising. -/
theorem Tab.sorted_put {t : Tab α} (i : Nat) (v : α) (h : Tab.Sorted t) : Tab.Sorted (Tab.put t i v) := by
  induction t with
  | nil => simp [Tab.put]
  | cons q t ih =>
    obtain ⟨k, w⟩ := q
    have hs := List.pairwise_cons.mp h
    simp only [Tab.put]
    split
    · rename_i hlt
      refine List.pairwise_cons.mpr ⟨fun b hb => ?_, h⟩
      rcases List.mem_cons.mp hb with rfl | hb
      · exact hlt
      · exact Nat.lt_trans hlt (hs.1 b hb)
    · split
      · rename_i heq; subst heq
        exact List.pairwise_cons.mpr ⟨fun b hb => hs.1 b hb, hs.2⟩
      · rename_i h1 h2
        refine List.pairwise_cons.mpr ⟨fun b hb => ?_, ih hs.2⟩
        rcases Tab.mem_put hb with rfl | hb
        · show k < i; omega
        · exact hs.1 b hb

/-- A write keeps the canonical form. -/
theorem Tab.wf_write [DecidableEq α] {d : α} {t : Tab α} (i : Nat) (v : α) (h : Tab.wf d t) : Tab.wf d (Tab.write d t i v) := by
  unfold Tab.write
  split
  · exact ⟨h.1.filter _, fun p hp => h.2 p (List.mem_filter.mp hp).1⟩
  · rename_i hv
    refine ⟨Tab.sorted_put i v h.1, fun p hp => ?_⟩
    rcases Tab.mem_put hp with rfl | hp
    · exact hv
    · exact h.2 p hp

theorem Tab.wf_nil [DecidableEq α] (d : α) : Tab.wf d ([] : Tab α) := ⟨List.Pairwise.nil, by simp⟩

/-! ### Memories of bytes -/

/-- A byte reads as what was written to it last. -/
@[simp] theorem Mem.byte_setByte_same (m : Mem) (a : Nat) (b : Byte) : Mem.byte (Mem.setByte m a b) a = b :=
  Tab.read_write_same _ m a b

/-- A byte write leaves every other byte. -/
theorem Mem.byte_setByte_other (m : Mem) {a c : Nat} (b : Byte) (h : c ≠ a) : Mem.byte (Mem.setByte m a b) c = Mem.byte m c :=
  Tab.read_write_other _ _ m b h

theorem Memory.wf_setByte {m : Mem} (a : Nat) (b : Byte) (h : Memory.wf m) : Memory.wf (Mem.setByte m a b) := Tab.wf_write a b h

theorem Memory.wf_setNum {m : Mem} (a n v : Nat) (h : Memory.wf m) : Memory.wf (Mem.setNum m a n v) := by
  induction n generalizing m a v with
  | zero => exact h
  | succ n ih => exact ih (a + 1) (v / 256) (Memory.wf_setByte a _ h)

theorem Memory.wf_setLine {m : Mem} (a : Nat) (v : Line) (h : Memory.wf m) : Memory.wf (Mem.setLine m a v) :=
  Memory.wf_setNum a 256 v.toNat h

theorem Memory.wf_setBytes {m : Mem} (a : Nat) (bs : List Byte) (h : Memory.wf m) : Memory.wf (Mem.setBytes m a bs) := by
  induction bs generalizing m a with
  | nil => exact h
  | cons b bs ih => exact ih (a + 1) (Memory.wf_setByte a b h)

/-- Writing a number leaves every byte outside its `n` bytes. -/
theorem Mem.byte_setNum_other (m : Mem) (a n v : Nat) {c : Nat} (h : c < a ∨ a + n ≤ c) : Mem.byte (Mem.setNum m a n v) c = Mem.byte m c := by
  induction n generalizing m a v with
  | zero => rfl
  | succ n ih =>
    show Mem.byte (Mem.setNum (Mem.setByte m a _) (a + 1) n (v / 256)) c = _
    rw [ih _ (a + 1) (v / 256) (by omega), Mem.byte_setByte_other m _ (by omega)]

/-- Writing bytes leaves every byte outside them. -/
theorem Mem.byte_setBytes_other (m : Mem) (a : Nat) (bs : List Byte) {c : Nat} (h : c < a ∨ a + bs.length ≤ c) :
    Mem.byte (Mem.setBytes m a bs) c = Mem.byte m c := by
  induction bs generalizing m a with
  | nil => rfl
  | cons b bs ih =>
    have hl : (b :: bs).length = bs.length + 1 := rfl
    show Mem.byte (Mem.setBytes (Mem.setByte m a b) (a + 1) bs) c = _
    rw [ih _ (a + 1) (by omega), Mem.byte_setByte_other m _ (by omega)]

/-- A number reads back as it was written, as far as its bytes hold it. -/
theorem Mem.num_setNum (m : Mem) (a n v : Nat) : Mem.num (Mem.setNum m a n v) a n = v % 256 ^ n := by
  induction n generalizing m a v with
  | zero => simp [Mem.num, Nat.mod_one]
  | succ n ih =>
    show (Mem.byte (Mem.setNum (Mem.setByte m a (BitVec.ofNat 8 v)) (a + 1) n (v / 256)) a).toNat +
      256 * Mem.num (Mem.setNum (Mem.setByte m a (BitVec.ofNat 8 v)) (a + 1) n (v / 256)) (a + 1) n = _
    rw [ih, Mem.byte_setNum_other _ _ _ _ (by omega), Mem.byte_setByte_same, BitVec.toNat_ofNat, show 256 ^ (n + 1) = 256 * 256 ^ n by ring,
      Nat.mod_mul]

/-- A line reads back as it was written. -/
@[simp] theorem Mem.line_setLine (m : Mem) (a : Nat) (v : Line) : Mem.line (Mem.setLine m a v) a = v := by
  unfold Mem.line Mem.setLine
  rw [Mem.num_setNum]
  have h := v.isLt
  apply BitVec.eq_of_toNat_eq
  rw [BitVec.toNat_ofNat]
  have e (n : Nat) : 256 ^ n = 2 ^ (8 * n) := by rw [Nat.pow_mul]
  rw [e, show 8 * 256 = 2048 from rfl, Nat.mod_mod, Nat.mod_eq_of_lt h]

end Sys2Proof.Machine
end

