-- ==== Sys2Proof/Laws/Keeps.lean ====
section
/-! SUPPORT. What every command keeps, for the commands that change the outer part of a state: the queue, the fuses but for a rising
SVN, the canonical form of the flash and of host memory, and no key after an unlock. -/

namespace Sys2Proof.Machine

/-- What is kept from one state to the next. -/
structure Keeps (s t : State) : Prop where
  pending : t.pending = s.pending
  svn : s.fuses.svn ≤ t.fuses.svn
  fuses : t.fuses = { s.fuses with svn := t.fuses.svn }
  nvm : Memory.wf s.nvm → Memory.wf t.nvm
  hostMem : Memory.wf s.hostMem → Memory.wf t.hostMem
  keys : (s.far.unlocked = true → s.far.keySeed = none) → t.far.unlocked = true → t.far.keySeed = none

theorem Keeps.refl (s : State) : Keeps s s := ⟨rfl, Nat.le_refl _, rfl, id, id, id⟩

theorem Keeps.trans {s t u : State} (a : Keeps s t) (b : Keeps t u) : Keeps s u :=
  ⟨b.pending.trans a.pending, Nat.le_trans a.svn b.svn, by rw [b.fuses, a.fuses], fun h => b.nvm (a.nvm h),
   fun h => b.hostMem (a.hostMem h), fun h => b.keys (a.keys h)⟩

/-- A command that leaves the outer part keeps all of it. -/
theorem Keeps.of_outer {s t : State} (h : t.outer = s.outer) : Keeps s t := by
  have hp : t.pending = s.pending := congrArg Outer.pending h
  have hf : t.fuses = s.fuses := congrArg Outer.fuses h
  have hr : t.far = s.far := congrArg Outer.far h
  have hn : t.nvm = s.nvm := congrArg Outer.nvm h
  have hh : t.hostMem = s.hostMem := congrArg Outer.hostMem h
  exact ⟨hp, by rw [hf], by rw [hf], by rw [hn]; exact id, by rw [hh]; exact id, by rw [hr]; exact id⟩

/-- Where the next state is kept, so is every outcome. -/
theorem Keeps.next {s u t : State} (h : Keeps s u) (e : (Host.Outcome.next u : Out) = .next t) : Keeps s t :=
  Host.Outcome.next.inj e ▸ h

/-- Only the answer of the host bus differs. -/
theorem Keeps.bus {s t : State} (h : t.outer = s.outer) (b : BusReply) : Keeps s { t with bus := b } := by
  have k := Keeps.of_outer h
  exact ⟨k.pending, k.svn, k.fuses, k.nvm, k.hostMem, k.keys⟩

theorem State.answer_keeps (s : State) (by_ : Writer) (r : BusReply) : Keeps s (s.answer by_ r) := by
  cases by_
  · exact Keeps.refl s
  · exact Keeps.bus rfl r

theorem State.readCount_keeps (s : State) (b k : Nat) : Keeps s (s.readCount b k) :=
  Keeps.bus (State.setReg_outer _ _ _) _

theorem State.userRead_keeps (s : State) (off : Nat) : Keeps s (s.userRead off) := by
  unfold State.userRead
  dsimp only
  split
  · exact Keeps.bus (State.unmapped_outer _ _) _
  · split
    · exact Keeps.bus rfl _
    · split
      · exact State.readCount_keeps _ _ _
      · exact Keeps.bus rfl _

/-! ### Register accesses -/

theorem execUnsupportedRequest_keeps (off : Word) (size : Nat) (write : Bool) (s t : State)
    (h : execUnsupportedRequest off size write s = .next t) : Keeps s t := by
  unfold execUnsupportedRequest at h
  split at h
  · exact (Keeps.bus rfl _).next h
  · exact (Keeps.refl s).next h

theorem execClkEdgeRead_keeps (s t : State) (h : execClkEdgeRead s = .next t) : Keeps s t := by
  unfold execClkEdgeRead at h
  split at h
  · exact (Keeps.bus (State.setReg_outer _ _ _) _).next h
  · exact (Keeps.refl s).next h

theorem execTlyCntRead_keeps (b : Fin 10) (k : Fin 16) (s t : State) (h : execTlyCntRead b k s = .next t) : Keeps s t := by
  unfold execTlyCntRead at h
  split at h
  · exact (State.readCount_keeps _ _ _).next h
  · exact (Keeps.refl s).next h

theorem execBar2Read_keeps (off : BitVec 25) (s t : State) (h : execBar2Read off s = .next t) : Keeps s t := by
  unfold execBar2Read at h
  dsimp only at h
  repeat' split at h
  · exact (Keeps.refl s).next h
  · exact (Keeps.bus rfl _).next h
  · exact (Keeps.bus rfl _).next h
  · exact (State.userRead_keeps _ _).next h
  · exact (Keeps.bus (State.unmapped_outer _ _) _).next h

theorem execBar2Write_keeps (off : BitVec 25) (v : Word) (s t : State) (h : execBar2Write off v s = .next t) : Keeps s t := by
  unfold execBar2Write at h
  split at h
  · exact (Keeps.bus (State.ignored_outer _ _) _).next h
  · exact (Keeps.refl s).next h

theorem execRegisterWrite_keeps (by_ : Writer) (off v : Word) (s t : State) (h : execRegisterWrite by_ off v s = .next t) : Keeps s t := by
  unfold execRegisterWrite at h
  repeat' split at h
  · exact (Keeps.refl s).next h
  · exact (State.answer_keeps _ _ _).next h
  · exact ((Keeps.of_outer (State.unmapped_outer _ _)).trans (State.answer_keeps _ _ _)).next h
  · exact ((Keeps.of_outer (State.regWrite_outer _ _ _ _ _)).trans (State.answer_keeps _ _ _)).next h

theorem execUnmappedAccess_keeps (by_ : Writer) (off : Word) (write : Bool) (s t : State)
    (h : execUnmappedAccess by_ off write s = .next t) : Keeps s t := by
  unfold execUnmappedAccess at h
  split at h
  · exact ((Keeps.of_outer (State.unmapped_outer _ _)).trans (State.answer_keeps _ _ _)).next h
  · exact (Keeps.refl s).next h

/-! ### Power -/

theorem State.coldState_keeps (s : State) (p : Power) : Keeps s { s.coldState with power := p } :=
  ⟨rfl, Nat.le_refl _, rfl, id, id, fun _ _ => rfl⟩

theorem State.diesOff_keeps (s : State) (p : Power) : Keeps s (s.diesOff p) := ⟨rfl, Nat.le_refl _, rfl, id, id, id⟩

theorem Keeps.power (s : State) (p : Power) : Keeps s { s with power := p } := ⟨rfl, Nat.le_refl _, rfl, id, id, id⟩

theorem execPowerUp_keeps (vin : Nat) (s t : State) (h : execPowerUp vin s = .next t) : Keeps s t := by
  unfold execPowerUp at h
  dsimp only at h
  split at h
  · refine Keeps.next ?_ h
    split
    · exact ⟨rfl, Nat.le_refl _, rfl, id, id, fun _ _ => rfl⟩
    · exact State.coldState_keeps s _
  · exact (Keeps.refl s).next h

theorem execPowerDown_keeps (fell : Bool) (vin : Nat) (s t : State) (h : execPowerDown fell vin s = .next t) : Keeps s t := by
  unfold execPowerDown at h
  dsimp only at h
  split at h
  · exact (State.diesOff_keeps s _).next h
  · split at h
    · exact (Keeps.power s _).next h
    · split at h <;> exact (Keeps.power s _).next h

theorem execOverVoltageTrip_keeps (vin : Nat) (s t : State) (h : execOverVoltageTrip vin s = .next t) : Keeps s t := by
  unfold execOverVoltageTrip at h
  dsimp only at h
  split at h
  · exact (State.diesOff_keeps s _).next h
  · split at h
    · exact (Keeps.power s _).next h
    · exact (Keeps.refl s).next h

theorem execThermalTrip_keeps (die stack : Int) (s t : State) (h : execThermalTrip die stack s = .next t) : Keeps s t := by
  unfold execThermalTrip at h
  split at h
  · exact (State.diesOff_keeps s _).next h
  · exact (Keeps.refl s).next h

theorem execAlwaysOnHoldExpiry_keeps (s t : State) (h : execAlwaysOnHoldExpiry s = .next t) : Keeps s t := by
  unfold execAlwaysOnHoldExpiry at h
  dsimp only at h
  split at h
  · exact (State.coldState_keeps s _).next h
  · exact (Keeps.refl s).next h

theorem execLinkReset_keeps (hot : Bool) (s t : State) (h : execLinkReset hot s = .next t) : Keeps s t := by
  unfold execLinkReset at h
  split at h
  · exact (Keeps.refl s).next h
  · refine Keeps.next ?_ h
    exact ⟨rfl, Nat.le_refl _, rfl, id, id, id⟩

theorem State.deriveKeys_keeps (s : State) (svn : Nat) : Keeps s (s.deriveKeys svn) := by
  unfold State.deriveKeys
  dsimp only
  split
  · exact ⟨rfl, Nat.le_refl _, rfl, id, id, fun _ _ => rfl⟩
  · exact ⟨rfl, Nat.le_refl _, rfl, id, id, fun _ h => absurd h Bool.false_ne_true⟩

theorem Keeps.config (s : State) (g : BitVec 256) : Keeps s { s with far := { s.far with configDigest := g } } :=
  ⟨rfl, Nat.le_refl _, rfl, id, id, id⟩

theorem Keeps.measured (s : State) (b : Bool) (g : BitVec 256) : Keeps s { s with far := { s.far with bank := some b, measurement := g } } :=
  ⟨rfl, Nat.le_refl _, rfl, id, id, id⟩

theorem State.bootBank_keeps (s : State) (b : Bool) : Keeps s (s.bootBank b) := by
  have h1 : ∀ (u : State) (svn : Nat), Keeps u (((u.deriveKeys svn).setRf 8 24 24 (b2n b)).setRf 0xC 15 8 svn) := fun u svn =>
    (State.deriveKeys_keeps u svn).trans (Keeps.of_outer (by simp))
  unfold State.bootBank
  dsimp only
  split
  · exact (Keeps.measured s _ _).trans (h1 _ _)
  · have h3 := fun g => ((Keeps.measured s b (shake256 (s.nvm.bytes (bankBase b) 0x1000))).trans (h1 _ (s.nvm.num (bankBase b + 0xC) 4))).trans (Keeps.config _ g)
    split
    · exact (h3 _).trans (Keeps.of_outer (State.setRf_outer _ _ _ _ _))
    · exact (h3 _).trans (Keeps.of_outer ((foldl_outer _ State.applyConfig_outer _ _).trans (State.setRf_outer _ _ _ _ _)))

theorem execColdStart_keeps (f : BootFinds) (s t : State) (h : execColdStart f s = .next t) : Keeps s t := by
  unfold execColdStart at h
  dsimp only at h
  have h0 : ∀ (l : List Bool) (r : Bool → Nat), Keeps s (l.foldl (fun (s : State) b => if b then s.setRf 8 15 8 (r b) else s.setRf 8 7 0 (r b))
      { s with far := { s.far with bootDone := true } }) := fun l r =>
    (⟨rfl, Nat.le_refl _, rfl, id, id, id⟩ : Keeps s { s with far := { s.far with bootDone := true } }).trans
      (Keeps.of_outer (foldl_outer _ (fun s x => by split <;> simp) _ _))
  have tail : ∀ u : State, Keeps u ((((List.range 231).foldl
      (fun (s : State) i => if s.bootAwake i then s.modDomain i (fun x => { x with awake := true }) else s)
      { (u.bootMemory f).bootCores with mem := { (u.bootMemory f).bootCores.mem with cxl := ((f.cxl ++ [0, 0, 0, 0]).take 4).map (min 2048) } }).noticeOpen 0).setRf
        8 31 28 3) := fun u => Keeps.of_outer (by
    rw [State.setRf_outer, State.noticeOpen_outer]
    refine (foldl_outer _ (fun s x => by split <;> simp) _ _).trans ?_
    refine (outer_update ..).trans ?_
    rw [State.bootCores_outer, State.bootMemory_outer])
  split at h
  · exact (Keeps.refl s).next h
  · split at h
    · exact ((h0 _ _).trans (Keeps.of_outer (State.setRf_outer _ _ _ _ _))).next h
    · exact (((h0 _ _).trans (State.bootBank_keeps _ _)).trans (tail _)).next h

/-! ### Mailbox requests -/

theorem Keeps.mbx (s : State) (m : Mailbox) : Keeps s { s with mbx := m } := ⟨rfl, Nat.le_refl _, rfl, id, id, id⟩

theorem Keeps.jobKey (s : State) (k : Option (List Byte)) : Keeps s { s with far := { s.far with jobKey := k } } :=
  ⟨rfl, Nat.le_refl _, rfl, id, id, id⟩

theorem Keeps.unlock (s : State) (hi lo off v : Nat) :
    Keeps s { s.setRf off hi lo v with far := { s.far with keySeed := none, unlocked := true } } :=
  ⟨rfl, Nat.le_refl _, rfl, id, id, fun _ _ => rfl⟩

theorem Keeps.raiseSvn (s : State) (n : Nat) : Keeps s { s with fuses := { s.fuses with svn := max s.fuses.svn n } } :=
  ⟨rfl, Nat.le_max_left _ _, rfl, id, id, id⟩

theorem Keeps.flash (s : State) (m : Mem) (h : Memory.wf s.nvm → Memory.wf m) : Keeps s { s with nvm := m } :=
  ⟨rfl, Nat.le_refl _, rfl, h, id, id⟩

theorem Keeps.flashSet (s : State) (m : Mem) (off hi lo v : Nat) (h : Memory.wf s.nvm → Memory.wf m) :
    Keeps s { s.setRf off hi lo v with nvm := m } := ⟨rfl, Nat.le_refl _, rfl, h, id, id⟩

/-- A request keeps what its effect keeps. -/
theorem State.request_keeps {s t : State} {op : Nat} {f : State → Nat → State × Reply} (hf : ∀ w, Keeps s (f s w).1)
    (h : s.request op f = .next t) : Keeps s t := by
  unfold State.request at h
  split at h
  · exact (Keeps.refl s).next h
  · split at h
    · exact (Keeps.refl s).next h
    · split at h
      · exact (Keeps.of_outer (State.answerWith_outer _ _ _)).next h
      · exact ((hf _).trans (Keeps.of_outer (State.answerWith_outer _ _ _))).next h

theorem State.withBuffer_keeps {s : State} {w n : Nat} {hf : Option (BitVec 32)} {f : State → State × Reply} (h : Keeps s (f s).1) :
    Keeps s (s.withBuffer w n hf f).1 := by
  unfold State.withBuffer
  split
  · exact Keeps.refl s
  · exact Keeps.refl s
  · exact h

theorem State.toHostMem_keeps (s : State) (a : Nat) (bs : List Byte) : Keeps s (s.toHostMem a bs) :=
  Keeps.trans (t := { s with hostMem := s.hostMem.setBytes a bs })
    ⟨rfl, Nat.le_refl _, rfl, id, fun h => Memory.wf_setBytes a bs h, id⟩ (Keeps.of_outer (State.dma_outer _ _))

theorem State.longRequest_keeps {s t : State} {op : Nat} {room : Nat → Option Reply} {hf : Option (BitVec 32)} {f : State → Nat → State × Reply}
    (h : ∀ w, Keeps s (f s w).1) (e : s.longRequest op room hf f = .next t) : Keeps s t := by
  refine State.request_keeps (fun w => ?_) e
  try dsimp only
  split
  · exact Keeps.refl s
  · split
    · exact Keeps.refl s
    · split
      · exact Keeps.refl s
      · split
        · exact Keeps.of_outer (State.accept_outer _ _ _ _ _)
        · exact h w

theorem Keeps.accept {s t : State} (h : Keeps s t) (w : Nat) (hf : Option (BitVec 32)) (r d : Nat) : Keeps s (t.accept w hf r d).1 :=
  h.trans (Keeps.of_outer (State.accept_outer _ _ _ _ _))

theorem execHeartbeat_keeps (s t : State) (h : execHeartbeat s = .next t) : Keeps s t := State.request_keeps (fun _ => Keeps.refl s) h

theorem execIdent_keeps (s t : State) (h : execIdent s = .next t) : Keeps s t :=
  State.request_keeps (fun _ => ⟨rfl, Nat.le_refl _, rfl, id, id, id⟩) h

theorem execAckAttn_keeps (s t : State) (h : execAckAttn s = .next t) : Keeps s t := by
  refine State.request_keeps (fun w => ?_) h
  try dsimp only
  split
  · exact Keeps.refl s
  · exact Keeps.of_outer (outer_update ..)

theorem execQueryOp_keeps (s t : State) (h : execQueryOp s = .next t) : Keeps s t := by
  refine State.request_keeps (fun w => ?_) h
  try dsimp only
  split
  · exact Keeps.refl s
  · split
    · exact Keeps.refl s
    · exact Keeps.of_outer (outer_update ..)

theorem execGetLatency_keeps (hf : Option (BitVec 32)) (s t : State) (h : execGetLatency hf s = .next t) : Keeps s t :=
  State.request_keeps (fun _ => State.withBuffer_keeps (State.toHostMem_keeps s _ _)) h

theorem execGetReport_keeps (hf : Option (BitVec 32)) (s t : State) (h : execGetReport hf s = .next t) : Keeps s t := by
  refine State.request_keeps (fun w => ?_) h
  try dsimp only
  split
  · exact Keeps.refl s
  · exact State.withBuffer_keeps (Keeps.trans (State.toHostMem_keeps s _ _) (Keeps.mbx _ _))

theorem execStart_keeps (s t : State) (h : execStart s = .next t) : Keeps s t := by
  refine State.request_keeps (fun w => ?_) h
  split
  · exact Keeps.refl s
  · refine Keeps.of_outer ((outer_update ..).trans ?_)
    split
    · exact State.progFaults_outer s
    · rfl

theorem execStop_keeps (s t : State) (h : execStop s = .next t) : Keeps s t := by
  refine State.request_keeps (fun w => ?_) h
  try dsimp only
  split
  · exact Keeps.refl s
  · exact Keeps.of_outer (State.requestStop_outer s)

theorem execEval_keeps (s t : State) (h : execEval s = .next t) : Keeps s t := by
  refine State.request_keeps (fun w => ?_) h
  try dsimp only
  split
  · exact Keeps.refl s
  · exact Keeps.of_outer (outer_update ..)

theorem execSetJobKey_keeps (hf : Option (BitVec 32)) (s t : State) (h : execSetJobKey hf s = .next t) : Keeps s t := by
  refine State.request_keeps (fun w => ?_) h
  try dsimp only
  split
  · exact Keeps.refl s
  · exact State.withBuffer_keeps ((Keeps.jobKey s _).trans (Keeps.of_outer (State.dma_outer _ _)))

theorem execAttest_keeps (hf : Option (BitVec 32)) (s t : State) (h : execAttest hf s = .next t) : Keeps s t := by
  refine State.longRequest_keeps (fun w => ?_) h
  try dsimp only
  split
  · exact Keeps.refl s
  · exact (State.toHostMem_keeps s _ _).accept _ _ _ _

theorem execGetCerts_keeps (hf : Option (BitVec 32)) (s t : State) (h : execGetCerts hf s = .next t) : Keeps s t := by
  refine State.longRequest_keeps (fun w => ?_) h
  try dsimp only
  split
  · exact Keeps.refl s
  · exact (State.toHostMem_keeps s _ _).accept _ _ _ _

theorem execDebugUnlock_keeps (hf : Option (BitVec 32)) (ok : Bool) (s t : State) (h : execDebugUnlock hf ok s = .next t) : Keeps s t := by
  refine State.longRequest_keeps (fun w => ?_) h
  try dsimp only
  split
  · exact (Keeps.unlock s _ _ _ _).accept _ _ _ _
  · exact (Keeps.refl s).accept _ _ _ _

theorem execSvnCommit_keeps (s t : State) (h : execSvnCommit s = .next t) : Keeps s t := by
  refine State.longRequest_keeps (fun w => ?_) h
  try dsimp only
  split
  · exact (Keeps.refl s).accept _ _ _ _
  · exact (Keeps.raiseSvn s _).accept _ _ _ _

theorem execNvmUpdate_keeps (hf : Option (BitVec 32)) (v : BankVerdict) (ok : Bool) (s t : State) (h : execNvmUpdate hf v ok s = .next t) :
    Keeps s t := by
  refine State.longRequest_keeps (fun w => ?_) h
  try dsimp only
  split
  · exact Keeps.refl s
  · split
    · exact (Keeps.refl s).accept _ _ _ _
    · split
      · exact (Keeps.flash s _ (fun h => Memory.wf_setBytes _ _ (Memory.wf_setBytes _ _ h))).accept _ _ _ _
      · exact (Keeps.flashSet s _ _ _ _ _
          (fun h => Memory.wf_setNum _ _ _ (Memory.wf_setBytes _ _ (Memory.wf_setBytes _ _ (Memory.wf_setBytes _ _ h))))).accept _ _ _ _

theorem Keeps.firstLoad (s : State) : Keeps s { s with far := { s.far with firstLoad := true } } :=
  ⟨rfl, Nat.le_refl _, rfl, id, id, id⟩

/-- An answer is kept whichever way a choice falls. -/
theorem Keeps.ite {s : State} {c : Prop} [Decidable c] {a b : State × Reply} (ha : Keeps s a.1) (hb : Keeps s b.1) :
    Keeps s (if c then a else b).1 := by
  split
  · exact ha
  · exact hb

theorem execLoad_keeps (hf : Option (BitVec 32)) (ok : Bool) (s t : State) (h : execLoad hf ok s = .next t) : Keeps s t := by
  refine State.longRequest_keeps (fun w => ?_) h
  dsimp only
  refine Keeps.ite (Keeps.refl s) ?_
  have h1 := Keeps.firstLoad s
  split
  · refine Keeps.accept (Keeps.of_outer ?_) _ _ _ _
    split
    · exact ((State.notice_outer _ _).trans (State.orReg_outer _ _ _)).trans (State.notice_outer _ _)
    · exact State.notice_outer _ _
  · refine Keeps.ite ?_ ?_
    · exact (h1.trans (Keeps.of_outer (State.placeRecovery_outer _ _))).accept _ _ _ _
    · exact (h1.trans (Keeps.of_outer (State.placeImage_outer _ _))).accept _ _ _ _

theorem execStage_keeps (hf : Option (BitVec 32)) (s t : State) (h : execStage hf s = .next t) : Keeps s t := by
  refine State.longRequest_keeps (fun w => ?_) h
  try dsimp only
  repeat' split
  · exact Keeps.refl s
  · exact Keeps.refl s
  · exact (Keeps.refl s).accept _ _ _ _

theorem execCheckpoint_keeps (s t : State) (h : execCheckpoint s = .next t) : Keeps s t := by
  refine State.longRequest_keeps (fun w => ?_) h
  try dsimp only
  repeat' split
  · exact Keeps.refl s
  · exact Keeps.refl s
  · exact (Keeps.refl s).accept _ _ _ _

theorem State.restored_keeps (s : State) (m : Nat) (ls : Word) (l : List (Shard × Option (List Byte))) (via : Bool) (n : Nat) :
    Keeps s (State.joinReady { (if via then l.foldl (fun (s : State) x => s.writeParts ((x.2.getD []).drop 256) x.1.parts)
        ((({ s with free := s.free + 1 } : State).rewind m ls).dma n) else ({ s with free := s.free + 1 } : State).rewind m ls) with
      rec_ := { (if via then l.foldl (fun (s : State) x => s.writeParts ((x.2.getD []).drop 256) x.1.parts)
        ((({ s with free := s.free + 1 } : State).rewind m ls).dma n) else ({ s with free := s.free + 1 } : State).rewind m ls).rec_ with
        haltedLs := false, haltedSteps := false } }) := by
  refine Keeps.of_outer ((State.joinReady_outer _).trans ((outer_update ..).trans ?_))
  split
  · refine (foldl_outer _ (fun s x => State.writeParts_outer _ _ _) _ _).trans ?_
    rw [State.dma_outer, State.rewind_outer]
    exact outer_update ..
  · rw [State.rewind_outer]
    exact outer_update ..

theorem execRestore_keeps (ok : Bool) (l : List Replica) (s t : State) (h : execRestore ok s l = .next t) : Keeps s t := by
  refine State.longRequest_keeps (fun w => ?_) h
  refine Keeps.ite (Keeps.refl s) (Keeps.ite (Keeps.refl s) (Keeps.ite ?_ ?_))
  · refine Keeps.accept (Keeps.of_outer ?_) _ _ _ _
    rw [State.markFresh_outer]
    exact outer_update ..
  · exact Keeps.accept (State.restored_keeps s _ _ _ _ _) _ _ _ _

theorem execLedgerRestore_keeps (hf : Option (BitVec 32)) (s t : State) (h : execLedgerRestore hf s = .next t) : Keeps s t := by
  refine State.longRequest_keeps (fun w => ?_) h
  try dsimp only
  split
  · exact Keeps.refl s
  · exact (Keeps.of_outer (State.notice_outer _ _)).accept _ _ _ _

theorem execMembership_keeps (hf : Option (BitVec 32)) (s t : State) (h : execMembership hf s = .next t) : Keeps s t := by
  refine State.longRequest_keeps (fun w => ?_) h
  try dsimp only
  split
  · exact Keeps.refl s
  · refine Keeps.accept (Keeps.of_outer ?_) _ _ _ _
    split
    · refine (foldl_outer _ (fun s x => by simp) _ _).trans ?_
      exact outer_update ..
    · exact outer_update ..

theorem execRestart_keeps (s t : State) (h : execRestart s = .next t) : Keeps s t := by
  refine State.longRequest_keeps (fun w => ?_) h
  try dsimp only
  split
  · exact (Keeps.of_outer (State.restartModule_outer s)).accept _ _ _ _
  · exact Keeps.refl s

/-! ### The end of a long operation -/

theorem State.stageCopy_keeps (s : State) (w : Nat) : Keeps s (s.stageCopy w) := by
  unfold State.stageCopy
  try dsimp only
  split
  · exact (Keeps.of_outer (State.readBytes_outer _ _ _)).trans (State.toHostMem_keeps _ _ _)
  · exact Keeps.of_outer (State.putBytes_outer _ _ _ _)

theorem State.writeCheckpoint_keeps (s : State) (w : Nat) : Keeps s (s.writeCheckpoint w).1 := by
  have hfold : ∀ {α : Type} (f : State → α → State), (∀ s x, Keeps s (f s x)) → ∀ (l : List α) (s : State), Keeps s (l.foldl f s) := by
    intro α f hf l
    induction l with
    | nil => exact fun s => Keeps.refl s
    | cons a l ih => exact fun s => (hf s a).trans (ih _)
  unfold State.writeCheckpoint
  try dsimp only
  split
  · exact Keeps.refl s
  · refine hfold _ (fun s x => ?_) _ _
    split
    · exact ((Keeps.of_outer (State.readShard_outer _ _ _)).trans (State.toHostMem_keeps _ _ _)).trans (State.toHostMem_keeps _ _ _)
    · exact Keeps.of_outer (by rw [State.putAway_outer, State.putAway_outer, State.readShard_outer])

theorem execLongOpComplete_keeps (i : BitVec 16) (s t : State) (h : execLongOpComplete i s = .next t) : Keeps s t := by
  unfold execLongOpComplete at h
  dsimp only at h
  have hfin : ∀ (u : State) (i r d : Nat), Keeps s u → Keeps s (u.finishOp i r d) := fun u i r d k =>
    k.trans (Keeps.of_outer (State.finishOp_outer _ _ _ _))
  repeat' split at h
  · exact (Keeps.refl s).next h
  · exact (Keeps.refl s).next h
  · exact (hfin _ _ _ _ (Keeps.refl s)).next h
  · exact (hfin _ _ _ _ (State.stageCopy_keeps s _)).next h
  · exact (Keeps.refl s).next h
  · exact (hfin _ _ _ _ (State.writeCheckpoint_keeps s _)).next h
  · exact (Keeps.refl s).next h
  · exact (hfin _ _ _ _ (Keeps.of_outer (State.ledgerRestore_outer s _))).next h
  · exact (Keeps.refl s).next h
  · exact (hfin _ _ _ _ (Keeps.refl s)).next h

/-! ### The management port and the test port -/

theorem State.block_keeps (s : State) (bs : List Byte) : Keeps s (s.block bs) := by
  unfold State.block
  split
  · exact ⟨rfl, Nat.le_refl _, rfl, id, id, id⟩
  · exact Keeps.refl s

theorem State.tap_keeps (s : State) (f : Jtag → Jtag) : Keeps s (s.tap f) := by
  unfold State.tap
  split
  · exact ⟨rfl, Nat.le_refl _, rfl, id, id, id⟩
  · exact Keeps.refl s

theorem execSamplePreload_keeps (v : Option (BitVec 64)) (s t : State) (h : execSamplePreload v s = .next t) : Keeps s t :=
  ((Keeps.of_outer (outer_update ..)).trans (State.tap_keeps _ _)).next h

theorem execMgmtReservedCommand_keeps (c : Byte) (s t : State) (h : execMgmtReservedCommand c s = .next t) : Keeps s t := by
  unfold execMgmtReservedCommand at h
  refine Keeps.next ?_ h
  split
  · exact Keeps.refl s
  · exact State.block_keeps s _

/-! ### The Rating -/

theorem State.secured_outer (v : State) : (if v.fallBack && v.step.job.isSome then v.sendSecure else v).outer = v.outer := by
  split
  · exact State.sendSecure_outer v
  · rfl

/-- What follows the readings leaves the outer part. -/
theorem State.rated_outer (u : State) (f : Bool) (z : Nat × Nat × Nat × Nat × Nat) :
    (if f then (if u.rf (ldgBase + 0xC) 3 3 = 1 then u else (u.orReg (ldgBase + 0xC) 8).notice (Err.aon .notice 0x903))
      else u.publish z).outer = u.outer := by
  repeat' split
  all_goals simp

theorem execRatingUpdate_keeps (x : Health) (s t : State) (h : execRatingUpdate x s = .next t) : Keeps s t := by
  unfold execRatingUpdate at h
  dsimp only at h
  split at h
  · exact (Keeps.refl s).next h
  · exact Keeps.next (Keeps.trans (Keeps.power s _)
      (Keeps.of_outer ((State.secured_outer _).trans ((State.rated_outer _ _ _).trans
        ((foldl_outer _ State.unitLost_outer _ _).trans (State.markBanks_outer _ _)))))) h

end Sys2Proof.Machine
end

