-- ==== Sys2Proof/Laws/State.lean ====
section
/-! SUPPORT. What each named update of the state leaves: one lemma per field per update, and what a unit or a register
reads after an update of the same or another one. -/

namespace Sys2Proof.Machine

variable (s : State)


@[simp] theorem State.setReg_pending (off : Nat) (v : Word) : (s.setReg off v).pending = s.pending := rfl
@[simp] theorem State.setReg_edge (off : Nat) (v : Word) : (s.setReg off v).edge = s.edge := rfl
@[simp] theorem State.setReg_recent (off : Nat) (v : Word) : (s.setReg off v).recent = s.recent := rfl
@[simp] theorem State.setReg_cores (off : Nat) (v : Word) : (s.setReg off v).cores = s.cores := rfl
@[simp] theorem State.setReg_rings (off : Nat) (v : Word) : (s.setReg off v).rings = s.rings := rfl
@[simp] theorem State.setReg_dies (off : Nat) (v : Word) : (s.setReg off v).dies = s.dies := rfl
@[simp] theorem State.setReg_mem (off : Nat) (v : Word) : (s.setReg off v).mem = s.mem := rfl
@[simp] theorem State.setReg_dep (off : Nat) (v : Word) : (s.setReg off v).dep = s.dep := rfl
@[simp] theorem State.setReg_step (off : Nat) (v : Word) : (s.setReg off v).step = s.step := rfl
@[simp] theorem State.setReg_mint (off : Nat) (v : Word) : (s.setReg off v).mint = s.mint := rfl
@[simp] theorem State.setReg_link (off : Nat) (v : Word) : (s.setReg off v).link = s.link := rfl
@[simp] theorem State.setReg_domains (off : Nat) (v : Word) : (s.setReg off v).domains = s.domains := rfl
@[simp] theorem State.setReg_tsy (off : Nat) (v : Word) : (s.setReg off v).tsy = s.tsy := rfl
@[simp] theorem State.setReg_jnl (off : Nat) (v : Word) : (s.setReg off v).jnl = s.jnl := rfl
@[simp] theorem State.setReg_fatal (off : Nat) (v : Word) : (s.setReg off v).fatal = s.fatal := rfl
@[simp] theorem State.setReg_rec_ (off : Nat) (v : Word) : (s.setReg off v).rec_ = s.rec_ := rfl
@[simp] theorem State.setReg_ldg (off : Nat) (v : Word) : (s.setReg off v).ldg = s.ldg := rfl
@[simp] theorem State.setReg_fuses (off : Nat) (v : Word) : (s.setReg off v).fuses = s.fuses := rfl
@[simp] theorem State.setReg_far (off : Nat) (v : Word) : (s.setReg off v).far = s.far := rfl
@[simp] theorem State.setReg_nvm (off : Nat) (v : Word) : (s.setReg off v).nvm = s.nvm := rfl
@[simp] theorem State.setReg_mbx (off : Nat) (v : Word) : (s.setReg off v).mbx = s.mbx := rfl
@[simp] theorem State.setReg_hostMem (off : Nat) (v : Word) : (s.setReg off v).hostMem = s.hostMem := rfl
@[simp] theorem State.setReg_power (off : Nat) (v : Word) : (s.setReg off v).power = s.power := rfl
@[simp] theorem State.setReg_tally (off : Nat) (v : Word) : (s.setReg off v).tally = s.tally := rfl
@[simp] theorem State.setReg_jtag (off : Nat) (v : Word) : (s.setReg off v).jtag = s.jtag := rfl
@[simp] theorem State.setReg_bus (off : Nat) (v : Word) : (s.setReg off v).bus = s.bus := rfl
@[simp] theorem State.setReg_mgmtOut (off : Nat) (v : Word) : (s.setReg off v).mgmtOut = s.mgmtOut := rfl
@[simp] theorem State.setReg_nextId (off : Nat) (v : Word) : (s.setReg off v).nextId = s.nextId := rfl
@[simp] theorem State.setReg_free (off : Nat) (v : Word) : (s.setReg off v).free = s.free := rfl

@[simp] theorem State.setRf_pending (off hi lo v : Nat) : (s.setRf off hi lo v).pending = s.pending := rfl
@[simp] theorem State.setRf_edge (off hi lo v : Nat) : (s.setRf off hi lo v).edge = s.edge := rfl
@[simp] theorem State.setRf_recent (off hi lo v : Nat) : (s.setRf off hi lo v).recent = s.recent := rfl
@[simp] theorem State.setRf_cores (off hi lo v : Nat) : (s.setRf off hi lo v).cores = s.cores := rfl
@[simp] theorem State.setRf_rings (off hi lo v : Nat) : (s.setRf off hi lo v).rings = s.rings := rfl
@[simp] theorem State.setRf_dies (off hi lo v : Nat) : (s.setRf off hi lo v).dies = s.dies := rfl
@[simp] theorem State.setRf_mem (off hi lo v : Nat) : (s.setRf off hi lo v).mem = s.mem := rfl
@[simp] theorem State.setRf_dep (off hi lo v : Nat) : (s.setRf off hi lo v).dep = s.dep := rfl
@[simp] theorem State.setRf_step (off hi lo v : Nat) : (s.setRf off hi lo v).step = s.step := rfl
@[simp] theorem State.setRf_mint (off hi lo v : Nat) : (s.setRf off hi lo v).mint = s.mint := rfl
@[simp] theorem State.setRf_link (off hi lo v : Nat) : (s.setRf off hi lo v).link = s.link := rfl
@[simp] theorem State.setRf_domains (off hi lo v : Nat) : (s.setRf off hi lo v).domains = s.domains := rfl
@[simp] theorem State.setRf_tsy (off hi lo v : Nat) : (s.setRf off hi lo v).tsy = s.tsy := rfl
@[simp] theorem State.setRf_jnl (off hi lo v : Nat) : (s.setRf off hi lo v).jnl = s.jnl := rfl
@[simp] theorem State.setRf_fatal (off hi lo v : Nat) : (s.setRf off hi lo v).fatal = s.fatal := rfl
@[simp] theorem State.setRf_rec_ (off hi lo v : Nat) : (s.setRf off hi lo v).rec_ = s.rec_ := rfl
@[simp] theorem State.setRf_ldg (off hi lo v : Nat) : (s.setRf off hi lo v).ldg = s.ldg := rfl
@[simp] theorem State.setRf_fuses (off hi lo v : Nat) : (s.setRf off hi lo v).fuses = s.fuses := rfl
@[simp] theorem State.setRf_far (off hi lo v : Nat) : (s.setRf off hi lo v).far = s.far := rfl
@[simp] theorem State.setRf_nvm (off hi lo v : Nat) : (s.setRf off hi lo v).nvm = s.nvm := rfl
@[simp] theorem State.setRf_mbx (off hi lo v : Nat) : (s.setRf off hi lo v).mbx = s.mbx := rfl
@[simp] theorem State.setRf_hostMem (off hi lo v : Nat) : (s.setRf off hi lo v).hostMem = s.hostMem := rfl
@[simp] theorem State.setRf_power (off hi lo v : Nat) : (s.setRf off hi lo v).power = s.power := rfl
@[simp] theorem State.setRf_tally (off hi lo v : Nat) : (s.setRf off hi lo v).tally = s.tally := rfl
@[simp] theorem State.setRf_jtag (off hi lo v : Nat) : (s.setRf off hi lo v).jtag = s.jtag := rfl
@[simp] theorem State.setRf_bus (off hi lo v : Nat) : (s.setRf off hi lo v).bus = s.bus := rfl
@[simp] theorem State.setRf_mgmtOut (off hi lo v : Nat) : (s.setRf off hi lo v).mgmtOut = s.mgmtOut := rfl
@[simp] theorem State.setRf_nextId (off hi lo v : Nat) : (s.setRf off hi lo v).nextId = s.nextId := rfl
@[simp] theorem State.setRf_free (off hi lo v : Nat) : (s.setRf off hi lo v).free = s.free := rfl

@[simp] theorem State.orReg_pending (off mask : Nat) : (s.orReg off mask).pending = s.pending := rfl
@[simp] theorem State.orReg_edge (off mask : Nat) : (s.orReg off mask).edge = s.edge := rfl
@[simp] theorem State.orReg_cores (off mask : Nat) : (s.orReg off mask).cores = s.cores := rfl
@[simp] theorem State.orReg_rings (off mask : Nat) : (s.orReg off mask).rings = s.rings := rfl
@[simp] theorem State.orReg_dies (off mask : Nat) : (s.orReg off mask).dies = s.dies := rfl
@[simp] theorem State.orReg_mem (off mask : Nat) : (s.orReg off mask).mem = s.mem := rfl
@[simp] theorem State.orReg_dep (off mask : Nat) : (s.orReg off mask).dep = s.dep := rfl
@[simp] theorem State.orReg_step (off mask : Nat) : (s.orReg off mask).step = s.step := rfl
@[simp] theorem State.orReg_mint (off mask : Nat) : (s.orReg off mask).mint = s.mint := rfl
@[simp] theorem State.orReg_link (off mask : Nat) : (s.orReg off mask).link = s.link := rfl
@[simp] theorem State.orReg_domains (off mask : Nat) : (s.orReg off mask).domains = s.domains := rfl
@[simp] theorem State.orReg_tsy (off mask : Nat) : (s.orReg off mask).tsy = s.tsy := rfl
@[simp] theorem State.orReg_jnl (off mask : Nat) : (s.orReg off mask).jnl = s.jnl := rfl
@[simp] theorem State.orReg_fatal (off mask : Nat) : (s.orReg off mask).fatal = s.fatal := rfl
@[simp] theorem State.orReg_rec_ (off mask : Nat) : (s.orReg off mask).rec_ = s.rec_ := rfl
@[simp] theorem State.orReg_ldg (off mask : Nat) : (s.orReg off mask).ldg = s.ldg := rfl
@[simp] theorem State.orReg_fuses (off mask : Nat) : (s.orReg off mask).fuses = s.fuses := rfl
@[simp] theorem State.orReg_far (off mask : Nat) : (s.orReg off mask).far = s.far := rfl
@[simp] theorem State.orReg_nvm (off mask : Nat) : (s.orReg off mask).nvm = s.nvm := rfl
@[simp] theorem State.orReg_mbx (off mask : Nat) : (s.orReg off mask).mbx = s.mbx := rfl
@[simp] theorem State.orReg_hostMem (off mask : Nat) : (s.orReg off mask).hostMem = s.hostMem := rfl
@[simp] theorem State.orReg_power (off mask : Nat) : (s.orReg off mask).power = s.power := rfl
@[simp] theorem State.orReg_tally (off mask : Nat) : (s.orReg off mask).tally = s.tally := rfl
@[simp] theorem State.orReg_jtag (off mask : Nat) : (s.orReg off mask).jtag = s.jtag := rfl
@[simp] theorem State.orReg_bus (off mask : Nat) : (s.orReg off mask).bus = s.bus := rfl
@[simp] theorem State.orReg_mgmtOut (off mask : Nat) : (s.orReg off mask).mgmtOut = s.mgmtOut := rfl
@[simp] theorem State.orReg_nextId (off mask : Nat) : (s.orReg off mask).nextId = s.nextId := rfl
@[simp] theorem State.orReg_free (off mask : Nat) : (s.orReg off mask).free = s.free := rfl

@[simp] theorem State.countRf_pending (off hi lo n : Nat) : (s.countRf off hi lo n).pending = s.pending := rfl
@[simp] theorem State.countRf_edge (off hi lo n : Nat) : (s.countRf off hi lo n).edge = s.edge := rfl
@[simp] theorem State.countRf_cores (off hi lo n : Nat) : (s.countRf off hi lo n).cores = s.cores := rfl
@[simp] theorem State.countRf_rings (off hi lo n : Nat) : (s.countRf off hi lo n).rings = s.rings := rfl
@[simp] theorem State.countRf_dies (off hi lo n : Nat) : (s.countRf off hi lo n).dies = s.dies := rfl
@[simp] theorem State.countRf_mem (off hi lo n : Nat) : (s.countRf off hi lo n).mem = s.mem := rfl
@[simp] theorem State.countRf_dep (off hi lo n : Nat) : (s.countRf off hi lo n).dep = s.dep := rfl
@[simp] theorem State.countRf_step (off hi lo n : Nat) : (s.countRf off hi lo n).step = s.step := rfl
@[simp] theorem State.countRf_mint (off hi lo n : Nat) : (s.countRf off hi lo n).mint = s.mint := rfl
@[simp] theorem State.countRf_link (off hi lo n : Nat) : (s.countRf off hi lo n).link = s.link := rfl
@[simp] theorem State.countRf_domains (off hi lo n : Nat) : (s.countRf off hi lo n).domains = s.domains := rfl
@[simp] theorem State.countRf_tsy (off hi lo n : Nat) : (s.countRf off hi lo n).tsy = s.tsy := rfl
@[simp] theorem State.countRf_jnl (off hi lo n : Nat) : (s.countRf off hi lo n).jnl = s.jnl := rfl
@[simp] theorem State.countRf_fatal (off hi lo n : Nat) : (s.countRf off hi lo n).fatal = s.fatal := rfl
@[simp] theorem State.countRf_rec_ (off hi lo n : Nat) : (s.countRf off hi lo n).rec_ = s.rec_ := rfl
@[simp] theorem State.countRf_ldg (off hi lo n : Nat) : (s.countRf off hi lo n).ldg = s.ldg := rfl
@[simp] theorem State.countRf_fuses (off hi lo n : Nat) : (s.countRf off hi lo n).fuses = s.fuses := rfl
@[simp] theorem State.countRf_far (off hi lo n : Nat) : (s.countRf off hi lo n).far = s.far := rfl
@[simp] theorem State.countRf_nvm (off hi lo n : Nat) : (s.countRf off hi lo n).nvm = s.nvm := rfl
@[simp] theorem State.countRf_mbx (off hi lo n : Nat) : (s.countRf off hi lo n).mbx = s.mbx := rfl
@[simp] theorem State.countRf_hostMem (off hi lo n : Nat) : (s.countRf off hi lo n).hostMem = s.hostMem := rfl
@[simp] theorem State.countRf_power (off hi lo n : Nat) : (s.countRf off hi lo n).power = s.power := rfl
@[simp] theorem State.countRf_tally (off hi lo n : Nat) : (s.countRf off hi lo n).tally = s.tally := rfl
@[simp] theorem State.countRf_jtag (off hi lo n : Nat) : (s.countRf off hi lo n).jtag = s.jtag := rfl
@[simp] theorem State.countRf_bus (off hi lo n : Nat) : (s.countRf off hi lo n).bus = s.bus := rfl
@[simp] theorem State.countRf_mgmtOut (off hi lo n : Nat) : (s.countRf off hi lo n).mgmtOut = s.mgmtOut := rfl
@[simp] theorem State.countRf_nextId (off hi lo n : Nat) : (s.countRf off hi lo n).nextId = s.nextId := rfl
@[simp] theorem State.countRf_free (off hi lo n : Nat) : (s.countRf off hi lo n).free = s.free := rfl

@[simp] theorem State.clearRf_pending (off hi lo : Nat) : (s.clearRf off hi lo).pending = s.pending := rfl
@[simp] theorem State.clearRf_edge (off hi lo : Nat) : (s.clearRf off hi lo).edge = s.edge := rfl
@[simp] theorem State.clearRf_recent (off hi lo : Nat) : (s.clearRf off hi lo).recent = s.recent := rfl
@[simp] theorem State.clearRf_cores (off hi lo : Nat) : (s.clearRf off hi lo).cores = s.cores := rfl
@[simp] theorem State.clearRf_rings (off hi lo : Nat) : (s.clearRf off hi lo).rings = s.rings := rfl
@[simp] theorem State.clearRf_dies (off hi lo : Nat) : (s.clearRf off hi lo).dies = s.dies := rfl
@[simp] theorem State.clearRf_mem (off hi lo : Nat) : (s.clearRf off hi lo).mem = s.mem := rfl
@[simp] theorem State.clearRf_dep (off hi lo : Nat) : (s.clearRf off hi lo).dep = s.dep := rfl
@[simp] theorem State.clearRf_step (off hi lo : Nat) : (s.clearRf off hi lo).step = s.step := rfl
@[simp] theorem State.clearRf_mint (off hi lo : Nat) : (s.clearRf off hi lo).mint = s.mint := rfl
@[simp] theorem State.clearRf_link (off hi lo : Nat) : (s.clearRf off hi lo).link = s.link := rfl
@[simp] theorem State.clearRf_domains (off hi lo : Nat) : (s.clearRf off hi lo).domains = s.domains := rfl
@[simp] theorem State.clearRf_tsy (off hi lo : Nat) : (s.clearRf off hi lo).tsy = s.tsy := rfl
@[simp] theorem State.clearRf_jnl (off hi lo : Nat) : (s.clearRf off hi lo).jnl = s.jnl := rfl
@[simp] theorem State.clearRf_fatal (off hi lo : Nat) : (s.clearRf off hi lo).fatal = s.fatal := rfl
@[simp] theorem State.clearRf_rec_ (off hi lo : Nat) : (s.clearRf off hi lo).rec_ = s.rec_ := rfl
@[simp] theorem State.clearRf_ldg (off hi lo : Nat) : (s.clearRf off hi lo).ldg = s.ldg := rfl
@[simp] theorem State.clearRf_fuses (off hi lo : Nat) : (s.clearRf off hi lo).fuses = s.fuses := rfl
@[simp] theorem State.clearRf_far (off hi lo : Nat) : (s.clearRf off hi lo).far = s.far := rfl
@[simp] theorem State.clearRf_nvm (off hi lo : Nat) : (s.clearRf off hi lo).nvm = s.nvm := rfl
@[simp] theorem State.clearRf_mbx (off hi lo : Nat) : (s.clearRf off hi lo).mbx = s.mbx := rfl
@[simp] theorem State.clearRf_hostMem (off hi lo : Nat) : (s.clearRf off hi lo).hostMem = s.hostMem := rfl
@[simp] theorem State.clearRf_power (off hi lo : Nat) : (s.clearRf off hi lo).power = s.power := rfl
@[simp] theorem State.clearRf_tally (off hi lo : Nat) : (s.clearRf off hi lo).tally = s.tally := rfl
@[simp] theorem State.clearRf_jtag (off hi lo : Nat) : (s.clearRf off hi lo).jtag = s.jtag := rfl
@[simp] theorem State.clearRf_bus (off hi lo : Nat) : (s.clearRf off hi lo).bus = s.bus := rfl
@[simp] theorem State.clearRf_mgmtOut (off hi lo : Nat) : (s.clearRf off hi lo).mgmtOut = s.mgmtOut := rfl
@[simp] theorem State.clearRf_nextId (off hi lo : Nat) : (s.clearRf off hi lo).nextId = s.nextId := rfl
@[simp] theorem State.clearRf_free (off hi lo : Nat) : (s.clearRf off hi lo).free = s.free := rfl

@[simp] theorem State.markFresh_pending (off mask : Nat) : (s.markFresh off mask).pending = s.pending := rfl
@[simp] theorem State.markFresh_edge (off mask : Nat) : (s.markFresh off mask).edge = s.edge := rfl
@[simp] theorem State.markFresh_regs (off mask : Nat) : (s.markFresh off mask).regs = s.regs := rfl
@[simp] theorem State.markFresh_cores (off mask : Nat) : (s.markFresh off mask).cores = s.cores := rfl
@[simp] theorem State.markFresh_rings (off mask : Nat) : (s.markFresh off mask).rings = s.rings := rfl
@[simp] theorem State.markFresh_dies (off mask : Nat) : (s.markFresh off mask).dies = s.dies := rfl
@[simp] theorem State.markFresh_mem (off mask : Nat) : (s.markFresh off mask).mem = s.mem := rfl
@[simp] theorem State.markFresh_dep (off mask : Nat) : (s.markFresh off mask).dep = s.dep := rfl
@[simp] theorem State.markFresh_step (off mask : Nat) : (s.markFresh off mask).step = s.step := rfl
@[simp] theorem State.markFresh_mint (off mask : Nat) : (s.markFresh off mask).mint = s.mint := rfl
@[simp] theorem State.markFresh_link (off mask : Nat) : (s.markFresh off mask).link = s.link := rfl
@[simp] theorem State.markFresh_domains (off mask : Nat) : (s.markFresh off mask).domains = s.domains := rfl
@[simp] theorem State.markFresh_tsy (off mask : Nat) : (s.markFresh off mask).tsy = s.tsy := rfl
@[simp] theorem State.markFresh_jnl (off mask : Nat) : (s.markFresh off mask).jnl = s.jnl := rfl
@[simp] theorem State.markFresh_fatal (off mask : Nat) : (s.markFresh off mask).fatal = s.fatal := rfl
@[simp] theorem State.markFresh_rec_ (off mask : Nat) : (s.markFresh off mask).rec_ = s.rec_ := rfl
@[simp] theorem State.markFresh_ldg (off mask : Nat) : (s.markFresh off mask).ldg = s.ldg := rfl
@[simp] theorem State.markFresh_fuses (off mask : Nat) : (s.markFresh off mask).fuses = s.fuses := rfl
@[simp] theorem State.markFresh_far (off mask : Nat) : (s.markFresh off mask).far = s.far := rfl
@[simp] theorem State.markFresh_nvm (off mask : Nat) : (s.markFresh off mask).nvm = s.nvm := rfl
@[simp] theorem State.markFresh_mbx (off mask : Nat) : (s.markFresh off mask).mbx = s.mbx := rfl
@[simp] theorem State.markFresh_hostMem (off mask : Nat) : (s.markFresh off mask).hostMem = s.hostMem := rfl
@[simp] theorem State.markFresh_power (off mask : Nat) : (s.markFresh off mask).power = s.power := rfl
@[simp] theorem State.markFresh_tally (off mask : Nat) : (s.markFresh off mask).tally = s.tally := rfl
@[simp] theorem State.markFresh_jtag (off mask : Nat) : (s.markFresh off mask).jtag = s.jtag := rfl
@[simp] theorem State.markFresh_bus (off mask : Nat) : (s.markFresh off mask).bus = s.bus := rfl
@[simp] theorem State.markFresh_mgmtOut (off mask : Nat) : (s.markFresh off mask).mgmtOut = s.mgmtOut := rfl
@[simp] theorem State.markFresh_nextId (off mask : Nat) : (s.markFresh off mask).nextId = s.nextId := rfl
@[simp] theorem State.markFresh_free (off mask : Nat) : (s.markFresh off mask).free = s.free := rfl

@[simp] theorem State.setTlrStep_pending (v : Nat) : (s.setTlrStep v).pending = s.pending := rfl
@[simp] theorem State.setTlrStep_edge (v : Nat) : (s.setTlrStep v).edge = s.edge := rfl
@[simp] theorem State.setTlrStep_recent (v : Nat) : (s.setTlrStep v).recent = s.recent := rfl
@[simp] theorem State.setTlrStep_cores (v : Nat) : (s.setTlrStep v).cores = s.cores := rfl
@[simp] theorem State.setTlrStep_rings (v : Nat) : (s.setTlrStep v).rings = s.rings := rfl
@[simp] theorem State.setTlrStep_dies (v : Nat) : (s.setTlrStep v).dies = s.dies := rfl
@[simp] theorem State.setTlrStep_mem (v : Nat) : (s.setTlrStep v).mem = s.mem := rfl
@[simp] theorem State.setTlrStep_dep (v : Nat) : (s.setTlrStep v).dep = s.dep := rfl
@[simp] theorem State.setTlrStep_step (v : Nat) : (s.setTlrStep v).step = s.step := rfl
@[simp] theorem State.setTlrStep_mint (v : Nat) : (s.setTlrStep v).mint = s.mint := rfl
@[simp] theorem State.setTlrStep_link (v : Nat) : (s.setTlrStep v).link = s.link := rfl
@[simp] theorem State.setTlrStep_domains (v : Nat) : (s.setTlrStep v).domains = s.domains := rfl
@[simp] theorem State.setTlrStep_tsy (v : Nat) : (s.setTlrStep v).tsy = s.tsy := rfl
@[simp] theorem State.setTlrStep_jnl (v : Nat) : (s.setTlrStep v).jnl = s.jnl := rfl
@[simp] theorem State.setTlrStep_fatal (v : Nat) : (s.setTlrStep v).fatal = s.fatal := rfl
@[simp] theorem State.setTlrStep_rec_ (v : Nat) : (s.setTlrStep v).rec_ = s.rec_ := rfl
@[simp] theorem State.setTlrStep_ldg (v : Nat) : (s.setTlrStep v).ldg = s.ldg := rfl
@[simp] theorem State.setTlrStep_fuses (v : Nat) : (s.setTlrStep v).fuses = s.fuses := rfl
@[simp] theorem State.setTlrStep_far (v : Nat) : (s.setTlrStep v).far = s.far := rfl
@[simp] theorem State.setTlrStep_nvm (v : Nat) : (s.setTlrStep v).nvm = s.nvm := rfl
@[simp] theorem State.setTlrStep_mbx (v : Nat) : (s.setTlrStep v).mbx = s.mbx := rfl
@[simp] theorem State.setTlrStep_hostMem (v : Nat) : (s.setTlrStep v).hostMem = s.hostMem := rfl
@[simp] theorem State.setTlrStep_power (v : Nat) : (s.setTlrStep v).power = s.power := rfl
@[simp] theorem State.setTlrStep_tally (v : Nat) : (s.setTlrStep v).tally = s.tally := rfl
@[simp] theorem State.setTlrStep_jtag (v : Nat) : (s.setTlrStep v).jtag = s.jtag := rfl
@[simp] theorem State.setTlrStep_bus (v : Nat) : (s.setTlrStep v).bus = s.bus := rfl
@[simp] theorem State.setTlrStep_mgmtOut (v : Nat) : (s.setTlrStep v).mgmtOut = s.mgmtOut := rfl
@[simp] theorem State.setTlrStep_nextId (v : Nat) : (s.setTlrStep v).nextId = s.nextId := rfl
@[simp] theorem State.setTlrStep_free (v : Nat) : (s.setTlrStep v).free = s.free := rfl

@[simp] theorem State.setCore_pending (d p : Nat) (c : Core) : (s.setCore d p c).pending = s.pending := rfl
@[simp] theorem State.setCore_edge (d p : Nat) (c : Core) : (s.setCore d p c).edge = s.edge := rfl
@[simp] theorem State.setCore_regs (d p : Nat) (c : Core) : (s.setCore d p c).regs = s.regs := rfl
@[simp] theorem State.setCore_recent (d p : Nat) (c : Core) : (s.setCore d p c).recent = s.recent := rfl
@[simp] theorem State.setCore_rings (d p : Nat) (c : Core) : (s.setCore d p c).rings = s.rings := rfl
@[simp] theorem State.setCore_dies (d p : Nat) (c : Core) : (s.setCore d p c).dies = s.dies := rfl
@[simp] theorem State.setCore_mem (d p : Nat) (c : Core) : (s.setCore d p c).mem = s.mem := rfl
@[simp] theorem State.setCore_dep (d p : Nat) (c : Core) : (s.setCore d p c).dep = s.dep := rfl
@[simp] theorem State.setCore_step (d p : Nat) (c : Core) : (s.setCore d p c).step = s.step := rfl
@[simp] theorem State.setCore_mint (d p : Nat) (c : Core) : (s.setCore d p c).mint = s.mint := rfl
@[simp] theorem State.setCore_link (d p : Nat) (c : Core) : (s.setCore d p c).link = s.link := rfl
@[simp] theorem State.setCore_domains (d p : Nat) (c : Core) : (s.setCore d p c).domains = s.domains := rfl
@[simp] theorem State.setCore_tsy (d p : Nat) (c : Core) : (s.setCore d p c).tsy = s.tsy := rfl
@[simp] theorem State.setCore_jnl (d p : Nat) (c : Core) : (s.setCore d p c).jnl = s.jnl := rfl
@[simp] theorem State.setCore_fatal (d p : Nat) (c : Core) : (s.setCore d p c).fatal = s.fatal := rfl
@[simp] theorem State.setCore_rec_ (d p : Nat) (c : Core) : (s.setCore d p c).rec_ = s.rec_ := rfl
@[simp] theorem State.setCore_ldg (d p : Nat) (c : Core) : (s.setCore d p c).ldg = s.ldg := rfl
@[simp] theorem State.setCore_fuses (d p : Nat) (c : Core) : (s.setCore d p c).fuses = s.fuses := rfl
@[simp] theorem State.setCore_far (d p : Nat) (c : Core) : (s.setCore d p c).far = s.far := rfl
@[simp] theorem State.setCore_nvm (d p : Nat) (c : Core) : (s.setCore d p c).nvm = s.nvm := rfl
@[simp] theorem State.setCore_mbx (d p : Nat) (c : Core) : (s.setCore d p c).mbx = s.mbx := rfl
@[simp] theorem State.setCore_hostMem (d p : Nat) (c : Core) : (s.setCore d p c).hostMem = s.hostMem := rfl
@[simp] theorem State.setCore_power (d p : Nat) (c : Core) : (s.setCore d p c).power = s.power := rfl
@[simp] theorem State.setCore_tally (d p : Nat) (c : Core) : (s.setCore d p c).tally = s.tally := rfl
@[simp] theorem State.setCore_jtag (d p : Nat) (c : Core) : (s.setCore d p c).jtag = s.jtag := rfl
@[simp] theorem State.setCore_bus (d p : Nat) (c : Core) : (s.setCore d p c).bus = s.bus := rfl
@[simp] theorem State.setCore_mgmtOut (d p : Nat) (c : Core) : (s.setCore d p c).mgmtOut = s.mgmtOut := rfl
@[simp] theorem State.setCore_nextId (d p : Nat) (c : Core) : (s.setCore d p c).nextId = s.nextId := rfl
@[simp] theorem State.setCore_free (d p : Nat) (c : Core) : (s.setCore d p c).free = s.free := rfl

@[simp] theorem State.modCore_pending (d p : Nat) (f : Core → Core) : (s.modCore d p f).pending = s.pending := rfl
@[simp] theorem State.modCore_edge (d p : Nat) (f : Core → Core) : (s.modCore d p f).edge = s.edge := rfl
@[simp] theorem State.modCore_regs (d p : Nat) (f : Core → Core) : (s.modCore d p f).regs = s.regs := rfl
@[simp] theorem State.modCore_recent (d p : Nat) (f : Core → Core) : (s.modCore d p f).recent = s.recent := rfl
@[simp] theorem State.modCore_rings (d p : Nat) (f : Core → Core) : (s.modCore d p f).rings = s.rings := rfl
@[simp] theorem State.modCore_dies (d p : Nat) (f : Core → Core) : (s.modCore d p f).dies = s.dies := rfl
@[simp] theorem State.modCore_mem (d p : Nat) (f : Core → Core) : (s.modCore d p f).mem = s.mem := rfl
@[simp] theorem State.modCore_dep (d p : Nat) (f : Core → Core) : (s.modCore d p f).dep = s.dep := rfl
@[simp] theorem State.modCore_step (d p : Nat) (f : Core → Core) : (s.modCore d p f).step = s.step := rfl
@[simp] theorem State.modCore_mint (d p : Nat) (f : Core → Core) : (s.modCore d p f).mint = s.mint := rfl
@[simp] theorem State.modCore_link (d p : Nat) (f : Core → Core) : (s.modCore d p f).link = s.link := rfl
@[simp] theorem State.modCore_domains (d p : Nat) (f : Core → Core) : (s.modCore d p f).domains = s.domains := rfl
@[simp] theorem State.modCore_tsy (d p : Nat) (f : Core → Core) : (s.modCore d p f).tsy = s.tsy := rfl
@[simp] theorem State.modCore_jnl (d p : Nat) (f : Core → Core) : (s.modCore d p f).jnl = s.jnl := rfl
@[simp] theorem State.modCore_fatal (d p : Nat) (f : Core → Core) : (s.modCore d p f).fatal = s.fatal := rfl
@[simp] theorem State.modCore_rec_ (d p : Nat) (f : Core → Core) : (s.modCore d p f).rec_ = s.rec_ := rfl
@[simp] theorem State.modCore_ldg (d p : Nat) (f : Core → Core) : (s.modCore d p f).ldg = s.ldg := rfl
@[simp] theorem State.modCore_fuses (d p : Nat) (f : Core → Core) : (s.modCore d p f).fuses = s.fuses := rfl
@[simp] theorem State.modCore_far (d p : Nat) (f : Core → Core) : (s.modCore d p f).far = s.far := rfl
@[simp] theorem State.modCore_nvm (d p : Nat) (f : Core → Core) : (s.modCore d p f).nvm = s.nvm := rfl
@[simp] theorem State.modCore_mbx (d p : Nat) (f : Core → Core) : (s.modCore d p f).mbx = s.mbx := rfl
@[simp] theorem State.modCore_hostMem (d p : Nat) (f : Core → Core) : (s.modCore d p f).hostMem = s.hostMem := rfl
@[simp] theorem State.modCore_power (d p : Nat) (f : Core → Core) : (s.modCore d p f).power = s.power := rfl
@[simp] theorem State.modCore_tally (d p : Nat) (f : Core → Core) : (s.modCore d p f).tally = s.tally := rfl
@[simp] theorem State.modCore_jtag (d p : Nat) (f : Core → Core) : (s.modCore d p f).jtag = s.jtag := rfl
@[simp] theorem State.modCore_bus (d p : Nat) (f : Core → Core) : (s.modCore d p f).bus = s.bus := rfl
@[simp] theorem State.modCore_mgmtOut (d p : Nat) (f : Core → Core) : (s.modCore d p f).mgmtOut = s.mgmtOut := rfl
@[simp] theorem State.modCore_nextId (d p : Nat) (f : Core → Core) : (s.modCore d p f).nextId = s.nextId := rfl
@[simp] theorem State.modCore_free (d p : Nat) (f : Core → Core) : (s.modCore d p f).free = s.free := rfl

@[simp] theorem State.setRing_pending (d : Nat) (r : Ring) : (s.setRing d r).pending = s.pending := rfl
@[simp] theorem State.setRing_edge (d : Nat) (r : Ring) : (s.setRing d r).edge = s.edge := rfl
@[simp] theorem State.setRing_regs (d : Nat) (r : Ring) : (s.setRing d r).regs = s.regs := rfl
@[simp] theorem State.setRing_recent (d : Nat) (r : Ring) : (s.setRing d r).recent = s.recent := rfl
@[simp] theorem State.setRing_cores (d : Nat) (r : Ring) : (s.setRing d r).cores = s.cores := rfl
@[simp] theorem State.setRing_dies (d : Nat) (r : Ring) : (s.setRing d r).dies = s.dies := rfl
@[simp] theorem State.setRing_mem (d : Nat) (r : Ring) : (s.setRing d r).mem = s.mem := rfl
@[simp] theorem State.setRing_dep (d : Nat) (r : Ring) : (s.setRing d r).dep = s.dep := rfl
@[simp] theorem State.setRing_step (d : Nat) (r : Ring) : (s.setRing d r).step = s.step := rfl
@[simp] theorem State.setRing_mint (d : Nat) (r : Ring) : (s.setRing d r).mint = s.mint := rfl
@[simp] theorem State.setRing_link (d : Nat) (r : Ring) : (s.setRing d r).link = s.link := rfl
@[simp] theorem State.setRing_domains (d : Nat) (r : Ring) : (s.setRing d r).domains = s.domains := rfl
@[simp] theorem State.setRing_tsy (d : Nat) (r : Ring) : (s.setRing d r).tsy = s.tsy := rfl
@[simp] theorem State.setRing_jnl (d : Nat) (r : Ring) : (s.setRing d r).jnl = s.jnl := rfl
@[simp] theorem State.setRing_fatal (d : Nat) (r : Ring) : (s.setRing d r).fatal = s.fatal := rfl
@[simp] theorem State.setRing_rec_ (d : Nat) (r : Ring) : (s.setRing d r).rec_ = s.rec_ := rfl
@[simp] theorem State.setRing_ldg (d : Nat) (r : Ring) : (s.setRing d r).ldg = s.ldg := rfl
@[simp] theorem State.setRing_fuses (d : Nat) (r : Ring) : (s.setRing d r).fuses = s.fuses := rfl
@[simp] theorem State.setRing_far (d : Nat) (r : Ring) : (s.setRing d r).far = s.far := rfl
@[simp] theorem State.setRing_nvm (d : Nat) (r : Ring) : (s.setRing d r).nvm = s.nvm := rfl
@[simp] theorem State.setRing_mbx (d : Nat) (r : Ring) : (s.setRing d r).mbx = s.mbx := rfl
@[simp] theorem State.setRing_hostMem (d : Nat) (r : Ring) : (s.setRing d r).hostMem = s.hostMem := rfl
@[simp] theorem State.setRing_power (d : Nat) (r : Ring) : (s.setRing d r).power = s.power := rfl
@[simp] theorem State.setRing_tally (d : Nat) (r : Ring) : (s.setRing d r).tally = s.tally := rfl
@[simp] theorem State.setRing_jtag (d : Nat) (r : Ring) : (s.setRing d r).jtag = s.jtag := rfl
@[simp] theorem State.setRing_bus (d : Nat) (r : Ring) : (s.setRing d r).bus = s.bus := rfl
@[simp] theorem State.setRing_mgmtOut (d : Nat) (r : Ring) : (s.setRing d r).mgmtOut = s.mgmtOut := rfl
@[simp] theorem State.setRing_nextId (d : Nat) (r : Ring) : (s.setRing d r).nextId = s.nextId := rfl
@[simp] theorem State.setRing_free (d : Nat) (r : Ring) : (s.setRing d r).free = s.free := rfl

@[simp] theorem State.modRing_pending (d : Nat) (f : Ring → Ring) : (s.modRing d f).pending = s.pending := rfl
@[simp] theorem State.modRing_edge (d : Nat) (f : Ring → Ring) : (s.modRing d f).edge = s.edge := rfl
@[simp] theorem State.modRing_regs (d : Nat) (f : Ring → Ring) : (s.modRing d f).regs = s.regs := rfl
@[simp] theorem State.modRing_recent (d : Nat) (f : Ring → Ring) : (s.modRing d f).recent = s.recent := rfl
@[simp] theorem State.modRing_cores (d : Nat) (f : Ring → Ring) : (s.modRing d f).cores = s.cores := rfl
@[simp] theorem State.modRing_dies (d : Nat) (f : Ring → Ring) : (s.modRing d f).dies = s.dies := rfl
@[simp] theorem State.modRing_mem (d : Nat) (f : Ring → Ring) : (s.modRing d f).mem = s.mem := rfl
@[simp] theorem State.modRing_dep (d : Nat) (f : Ring → Ring) : (s.modRing d f).dep = s.dep := rfl
@[simp] theorem State.modRing_step (d : Nat) (f : Ring → Ring) : (s.modRing d f).step = s.step := rfl
@[simp] theorem State.modRing_mint (d : Nat) (f : Ring → Ring) : (s.modRing d f).mint = s.mint := rfl
@[simp] theorem State.modRing_link (d : Nat) (f : Ring → Ring) : (s.modRing d f).link = s.link := rfl
@[simp] theorem State.modRing_domains (d : Nat) (f : Ring → Ring) : (s.modRing d f).domains = s.domains := rfl
@[simp] theorem State.modRing_tsy (d : Nat) (f : Ring → Ring) : (s.modRing d f).tsy = s.tsy := rfl
@[simp] theorem State.modRing_jnl (d : Nat) (f : Ring → Ring) : (s.modRing d f).jnl = s.jnl := rfl
@[simp] theorem State.modRing_fatal (d : Nat) (f : Ring → Ring) : (s.modRing d f).fatal = s.fatal := rfl
@[simp] theorem State.modRing_rec_ (d : Nat) (f : Ring → Ring) : (s.modRing d f).rec_ = s.rec_ := rfl
@[simp] theorem State.modRing_ldg (d : Nat) (f : Ring → Ring) : (s.modRing d f).ldg = s.ldg := rfl
@[simp] theorem State.modRing_fuses (d : Nat) (f : Ring → Ring) : (s.modRing d f).fuses = s.fuses := rfl
@[simp] theorem State.modRing_far (d : Nat) (f : Ring → Ring) : (s.modRing d f).far = s.far := rfl
@[simp] theorem State.modRing_nvm (d : Nat) (f : Ring → Ring) : (s.modRing d f).nvm = s.nvm := rfl
@[simp] theorem State.modRing_mbx (d : Nat) (f : Ring → Ring) : (s.modRing d f).mbx = s.mbx := rfl
@[simp] theorem State.modRing_hostMem (d : Nat) (f : Ring → Ring) : (s.modRing d f).hostMem = s.hostMem := rfl
@[simp] theorem State.modRing_power (d : Nat) (f : Ring → Ring) : (s.modRing d f).power = s.power := rfl
@[simp] theorem State.modRing_tally (d : Nat) (f : Ring → Ring) : (s.modRing d f).tally = s.tally := rfl
@[simp] theorem State.modRing_jtag (d : Nat) (f : Ring → Ring) : (s.modRing d f).jtag = s.jtag := rfl
@[simp] theorem State.modRing_bus (d : Nat) (f : Ring → Ring) : (s.modRing d f).bus = s.bus := rfl
@[simp] theorem State.modRing_mgmtOut (d : Nat) (f : Ring → Ring) : (s.modRing d f).mgmtOut = s.mgmtOut := rfl
@[simp] theorem State.modRing_nextId (d : Nat) (f : Ring → Ring) : (s.modRing d f).nextId = s.nextId := rfl
@[simp] theorem State.modRing_free (d : Nat) (f : Ring → Ring) : (s.modRing d f).free = s.free := rfl

@[simp] theorem State.modStation_pending (d j : Nat) (f : Station → Station) : (s.modStation d j f).pending = s.pending := rfl
@[simp] theorem State.modStation_edge (d j : Nat) (f : Station → Station) : (s.modStation d j f).edge = s.edge := rfl
@[simp] theorem State.modStation_regs (d j : Nat) (f : Station → Station) : (s.modStation d j f).regs = s.regs := rfl
@[simp] theorem State.modStation_recent (d j : Nat) (f : Station → Station) : (s.modStation d j f).recent = s.recent := rfl
@[simp] theorem State.modStation_cores (d j : Nat) (f : Station → Station) : (s.modStation d j f).cores = s.cores := rfl
@[simp] theorem State.modStation_dies (d j : Nat) (f : Station → Station) : (s.modStation d j f).dies = s.dies := rfl
@[simp] theorem State.modStation_mem (d j : Nat) (f : Station → Station) : (s.modStation d j f).mem = s.mem := rfl
@[simp] theorem State.modStation_dep (d j : Nat) (f : Station → Station) : (s.modStation d j f).dep = s.dep := rfl
@[simp] theorem State.modStation_step (d j : Nat) (f : Station → Station) : (s.modStation d j f).step = s.step := rfl
@[simp] theorem State.modStation_mint (d j : Nat) (f : Station → Station) : (s.modStation d j f).mint = s.mint := rfl
@[simp] theorem State.modStation_link (d j : Nat) (f : Station → Station) : (s.modStation d j f).link = s.link := rfl
@[simp] theorem State.modStation_domains (d j : Nat) (f : Station → Station) : (s.modStation d j f).domains = s.domains := rfl
@[simp] theorem State.modStation_tsy (d j : Nat) (f : Station → Station) : (s.modStation d j f).tsy = s.tsy := rfl
@[simp] theorem State.modStation_jnl (d j : Nat) (f : Station → Station) : (s.modStation d j f).jnl = s.jnl := rfl
@[simp] theorem State.modStation_fatal (d j : Nat) (f : Station → Station) : (s.modStation d j f).fatal = s.fatal := rfl
@[simp] theorem State.modStation_rec_ (d j : Nat) (f : Station → Station) : (s.modStation d j f).rec_ = s.rec_ := rfl
@[simp] theorem State.modStation_ldg (d j : Nat) (f : Station → Station) : (s.modStation d j f).ldg = s.ldg := rfl
@[simp] theorem State.modStation_fuses (d j : Nat) (f : Station → Station) : (s.modStation d j f).fuses = s.fuses := rfl
@[simp] theorem State.modStation_far (d j : Nat) (f : Station → Station) : (s.modStation d j f).far = s.far := rfl
@[simp] theorem State.modStation_nvm (d j : Nat) (f : Station → Station) : (s.modStation d j f).nvm = s.nvm := rfl
@[simp] theorem State.modStation_mbx (d j : Nat) (f : Station → Station) : (s.modStation d j f).mbx = s.mbx := rfl
@[simp] theorem State.modStation_hostMem (d j : Nat) (f : Station → Station) : (s.modStation d j f).hostMem = s.hostMem := rfl
@[simp] theorem State.modStation_power (d j : Nat) (f : Station → Station) : (s.modStation d j f).power = s.power := rfl
@[simp] theorem State.modStation_tally (d j : Nat) (f : Station → Station) : (s.modStation d j f).tally = s.tally := rfl
@[simp] theorem State.modStation_jtag (d j : Nat) (f : Station → Station) : (s.modStation d j f).jtag = s.jtag := rfl
@[simp] theorem State.modStation_bus (d j : Nat) (f : Station → Station) : (s.modStation d j f).bus = s.bus := rfl
@[simp] theorem State.modStation_mgmtOut (d j : Nat) (f : Station → Station) : (s.modStation d j f).mgmtOut = s.mgmtOut := rfl
@[simp] theorem State.modStation_nextId (d j : Nat) (f : Station → Station) : (s.modStation d j f).nextId = s.nextId := rfl
@[simp] theorem State.modStation_free (d j : Nat) (f : Station → Station) : (s.modStation d j f).free = s.free := rfl

@[simp] theorem State.setDie_pending (d : Nat) (m : MemDie) : (s.setDie d m).pending = s.pending := rfl
@[simp] theorem State.setDie_edge (d : Nat) (m : MemDie) : (s.setDie d m).edge = s.edge := rfl
@[simp] theorem State.setDie_regs (d : Nat) (m : MemDie) : (s.setDie d m).regs = s.regs := rfl
@[simp] theorem State.setDie_recent (d : Nat) (m : MemDie) : (s.setDie d m).recent = s.recent := rfl
@[simp] theorem State.setDie_cores (d : Nat) (m : MemDie) : (s.setDie d m).cores = s.cores := rfl
@[simp] theorem State.setDie_rings (d : Nat) (m : MemDie) : (s.setDie d m).rings = s.rings := rfl
@[simp] theorem State.setDie_mem (d : Nat) (m : MemDie) : (s.setDie d m).mem = s.mem := rfl
@[simp] theorem State.setDie_dep (d : Nat) (m : MemDie) : (s.setDie d m).dep = s.dep := rfl
@[simp] theorem State.setDie_step (d : Nat) (m : MemDie) : (s.setDie d m).step = s.step := rfl
@[simp] theorem State.setDie_mint (d : Nat) (m : MemDie) : (s.setDie d m).mint = s.mint := rfl
@[simp] theorem State.setDie_link (d : Nat) (m : MemDie) : (s.setDie d m).link = s.link := rfl
@[simp] theorem State.setDie_domains (d : Nat) (m : MemDie) : (s.setDie d m).domains = s.domains := rfl
@[simp] theorem State.setDie_tsy (d : Nat) (m : MemDie) : (s.setDie d m).tsy = s.tsy := rfl
@[simp] theorem State.setDie_jnl (d : Nat) (m : MemDie) : (s.setDie d m).jnl = s.jnl := rfl
@[simp] theorem State.setDie_fatal (d : Nat) (m : MemDie) : (s.setDie d m).fatal = s.fatal := rfl
@[simp] theorem State.setDie_rec_ (d : Nat) (m : MemDie) : (s.setDie d m).rec_ = s.rec_ := rfl
@[simp] theorem State.setDie_ldg (d : Nat) (m : MemDie) : (s.setDie d m).ldg = s.ldg := rfl
@[simp] theorem State.setDie_fuses (d : Nat) (m : MemDie) : (s.setDie d m).fuses = s.fuses := rfl
@[simp] theorem State.setDie_far (d : Nat) (m : MemDie) : (s.setDie d m).far = s.far := rfl
@[simp] theorem State.setDie_nvm (d : Nat) (m : MemDie) : (s.setDie d m).nvm = s.nvm := rfl
@[simp] theorem State.setDie_mbx (d : Nat) (m : MemDie) : (s.setDie d m).mbx = s.mbx := rfl
@[simp] theorem State.setDie_hostMem (d : Nat) (m : MemDie) : (s.setDie d m).hostMem = s.hostMem := rfl
@[simp] theorem State.setDie_power (d : Nat) (m : MemDie) : (s.setDie d m).power = s.power := rfl
@[simp] theorem State.setDie_tally (d : Nat) (m : MemDie) : (s.setDie d m).tally = s.tally := rfl
@[simp] theorem State.setDie_jtag (d : Nat) (m : MemDie) : (s.setDie d m).jtag = s.jtag := rfl
@[simp] theorem State.setDie_bus (d : Nat) (m : MemDie) : (s.setDie d m).bus = s.bus := rfl
@[simp] theorem State.setDie_mgmtOut (d : Nat) (m : MemDie) : (s.setDie d m).mgmtOut = s.mgmtOut := rfl
@[simp] theorem State.setDie_nextId (d : Nat) (m : MemDie) : (s.setDie d m).nextId = s.nextId := rfl
@[simp] theorem State.setDie_free (d : Nat) (m : MemDie) : (s.setDie d m).free = s.free := rfl

@[simp] theorem State.modDie_pending (d : Nat) (f : MemDie → MemDie) : (s.modDie d f).pending = s.pending := rfl
@[simp] theorem State.modDie_edge (d : Nat) (f : MemDie → MemDie) : (s.modDie d f).edge = s.edge := rfl
@[simp] theorem State.modDie_regs (d : Nat) (f : MemDie → MemDie) : (s.modDie d f).regs = s.regs := rfl
@[simp] theorem State.modDie_recent (d : Nat) (f : MemDie → MemDie) : (s.modDie d f).recent = s.recent := rfl
@[simp] theorem State.modDie_cores (d : Nat) (f : MemDie → MemDie) : (s.modDie d f).cores = s.cores := rfl
@[simp] theorem State.modDie_rings (d : Nat) (f : MemDie → MemDie) : (s.modDie d f).rings = s.rings := rfl
@[simp] theorem State.modDie_mem (d : Nat) (f : MemDie → MemDie) : (s.modDie d f).mem = s.mem := rfl
@[simp] theorem State.modDie_dep (d : Nat) (f : MemDie → MemDie) : (s.modDie d f).dep = s.dep := rfl
@[simp] theorem State.modDie_step (d : Nat) (f : MemDie → MemDie) : (s.modDie d f).step = s.step := rfl
@[simp] theorem State.modDie_mint (d : Nat) (f : MemDie → MemDie) : (s.modDie d f).mint = s.mint := rfl
@[simp] theorem State.modDie_link (d : Nat) (f : MemDie → MemDie) : (s.modDie d f).link = s.link := rfl
@[simp] theorem State.modDie_domains (d : Nat) (f : MemDie → MemDie) : (s.modDie d f).domains = s.domains := rfl
@[simp] theorem State.modDie_tsy (d : Nat) (f : MemDie → MemDie) : (s.modDie d f).tsy = s.tsy := rfl
@[simp] theorem State.modDie_jnl (d : Nat) (f : MemDie → MemDie) : (s.modDie d f).jnl = s.jnl := rfl
@[simp] theorem State.modDie_fatal (d : Nat) (f : MemDie → MemDie) : (s.modDie d f).fatal = s.fatal := rfl
@[simp] theorem State.modDie_rec_ (d : Nat) (f : MemDie → MemDie) : (s.modDie d f).rec_ = s.rec_ := rfl
@[simp] theorem State.modDie_ldg (d : Nat) (f : MemDie → MemDie) : (s.modDie d f).ldg = s.ldg := rfl
@[simp] theorem State.modDie_fuses (d : Nat) (f : MemDie → MemDie) : (s.modDie d f).fuses = s.fuses := rfl
@[simp] theorem State.modDie_far (d : Nat) (f : MemDie → MemDie) : (s.modDie d f).far = s.far := rfl
@[simp] theorem State.modDie_nvm (d : Nat) (f : MemDie → MemDie) : (s.modDie d f).nvm = s.nvm := rfl
@[simp] theorem State.modDie_mbx (d : Nat) (f : MemDie → MemDie) : (s.modDie d f).mbx = s.mbx := rfl
@[simp] theorem State.modDie_hostMem (d : Nat) (f : MemDie → MemDie) : (s.modDie d f).hostMem = s.hostMem := rfl
@[simp] theorem State.modDie_power (d : Nat) (f : MemDie → MemDie) : (s.modDie d f).power = s.power := rfl
@[simp] theorem State.modDie_tally (d : Nat) (f : MemDie → MemDie) : (s.modDie d f).tally = s.tally := rfl
@[simp] theorem State.modDie_jtag (d : Nat) (f : MemDie → MemDie) : (s.modDie d f).jtag = s.jtag := rfl
@[simp] theorem State.modDie_bus (d : Nat) (f : MemDie → MemDie) : (s.modDie d f).bus = s.bus := rfl
@[simp] theorem State.modDie_mgmtOut (d : Nat) (f : MemDie → MemDie) : (s.modDie d f).mgmtOut = s.mgmtOut := rfl
@[simp] theorem State.modDie_nextId (d : Nat) (f : MemDie → MemDie) : (s.modDie d f).nextId = s.nextId := rfl
@[simp] theorem State.modDie_free (d : Nat) (f : MemDie → MemDie) : (s.modDie d f).free = s.free := rfl

@[simp] theorem State.setDomain_pending (i : Nat) (m : Domain) : (s.setDomain i m).pending = s.pending := rfl
@[simp] theorem State.setDomain_edge (i : Nat) (m : Domain) : (s.setDomain i m).edge = s.edge := rfl
@[simp] theorem State.setDomain_regs (i : Nat) (m : Domain) : (s.setDomain i m).regs = s.regs := rfl
@[simp] theorem State.setDomain_recent (i : Nat) (m : Domain) : (s.setDomain i m).recent = s.recent := rfl
@[simp] theorem State.setDomain_cores (i : Nat) (m : Domain) : (s.setDomain i m).cores = s.cores := rfl
@[simp] theorem State.setDomain_rings (i : Nat) (m : Domain) : (s.setDomain i m).rings = s.rings := rfl
@[simp] theorem State.setDomain_dies (i : Nat) (m : Domain) : (s.setDomain i m).dies = s.dies := rfl
@[simp] theorem State.setDomain_mem (i : Nat) (m : Domain) : (s.setDomain i m).mem = s.mem := rfl
@[simp] theorem State.setDomain_dep (i : Nat) (m : Domain) : (s.setDomain i m).dep = s.dep := rfl
@[simp] theorem State.setDomain_step (i : Nat) (m : Domain) : (s.setDomain i m).step = s.step := rfl
@[simp] theorem State.setDomain_mint (i : Nat) (m : Domain) : (s.setDomain i m).mint = s.mint := rfl
@[simp] theorem State.setDomain_link (i : Nat) (m : Domain) : (s.setDomain i m).link = s.link := rfl
@[simp] theorem State.setDomain_tsy (i : Nat) (m : Domain) : (s.setDomain i m).tsy = s.tsy := rfl
@[simp] theorem State.setDomain_jnl (i : Nat) (m : Domain) : (s.setDomain i m).jnl = s.jnl := rfl
@[simp] theorem State.setDomain_fatal (i : Nat) (m : Domain) : (s.setDomain i m).fatal = s.fatal := rfl
@[simp] theorem State.setDomain_rec_ (i : Nat) (m : Domain) : (s.setDomain i m).rec_ = s.rec_ := rfl
@[simp] theorem State.setDomain_ldg (i : Nat) (m : Domain) : (s.setDomain i m).ldg = s.ldg := rfl
@[simp] theorem State.setDomain_fuses (i : Nat) (m : Domain) : (s.setDomain i m).fuses = s.fuses := rfl
@[simp] theorem State.setDomain_far (i : Nat) (m : Domain) : (s.setDomain i m).far = s.far := rfl
@[simp] theorem State.setDomain_nvm (i : Nat) (m : Domain) : (s.setDomain i m).nvm = s.nvm := rfl
@[simp] theorem State.setDomain_mbx (i : Nat) (m : Domain) : (s.setDomain i m).mbx = s.mbx := rfl
@[simp] theorem State.setDomain_hostMem (i : Nat) (m : Domain) : (s.setDomain i m).hostMem = s.hostMem := rfl
@[simp] theorem State.setDomain_power (i : Nat) (m : Domain) : (s.setDomain i m).power = s.power := rfl
@[simp] theorem State.setDomain_tally (i : Nat) (m : Domain) : (s.setDomain i m).tally = s.tally := rfl
@[simp] theorem State.setDomain_jtag (i : Nat) (m : Domain) : (s.setDomain i m).jtag = s.jtag := rfl
@[simp] theorem State.setDomain_bus (i : Nat) (m : Domain) : (s.setDomain i m).bus = s.bus := rfl
@[simp] theorem State.setDomain_mgmtOut (i : Nat) (m : Domain) : (s.setDomain i m).mgmtOut = s.mgmtOut := rfl
@[simp] theorem State.setDomain_nextId (i : Nat) (m : Domain) : (s.setDomain i m).nextId = s.nextId := rfl
@[simp] theorem State.setDomain_free (i : Nat) (m : Domain) : (s.setDomain i m).free = s.free := rfl

@[simp] theorem State.modDomain_pending (i : Nat) (f : Domain → Domain) : (s.modDomain i f).pending = s.pending := rfl
@[simp] theorem State.modDomain_edge (i : Nat) (f : Domain → Domain) : (s.modDomain i f).edge = s.edge := rfl
@[simp] theorem State.modDomain_regs (i : Nat) (f : Domain → Domain) : (s.modDomain i f).regs = s.regs := rfl
@[simp] theorem State.modDomain_recent (i : Nat) (f : Domain → Domain) : (s.modDomain i f).recent = s.recent := rfl
@[simp] theorem State.modDomain_cores (i : Nat) (f : Domain → Domain) : (s.modDomain i f).cores = s.cores := rfl
@[simp] theorem State.modDomain_rings (i : Nat) (f : Domain → Domain) : (s.modDomain i f).rings = s.rings := rfl
@[simp] theorem State.modDomain_dies (i : Nat) (f : Domain → Domain) : (s.modDomain i f).dies = s.dies := rfl
@[simp] theorem State.modDomain_mem (i : Nat) (f : Domain → Domain) : (s.modDomain i f).mem = s.mem := rfl
@[simp] theorem State.modDomain_dep (i : Nat) (f : Domain → Domain) : (s.modDomain i f).dep = s.dep := rfl
@[simp] theorem State.modDomain_step (i : Nat) (f : Domain → Domain) : (s.modDomain i f).step = s.step := rfl
@[simp] theorem State.modDomain_mint (i : Nat) (f : Domain → Domain) : (s.modDomain i f).mint = s.mint := rfl
@[simp] theorem State.modDomain_link (i : Nat) (f : Domain → Domain) : (s.modDomain i f).link = s.link := rfl
@[simp] theorem State.modDomain_tsy (i : Nat) (f : Domain → Domain) : (s.modDomain i f).tsy = s.tsy := rfl
@[simp] theorem State.modDomain_jnl (i : Nat) (f : Domain → Domain) : (s.modDomain i f).jnl = s.jnl := rfl
@[simp] theorem State.modDomain_fatal (i : Nat) (f : Domain → Domain) : (s.modDomain i f).fatal = s.fatal := rfl
@[simp] theorem State.modDomain_rec_ (i : Nat) (f : Domain → Domain) : (s.modDomain i f).rec_ = s.rec_ := rfl
@[simp] theorem State.modDomain_ldg (i : Nat) (f : Domain → Domain) : (s.modDomain i f).ldg = s.ldg := rfl
@[simp] theorem State.modDomain_fuses (i : Nat) (f : Domain → Domain) : (s.modDomain i f).fuses = s.fuses := rfl
@[simp] theorem State.modDomain_far (i : Nat) (f : Domain → Domain) : (s.modDomain i f).far = s.far := rfl
@[simp] theorem State.modDomain_nvm (i : Nat) (f : Domain → Domain) : (s.modDomain i f).nvm = s.nvm := rfl
@[simp] theorem State.modDomain_mbx (i : Nat) (f : Domain → Domain) : (s.modDomain i f).mbx = s.mbx := rfl
@[simp] theorem State.modDomain_hostMem (i : Nat) (f : Domain → Domain) : (s.modDomain i f).hostMem = s.hostMem := rfl
@[simp] theorem State.modDomain_power (i : Nat) (f : Domain → Domain) : (s.modDomain i f).power = s.power := rfl
@[simp] theorem State.modDomain_tally (i : Nat) (f : Domain → Domain) : (s.modDomain i f).tally = s.tally := rfl
@[simp] theorem State.modDomain_jtag (i : Nat) (f : Domain → Domain) : (s.modDomain i f).jtag = s.jtag := rfl
@[simp] theorem State.modDomain_bus (i : Nat) (f : Domain → Domain) : (s.modDomain i f).bus = s.bus := rfl
@[simp] theorem State.modDomain_mgmtOut (i : Nat) (f : Domain → Domain) : (s.modDomain i f).mgmtOut = s.mgmtOut := rfl
@[simp] theorem State.modDomain_nextId (i : Nat) (f : Domain → Domain) : (s.modDomain i f).nextId = s.nextId := rfl
@[simp] theorem State.modDomain_free (i : Nat) (f : Domain → Domain) : (s.modDomain i f).free = s.free := rfl

@[simp] theorem State.setPort_pending (p : Nat) (q : Port) : (s.setPort p q).pending = s.pending := rfl
@[simp] theorem State.setPort_edge (p : Nat) (q : Port) : (s.setPort p q).edge = s.edge := rfl
@[simp] theorem State.setPort_regs (p : Nat) (q : Port) : (s.setPort p q).regs = s.regs := rfl
@[simp] theorem State.setPort_recent (p : Nat) (q : Port) : (s.setPort p q).recent = s.recent := rfl
@[simp] theorem State.setPort_cores (p : Nat) (q : Port) : (s.setPort p q).cores = s.cores := rfl
@[simp] theorem State.setPort_rings (p : Nat) (q : Port) : (s.setPort p q).rings = s.rings := rfl
@[simp] theorem State.setPort_dies (p : Nat) (q : Port) : (s.setPort p q).dies = s.dies := rfl
@[simp] theorem State.setPort_mem (p : Nat) (q : Port) : (s.setPort p q).mem = s.mem := rfl
@[simp] theorem State.setPort_dep (p : Nat) (q : Port) : (s.setPort p q).dep = s.dep := rfl
@[simp] theorem State.setPort_step (p : Nat) (q : Port) : (s.setPort p q).step = s.step := rfl
@[simp] theorem State.setPort_mint (p : Nat) (q : Port) : (s.setPort p q).mint = s.mint := rfl
@[simp] theorem State.setPort_domains (p : Nat) (q : Port) : (s.setPort p q).domains = s.domains := rfl
@[simp] theorem State.setPort_tsy (p : Nat) (q : Port) : (s.setPort p q).tsy = s.tsy := rfl
@[simp] theorem State.setPort_jnl (p : Nat) (q : Port) : (s.setPort p q).jnl = s.jnl := rfl
@[simp] theorem State.setPort_fatal (p : Nat) (q : Port) : (s.setPort p q).fatal = s.fatal := rfl
@[simp] theorem State.setPort_rec_ (p : Nat) (q : Port) : (s.setPort p q).rec_ = s.rec_ := rfl
@[simp] theorem State.setPort_ldg (p : Nat) (q : Port) : (s.setPort p q).ldg = s.ldg := rfl
@[simp] theorem State.setPort_fuses (p : Nat) (q : Port) : (s.setPort p q).fuses = s.fuses := rfl
@[simp] theorem State.setPort_far (p : Nat) (q : Port) : (s.setPort p q).far = s.far := rfl
@[simp] theorem State.setPort_nvm (p : Nat) (q : Port) : (s.setPort p q).nvm = s.nvm := rfl
@[simp] theorem State.setPort_mbx (p : Nat) (q : Port) : (s.setPort p q).mbx = s.mbx := rfl
@[simp] theorem State.setPort_hostMem (p : Nat) (q : Port) : (s.setPort p q).hostMem = s.hostMem := rfl
@[simp] theorem State.setPort_power (p : Nat) (q : Port) : (s.setPort p q).power = s.power := rfl
@[simp] theorem State.setPort_tally (p : Nat) (q : Port) : (s.setPort p q).tally = s.tally := rfl
@[simp] theorem State.setPort_jtag (p : Nat) (q : Port) : (s.setPort p q).jtag = s.jtag := rfl
@[simp] theorem State.setPort_bus (p : Nat) (q : Port) : (s.setPort p q).bus = s.bus := rfl
@[simp] theorem State.setPort_mgmtOut (p : Nat) (q : Port) : (s.setPort p q).mgmtOut = s.mgmtOut := rfl
@[simp] theorem State.setPort_nextId (p : Nat) (q : Port) : (s.setPort p q).nextId = s.nextId := rfl
@[simp] theorem State.setPort_free (p : Nat) (q : Port) : (s.setPort p q).free = s.free := rfl

@[simp] theorem State.modPort_pending (p : Nat) (f : Port → Port) : (s.modPort p f).pending = s.pending := rfl
@[simp] theorem State.modPort_edge (p : Nat) (f : Port → Port) : (s.modPort p f).edge = s.edge := rfl
@[simp] theorem State.modPort_regs (p : Nat) (f : Port → Port) : (s.modPort p f).regs = s.regs := rfl
@[simp] theorem State.modPort_recent (p : Nat) (f : Port → Port) : (s.modPort p f).recent = s.recent := rfl
@[simp] theorem State.modPort_cores (p : Nat) (f : Port → Port) : (s.modPort p f).cores = s.cores := rfl
@[simp] theorem State.modPort_rings (p : Nat) (f : Port → Port) : (s.modPort p f).rings = s.rings := rfl
@[simp] theorem State.modPort_dies (p : Nat) (f : Port → Port) : (s.modPort p f).dies = s.dies := rfl
@[simp] theorem State.modPort_mem (p : Nat) (f : Port → Port) : (s.modPort p f).mem = s.mem := rfl
@[simp] theorem State.modPort_dep (p : Nat) (f : Port → Port) : (s.modPort p f).dep = s.dep := rfl
@[simp] theorem State.modPort_step (p : Nat) (f : Port → Port) : (s.modPort p f).step = s.step := rfl
@[simp] theorem State.modPort_mint (p : Nat) (f : Port → Port) : (s.modPort p f).mint = s.mint := rfl
@[simp] theorem State.modPort_domains (p : Nat) (f : Port → Port) : (s.modPort p f).domains = s.domains := rfl
@[simp] theorem State.modPort_tsy (p : Nat) (f : Port → Port) : (s.modPort p f).tsy = s.tsy := rfl
@[simp] theorem State.modPort_jnl (p : Nat) (f : Port → Port) : (s.modPort p f).jnl = s.jnl := rfl
@[simp] theorem State.modPort_fatal (p : Nat) (f : Port → Port) : (s.modPort p f).fatal = s.fatal := rfl
@[simp] theorem State.modPort_rec_ (p : Nat) (f : Port → Port) : (s.modPort p f).rec_ = s.rec_ := rfl
@[simp] theorem State.modPort_ldg (p : Nat) (f : Port → Port) : (s.modPort p f).ldg = s.ldg := rfl
@[simp] theorem State.modPort_fuses (p : Nat) (f : Port → Port) : (s.modPort p f).fuses = s.fuses := rfl
@[simp] theorem State.modPort_far (p : Nat) (f : Port → Port) : (s.modPort p f).far = s.far := rfl
@[simp] theorem State.modPort_nvm (p : Nat) (f : Port → Port) : (s.modPort p f).nvm = s.nvm := rfl
@[simp] theorem State.modPort_mbx (p : Nat) (f : Port → Port) : (s.modPort p f).mbx = s.mbx := rfl
@[simp] theorem State.modPort_hostMem (p : Nat) (f : Port → Port) : (s.modPort p f).hostMem = s.hostMem := rfl
@[simp] theorem State.modPort_power (p : Nat) (f : Port → Port) : (s.modPort p f).power = s.power := rfl
@[simp] theorem State.modPort_tally (p : Nat) (f : Port → Port) : (s.modPort p f).tally = s.tally := rfl
@[simp] theorem State.modPort_jtag (p : Nat) (f : Port → Port) : (s.modPort p f).jtag = s.jtag := rfl
@[simp] theorem State.modPort_bus (p : Nat) (f : Port → Port) : (s.modPort p f).bus = s.bus := rfl
@[simp] theorem State.modPort_mgmtOut (p : Nat) (f : Port → Port) : (s.modPort p f).mgmtOut = s.mgmtOut := rfl
@[simp] theorem State.modPort_nextId (p : Nat) (f : Port → Port) : (s.modPort p f).nextId = s.nextId := rfl
@[simp] theorem State.modPort_free (p : Nat) (f : Port → Port) : (s.modPort p f).free = s.free := rfl

@[simp] theorem State.modSlice_pending (i : Nat) (f : Slice → Slice) : (s.modSlice i f).pending = s.pending := rfl
@[simp] theorem State.modSlice_edge (i : Nat) (f : Slice → Slice) : (s.modSlice i f).edge = s.edge := rfl
@[simp] theorem State.modSlice_regs (i : Nat) (f : Slice → Slice) : (s.modSlice i f).regs = s.regs := rfl
@[simp] theorem State.modSlice_recent (i : Nat) (f : Slice → Slice) : (s.modSlice i f).recent = s.recent := rfl
@[simp] theorem State.modSlice_cores (i : Nat) (f : Slice → Slice) : (s.modSlice i f).cores = s.cores := rfl
@[simp] theorem State.modSlice_rings (i : Nat) (f : Slice → Slice) : (s.modSlice i f).rings = s.rings := rfl
@[simp] theorem State.modSlice_dies (i : Nat) (f : Slice → Slice) : (s.modSlice i f).dies = s.dies := rfl
@[simp] theorem State.modSlice_mem (i : Nat) (f : Slice → Slice) : (s.modSlice i f).mem = s.mem := rfl
@[simp] theorem State.modSlice_step (i : Nat) (f : Slice → Slice) : (s.modSlice i f).step = s.step := rfl
@[simp] theorem State.modSlice_mint (i : Nat) (f : Slice → Slice) : (s.modSlice i f).mint = s.mint := rfl
@[simp] theorem State.modSlice_link (i : Nat) (f : Slice → Slice) : (s.modSlice i f).link = s.link := rfl
@[simp] theorem State.modSlice_domains (i : Nat) (f : Slice → Slice) : (s.modSlice i f).domains = s.domains := rfl
@[simp] theorem State.modSlice_tsy (i : Nat) (f : Slice → Slice) : (s.modSlice i f).tsy = s.tsy := rfl
@[simp] theorem State.modSlice_jnl (i : Nat) (f : Slice → Slice) : (s.modSlice i f).jnl = s.jnl := rfl
@[simp] theorem State.modSlice_fatal (i : Nat) (f : Slice → Slice) : (s.modSlice i f).fatal = s.fatal := rfl
@[simp] theorem State.modSlice_rec_ (i : Nat) (f : Slice → Slice) : (s.modSlice i f).rec_ = s.rec_ := rfl
@[simp] theorem State.modSlice_ldg (i : Nat) (f : Slice → Slice) : (s.modSlice i f).ldg = s.ldg := rfl
@[simp] theorem State.modSlice_fuses (i : Nat) (f : Slice → Slice) : (s.modSlice i f).fuses = s.fuses := rfl
@[simp] theorem State.modSlice_far (i : Nat) (f : Slice → Slice) : (s.modSlice i f).far = s.far := rfl
@[simp] theorem State.modSlice_nvm (i : Nat) (f : Slice → Slice) : (s.modSlice i f).nvm = s.nvm := rfl
@[simp] theorem State.modSlice_mbx (i : Nat) (f : Slice → Slice) : (s.modSlice i f).mbx = s.mbx := rfl
@[simp] theorem State.modSlice_hostMem (i : Nat) (f : Slice → Slice) : (s.modSlice i f).hostMem = s.hostMem := rfl
@[simp] theorem State.modSlice_power (i : Nat) (f : Slice → Slice) : (s.modSlice i f).power = s.power := rfl
@[simp] theorem State.modSlice_tally (i : Nat) (f : Slice → Slice) : (s.modSlice i f).tally = s.tally := rfl
@[simp] theorem State.modSlice_jtag (i : Nat) (f : Slice → Slice) : (s.modSlice i f).jtag = s.jtag := rfl
@[simp] theorem State.modSlice_bus (i : Nat) (f : Slice → Slice) : (s.modSlice i f).bus = s.bus := rfl
@[simp] theorem State.modSlice_mgmtOut (i : Nat) (f : Slice → Slice) : (s.modSlice i f).mgmtOut = s.mgmtOut := rfl
@[simp] theorem State.modSlice_nextId (i : Nat) (f : Slice → Slice) : (s.modSlice i f).nextId = s.nextId := rfl
@[simp] theorem State.modSlice_free (i : Nat) (f : Slice → Slice) : (s.modSlice i f).free = s.free := rfl

/-! ### Registers -/

@[simp] theorem State.reg_setReg_same (off : Nat) (v : Word) : (s.setReg off v).reg off = v := Tab.read_write_same _ _ _ _

theorem State.reg_setReg_other {off o : Nat} (v : Word) (h : o ≠ off) : (s.setReg off v).reg o = s.reg o :=
  Tab.read_write_other _ _ _ v h

theorem State.rf_setReg_other {off o : Nat} (v : Word) (hi lo : Nat) (h : o ≠ off) : (s.setReg off v).rf o hi lo = s.rf o hi lo := by
  unfold State.rf; rw [State.reg_setReg_other s v h]

theorem State.reg_setRf_other {off o : Nat} (hi lo v : Nat) (h : o ≠ off) : (s.setRf off hi lo v).reg o = s.reg o :=
  State.reg_setReg_other s _ h

theorem State.rf_setRf_other {off o : Nat} (hi lo v hi' lo' : Nat) (h : o ≠ off) :
    (s.setRf off hi lo v).rf o hi' lo' = s.rf o hi' lo' := State.rf_setReg_other s _ hi' lo' h

theorem State.reg_orReg_other {off o : Nat} (mask : Nat) (h : o ≠ off) : (s.orReg off mask).reg o = s.reg o :=
  State.reg_setReg_other s _ h

@[simp] theorem State.reg_orReg_same (off mask : Nat) : (s.orReg off mask).reg off = s.reg off ||| BitVec.ofNat 32 mask :=
  State.reg_setReg_same s off _

theorem State.reg_countRf_other {off o : Nat} (hi lo n : Nat) (h : o ≠ off) : (s.countRf off hi lo n).reg o = s.reg o :=
  State.reg_setReg_other s _ h

@[simp] theorem State.core_setCore_same (d p : Nat) (x : Core) : (s.setCore d p x).core d p = x := Tab.read_write_same _ _ _ _
@[simp] theorem State.core_modCore_same (d p : Nat) (f : Core → Core) : (s.modCore d p f).core d p = f (s.core d p) := Tab.read_write_same _ _ _ _
theorem State.core_setCore_other {d p d' p' : Nat} (x : Core) (h : 34 * d' + p' ≠ 34 * d + p) : (s.setCore d p x).core d' p' = s.core d' p' := Tab.read_write_other _ _ _ x h
theorem State.core_modCore_other {d p d' p' : Nat} (f : Core → Core) (h : 34 * d' + p' ≠ 34 * d + p) : (s.modCore d p f).core d' p' = s.core d' p' := Tab.read_write_other _ _ _ _ h

@[simp] theorem State.ring_setRing_same (d : Nat) (x : Ring) : (s.setRing d x).ring d = x := Tab.read_write_same _ _ _ _
@[simp] theorem State.ring_modRing_same (d : Nat) (f : Ring → Ring) : (s.modRing d f).ring d = f (s.ring d) := Tab.read_write_same _ _ _ _
theorem State.ring_setRing_other {d d' : Nat} (x : Ring) (h : d' ≠ d) : (s.setRing d x).ring d' = s.ring d' := Tab.read_write_other _ _ _ x h
theorem State.ring_modRing_other {d d' : Nat} (f : Ring → Ring) (h : d' ≠ d) : (s.modRing d f).ring d' = s.ring d' := Tab.read_write_other _ _ _ _ h

@[simp] theorem State.die_setDie_same (d : Nat) (x : MemDie) : (s.setDie d x).die d = x := Tab.read_write_same _ _ _ _
@[simp] theorem State.die_modDie_same (d : Nat) (f : MemDie → MemDie) : (s.modDie d f).die d = f (s.die d) := Tab.read_write_same _ _ _ _
theorem State.die_setDie_other {d d' : Nat} (x : MemDie) (h : d' ≠ d) : (s.setDie d x).die d' = s.die d' := Tab.read_write_other _ _ _ x h
theorem State.die_modDie_other {d d' : Nat} (f : MemDie → MemDie) (h : d' ≠ d) : (s.modDie d f).die d' = s.die d' := Tab.read_write_other _ _ _ _ h

@[simp] theorem State.domain_setDomain_same (i : Nat) (x : Domain) : (s.setDomain i x).domain i = x := Tab.read_write_same _ _ _ _
@[simp] theorem State.domain_modDomain_same (i : Nat) (f : Domain → Domain) : (s.modDomain i f).domain i = f (s.domain i) := Tab.read_write_same _ _ _ _
theorem State.domain_setDomain_other {i i' : Nat} (x : Domain) (h : i' ≠ i) : (s.setDomain i x).domain i' = s.domain i' := Tab.read_write_other _ _ _ x h
theorem State.domain_modDomain_other {i i' : Nat} (f : Domain → Domain) (h : i' ≠ i) : (s.modDomain i f).domain i' = s.domain i' := Tab.read_write_other _ _ _ _ h

@[simp] theorem State.port_setPort_same (i : Nat) (x : Port) : (s.setPort i x).port i = x := Tab.read_write_same _ _ _ _
@[simp] theorem State.port_modPort_same (i : Nat) (f : Port → Port) : (s.modPort i f).port i = f (s.port i) := Tab.read_write_same _ _ _ _
theorem State.port_setPort_other {i i' : Nat} (x : Port) (h : i' ≠ i) : (s.setPort i x).port i' = s.port i' := Tab.read_write_other _ _ _ x h
theorem State.port_modPort_other {i i' : Nat} (f : Port → Port) (h : i' ≠ i) : (s.modPort i f).port i' = s.port i' := Tab.read_write_other _ _ _ _ h

/-! ### Tally and time -/

/-- Counting an event changes nothing but Tally. -/
theorem State.count_eq (b ev unit v : Nat) : ∃ x, s.count b ev unit v = { s with tally := x } := by
  unfold State.count
  split
  · exact ⟨_, rfl⟩
  · exact ⟨s.tally, rfl⟩

/-- Counting units of a port changes nothing but Tally. -/
theorem State.units_eq (off n : Nat) : ∃ x, s.units off n = { s with tally := x } := by
  unfold State.units
  split
  · exact ⟨_, rfl⟩
  · exact ⟨s.tally, rfl⟩

/-- What edges that pass leave: all but the edge count, the registers, the cores, the domains and Tally. -/
def State.standing (s : State) : State :=
  { s with edge := 0, regs := [], recent := {}, cores := [], domains := [], tally := {} }

/-- A fold of operations that leave what stands leaves it. -/
theorem State.foldl_standing {α : Type} (f : State → α → State) (h : ∀ s x, (f s x).standing = s.standing) (l : List α) :
    (l.foldl f s).standing = s.standing := by
  induction l generalizing s with
  | nil => rfl
  | cons a t ih => rw [List.foldl_cons, ih, h]

theorem State.count_standing (b ev unit v : Nat) : (s.count b ev unit v).standing = s.standing := by
  obtain ⟨x, hx⟩ := s.count_eq b ev unit v
  rw [hx]; rfl

theorem State.restOver_standing (n : Nat) : (s.restOver n).standing = s.standing := by
  unfold State.restOver
  refine s.foldl_standing _ (fun t i => ?_) _
  split <;> rfl

theorem State.advanceArray_standing (d p edge i : Nat) : (s.advanceArray d p edge i).standing = s.standing := by
  unfold State.advanceArray
  dsimp only
  split
  · rfl
  · refine (State.foldl_standing _ _ (fun t e => ?_) _).trans ?_
    · split <;> simp only [State.count_standing]
    · split <;> rfl

theorem State.modCore_standing (d p : Nat) (f : Core → Core) : (s.modCore d p f).standing = s.standing := rfl

theorem State.settleStop_standing (d p : Nat) : (s.settleStop d p).standing = s.standing := by
  unfold State.settleStop
  split
  · exact s.modCore_standing d p _
  · rfl

theorem State.advanceCores_standing (edge : Nat) : (s.advanceCores edge).standing = s.standing := by
  unfold State.advanceCores
  refine s.foldl_standing _ (fun t k => ?_) _
  dsimp only
  split
  · rfl
  · rw [State.settleStop_standing, State.modCore_standing]
    exact State.foldl_standing t _ (fun u i => State.advanceArray_standing u _ _ edge i) _

/-- Edges that pass change the edge count, the registers, the cores, the domains and Tally alone. -/
theorem State.pass_standing (n : Nat) : (s.pass n).standing = s.standing := by
  unfold State.pass
  dsimp only
  have h : (State.standing { s.restOver n with tally := s.levels n }) = s.standing := s.restOver_standing n
  split
  · exact (State.advanceCores_standing _ _).trans h
  · exact h

/-- Moving to an edge changes no more than edges that pass. -/
theorem State.at_standing (due : Nat) : (s.at due).standing = s.standing := by
  unfold State.at
  split
  · rfl
  · exact s.pass_standing _

@[simp] theorem State.edge_pass (n : Nat) : (s.pass n).edge = s.edge + n := rfl

/-- Moving to an edge never moves back. -/
@[simp] theorem State.edge_at (due : Nat) : (s.at due).edge = max s.edge due := by
  unfold State.at
  split
  · rename_i h; exact (Nat.max_eq_left h).symm
  · rw [State.edge_pass]; omega

/-- Two states that stand alike agree on what stands. -/
theorem State.standing_get {α : Type} {s t : State} (h : s.standing = t.standing) (g : State → α) : g s.standing = g t.standing :=
  congrArg g h

/-- Moving to the present edge or an earlier one is nothing. -/
theorem State.at_past {due : Nat} (h : due ≤ s.edge) : s.at due = s := if_pos h


@[simp] theorem State.count_pending (b ev unit v : Nat) : (s.count b ev unit v).pending = s.pending := by
  obtain ⟨x, hx⟩ := s.count_eq b ev unit v; rw [hx]
@[simp] theorem State.count_edge (b ev unit v : Nat) : (s.count b ev unit v).edge = s.edge := by
  obtain ⟨x, hx⟩ := s.count_eq b ev unit v; rw [hx]
@[simp] theorem State.count_regs (b ev unit v : Nat) : (s.count b ev unit v).regs = s.regs := by
  obtain ⟨x, hx⟩ := s.count_eq b ev unit v; rw [hx]
@[simp] theorem State.count_recent (b ev unit v : Nat) : (s.count b ev unit v).recent = s.recent := by
  obtain ⟨x, hx⟩ := s.count_eq b ev unit v; rw [hx]
@[simp] theorem State.count_cores (b ev unit v : Nat) : (s.count b ev unit v).cores = s.cores := by
  obtain ⟨x, hx⟩ := s.count_eq b ev unit v; rw [hx]
@[simp] theorem State.count_rings (b ev unit v : Nat) : (s.count b ev unit v).rings = s.rings := by
  obtain ⟨x, hx⟩ := s.count_eq b ev unit v; rw [hx]
@[simp] theorem State.count_dies (b ev unit v : Nat) : (s.count b ev unit v).dies = s.dies := by
  obtain ⟨x, hx⟩ := s.count_eq b ev unit v; rw [hx]
@[simp] theorem State.count_mem (b ev unit v : Nat) : (s.count b ev unit v).mem = s.mem := by
  obtain ⟨x, hx⟩ := s.count_eq b ev unit v; rw [hx]
@[simp] theorem State.count_dep (b ev unit v : Nat) : (s.count b ev unit v).dep = s.dep := by
  obtain ⟨x, hx⟩ := s.count_eq b ev unit v; rw [hx]
@[simp] theorem State.count_step (b ev unit v : Nat) : (s.count b ev unit v).step = s.step := by
  obtain ⟨x, hx⟩ := s.count_eq b ev unit v; rw [hx]
@[simp] theorem State.count_mint (b ev unit v : Nat) : (s.count b ev unit v).mint = s.mint := by
  obtain ⟨x, hx⟩ := s.count_eq b ev unit v; rw [hx]
@[simp] theorem State.count_link (b ev unit v : Nat) : (s.count b ev unit v).link = s.link := by
  obtain ⟨x, hx⟩ := s.count_eq b ev unit v; rw [hx]
@[simp] theorem State.count_domains (b ev unit v : Nat) : (s.count b ev unit v).domains = s.domains := by
  obtain ⟨x, hx⟩ := s.count_eq b ev unit v; rw [hx]
@[simp] theorem State.count_tsy (b ev unit v : Nat) : (s.count b ev unit v).tsy = s.tsy := by
  obtain ⟨x, hx⟩ := s.count_eq b ev unit v; rw [hx]
@[simp] theorem State.count_jnl (b ev unit v : Nat) : (s.count b ev unit v).jnl = s.jnl := by
  obtain ⟨x, hx⟩ := s.count_eq b ev unit v; rw [hx]
@[simp] theorem State.count_fatal (b ev unit v : Nat) : (s.count b ev unit v).fatal = s.fatal := by
  obtain ⟨x, hx⟩ := s.count_eq b ev unit v; rw [hx]
@[simp] theorem State.count_rec_ (b ev unit v : Nat) : (s.count b ev unit v).rec_ = s.rec_ := by
  obtain ⟨x, hx⟩ := s.count_eq b ev unit v; rw [hx]
@[simp] theorem State.count_ldg (b ev unit v : Nat) : (s.count b ev unit v).ldg = s.ldg := by
  obtain ⟨x, hx⟩ := s.count_eq b ev unit v; rw [hx]
@[simp] theorem State.count_fuses (b ev unit v : Nat) : (s.count b ev unit v).fuses = s.fuses := by
  obtain ⟨x, hx⟩ := s.count_eq b ev unit v; rw [hx]
@[simp] theorem State.count_far (b ev unit v : Nat) : (s.count b ev unit v).far = s.far := by
  obtain ⟨x, hx⟩ := s.count_eq b ev unit v; rw [hx]
@[simp] theorem State.count_nvm (b ev unit v : Nat) : (s.count b ev unit v).nvm = s.nvm := by
  obtain ⟨x, hx⟩ := s.count_eq b ev unit v; rw [hx]
@[simp] theorem State.count_mbx (b ev unit v : Nat) : (s.count b ev unit v).mbx = s.mbx := by
  obtain ⟨x, hx⟩ := s.count_eq b ev unit v; rw [hx]
@[simp] theorem State.count_hostMem (b ev unit v : Nat) : (s.count b ev unit v).hostMem = s.hostMem := by
  obtain ⟨x, hx⟩ := s.count_eq b ev unit v; rw [hx]
@[simp] theorem State.count_power (b ev unit v : Nat) : (s.count b ev unit v).power = s.power := by
  obtain ⟨x, hx⟩ := s.count_eq b ev unit v; rw [hx]
@[simp] theorem State.count_jtag (b ev unit v : Nat) : (s.count b ev unit v).jtag = s.jtag := by
  obtain ⟨x, hx⟩ := s.count_eq b ev unit v; rw [hx]
@[simp] theorem State.count_bus (b ev unit v : Nat) : (s.count b ev unit v).bus = s.bus := by
  obtain ⟨x, hx⟩ := s.count_eq b ev unit v; rw [hx]
@[simp] theorem State.count_mgmtOut (b ev unit v : Nat) : (s.count b ev unit v).mgmtOut = s.mgmtOut := by
  obtain ⟨x, hx⟩ := s.count_eq b ev unit v; rw [hx]
@[simp] theorem State.count_nextId (b ev unit v : Nat) : (s.count b ev unit v).nextId = s.nextId := by
  obtain ⟨x, hx⟩ := s.count_eq b ev unit v; rw [hx]
@[simp] theorem State.count_free (b ev unit v : Nat) : (s.count b ev unit v).free = s.free := by
  obtain ⟨x, hx⟩ := s.count_eq b ev unit v; rw [hx]

@[simp] theorem State.units_pending (off n : Nat) : (s.units off n).pending = s.pending := by
  obtain ⟨x, hx⟩ := s.units_eq off n; rw [hx]
@[simp] theorem State.units_edge (off n : Nat) : (s.units off n).edge = s.edge := by
  obtain ⟨x, hx⟩ := s.units_eq off n; rw [hx]
@[simp] theorem State.units_regs (off n : Nat) : (s.units off n).regs = s.regs := by
  obtain ⟨x, hx⟩ := s.units_eq off n; rw [hx]
@[simp] theorem State.units_recent (off n : Nat) : (s.units off n).recent = s.recent := by
  obtain ⟨x, hx⟩ := s.units_eq off n; rw [hx]
@[simp] theorem State.units_cores (off n : Nat) : (s.units off n).cores = s.cores := by
  obtain ⟨x, hx⟩ := s.units_eq off n; rw [hx]
@[simp] theorem State.units_rings (off n : Nat) : (s.units off n).rings = s.rings := by
  obtain ⟨x, hx⟩ := s.units_eq off n; rw [hx]
@[simp] theorem State.units_dies (off n : Nat) : (s.units off n).dies = s.dies := by
  obtain ⟨x, hx⟩ := s.units_eq off n; rw [hx]
@[simp] theorem State.units_mem (off n : Nat) : (s.units off n).mem = s.mem := by
  obtain ⟨x, hx⟩ := s.units_eq off n; rw [hx]
@[simp] theorem State.units_dep (off n : Nat) : (s.units off n).dep = s.dep := by
  obtain ⟨x, hx⟩ := s.units_eq off n; rw [hx]
@[simp] theorem State.units_step (off n : Nat) : (s.units off n).step = s.step := by
  obtain ⟨x, hx⟩ := s.units_eq off n; rw [hx]
@[simp] theorem State.units_mint (off n : Nat) : (s.units off n).mint = s.mint := by
  obtain ⟨x, hx⟩ := s.units_eq off n; rw [hx]
@[simp] theorem State.units_link (off n : Nat) : (s.units off n).link = s.link := by
  obtain ⟨x, hx⟩ := s.units_eq off n; rw [hx]
@[simp] theorem State.units_domains (off n : Nat) : (s.units off n).domains = s.domains := by
  obtain ⟨x, hx⟩ := s.units_eq off n; rw [hx]
@[simp] theorem State.units_tsy (off n : Nat) : (s.units off n).tsy = s.tsy := by
  obtain ⟨x, hx⟩ := s.units_eq off n; rw [hx]
@[simp] theorem State.units_jnl (off n : Nat) : (s.units off n).jnl = s.jnl := by
  obtain ⟨x, hx⟩ := s.units_eq off n; rw [hx]
@[simp] theorem State.units_fatal (off n : Nat) : (s.units off n).fatal = s.fatal := by
  obtain ⟨x, hx⟩ := s.units_eq off n; rw [hx]
@[simp] theorem State.units_rec_ (off n : Nat) : (s.units off n).rec_ = s.rec_ := by
  obtain ⟨x, hx⟩ := s.units_eq off n; rw [hx]
@[simp] theorem State.units_ldg (off n : Nat) : (s.units off n).ldg = s.ldg := by
  obtain ⟨x, hx⟩ := s.units_eq off n; rw [hx]
@[simp] theorem State.units_fuses (off n : Nat) : (s.units off n).fuses = s.fuses := by
  obtain ⟨x, hx⟩ := s.units_eq off n; rw [hx]
@[simp] theorem State.units_far (off n : Nat) : (s.units off n).far = s.far := by
  obtain ⟨x, hx⟩ := s.units_eq off n; rw [hx]
@[simp] theorem State.units_nvm (off n : Nat) : (s.units off n).nvm = s.nvm := by
  obtain ⟨x, hx⟩ := s.units_eq off n; rw [hx]
@[simp] theorem State.units_mbx (off n : Nat) : (s.units off n).mbx = s.mbx := by
  obtain ⟨x, hx⟩ := s.units_eq off n; rw [hx]
@[simp] theorem State.units_hostMem (off n : Nat) : (s.units off n).hostMem = s.hostMem := by
  obtain ⟨x, hx⟩ := s.units_eq off n; rw [hx]
@[simp] theorem State.units_power (off n : Nat) : (s.units off n).power = s.power := by
  obtain ⟨x, hx⟩ := s.units_eq off n; rw [hx]
@[simp] theorem State.units_jtag (off n : Nat) : (s.units off n).jtag = s.jtag := by
  obtain ⟨x, hx⟩ := s.units_eq off n; rw [hx]
@[simp] theorem State.units_bus (off n : Nat) : (s.units off n).bus = s.bus := by
  obtain ⟨x, hx⟩ := s.units_eq off n; rw [hx]
@[simp] theorem State.units_mgmtOut (off n : Nat) : (s.units off n).mgmtOut = s.mgmtOut := by
  obtain ⟨x, hx⟩ := s.units_eq off n; rw [hx]
@[simp] theorem State.units_nextId (off n : Nat) : (s.units off n).nextId = s.nextId := by
  obtain ⟨x, hx⟩ := s.units_eq off n; rw [hx]
@[simp] theorem State.units_free (off n : Nat) : (s.units off n).free = s.free := by
  obtain ⟨x, hx⟩ := s.units_eq off n; rw [hx]

@[simp] theorem State.pass_pending (n : Nat) : (s.pass n).pending = s.pending :=
  State.standing_get (s.pass_standing n) State.pending
@[simp] theorem State.pass_rings (n : Nat) : (s.pass n).rings = s.rings :=
  State.standing_get (s.pass_standing n) State.rings
@[simp] theorem State.pass_dies (n : Nat) : (s.pass n).dies = s.dies :=
  State.standing_get (s.pass_standing n) State.dies
@[simp] theorem State.pass_mem (n : Nat) : (s.pass n).mem = s.mem :=
  State.standing_get (s.pass_standing n) State.mem
@[simp] theorem State.pass_dep (n : Nat) : (s.pass n).dep = s.dep :=
  State.standing_get (s.pass_standing n) State.dep
@[simp] theorem State.pass_step (n : Nat) : (s.pass n).step = s.step :=
  State.standing_get (s.pass_standing n) State.step
@[simp] theorem State.pass_mint (n : Nat) : (s.pass n).mint = s.mint :=
  State.standing_get (s.pass_standing n) State.mint
@[simp] theorem State.pass_link (n : Nat) : (s.pass n).link = s.link :=
  State.standing_get (s.pass_standing n) State.link
@[simp] theorem State.pass_tsy (n : Nat) : (s.pass n).tsy = s.tsy :=
  State.standing_get (s.pass_standing n) State.tsy
@[simp] theorem State.pass_jnl (n : Nat) : (s.pass n).jnl = s.jnl :=
  State.standing_get (s.pass_standing n) State.jnl
@[simp] theorem State.pass_fatal (n : Nat) : (s.pass n).fatal = s.fatal :=
  State.standing_get (s.pass_standing n) State.fatal
@[simp] theorem State.pass_rec_ (n : Nat) : (s.pass n).rec_ = s.rec_ :=
  State.standing_get (s.pass_standing n) State.rec_
@[simp] theorem State.pass_ldg (n : Nat) : (s.pass n).ldg = s.ldg :=
  State.standing_get (s.pass_standing n) State.ldg
@[simp] theorem State.pass_fuses (n : Nat) : (s.pass n).fuses = s.fuses :=
  State.standing_get (s.pass_standing n) State.fuses
@[simp] theorem State.pass_far (n : Nat) : (s.pass n).far = s.far :=
  State.standing_get (s.pass_standing n) State.far
@[simp] theorem State.pass_nvm (n : Nat) : (s.pass n).nvm = s.nvm :=
  State.standing_get (s.pass_standing n) State.nvm
@[simp] theorem State.pass_mbx (n : Nat) : (s.pass n).mbx = s.mbx :=
  State.standing_get (s.pass_standing n) State.mbx
@[simp] theorem State.pass_hostMem (n : Nat) : (s.pass n).hostMem = s.hostMem :=
  State.standing_get (s.pass_standing n) State.hostMem
@[simp] theorem State.pass_power (n : Nat) : (s.pass n).power = s.power :=
  State.standing_get (s.pass_standing n) State.power
@[simp] theorem State.pass_jtag (n : Nat) : (s.pass n).jtag = s.jtag :=
  State.standing_get (s.pass_standing n) State.jtag
@[simp] theorem State.pass_bus (n : Nat) : (s.pass n).bus = s.bus :=
  State.standing_get (s.pass_standing n) State.bus
@[simp] theorem State.pass_mgmtOut (n : Nat) : (s.pass n).mgmtOut = s.mgmtOut :=
  State.standing_get (s.pass_standing n) State.mgmtOut
@[simp] theorem State.pass_nextId (n : Nat) : (s.pass n).nextId = s.nextId :=
  State.standing_get (s.pass_standing n) State.nextId
@[simp] theorem State.pass_free (n : Nat) : (s.pass n).free = s.free :=
  State.standing_get (s.pass_standing n) State.free

@[simp] theorem State.at_pending (due : Nat) : (s.at due).pending = s.pending :=
  State.standing_get (s.at_standing due) State.pending
@[simp] theorem State.at_rings (due : Nat) : (s.at due).rings = s.rings :=
  State.standing_get (s.at_standing due) State.rings
@[simp] theorem State.at_dies (due : Nat) : (s.at due).dies = s.dies :=
  State.standing_get (s.at_standing due) State.dies
@[simp] theorem State.at_mem (due : Nat) : (s.at due).mem = s.mem :=
  State.standing_get (s.at_standing due) State.mem
@[simp] theorem State.at_dep (due : Nat) : (s.at due).dep = s.dep :=
  State.standing_get (s.at_standing due) State.dep
@[simp] theorem State.at_step (due : Nat) : (s.at due).step = s.step :=
  State.standing_get (s.at_standing due) State.step
@[simp] theorem State.at_mint (due : Nat) : (s.at due).mint = s.mint :=
  State.standing_get (s.at_standing due) State.mint
@[simp] theorem State.at_link (due : Nat) : (s.at due).link = s.link :=
  State.standing_get (s.at_standing due) State.link
@[simp] theorem State.at_tsy (due : Nat) : (s.at due).tsy = s.tsy :=
  State.standing_get (s.at_standing due) State.tsy
@[simp] theorem State.at_jnl (due : Nat) : (s.at due).jnl = s.jnl :=
  State.standing_get (s.at_standing due) State.jnl
@[simp] theorem State.at_fatal (due : Nat) : (s.at due).fatal = s.fatal :=
  State.standing_get (s.at_standing due) State.fatal
@[simp] theorem State.at_rec_ (due : Nat) : (s.at due).rec_ = s.rec_ :=
  State.standing_get (s.at_standing due) State.rec_
@[simp] theorem State.at_ldg (due : Nat) : (s.at due).ldg = s.ldg :=
  State.standing_get (s.at_standing due) State.ldg
@[simp] theorem State.at_fuses (due : Nat) : (s.at due).fuses = s.fuses :=
  State.standing_get (s.at_standing due) State.fuses
@[simp] theorem State.at_far (due : Nat) : (s.at due).far = s.far :=
  State.standing_get (s.at_standing due) State.far
@[simp] theorem State.at_nvm (due : Nat) : (s.at due).nvm = s.nvm :=
  State.standing_get (s.at_standing due) State.nvm
@[simp] theorem State.at_mbx (due : Nat) : (s.at due).mbx = s.mbx :=
  State.standing_get (s.at_standing due) State.mbx
@[simp] theorem State.at_hostMem (due : Nat) : (s.at due).hostMem = s.hostMem :=
  State.standing_get (s.at_standing due) State.hostMem
@[simp] theorem State.at_power (due : Nat) : (s.at due).power = s.power :=
  State.standing_get (s.at_standing due) State.power
@[simp] theorem State.at_jtag (due : Nat) : (s.at due).jtag = s.jtag :=
  State.standing_get (s.at_standing due) State.jtag
@[simp] theorem State.at_bus (due : Nat) : (s.at due).bus = s.bus :=
  State.standing_get (s.at_standing due) State.bus
@[simp] theorem State.at_mgmtOut (due : Nat) : (s.at due).mgmtOut = s.mgmtOut :=
  State.standing_get (s.at_standing due) State.mgmtOut
@[simp] theorem State.at_nextId (due : Nat) : (s.at due).nextId = s.nextId :=
  State.standing_get (s.at_standing due) State.nextId
@[simp] theorem State.at_free (due : Nat) : (s.at due).free = s.free :=
  State.standing_get (s.at_standing due) State.free

end Sys2Proof.Machine
end

