-- ==== Sys2Proof/Tests/Slice0.lean ====
section
/-! SUPPORT. Tests: ill-formed terms that each check of WellFormed refuses, worked examples of the spec, and for each statement with
hypotheses a state and operands that meet them, clause by clause. -/

set_option Elab.async false

namespace Sys2Proof.Tests

open Sys2Proof Sys2Proof.Machine

/-! ### Helpers -/

/-- A number with values at bit positions. -/
def put (xs : List (Nat × Nat)) : Nat := xs.foldl (fun n x => n + x.2 * 2 ^ x.1) 0

/-- A state with registers set. -/
def regs (s : State) (xs : List (Nat × Nat)) : State := xs.foldl (fun s x => s.setReg x.1 (BitVec.ofNat 32 x.2)) s

/-- A state after one command. -/
def after (c : Instr) (s : State) : State :=
  match exec c s with
  | .next t => t
  | _ => s

/-- The command answers a next state, in which a test holds. -/
def gives (c : Instr) (s : State) (p : State → Bool) : Bool :=
  match exec c s with
  | .next t => p t
  | _ => false

/-- Core 0 of CD0 runs, both streams enabled; every byte of its store is in a range that permits all. -/
def running (c : Core) : State :=
  regs { State.reset with cores := [(0, { c with active := true })], domains := [(0, { awake := true })] }
    [(coreBase 0 0 + 4, 7), (coreBase 0 0 + 0x38, 12), (coreBase 0 0 + 0x40, 0xE0200000)]

/-- An instruction: header of R350 with more fields. -/
def insn (cls op : Nat) (xs : List (Nat × Nat)) : Nat := put ((0, 1) :: (4, cls) :: (8, op) :: xs)

/-- A core whose FWD stream has these instructions in its buffer. -/
def headed (c : Core) (ws : List Nat) : Core :=
  { c with fwd := { ended := false, buf := ws.map (fun w => { word := BitVec.ofNat 256 w, addr := 0, outside := false, uncorrectable := false }) } }

/-- `State.mayIssue` as a test. -/
def issues (s : State) (d p : Nat) (st : StreamId) (cls op w : Nat) : Bool :=
  match s.head? d p st with
  | none => false
  | some e => ((s.core d p).stream st).issuedAt != some s.edge && e.word.toNat == w && !e.outside && !e.uncorrectable && insnOk w && isInsn cls op w && s.headFaults d p e == ([], []) &&
      s.headReady d p st w && !s.yields d p st w

theorem mayIssue_of_issues {s : State} {d p : Nat} {st : StreamId} {cls op w : Nat} (h : issues s d p st cls op w = true) :
    s.mayIssue d p st cls op w := by
  unfold issues at h
  split at h
  · cases h
  · next e he =>
    simp only [Bool.and_eq_true, Bool.not_eq_true', beq_iff_eq, bne_iff_ne] at h
    obtain ⟨⟨⟨⟨⟨⟨⟨⟨h0, h1⟩, h2⟩, h3⟩, h4⟩, h5⟩, h6⟩, h7⟩, h8⟩ := h
    exact ⟨h0, e, he, h1, h2, h3, h4, h5, h6, h7, h8⟩

/-! ### Ill-formed terms (WellFormed) -/

theorem test_ill_formed_request_aligned : (Instr.unsupportedRequest 0x10 4 false).wf = false := by decide
theorem test_ill_formed_write_misaligned : (Instr.registerWrite .host 0x12 0).wf = false := by decide
theorem test_ill_formed_access_misaligned : (Instr.unmappedAccess .host 0x0FFFFFFD true).wf = false := by decide
theorem test_ill_formed_flit_short : (Instr.flitReceive 0 (List.replicate 271 0)).wf = false := by decide +kernel
theorem test_well_formed : (Instr.unsupportedRequest 0x11 4 false).wf = true ∧ (Instr.unsupportedRequest 0x10 8 false).wf = true ∧
    (Instr.registerWrite .host 0x14 0).wf = true ∧ (Instr.unmappedAccess .host 0xFFFFFFC true).wf = true ∧
    (Instr.flitReceive 0 (List.replicate 272 0)).wf = true := by decide +kernel

/-! ### Worked examples -/

/-- R260: address 0x0012_3456_7800. -/
theorem test_address_example : foldP 0x1234567800 = 0x24E ∧ 0x1234567800 / 2 ^ 18 = 298261 ∧
    lineDie (lineIndex (foldP 0x1234567800) 298261) = 2 := by decide +kernel

/-- R360: the encoded injection. -/
theorem test_inject_example :
    put [(0, 0x61), (32, 5), (64, 0x014C8044), (96, 0x08000C80), (128, 0x23456780), (160, 1)] =
      insn 6 0 [(32, 5), (66, 1), (70, 1), (74, 32), (82, 3), (86, 5), (97, 64), (106, 3), (110, 0x2000), (124, 0x1234567800)] ∧
    (decInject (put [(0, 0x61), (32, 5), (64, 0x014C8044), (96, 0x08000C80), (128, 0x23456780), (160, 1)])).srcAddr = 0x1234567800 ∧
    (decInject (put [(0, 0x61), (32, 5), (64, 0x014C8044), (96, 0x08000C80), (128, 0x23456780), (160, 1)])).credits = 4 := by
  decide +kernel

/-- The example after R451: α × 0xCA and the two parity bytes, and member 1 found again from them. -/
theorem test_parity_example : gfMul 2 0xCA = 0x89 ∧ 0x53 ^^^ 0xCA ^^^ 0x01 = 0x98 ∧ 0x53 ^^^ gfMul 2 0xCA ^^^ gfMul 4 0x01 = 0xDE ∧
    gfMul (gfInv 6) (0x8D ^^^ gfMul 4 0xCB) = 0xCA := by decide +kernel

/-- R231, row by row, from EXP 3, GOOD 9, BAD 2 with GROWTH 10, E_MAX 64 and E_MIN 3. -/
theorem test_loss_scale_table : lsAfter 0x90203 (2 ^ 31 + 0x4003000A) 0 = 4 ∧ lsAfter 0x90203 0x4003000A 0 = 0xA0003 ∧
    lsAfter 0x90203 (2 ^ 31 + 0x4003000A) 1 = 0x303 ∧ lsAfter 0x90204 (2 ^ 31 + 0x4003000A) 1 = 0x303 ∧
    lsAfter 0x90204 0x4003000A 1 = 0x304 ∧ lsAfter 0x90203 (2 ^ 31 + 0x4003000A) 2 = 0x90203 := by decide +kernel

/-! ### The queue, registers and the core store -/

def queued : State := { State.reset with pending := [.heartbeat, .extest] }
def unpowered : State := { State.reset with power := { phase := .off, pwrEn := false, alwaysOn := false } }

theorem meets_StepRunsTheQueue : queued.pending = .heartbeat :: [.extest] ∧ (State.reset.pending = [] ∧ State.reset.power.phase = .on) ∧
    (unpowered.pending = [] ∧ unpowered.power.phase ≠ .on) := by decide +kernel

/-- The fields of the register at an offset, one of which meets a test. -/
def anyField (off : Nat) (p : Fld → Bool) : Bool :=
  match regFields off with
  | none => false
  | some fs => !isMirror off && fs.any (fun f => p f && decide (f.lo ≤ f.hi) && decide (f.hi < 32) &&
      fs.all (fun g => g == f || decide (g.hi < f.lo) || decide (f.hi < g.lo)))

/-- An RW field, a W1C field and one that the host may not write; a mirror; no fields at the offset after the last register. -/
theorem meets_RegisterAccessesComplete : State.reset.power.phase = .on ∧
    anyField (coreBase 0 0 + 0x28) (fun f => f.acc == .rw && State.reset.mayWrite .firmware f && State.reset.lockOf (coreBase 0 0 + 0x28) f == .writable) = true ∧
    anyField (coreBase 0 0 + 0xC) (fun f => f.acc == .w1c && State.reset.mayWrite .firmware f && State.reset.lockOf (coreBase 0 0 + 0xC) f == .writable) = true ∧
    anyField (coreBase 0 0 + 0x28) (fun f => !State.reset.mayWrite .host f) = true ∧ (regFields 0x31800020).isSome = true ∧ isMirror 0x31800020 = true ∧
    regFields 0xFFFFFFC = none ∧ badAccess 0xFFFFFFD 4 = true ∧ badAccess 0 8 = true := by decide +kernel
/-- An offset of BAR2 below the mirror, one beyond its registers, and a register of each half of the mirror, with USER_RD 0 and 1. -/
theorem meets_RegisterAccessesComplete_bar2 : 4 < (8#25).toNat ∧ (8#25).toNat < 0x1000000 ∧ regFields ((0x1FFFFFC#25).toNat + 0x2000000) = none ∧
    (regFields ((0x1000000#25).toNat + 0x2000000)).isSome = true ∧ (0x1000000#25).toNat < 0x1010000 ∧ State.reset.rf (tlyBase + 4) 1 1 = 0 ∧
    (regs State.reset [(tlyBase + 4, 2)]).rf (tlyBase + 4) 1 1 = 1 := by decide +kernel

theorem meets_WritesRefused : State.reset.power.phase = .on ∧ State.reset.hostWr = false ∧
    (∃ fs, regFields (coreBase 0 0 + 4) = some fs ∧ (∀ f ∈ fs, f.host = false) ∧
      (∃ f ∈ fs, bits 1 f.hi f.lo ≠ bits (State.reset.readReg (coreBase 0 0 + 4)).toNat f.hi f.lo) ∧
      ∀ f ∈ fs, bits 6 f.hi f.lo = bits (State.reset.readReg (coreBase 0 0 + 4)).toNat f.hi f.lo) ∧
    isMirror (coreBase 0 0 + 4) = false ∧ (running {}).power.phase = .on ∧ (running {}).coreRun 0 0 = true ∧
    (regs (running { transBusy := 9 }) [(coreBase 0 0 + 4, 6)]).quiet 0 0 = false := by
  refine ⟨by decide, by decide +kernel, ⟨(regFields (coreBase 0 0 + 4)).get (by decide +kernel), by simp, ?_⟩, ?_⟩ <;> decide +kernel

theorem meets_FirmwareMayWrite : State.reset.power.phase = .on ∧ State.reset.coreRun 3 33 = false ∧ State.reset.quiet 3 33 = true ∧
    (running {}).power.phase = .on ∧ (running {}).coreRun 0 0 = true := by decide +kernel

def fetching (a : Nat) (n : Nat) : State := running { fwd := { ended := false, fetchAt := a, buf := List.replicate n default } }

/-- The last instruction of the store, and the first address beyond it; a buffer with one place. -/
theorem meets_FetchAppends : ∀ a ∈ [2 ^ 22 - 32, 2 ^ 22], ∀ n ∈ [0, 7],
    (fetching a n).alive = true ∧ ((fetching a n).core 0 0).active = true ∧ ((fetching a n).core 0 0).off = false ∧
    ((fetching a n).domain (domCore 0 0)).awake = true ∧ (fetching a n).coreRun 0 0 = true ∧
    (((fetching a n).core 0 0).stream .fwd).ended = false ∧ (((fetching a n).core 0 0).stream .fwd).stopFetch = false ∧
    (((fetching a n).core 0 0).stream .fwd).buf.length < 8 := by decide +kernel
theorem meets_FetchAppends_allowed : (fetching (2 ^ 22 - 32) 0).storeAllowed 0 0 false true (2 ^ 22 - 32, 32) = true := by decide +kernel

/-! ### Instructions -/

/-- The stream of core 0 of CD0 holds one instruction. -/
def at1 (c : Core) (w : Nat) : State := running (headed c [w])

def stamped (s : State) : State := { s with step := { s.step with stamps := [(0, 0)], job := some {} } }

theorem meets_CtrlIssues : issues (at1 {} (insn 0 0 [])) 0 0 .fwd 0 0 (insn 0 0 []) = true ∧
    issues (at1 {} (insn 0 1 [(64, 65535)])) 0 0 .fwd 0 1 (insn 0 1 [(64, 65535)]) = true ∧
    issues (at1 {} (insn 0 2 [])) 0 0 .fwd 0 2 (insn 0 2 []) = true ∧
    issues (stamped (at1 {} (insn 0 3 [(80, 65535)]))) 0 0 .fwd 0 3 (insn 0 3 [(80, 65535)]) = true ∧
    issues (at1 {} (insn 0 4 [])) 0 0 .fwd 0 4 (insn 0 4 []) = true := by decide +kernel

/-- Heads fetched outside, uncorrectable, of a reserved class, and a PASS of length zero. -/
def badHeads : List FetchEntry :=
  [⟨0, 0, true, false⟩, ⟨0, 0, false, true⟩, ⟨BitVec.ofNat 256 (insn 9 0 []), 0, false, false⟩, ⟨BitVec.ofNat 256 (insn 1 0 []), 0, false, false⟩]
def withHead (e : FetchEntry) : State := running { fwd := { ended := false, buf := [e] } }

theorem meets_HeadsRejectedOrHeld : (∀ e ∈ badHeads, (withHead e).head? 0 0 .fwd = some e ∧
      (e.outside = true ∨ e.uncorrectable = true ∨ insnOk e.word.toNat = false ∨ isInsn 1 0 e.word.toNat = true) ∧
      (withHead e).headFaults 0 0 e ≠ ([], []) ∧ (((withHead e).core 0 0).stream .fwd).issuedAt = none) ∧
    (running {}).head? 0 0 .fwd = none ∧ isInsn 1 0 (insn 0 0 []) = false := by decide +kernel

/-- A ROW instruction on registers 0, 1 and 2 into register 3. -/
def rowWord (op : RowOp) : Nat :=
  insn 4 op.code [(68, if op = .cvt then 1 else if op = .cvts then 3 else 0), (80, 0), (104, 8), (128, 16), (152, 24), (176, 1)]
/-- The row-unit queue is full. -/
def rowFull : Core := { rowQueue := List.replicate 8 1 }

theorem meets_HeadsRejectedOrHeld_waits : ((at1 rowFull (rowWord .add)).head? 0 0 .fwd).isSome = true ∧
    (at1 rowFull (rowWord .add)).headFaults 0 0 ⟨BitVec.ofNat 256 (rowWord .add), 0, false, false⟩ = ([], []) ∧
    (at1 rowFull (rowWord .add)).headReady 0 0 .fwd (rowWord .add) = false := by decide +kernel

/-- Both streams need the one free place of a pass queue. -/
def crowded : Array := { bank0 := { fmt := some 0 }, queue := List.replicate 3 default }
def contended : State :=
  running { headed { bwd := (headed {} [insn 1 0 [(76, 1)]]).fwd } [insn 1 0 [(76, 1)]] with array0 := crowded }
theorem meets_HeadsRejectedOrHeld_yields : (contended.head? 0 0 .fwd).isSome = true ∧ contended.headFaults 0 0
    ⟨BitVec.ofNat 256 (insn 1 0 [(76, 1)]), 0, false, false⟩ = ([], []) ∧ contended.yields 0 0 .fwd (insn 1 0 [(76, 1)]) = true := by
  decide +kernel

theorem meets_RowResults : ∀ x ∈ rowInsns, issues (at1 {} (rowWord x.1)) 0 0 .fwd 4 x.1.code (rowWord x.1) = true := by decide +kernel
/-- An operand in the core store, its first word marked. -/
theorem meets_RowResults_uncorrectable : issues (at1 { marks := [(0, true)] } (insn 4 0x0A [(80, 2), (152, 24), (176, 1)])) 0 0 .fwd 4 0x0A
      (insn 4 0x0A [(80, 2), (152, 24), (176, 1)]) = true ∧
    (∃ r ∈ (decRow (insn 4 0x0A [(80, 2), (152, 24), (176, 1)])).needs.reads,
      ((at1 { marks := [(0, true)] } 0).seen 0 0).readsUe r.1 r.2 = true) ∧
    ∀ r ∈ (decRow (rowWord .add)).needs.reads, ((at1 {} 0).seen 0 0).readsUe r.1 r.2 = false := by decide +kernel

/-- 1.5 + 2.5 and 1 ÷ 0 in FP32 on registers: the first element of the destination, and the flag word. -/
theorem test_row_add : gives (.rowAdd 0 0 .fwd) (at1 { rowRegs := ({} : Mem).setBytes 0 (bytesOfNum 4 0x3FC00000) |>.setBytes 1024 (bytesOfNum 4 0x40200000) }
    (rowWord .add)) (fun t => (t.core 0 0).rowRegs.num 3072 4 == 0x40800000 && t.reg (coreBase 0 0 + 0x10) == 0) = true := by decide +kernel
theorem test_row_div_by_zero : gives (.rowDiv 0 0 .fwd) (at1 { rowRegs := ({} : Mem).setBytes 0 (bytesOfNum 128 (put ((List.range 32).map (fun i => (32 * i, 0x3F800000))))) }
    (rowWord .div)) (fun t => (t.core 0 0).rowRegs.num 3072 4 == 0x7F800000 && t.reg (coreBase 0 0 + 0x10) == 2) = true := by decide +kernel

theorem meets_RowElements : Fmt.fp16.ieee = true ∧ (∀ a ∈ [0, 0x3C00, 0x7E00, 0x7D00, 0xFFFF], a < 2 ^ Fmt.fp16.width) ∧
    (Fmt.fp16.decode 0x7D00).isNan = true ∧ (Fmt.fp16.decode 0x7D00).isSnan = true ∧ (Fmt.fp16.decode 0x7E00).isSnan = false ∧
    (Fmt.fp16.decode 0x3C00).isNan = false ∧ (List.replicate 4 5).length * 6 % 8 = 0 ∧ 3 < (List.replicate 4 5).length := by decide +kernel

theorem meets_MaximumMinimum : Fmt.fp32.ieee = true ∧ (Fmt.fp32.decode 0x7FC00000).isNan = true ∧ (Fmt.fp32.decode 1).isNan = false ∧
    (Fmt.fp32.decode 0).isZero = true ∧ (Fmt.fp32.decode 0x80000000).isZero = true ∧
    ltNum (Fmt.fp32.decode 0) (Fmt.fp32.decode 1) = true ∧ ltNum (Fmt.fp32.decode 0xFF800000) (Fmt.fp32.decode 0x7F800000) = true ∧
    (List.replicate 32 0xFFFFFFFF).length % 32 = 0 ∧ (∀ x ∈ List.replicate 32 0xFFFFFFFF, x < 2 ^ 32) ∧
    (Fmt.fp32.decode (reduce 1 (List.replicate 32 0xFFFFFFFF) []).1).isNan = true ∧
    (Fmt.fp32.decode (reduce 2 (List.replicate 32 0xFFFFFFFF) []).1).isNan = true := by decide +kernel

theorem meets_KfsScales : kfsExp 1 = some (-127) ∧ kfsExp 0xFF = some 127 ∧ kfsExp 0 = none ∧
    Fmt.kf4.decode 1 = .fin false 1 (-1) := by decide +kernel

theorem meets_CodesRoundTrip : ∀ f ∈ [Fmt.fp64, .fp32, .fp16, .kb16, .kf8a, .kf8b, .kf6a, .kf6b, .kf4, .i8],
    1 < 2 ^ f.width ∧ (f.decode 1).isNan = false ∧ (f.decode (2 ^ (f.width - 1))).isNan = false := by decide +kernel

theorem meets_RoundingModes : 6 % 2 ^ 2 ≠ 0 ∧ 2 * (6 % 2 ^ 2) = 2 ^ 2 ∧ 8 % 2 ^ 2 = 0 := by decide +kernel

/-- A PASS, a WLOAD, a FEED and a DRAIN of FP32. -/
theorem meets_ArrayInstructions :
    issues (at1 { array3 := { bank1 := { fmt := some 3 } } } (insn 1 0 [(64, 3), (66, 1), (68, 3), (72, 3), (76, 512)])) 0 0 .fwd 1 0
      (insn 1 0 [(64, 3), (66, 1), (68, 3), (72, 3), (76, 512)]) = true ∧
    issues (at1 {} (insn 2 0 [(64, 15), (76, 1)])) 0 0 .fwd 2 0 (insn 2 0 [(64, 15), (76, 1)]) = true ∧
    issues (at1 {} (insn 2 0 [(64, 3), (74, 1), (75, 1), (76, 1)])) 0 0 .fwd 2 0 (insn 2 0 [(64, 3), (74, 1), (75, 1), (76, 1)]) = true ∧
    issues (at1 {} (insn 3 0 [(64, 1), (72, 1), (102, 1)])) 0 0 .fwd 3 0 (insn 3 0 [(64, 1), (72, 1), (102, 1)]) = true ∧
    issues (at1 { inbox := 0x8000 } (insn 3 0 [(64, 1), (73, 15), (77, 1), (102, 256)])) 0 0 .fwd 3 0
      (insn 3 0 [(64, 1), (73, 15), (77, 1), (102, 256)]) = true ∧
    issues (at1 { array0 := { rowState := [(0, .valid)] } } (insn 5 0 [(75, 1), (91, 1)])) 0 0 .fwd 5 0 (insn 5 0 [(75, 1), (91, 1)]) = true := by
  decide +kernel

def pass1 : Pass := { stream := .fwd, bank := 0, accumulate := false, afmt := 0, wfmt := 0, len := 512, accb := 0, feedb := 0, ascale := false, loadId := 7 }
def load1 : WeightLoad where
  id := 8
  stream := .fwd
  direct := [2]
  trans := []
  bank := 1
  fmt := 0
  scaled := false
  addr := 0
  slot := none
  release := false
  delivered := 127
  issue := 0
  last := 0
  taken := []
  takenScales := []
def array0 : Array := { queue := [pass1], bank0 := { fmt := some 0, loadId := 7, rows := 128 }, fills := [{ stream := .fwd, due := 4, release := some 15 }] }
def array1 : Array := { running := [{ pass := pass1, start := 0, upTo := 0, weights := [], wscales := [], acts := [], ascales := [] }] }
def events : State := running { array0 := array0, array1 := array1, load := some load1 }

theorem meets_ArrayEvents : events.alive = true ∧ ((events.core 0 0).array 0).queue = [pass1] ∧
    ((events.core 0 0).bankReady 0 pass1).isSome = true ∧ ((events.core 0 0).array 1).running.length = 1 ∧
    (((events.core 0 0).array 1).running.map (fun r => decide (events.edge ≤ r.start + stepLength r.pass.fa * (stepCount r.pass.fa r.pass.len + 255)))) = [true] ∧
    (events.core 0 0).load = some load1 ∧ ((events.core 0 0).rowWriteEdge load1 load1.delivered load1.last).isSome = true ∧
    firstDue ((events.core 0 0).array 0).fills = some { stream := .fwd, due := 4, release := some 15 } := by decide +kernel

/-! ### Rings -/

/-- The ring of CD0 is on in DIE span with 4 credits of stream 0; its segments are awake; stamp entry 0 holds a stamp. -/
def ringed (s : State) (r : Ring) : State :=
  regs { stamped s with rings := [(0, r)], domains := s.domains ++ (List.range 4).map (fun i => (domSegment 0 i, { awake := true })) }
    [(ringBase 0 + 4, 1), (creditCfg 0 0, 0x80000004)]

def injWord (core : Nat) : Nat := insn 6 0 [(65, core), (70, 1), (74, 34), (97, 1)]

theorem meets_RingInstructionsQueue :
    (∀ core ∈ [0, 1], issues (ringed (at1 {} (injWord core)) {}) 0 0 .fwd 6 0 (injWord core) = true) ∧
    (decInject (injWord 1)).fromCore = true ∧ (decInject (injWord 0)).fromCore = false ∧ (decInject (injWord 0)).versioned = false ∧
    issues (ringed (at1 {} (insn 7 0 [(68, 34), (76, 256)])) {}) 0 0 .fwd 7 0 (insn 7 0 [(68, 34), (76, 256)]) = true ∧
    issues (ringed (at1 { array0 := { rowState := [(511, .pending)] } } (insn 8 0 [(66, 511)])) {}) 0 0 .fwd 8 0 (insn 8 0 [(66, 511)]) = true := by
  decide +kernel

def inj1 : Inj where
  id := 5
  group := 5
  fromMem := true
  lane := .cw
  count := 1
  slot := 15
  slotAddr := 0
  cstream := 0
  lines := 64
  addr := 0
  hint := 0
  spendN := 0
  reblock := none
  mask := [0]
  lead := true
  issued := false
  nextWindow := false
  arrived := [(63, (9, false))]
  dueAt := [(63, 4)]
  sent := [0]
/-- Station 1, of a core that is not active, holds an injection and a multicast copy. -/
def injecting : State := ringed (running {}) { stations := [(1, { injQ := [inj1], mcast := [inj1] })], counts := [(0, 4)] }

theorem meets_InjectionsMove : injecting.alive = true ∧ injecting.ringRuns 0 = true ∧ injecting.segmentsAwake 0 = true ∧
    injecting.active 0 1 = false ∧ (injecting.station 0 1).injQ.find? (fun y => y.fromMem && !y.issued) = some inj1 ∧
    inj1.nextWindow = false ∧ injecting.creditEdge 0 inj1 = some 0 ∧ (injecting.station 0 1).mcast = [inj1] ∧ (injecting.station 0 1).injQ.length < 8 ∧
    (injecting.station 0 1).injQ.find? (fun y => y.lane == .cw) = some inj1 ∧
    injecting.tileMaySend 0 inj1 = true ∧ injecting.tileEdge 0 1 .cw inj1.lineFrom = some 4 ∧
    inj1.nextLine ((injecting.at 4).seen 0 1) = some (63, 9, false) := by decide +kernel

def flit1 : RingFlit where
  kind := .tile
  stream := 0
  slot := 15
  index := 63
  count := 1
  origin := 2
  payload := 9
  poison := false
  tile := 5
  lines := 64
  addr := 0x3FC000
  due := 4
def acc1 : RingFlit := { flit1 with kind := .acc, count := 2 }
def slot1 : Slot := { addr := 0x3FC000, tile := 5, delivering := true, written := List.range 63 }
def contrib1 : Contrib := { array := 0, accb := 480, release := false, lane := .cw, origin := 2, done := 0, checked := true }
/-- A TILE flit goes to station 1 and to its origin, station 2; station 0 has one to write. -/
def flying : State := ringed (running { slots := [(15, slot1)] })
  { stations := [(0, { takeCw := [flit1] })], hops := [(0, [flit1]), (1, [flit1]), (2, [acc1, flit1])] }
/-- Station 0 holds an ACC flit, with another contributor or the last, and contributes to it row 511. -/
def adding (n : Nat) : State := ringed (running { array0 := { rowState := [(511, .valid)] } })
  { stations := [(0, { contribs := [contrib1], accCw := [{ acc1 with count := n }] })],
    exits := [{ id := 5, toCore := false, add := true, exit := 0, poisoned := false }] }
/-- One goes to an active station that has nothing to add, and one to an inactive one; and a station has a stream of its own to send. -/
def passing : State := ringed (running {}) { hops := [(0, [acc1]), (1, [acc1])] }
def acc0 : AccStream := { id := 6, lane := .cw, k := 2, flits := 32, toCore := false, add := true, exit := 0, sent := 0 }
def contrib0 : Contrib := { contrib1 with accb := 511, origin := 0 }
def sending : State := ringed (running { array0 := { rowState := [(511, .valid)] } }) { stations := [(0, { contribs := [contrib0], accs := [acc0] })] }

theorem meets_TilesDelivered : flying.alive = true ∧ pickFlit .tile (flying.hop 0 1 .cw) = some (flit1, []) ∧
    flying.active 0 1 = false ∧ flit1.origin ≠ flying.origin 0 1 ∧ pickFlit .tile (flying.hop 0 2 .cw) = some (flit1, [acc1]) ∧
    flit1.origin = flying.origin 0 2 ∧ (pickFlit .tile (flying.hop 0 0 .cw)).isSome = true ∧ flying.active 0 0 = true ∧
    flit1.origin ≠ flying.origin 0 0 ∧ (flying.station 0 0).lost = [] ∧ ((flying.station 0 0).take .cw) = [flit1] := by decide +kernel
/-- The slot takes the tile; its last line is written, while the core is awake, and waits while it sleeps. -/
theorem meets_TilesDelivered_written : ∀ u ∈ [flying, flying.at ((flying.core 0 0).takeEdge (flit1.due + 1))],
    (u.domain (domCore 0 0)).awake = true ∧ (u.core 0 0).slot 15 = slot1 ∧ u.alive = true ∧
    u.storeAllowed 0 0 true false (flit1.addr + 256 * flit1.index, 256) = true ∧
    (({ flying with domains := [] } : State).domain (domCore 0 0)).awake = false := by
  decide +kernel

theorem meets_AccumulationOrder : (∀ s ∈ [flying, adding 1, adding 2, passing, sending], s.alive = true ∧ s.segmentsAwake 0 = true) ∧
    ((flying.checkContribs 0 1 .cw).accLocal 0 1 .cw).1 = none ∧ pickFlit .acc ((flying.checkContribs 0 1 .cw).hop 0 1 .cw) = none ∧
    ((passing.checkContribs 0 1 .cw).accLocal 0 1 .cw).1 = none ∧ pickFlit .acc ((passing.checkContribs 0 1 .cw).hop 0 1 .cw) = some (acc1, []) ∧
    acc1.origin ≠ passing.origin 0 1 ∧ (passing.checkContribs 0 1 .cw).active 0 1 = false ∧
    ((passing.checkContribs 0 0 .cw).accLocal 0 0 .cw).1 = none ∧ pickFlit .acc ((passing.checkContribs 0 0 .cw).hop 0 0 .cw) = some (acc1, []) ∧
    acc1.origin ≠ passing.origin 0 0 ∧ passing.active 0 0 = true ∧ (passing.station 0 0).accBuf .cw = [] := by decide +kernel
/-- An addition with more contributors and with none, which exits to memory; and a flit of the station's own stream. -/
theorem meets_AccumulationOrder_adds : (∀ n ∈ [1, 2],
      (((adding n).checkContribs 0 0 .cw).accLocal 0 0 .cw).1 = some (.inl ({ acc1 with count := n }, contrib1)) ∧
      pickFlit .acc (((adding n).checkContribs 0 0 .cw).hop 0 0 .cw) = none ∧
      (((adding n).checkContribs 0 0 .cw).accExit? 5).map (fun o => o.poisoned || o.toCore) = some false) ∧
    ((sending.checkContribs 0 0 .cw).accLocal 0 0 .cw).1 = some (.inr (acc0, contrib0)) ∧ 1 < acc0.k ∧
    pickFlit .acc ((sending.checkContribs 0 0 .cw).hop 0 0 .cw) = none := by decide +kernel

def tile1 : TileOut := { id := 5, stream := 0, credits := 4, toRelease := 0, origin := 0, lane := .cw, due := some 100, fitted := true }
/-- The return fits exactly where none is held, and passes INIT where one is. -/
theorem meets_CreditsReturn : ∀ n ∈ [0, 1], (ringed (running {}) { tiles := [tile1], counts := [(0, n)] }).alive = true ∧
    firstReturn 0 ((ringed (running {}) { tiles := [tile1], counts := [(0, n)] }).ring 0).tiles = some (tile1, 100) ∧
    (n + tile1.credits ≤ (ringed (running {}) {}).creditInit 0 0 ↔ n = 0) := by decide +kernel

/-- Both streams of the one active core wait at the barrier, and every credit is home. -/
def atBarrier : State := ringed (running { fwd := { ended := false, barrier := true }, bwd := { ended := false, barrier := true } })
  { counts := [(0, 4)] }

theorem meets_BarrierAndRingControl : atBarrier.alive = true ∧ atBarrier.package 0 = false ∧ atBarrier.ringRuns 0 = true ∧
    atBarrier.drained 0 = true ∧ atBarrier.abandoning = false ∧ atBarrier.creditOn 0 0 = true ∧
    ({ atBarrier with step := { atBarrier.step with faulted := true } } : State).abandoning = true ∧
    ((atBarrier.core 0 0).stream .fwd).barrier = true ∧ injecting.drained 0 = false ∧ injecting.package 0 = false ∧
    (regs injecting [(ringBase 0 + 4, 0xFFFF1)]).alive = true ∧ (regs injecting [(ringBase 0 + 4, 0xFFFF1)]).ringOn 0 = true ∧
    (regs injecting [(ringBase 0 + 4, 0xFFFF1)]).rf (ringBase 0 + 4) 19 4 ≠ 0 ∧
    (regs injecting [(ringBase 0 + 4, 0xFFFF1)]).drained 0 = false ∧
    State.reset.power.phase = .on ∧ State.reset.ringOn 3 = false ∧ State.reset.drained 3 = true ∧ injecting.power.phase = .on ∧
    injecting.ringOn 0 = true := by decide +kernel

/-! ### Memory -/

theorem meets_AddressPlaces : (240 * 2 ^ 32 - 1) / 2 ^ 18 = 3932159 ∧ placeOf [] (240 * 2 ^ 32 - 1) = placeOf [] (240 * 2 ^ 32 - 256) := by
  decide +kernel

/-- Four ranges that together are near memory; the last line of the first. -/
theorem meets_QuadrantPlaces : qrangesBad [(0, 4), (4, 100), (104, 100), (204, 36)] = false ∧ (4 * 2 ^ 32 - 256) % 256 = 0 ∧
    inRange (0, 4) (4 * 2 ^ 32 - 256) = true := by decide +kernel

def memWord (op lines : Nat) : Nat := insn 11 op [(70, lines), (93, 2 ^ 44 + 256)]

/-- Of a WRITE and an ADD also with source words that read as uncorrectable. -/
theorem meets_MemInstructionsRequest :
    (∀ op ∈ [memReadOp, memWriteOp, memAddOp, memReadClearOp, memReleaseOp], ∀ lines ∈ [1, 256],
      issues (at1 {} (memWord op lines)) 0 0 .fwd 11 op (memWord op lines) = true ∧
      ((at1 {} (memWord op lines)).seen 0 0).readsUe (decMem (memWord op lines)).caddr (256 * lines) = false) ∧
    ∀ op ∈ [memWriteOp, memAddOp], issues (at1 { marks := [(0, true)] } (memWord op 1)) 0 0 .fwd 11 op (memWord op 1) = true ∧
      ((at1 { marks := [(0, true)] } (memWord op 1)).seen 0 0).readsUe (decMem (memWord op 1)).caddr 256 = true := by decide +kernel

/-- Stamp entry 0 is in use, the Escrow has `g` granules and `x` GiB of the tier, and these places taken. -/
def escrowed (w g x : Nat) (places : Tab EscPlace) (faulted : Bool) : State :=
  { at1 {} w with step := { stamps := [(0, 0)], job := some { escGranules := g, xtEsc := x, spill := true }, escrow := places, faulted := faulted } }
/-- An ESAVE of tile 0 that may be recomputed, and an EREAD of it. -/
def saveWord : Nat := insn 11 8 [(70, 1), (93, 2 ^ 44 + 256), (147, 1)]

theorem meets_EscrowSavesReads :
    (∀ b ∈ [true, false], issues (escrowed (memWord 8 1) 1 0 [] b) 0 0 .fwd 11 8 (memWord 8 1) = true) ∧
    (∀ x ∈ [[], [(0, EscPlace.dropped)], [(0, .hbm 0 1)]], issues (escrowed (memWord 9 1) 1 0 x false) 0 0 .fwd 11 9 (memWord 9 1) = true) ∧
    escKey (decMem (memWord 9 1)).stamp (decMem (memWord 9 1)).etile = 0 ∧ (EscPlaceAt {} (.hbm 0 1)).isSome = true := by decide +kernel
/-- A free granule, none but room in the tier, neither but a tile that may be recomputed, and no place at all. -/
theorem meets_EscrowSavesReads_places :
    EscSpot ((escrowed (memWord 8 1) 1 0 [] false).step.freeTile 0) (decMem (memWord 8 1)) (.hbm 0 1) ∧
    EscSpot ((escrowed (memWord 8 1) 0 1 [] false).step.freeTile 0) (decMem (memWord 8 1)) (.tier 0 1) ∧
    EscSpot ((escrowed saveWord 0 0 [] false).step.freeTile 0) { decMem saveWord with recomp := true } .dropped ∧
    ∀ pl, ¬ EscSpot ((escrowed (memWord 8 1) 0 0 [] false).step.freeTile 0) { decMem (memWord 8 1) with recomp := false } pl := by
  refine ⟨by unfold EscSpot LowestFree; decide +kernel, ?_, ?_, ?_⟩
  · unfold EscSpot LowestFree
    refine ⟨by decide +kernel, fun g h => absurd h.1 (Nat.not_lt_zero g), by decide +kernel, by decide +kernel⟩
  · unfold EscSpot LowestFree
    exact ⟨fun g h => absurd h.1 (Nat.not_lt_zero g), fun _ g h => absurd h.1 (Nat.not_lt_zero g), rfl⟩
  · intro pl
    cases pl with
    | hbm g n => exact fun h => absurd h.2.1 (Nat.not_lt_zero g)
    | tier g n => exact fun h => absurd h.2.2.2.1 (Nat.not_lt_zero g)
    | dropped => exact fun h => Bool.noConfusion h.2.2

def read1 : LineReq := { src := .core 0 0, kind := .read, addr := 0, hint := .stream, data := 7, poison := false, dest := .store 0 0 0 1, leave := 0 }
def op1 (release : Option (Nat × EscPlace)) : MemOp :=
  { id := 1, stream := .fwd, lo := 0, hi := 256, remaining := 0, last := 9, release := release, entry := false }
/-- The controllers of all memory-side dies are on. -/
def memory (s : State) : State := regs s ((List.range 4).map (fun d => (hbmBase d + 4, 1)))
/-- One read of pseudo-channel 255, of a kind, is outstanding at MD0; scrub is on at MD3. -/
def hbm (k : LineKind) : State :=
  regs (memory { State.reset with dies := [(0, { queue := [{ req := { read1 with kind := k }, channel := 255, alloc := .none }] })] })
    [(hbmBase 3 + 4, 0x01000001)]
def sectors (flips : List Flip) : List SectorRead := ((hbm .read).returned 0 flips).map sectorOutcome

/-- Clean, with one wrong symbol, and with two in one sector. -/
theorem meets_MemoryPortAndReads : (∀ r ∈ [none, some (0, EscPlace.hbm 0 1)], (running { ops := [op1 r] }).alive = true ∧
      ((running { ops := [op1 r] }).core 0 0).ops.find? (fun o => o.remaining == 0) = some (op1 r) ∧ (running { ops := [op1 r] }).edge ≤ (op1 r).last) ∧
    ((running {}).core 0 0).ops.find? (fun o => o.remaining == 0) = none ∧
    (∀ k ∈ [LineKind.read, .readClear, .add], (hbm k).alive = true ∧ (hbm k).hbmOn 0 = true ∧ (hbm k).where_ read1.addr = .near 0 ∧
      ((hbm k).die 0).queue.find? (fun x => x.channel == 255) = some { req := { read1 with kind := k }, channel := 255, alloc := .none }) ∧
    (∀ o ∈ sectors [], o = .clean) ∧ (∀ o ∈ sectors [⟨0, 5, 1⟩], o ≠ .bad) ∧ SectorRead.bad ∈ sectors [⟨0, 5, 1⟩, ⟨0, 6, 1⟩] := by decide +kernel
/-- The last line of a pseudo-channel is scrubbed, or no line is; a symbol of a line comes to stand wrong. -/
theorem meets_MemoryPortAndReads_scrub : (hbm .read).rf (hbmBase 0 + 4) 31 24 = 0 ∧ (hbm .read).hbmOn 3 = true ∧
    (hbm .read).rf (hbmBase 3 + 4) 31 24 ≠ 0 ∧ ((hbm .read).die 3).queue = [] ∧ (3932159#22).toNat < 3932160 ∧
    (∀ c ∈ (hbm .read).returned (lineIndex (256 * 3 + 255) 3932159) [], sectorOutcome c = .clean) ∧
    (∃ c ∈ (hbm .read).returned (lineIndex (256 * 3 + 255) 3932159) [⟨0, 5, 1⟩, ⟨0, 6, 1⟩], sectorOutcome c = .bad) := by decide +kernel

def depWord (op : Nat) : Nat := insn 10 op [(126, 1)]
/-- Descriptor of a stream of FP32 rows of 32 elements, blocks of 32, one plane, one block, its table at address 0. -/
def desc1 : BitVec 512 := BitVec.ofNat 512 (put [(0, 1), (16, 1), (24, 1), (32, 1), (48, 1)])
def opened (s : State) : State := { s with dep := { s.dep with streams := [(0, desc1)] } }
/-- Stream 0 is open with its block resident up to FILL, and the Depository on with a pool of 4 GiB. -/
def resident (s : State) (fill : Nat) : State :=
  regs (memory { s with dep := { streams := [(0, desc1)], slice0 := { cache := [(0, { loc := .hbm, fill := fill })], frames := [(0, 0)] } },
                        domains := s.domains ++ [(domMd 0 7, { awake := true })] })
    [(hbmBase 0 + 0x40, 0x80000100), (depBase 0 + 4, 1)]

theorem meets_DepositoryRequests : ∀ op ∈ [0, 1, 2, 3],
    (∀ s ∈ [at1 {} (depWord op), opened (at1 {} (depWord op)), { at1 {} (depWord op) with dep := { opening := some 0 } },
        { at1 {} (depWord op) with dep := { closing := some 0 } }],
      issues s 0 0 .fwd 10 op (depWord op) = true ∧ (∀ r ∈ (s.depRegions (decDep (depWord op))).1, (s.seen 0 0).readsUe r.1 r.2 = false) ∧
      s.depWaits = []) ∧
    (at1 {} 0).depDesc? 0 = none ∧ ((opened (at1 {} 0)).depDesc? 0).isSome = true ∧ (opened (at1 {} 0)).depOn = false := by decide +kernel
/-- A block filled up to the row that is read, and one that is not. -/
theorem meets_DepositoryRequests_resident : ∀ op ∈ [0, 1, 2, 3], ∀ fill ∈ [0, 1], ∀ s ∈ [resident (at1 {} (depWord op)) fill],
    issues s 0 0 .fwd 10 op (depWord op) = true ∧ s.depOn = true ∧ s.memFree = true ∧ s.depWaits = [] ∧ s.dep.closing = none ∧
    s.depDesc? 0 = some desc1.toNat ∧ depSlice desc1.toNat ((decDep (depWord op)).req 0 0 .read [] 0) = (0, 0) ∧
    depBeyond desc1.toNat ((decDep (depWord op)).req 0 0 .read [] 0) = false ∧ (s.domain (domMd 0 7)).awake = true ∧
    (s.slice 0).cached 0 = some { loc := .hbm, fill := fill } ∧
    (fill < (decDep (depWord op)).pos % descT desc1.toNat + (decDep (depWord op)).n ↔ fill = 0) := by decide +kernel

/-! ### The Vault -/

/-- The Vault of MD0 caches and holds near-memory line 0; one request of a kind, with a hint, waits. -/
def vline0 : VLine := { line := 0, data := 9, dirty := false, keep := true, count := 1, age := 0, poison := false, marks := [] }
def reqOf (k : LineKind) (h : Hint) (a : Nat) : LineReq := { read1 with kind := k, hint := h, addr := a }
def vaulted (m : MemDie) (q : LineReq) : State :=
  regs (memory { State.reset with dies := [(0, m)], mem := { reqs := [q] } }) [(vltBase 0 + 4, 1)]
/-- No Vault caches. -/
def bare (q : LineReq) : State := memory { State.reset with mem := { reqs := [q] } }
/-- The request has left the queue at the edge at which it reaches its die. -/
def reached (s : State) (q : LineReq) : State := { s.at (s.arrival q) with mem := { s.mem with reqs := [] } }
def lineKinds : List LineKind := [.read, .write, .add, .readClear, .release]

theorem meets_VaultRequests_hit : ∀ k ∈ lineKinds, ∀ h ∈ [Hint.stream, .keep, .spend 1, .spend 3], ∀ s ∈ [vaulted { ways := [(37, vline0)] } (reqOf k h 0)],
    s.alive = true ∧ s.takeReq (.core 0 0) k false = some (reqOf k h 0, []) ∧ (reached s (reqOf k h 0)).where_ 0 = .near 0 ∧
    (reached s (reqOf k h 0)).hbmOn (lineDie 0) = true ∧ ((reached s (reqOf k h 0)).die (lineDie 0)).queue = [] ∧
    (reached s (reqOf k h 0)).held? 0 = some (37, vline0) ∧ vline0.marks = [] := by decide +kernel
/-- A line that is not held: off, outstanding, and 128 reads of its pseudo-channel; a read served; a write without a cache. -/
def outstanding (n : Nat) (a : Nat) : MemDie := { queue := List.replicate n { req := { read1 with addr := a }, channel := 0, alloc := .none } }
theorem meets_VaultRequests : ∀ k ∈ lineKinds, ∀ q ∈ [reqOf k .stream 0],
    (bare q).alive = true ∧ (∀ s ∈ [bare q, { State.reset with mem := (bare q).mem }, vaulted (outstanding 1 0) q, vaulted (outstanding 128 (2 ^ 30)) q],
      s.takeReq (.core 0 0) k false = some (q, []) ∧ (reached s q).where_ 0 = .near 0 ∧ (reached s q).held? 0 = none) ∧
    (reached { State.reset with mem := (bare q).mem } q).hbmOn (lineDie 0) = false ∧
    (∃ y ∈ ((reached (vaulted (outstanding 1 0) q) q).die 0).queue, (reached (vaulted (outstanding 1 0) q) q).where_ y.req.addr = .near 0) ∧
    128 ≤ (reached (vaulted (outstanding 128 (2 ^ 30)) q) q).channelLoad 0 ∧ (reached (bare q) q).hbmOn (lineDie 0) = true ∧
    ((reached (bare q) q).die (lineDie 0)).queue = [] ∧ (reached (bare q) q).caching (lineDie 0) = false := by decide +kernel
/-- A write that allocates: in a free slot, and in the place of a dirty line. -/
theorem meets_VaultRequests_allocates : ∀ q ∈ [reqOf .write (.spend 2) 0],
    (reached (vaulted { slots := [(0, 0)] } q) q).victim 0 = some (0, none) ∧
    (reached (vaulted { slots := [(0, 0)], ways := [(0, { vline0 with line := 2 ^ 24, dirty := true, keep := false, count := 0 })] } q) q).victim 0 =
      some (0, some { vline0 with line := 2 ^ 24, dirty := true, keep := false, count := 0 }) ∧
    (reached (vaulted { slots := [(0, 0)] } q) q).caching (lineDie 0) = true ∧
    (reached (vaulted { slots := [(0, 0)] } q) q).channelLoad (2 ^ 24) < 128 := by decide +kernel
/-- Scratchpad granule 0 in service and out of it, a tier address and one without memory. -/
theorem meets_VaultRequests_elsewhere : ∀ k ∈ lineKinds,
    (∀ a ∈ [2 ^ 45, 2 ^ 44, 2 ^ 46], (bare (reqOf k .stream a)).takeReq (.core 0 0) k false = some (reqOf k .stream a, []) ↔
      ¬ (a = 2 ^ 44 ∧ (k = .read ∨ k = .write))) ∧
    (reached (bare (reqOf k .stream (2 ^ 45))) (reqOf k .stream (2 ^ 45))).where_ (2 ^ 45) = .scratch 0 0 0 ∧
    (reached (bare (reqOf k .stream (2 ^ 45))) (reqOf k .stream (2 ^ 45))).scratchUp 0 0 = false ∧
    (reached (vaulted { slots := [(0, 0)], parts := [⟨0, 4, 7⟩] } (reqOf k .stream (2 ^ 45))) (reqOf k .stream (2 ^ 45))).scratchUp 0 0 = true ∧
    (bare (reqOf k .stream 0)).where_ (2 ^ 44) = .tier 0 ∧ (bare (reqOf k .stream 0)).where_ (2 ^ 46) = .unmapped := by decide +kernel

/-- QUADRANT ranges that meet; the Vault of MD0 on, with a line, and a flush noted; a mode that differs from MD0's. -/
def meeting : State := regs State.reset [(hbmBase 0 + 0x40, 0x80000200), (hbmBase 0 + 0x44, 0x80000101)]
def caching (dirty : Bool) : State := regs (vaulted { ways := [(37, { vline0 with dirty := dirty })] } read1) [(vltBase 0 + 8, 2)]

theorem meets_MemoryControl : State.reset.power.phase = .on ∧ (∀ d ∈ [0, 1, 2, 3], State.reset.hbmOn d = false) ∧
    qrangesBad meeting.qrangeRegs = true ∧ meeting.hbmOn 0 = false ∧ qrangesBad State.reset.qrangeRegs = false ∧ (hbm .read).hbmOn 0 = true ∧
    (∀ d ∈ [0, 1, 2, 3], (State.reset.die d).enabling = false ∧ (State.reset.die d).disabling = false) ∧
    (∀ n ∈ [0, 1], (State.reset.teller n).flushing = false ∧ (State.reset.teller n).computing = false) ∧
    (regs State.reset [(hbmBase 0 + 4, 1)]).hbmOn 0 = true ∧ (regs State.reset [(hbmBase 0 + 4, 1)]).hbmOn 3 = false ∧
    (∀ b ∈ [true, false], (caching b).vltOn 0 = true ∧ (caching b).hbmOn 0 = true ∧ (caching b).alive = true ∧ (caching b).rf (vltBase 0 + 8) 1 1 = 1 ∧
      ((caching b).die 0).ways = [(37, { vline0 with dirty := b })] ∧
      (({ caching b with regs := (regs State.reset [(vltBase 0 + 4, 1)]).regs } : State).hbmOn 0 = false)) := by
  decide +kernel
/-- A partition table of one record, sound or of another version. -/
def parted (version : Nat) : State :=
  regs (memory { State.reset with dies := [(0, { slots := [(0, 0)] })],
                                  mem := ({} : Memories).putLine none 0 (BitVec.ofNat 2048 (put [(0, version), (24, 4), (32, 7)])) false }) [(vltBase 0 + 0x14, 1)]
theorem meets_MemoryControl_vault : State.reset.vltOn 3 = false ∧ (∀ i ∈ [0, 1, 2, 3], State.reset.modeCompat i = State.reset.modeCompat 3) ∧
    (regs State.reset [(vltBase 0 + 4, 2)]).modeCompat 0 ≠ (regs State.reset [(vltBase 0 + 4, 2)]).modeCompat 3 ∧
    State.reset.rf (vltBase 3 + 0x14) 6 0 = 0 ∧ State.reset.modeCompat 3 = false ∧ (regs State.reset [(vltBase 0 + 0x14, 1)]).memFree = false ∧
    (regs State.reset [(vltBase 0 + 0x14, 1)]).rf (vltBase 0 + 0x14) 6 0 ≠ 0 ∧
    (∀ v ∈ [1, 2], (parted v).memFree = true ∧ (parted v).rf (vltBase 0 + 0x14) 6 0 ≠ 0 ∧ (parted v).vltOn 0 = false ∧ (parted v).modeCompat 0 = false ∧
      ((parted v).partTable 0).1.map (fun x => (x.bad ((parted v).die 0), x.die == 0)) = [(v != 1, true)] ∧ firstMeeting ((parted v).partTable 0).1 = none) := by
  decide +kernel

/-- Four populated tier ports; one request waits, and one of each kind is at a port. -/
def tierReq (k : LineKind) : LineReq := { read1 with kind := k, addr := 2 ^ 44 + 3 * 4096, poison := true }
def flying1 (k : LineKind) : XtReq := { req := { tierReq k with addr := 2 ^ 44 }, port := 0, order := 5 }
def tier (k : LineKind) (lost : List Nat) (xt : List XtReq) (moves : List PageMove) : State :=
  { State.reset with mem := { cxl := [1, 1, 1, 1], reqs := [tierReq k], xt := xt, xtLost := lost }, dep := { slice0 := { moves := moves } } }
def move1 (out : Bool) : PageMove := { key := 4, toTier := out, hbm := 9, xt := 9, ports := [0], order := 4 }

/-- The port serves, is lost, or an earlier WRITE of the line is in flight; no capacity; a page transfer was there first. -/
theorem meets_TierRequests : ∀ k ∈ [LineKind.read, .write], (∀ s ∈ [tier k [] [flying1 k] [], tier k [3] [] [], tier k [] [{ flying1 .write with req := tierReq .write }] []],
      s.alive = true ∧ s.takeReq (.core 0 0) k true = some (tierReq k, []) ∧ (s.at (s.arrival (tierReq k))).tierPort? ((tierReq k).addr % 2 ^ 44) = some 3) ∧
    (tier k [] [flying1 k] []).mem.xt.any (fun x => x.req.kind == .write && x.req.addr == (tierReq k).addr) = false ∧
    (tier k [] [{ flying1 .write with req := tierReq .write }] []).mem.xt.any (fun x => x.req.kind == .write && x.req.addr == (tierReq k).addr) = true ∧
    ({ tier k [] [] [] with mem := { (tier k [] [] []).mem with cxl := [] } } : State).tierPort? ((tierReq k).addr % 2 ^ 44) = none ∧
    ({ tier k [] [] [] with mem := { (tier k [] [] []).mem with cxl := [] } } : State).takeReq (.core 0 0) k true = some (tierReq k, []) ∧
    (tier k [] [flying1 k] []).mem.xt.find? (fun x => x.port == 0) = some (flying1 k) ∧ (tier k [] [flying1 k] []).behindPage (flying1 k) = false ∧
    (tier k [] [flying1 k] [move1 true]).behindPage (flying1 k) = true ∧ 0 < (tier k [] [] []).mem.cxl.getD 3 0 ∧ (tier k [] [] []).mem.xtLost.contains 3 = false := by
  decide +kernel

/-! ### Depository -/

def req1 : DepReq where
  die := 0
  phys := 0
  kind := .fetch
  stream := 0
  plane := 0
  pos := 0
  n := 1
  caddr := 0
  saddr := 0
  pin := 0
  deliv := 0
  rows := []
  op := 0
  leave := 0
  seq := 0
def fault1 : FaultEntry := { key := 0, waiting := [req1] }
/-- The Depository is on with paging, in a pool of 4 GiB, and slice 0 as given. -/
def paging (x : Slice) : State :=
  regs { memory State.reset with dep := { streams := [(0, desc1)], slice0 := x }, step := { job := some { xtDep := 4, bgLines := 64 } } }
    [(hbmBase 0 + 0x40, 0x80000100), (depBase 0 + 4, 9), (depBase 0 + 0x20, 0x00400040)]
/-- Stream 65,535's descriptor in memory, sound or of another version. -/
def described (version : Nat) : State :=
  regs { memory State.reset with
    mem := ({} : Memories).putLine none (lineIndex (placeOf [] (64 * 65535 / 256 * 256)).1 (placeOf [] (64 * 65535 / 256 * 256)).2)
      (BitVec.ofNat 2048 (2 ^ 1536 * (put [(0, version), (16, 1), (24, 1), (32, 1), (48, 1)]))) false }
    [(hbmBase 0 + 0x40, 0x80000101)]
def descRead (s : State) : Nat := (s.readBytes (2 ^ 32 * s.rf (depBase 0 + 0x14) 15 0 + 2 ^ 8 * s.rf (depBase 0 + 0x10) 31 8 + 64 * 65535) 64).1
/-- The Depository could be enabled: its pool range is on, with paging and without. -/
def pooled (page : Nat) : State := regs { State.reset with step := { job := some { xtDep := 3 } } } [(hbmBase 0 + 0x40, 0x80000100), (depBase 0 + 4, page)]

theorem meets_DepositoryStreams : ({ State.reset with dep := { opening := some 0 } } : State).dep.opening.isSome = true ∧
    ({ State.reset with dep := { closing := some 0 } } : State).dep.closing.isSome = true ∧ State.reset.memFree = false ∧
    (∀ v ∈ [1, 2], (described v).memFree = true ∧ (described v).dep.opening = none ∧
      (described v).descFault 65535 (descRead (described v)) = if v = 1 then none else some 0) ∧
    (∀ o ∈ [none, some 0], ({ opened (memory State.reset) with dep := { streams := [(0, desc1)], opening := o } } : State).memFree = true) ∧
    (opened (memory State.reset)).dep.closing = none ∧ (opened (memory State.reset)).depWaits = [] ∧
    ((opened (memory State.reset)).depDesc? 0).isSome = true ∧ (opened (memory State.reset)).depPending 0 = false ∧
    (paging { intake := [req1] }).depPending 0 = true ∧ State.reset.depDesc? 0 = none ∧
    (∀ i ∈ [0, 1, 2, 3], ((opened (memory State.reset)).slice i).forFrame = []) ∧ State.reset.depOn = false ∧
    State.reset.rf (hbmBase 0 + 0x40 + 4 * State.reset.rf (depBase 0 + 4) 7 6) 31 31 = 0 ∧
    (∀ p ∈ [0, 8], (pooled p).depOn = false ∧ (pooled p).rf (hbmBase 0 + 0x40 + 4 * (pooled p).rf (depBase 0 + 4) 7 6) 31 31 = 1 ∧ (pooled p).depWaits = [] ∧
      ((pooled p).pageEn = true ↔ p = 8) ∧ ((pooled p).step.job.map (·.xtDep)).getD 0 < 4) := by decide +kernel

theorem meets_DepositoryStreams_pages : (paging { faults := [fault1] }).memFree = true ∧ (paging { faults := [fault1] }).depOn = true ∧
    ((paging { faults := [fault1] }).slice 0).nextPageIn = some fault1 ∧ (paging { faults := [fault1] }).freeFrame 0 = some 0 ∧
    (List.replicate 15 (move1 false)).length < 16 ∧ ((paging {}).slice 0).nextPageIn = none ∧ 16 ≤ (List.replicate 16 (move1 true)).length ∧
    (∀ out ∈ [true, false], ((paging { moves := [move1 out] }).slice 0).moves.find? (fun m => m.toTier == out) = some (move1 out) ∧
      (paging { moves := [move1 out] }).moveFree (move1 out) = true ∧
      ({ paging { moves := [move1 out] } with mem := { xtLost := [0] } } : State).moveFree (move1 out) = false) ∧
    ((paging { intake := [req1] }).slice 0).intake = req1 :: [] ∧ (paging { intake := [req1] }).intakeFree 0 req1 = true ∧
    (paging { faults := List.replicate 256 { fault1 with key := 1 }, cache := [(0, { loc := .xt })] }).intakeFree 0 req1 = false := by decide +kernel

/-- LOW and HIGH are the frames of the pool; one is taken, by a block that the sweep finds; none is taken. -/
def evicting (fs : Tab Nat) : State := paging { frames := fs, cache := [(0, { loc := .hbm })], sweeping := true }
theorem meets_DepositoryStreams_out : (∀ fs ∈ [[], [(0, 0)]], (evicting fs).memFree = true ∧ (evicting fs).depOn = true ∧ (evicting fs).pageEn = true ∧
      ((evicting fs).hbmFree 0 < (evicting fs).markLow 0 ↔ fs ≠ []) ∧ ((evicting fs).slice 0).moves.length < 16 ∧ ((evicting fs).slice 0).nextPageIn = none) ∧
    (evicting []).markHigh 0 ≤ (evicting []).hbmFree 0 ∧ ((paging {}).slice 0).sweeping = false ∧ (paging {}).markLow 0 ≤ (paging {}).hbmFree 0 ∧
    (evicting [(0, 0)]).freeRegion 0 = some 0 ∧ (evicting [(0, 0)]).hbmFree 0 + 0 < (evicting [(0, 0)]).markHigh 0 ∧
    ((evicting [(0, 0)]).sweep 0 (((evicting [(0, 0)]).slice 0).frames.filter (fun f => decide (((evicting [(0, 0)]).slice 0).sweepAt ≤ f.1)) ++
      ((evicting [(0, 0)]).slice 0).frames.filter (fun f => decide (f.1 < ((evicting [(0, 0)]).slice 0).sweepAt))) [0, 1, 2, 3, 3]).1 = some (0, 0) := by
  decide +kernel

/-! ### Tellers -/

/-- Teller 0 is on and awake, with record 0, of a vector of 32 elements, first in its queue; its line may read as uncorrectable. -/
def telling (xs : List (Nat × Nat)) (poison : Bool) : State :=
  regs { memory State.reset with step := { teller0 := { queue := [0] }, job := some { bgLines := 1 } }, domains := [(domXd 0 9, { awake := true })],
                                 mem := ({} : Memories).putLine none 0 (BitVec.ofNat 2048 (put ([(0, 1), (32, 7), (64, 1), (96, 32)] ++ xs))) poison }
    [(tlrBase 0 + 4, 1)]
def headIs (s : State) (p : Rec → Bool → Bool) : Bool :=
  match s.tellerHead 0 with
  | some (0, r, ue, _) => r.layer == 7 && p r ue
  | _ => false

/-- An UPDATE, a CONTRIBUTE, a frozen and an invalid record, and one that reads as uncorrectable. -/
theorem meets_TellerRunsHead :
    headIs (telling [] false) (fun r ue => r.op != 1 && (r.invalid 0).isNone && !r.frozen && !ue) = true ∧
    headIs (telling [(8, 1)] false) (fun r ue => r.op == 1 && (r.invalid 0).isNone && !r.frozen && !ue) = true ∧
    headIs (telling [(12, 1)] false) (fun r ue => (r.invalid 0).isNone && r.frozen && !ue) = true ∧
    headIs (telling [(14, 1)] false) (fun r ue => r.op != 1 && r.invalid 0 == some 0x41 && !ue) = true ∧
    headIs (telling [] true) (fun _ ue => ue) = true ∧ (telling [] false).memFree = true ∧ (telling [] false).step.post = 0 := by decide +kernel

def flushable (s : State) : State := { s with step := { teller0 := { queue := [0] } } }
def finishing : State := { memory State.reset with step := { teller1 := { current := some (1, 7, 0) } } }
theorem meets_TellerQueues : State.reset.power.phase = .on ∧ ({ queue := List.replicate 63 0 } : Teller).level < 64 ∧
    64 ≤ ({ queue := List.replicate 63 0, current := some (0, 0, 0) } : Teller).level ∧ finishing.memFree = true ∧
    (finishing.teller 1).current = some (1, 7, 0) ∧ finishing.peersOf = 0 ∧ (telling [] false).rf (tlrBase 0 + 4) 0 0 = 1 ∧
    (∀ s ∈ [memory State.reset, State.reset], (flushable s).rf (tlrBase 0 + 4) 0 0 = 0 ∧ ((flushable s).teller 0).queue ≠ []) ∧
    (flushable (memory State.reset)).memFree = true ∧ (flushable State.reset).memFree = false := by decide +kernel

theorem meets_SchedulesAndLossScale : (telling [] false).tlrDisabled = false ∧ (telling [] false).power.phase = .on ∧
    (memory State.reset).tlrDisabled = true ∧ (memory State.reset).memFree = true ∧ State.reset.tlrDisabled = true ∧ State.reset.memFree = false ∧
    lsAfter (2 ^ 16 * 65535 + 2 ^ 8 * 255 + 64) (2 ^ 31 + 2 ^ 24 * 64 + 65535) 0 = 2 ^ 16 * 65535 + 64 ∧
    lsAfter (2 ^ 16 * 65534 + 63) (2 ^ 31 + 2 ^ 24 * 64 + 65535) 0 = 64 ∧
    lsAfter (2 ^ 8 * 255) (2 ^ 31 + 2 ^ 24 * 64) 1 = 2 ^ 8 * 255 := by decide +kernel

/-! ### The step -/

/-- A job of one micro-batch is loaded and admission not stopped. -/
def ready : State := { State.reset with step := { job := some { bgLines := 1 }, stopped := false } }
/-- The layer of record 0 has had its backward pass in steps 0 and 1. -/
def due (overlap : Bool) (enqueued : List Nat) : State :=
  { telling [] false with
    step := { job := some { overlap := overlap, bgLines := 1, layers := [{ package := false, frozen := false, trainable := true, layer := 7, record := 0 }] },
              nextMb := 1, passes := [(0, [0]), (65536, [0])], enqueued := enqueued } }

theorem meets_MicrobatchesAdmitted : ready.alive = true ∧ ready.nextAdmission = some (0, 0, false) ∧ ready.step.stamps = [] ∧
    State.reset.nextAdmission = none ∧
    (∀ e ∈ List.range 32, e ∈ ((List.range 32).map (fun i => (i, (0 : BitVec 128)))).map (fun (y : Nat × BitVec 128) => y.1)) ∧
    (due false []).memFree = true ∧ (due false []).step.job.isSome = true ∧ (0 : Nat) ∉ (due false []).step.enqueued ∧ (due false []).step.post = 0 ∧
    (due false []).recordDue (due false []).tlrStep 0 = true ∧ (due false []).recordDue (due false []).tlrStep 1 = false ∧
    ((due false []).teller ((due false []).recOf 0).teller).level < 64 ∧ (due true [0]).recordDue ((due true [0]).tlrStep + 1) 0 = true ∧
    (due true [0]).memFree = true ∧ (0 : Nat) ∉ (due true [0]).step.heldRecords ∧ (0 : Nat) ∈ (due true [0]).step.enqueued := by decide +kernel
theorem meets_MicrobatchesAdmitted_free : LowestFree (ready.step.stamps.map (fun (y : Nat × BitVec 128) => y.1)) 32 0 ∧
    LowestFree [0, 2] 32 1 ∧ LowestFree (List.range 31) 32 31 := by
  unfold LowestFree
  decide +kernel

def posting (n : Nat) : State := { memory State.reset with step := { post := n, job := some { bgLines := 1 }, stopped := false } }
/-- Of a step without layers the one micro-batch is done. -/
def done : State := { posting 0 with step := { (posting 0).step with batches := [(0, [0])] } }

theorem meets_VotesDecide : done.alive = true ∧ done.memFree = true ∧ done.updateDone = true ∧ done.step.post = 0 ∧ (posting 0).updateDone = false ∧
    ({ posting 0 with step := { (posting 0).step with faulted := true } } : State).workEnded = true ∧ (posting 1).step.post = 1 ∧
    (posting 1).ldg.acksDue = [] ∧ (posting 1).securingDone = true ∧ (posting 1).checkpointDue = false ∧ (posting 1).peers = [] ∧ (posting 1).step.votes = [] ∧
    ({ acksDue := [1] } : Ledger).acksDue ≠ [] ∧ (posting 2).step.stalled = false ∧
    (regs (posting 2) [(tlrBase 0 + 0x24, 0xFF00)]).rf (tlrBase 0 + 0x24) 15 8 ≠ 0 := by decide +kernel

/-- A stamp of the next step, while a core is at work and while none is. -/
def skipping (busy : Bool) : State :=
  { posting 4 with step := { (posting 4).step with stamps := [(0, stampWord 0 1 0 0 true)] }, cores := [(0, { active := true, transBusy := if busy then 9 else 0 })] }

theorem meets_PostingAndSkip : (posting 3).memFree = true ∧ (posting 3).step.post = 3 ∧ (posting 4).step.post = 4 ∧ (posting 4).stampsOf 1 = [] ∧
    (skipping false).stampsOf 1 ≠ [] ∧ (skipping false).workEnded = true ∧ (skipping true).memFree = true ∧ (skipping true).workEnded = false ∧
    (posting 3).layerRecords = [] ∧ (posting 3).link.staged = none ∧ (∀ d ∈ [0, 1, 2, 3], ((posting 3).die d).failing = [] ∧ ((posting 3).slice d).cache = []) ∧
    (posting 3).ldgOn = false ∧ (posting 3).ldg.building = none ∧ (posting 3).rf (tlrBase 0 + 0x8004) 0 0 = 0 ∧
    (posting 3).rf (tlrBase 1 + 0x8004) 0 0 = 0 ∧ (posting 3).teller 0 = {} ∧ (posting 3).teller 1 = {} := by decide +kernel

theorem meets_StepEntryAndEvaluation : (posting 5).entryReady = true ∧ (posting 5).step.heldRecords = [] ∧ (posting 5).step.faultNext = none ∧
    State.reset.entryReady = false ∧ (posting 5).alive = true ∧ (posting 5).step.lastSkipped = false ∧ (posting 5).step.evalRunning = false ∧
    (posting 5).step.stamps = [] ∧ State.reset.streamsEnded = true ∧ (skipping true).streamsEnded = true ∧ (running { fwd := { ended := false } }).streamsEnded = false ∧
    ({ evalRequested := true } : Step).evalRequested = true ∧ ({ evalRunning := true } : Step).evalRunning = true := by decide +kernel

/-! ### Link -/

/-- A port that is UP, with a flit held for replay that has been sent 8 times. -/
def Port.on : Port :=
  { state := .up, lanes := [0, 1, 2, 3, 4, 5, 6, 7], credits := [(0, 4)],
    replay := [{ type := 1, poison := false, cls := 1, payload := 0, seq := 1023, sends := 8 }] }
/-- Both I/O dies' links are on, and port 0 is enabled with a state. -/
def linked (x : Port) : State :=
  regs { State.reset with link := { ports := [(0, x)] } } [(vlBase 0 + 4, 0x21), (portBase 0, 1), (vlBase 1 + 4, 0x21)]
def lanes8 : Training := { (default : Training) with lanes := 0xFF, linkVersions := 2, classes := 0xF, maxData := 256 }

theorem meets_PortsTrain : (linked {}).alive = true ∧ (linked {}).vlOn 0 = true ∧ (linked {}).rf (portBase 0) 0 0 = 1 ∧
    ((linked {}).port 0).lost = false ∧ ((linked {}).port 0).state = .down ∧ (bitList ({ lanes8 with lanes := 0x7F }).lanes.toNat 9).length < 8 ∧
    8 ≤ (bitList lanes8.lanes.toNat 9).length ∧ bit lanes8.linkVersions.toNat 1 = true ∧ lanes8.classes.toNat % 16 = 15 ∧
    256 ≤ lanes8.maxData.toNat ∧ ¬ (256 ≤ ({ lanes8 with maxData := 255 }).maxData.toNat) ∧ ((linked Port.on).port 0).retrainsFor 7 = true ∧
    ((linked Port.on).port 0).spareInUse = false ∧ ((linked Port.on).port 0).retrainsFor 8 = false ∧
    (({ Port.on with state := .retraining, failing := some 8 } : Port)).retrainsFor 8 = true ∧
    (List.range 9).find? (fun l => !((linked Port.on).port 0).lanes.contains l) = some 8 ∧ State.reset.vlOn 1 = false ∧
    (∀ r ∈ [((4095 : Nat), (1 : Word))], r.1 < 4096) ∧ ([((4095 : Nat), (1 : Word))].map (fun (y : Nat × Word) => y.1)).Nodup := by decide +kernel

set_option maxRecDepth 1000000 in
/-- A flit that a sender makes is read, without a corrected byte; zeros, whose CRC is wrong, are not. -/
theorem meets_FlitsFlow : flitRead (flitBytes (1 + 2 ^ 6 * 1023) 0xA5) = some (1 + 2 ^ 6 * 1023, 0xA5, []) ∧
    (flitBytes (1 + 2 ^ 6 * 1023) 0xA5).length = 272 ∧ bits (1 + 2 ^ 6 * 1023) 2 0 = 1 ∧ bits (1 + 2 ^ 6 * 1023) 15 6 = 1023 ∧
    (List.replicate 272 (0 : Byte)).length = 272 ∧ flitRead (List.replicate 272 0) = none ∧ (List.replicate 271 (0 : Byte)).length ≠ 272 := by
  decide +kernel
/-- A flit in sequence and one out of it; nothing to send, a class-0 flit to send, and one to send again. -/
def flit0 : LinkFlit := { type := 1, poison := false, cls := 0, payload := 0, seq := 0, sends := 0 }
theorem meets_FlitsFlow_ports : (∀ x ∈ [Port.on, { Port.on with expected := 1023 }, { Port.on with egress := [(0, [flit0])] }, { Port.on with resend := some 1023 }],
      (linked x).alive = true ∧ ((linked x).port 0).state = .up) ∧ bits (1 + 2 ^ 6 * 1023) 15 6 ≠ ((linked Port.on).port 0).expected ∧
    bits (1 + 2 ^ 6 * 1023) 15 6 = ((linked { Port.on with expected := 1023 }).port 0).expected ∧ bits (1 + 2 ^ 6 * 1023) 2 0 ≤ 4 ∧
    ((linked Port.on).port 0).resend = none ∧ ((linked Port.on).port 0).egress = [] ∧
    (linked { Port.on with egress := [(0, [flit0])] }).ready? ((linked { Port.on with egress := [(0, [flit0])] }).port 0).tick 0 = some flit0 ∧
    (∃ f ∈ ((linked Port.on).port 0).replay, f.seq = (0x3FF#10).toNat ∧ 8 ≤ f.sends) ∧ (∀ f ∈ ((linked Port.on).port 0).replay, f.seq ≠ (0#10).toNat) ∧
    (((linked { Port.on with resend := some 1023 }).port 0).replay.find? (fun g => g.seq == 1023)).isSome = true := by decide +kernel
/-- A HEAD without DATA, and a DATA flit that completes a message. -/
theorem meets_FlitsFlow_messages : msgFlits 0 = 0 ∧ bits (2 + 2 ^ 6 * 1023) 2 0 = 2 ∧
    (∃ m : Msg, Tab.find? ({ Port.on with partialMsg := [(1, { cls := 1, head := BitVec.ofNat 2048 (2 ^ 144), data := [] })] } : Port).partialMsg 1 = some m ∧
      msgFlits m.head = m.data.length + 1) := ⟨by decide +kernel, by decide +kernel, _, rfl, by decide +kernel⟩

/-- A message of a class and transport from package 1 with more header fields and one DATA line. -/
def message (cls transport : Nat) (xs : List (Nat × Nat)) : Msg :=
  { cls := cls, head := BitVec.ofNat 2048 (put ([(0, 1), (8, transport), (16, 1), (144, 1)] ++ xs)), data := [(9, false)] }
/-- The message waits at port 0. -/
def offered (m : Msg) : State := linked { Port.on with inbox := [(m.cls, [m])] }
/-- Package 2 is reached through port 1 alone, or through ports 1 and 1's neighbour for any count; port 1 has flits queued in class 0. -/
def routed (m : Msg) (n : Nat) : State :=
  regs ((offered m).setPort 1 { Port.on with egress := [(0, List.replicate n flit0)] }) [(vlBase 0 + 0x10000 + 8, 0x80000002)]

/-- A full queue and one with a place; no route; for this package; hops used up and one left. -/
theorem meets_MessagesForwarded : (∀ c ∈ [0, 1, 2, 3], ∀ n ∈ [255, 256], ∀ s ∈ [routed (message c 0x10 [(32, 2)]) n],
      Tab.read [] (s.port 0).inbox c = [message c 0x10 [(32, 2)]] ∧ s.alive = true ∧ msgDst (message c 0x10 [(32, 2)]) ≠ s.self ∧
      (c = 0 → s.egressPort 0 2 0 = some 1 ∧ ((Tab.read [] (s.port 1).egress 0).length < 256 ↔ n = 255)) ∧
      bits (message c 0x10 [(32, 2)]).head.toNat 51 48 + 2 ≤ s.hopLimit 0 ∧
      s.hopLimit 0 < bits (message c 0x10 [(32, 2), (48, 1)]).head.toNat 51 48 + 2) ∧
    (offered (message 1 0x10 [(32, 2)])).routePorts 2 = [] ∧ msgDst (message 1 0x10 []) = (offered (message 1 0x10 [])).self := by decide +kernel
/-- Whatever the counter of the source, package 2 is reached through port 1. -/
theorem meets_MessagesForwarded_routed : ∀ n k, (routed (message 1 0x10 [(32, 2)]) n).egressPort 1 2 k = some 1 := by
  intro n k
  have h : (routed (message 1 0x10 [(32, 2)]) n).routePorts 2 = [1] := by
    show (routed (message 1 0x10 [(32, 2)]) 0).routePorts 2 = [1]
    decide +kernel
  have h2 : ((routed (message 1 0x10 [(32, 2)]) n).port 1).state = .up := by
    show ((routed (message 1 0x10 [(32, 2)]) 0).port 1).state = .up
    decide +kernel
  simp [State.egressPort, h, h2, Nat.mod_one]

/-- `State.offers` as a test. -/
def isOffered (s : State) (p c : Nat) (m : Msg) : Bool :=
  (Tab.read [] (s.port p).inbox c).head? == some m && msgDst m == s.self && msgVersion m == 1 && transportClass (msgTransport m) == some c
theorem offers_of_isOffered {s : State} {p c : Nat} {m : Msg} (h : isOffered s p c m = true) : s.offers p c m := by
  unfold isOffered at h
  simp only [Bool.and_eq_true, beq_iff_eq] at h
  obtain ⟨⟨⟨h1, h2⟩, h3⟩, h4⟩ := h
  obtain ⟨l, hl⟩ := List.head?_eq_some_iff.mp h1
  exact ⟨⟨l, hl⟩, h2, h3, h4⟩

/-- A vote of the step and one of another; votes may arrive while the package waits for them or before. -/
theorem meets_VotesDecide_votes : (∀ n ∈ [0, 5], (offered (message 0 1 [(96, n)])).alive = true ∧
    isOffered (offered (message 0 1 [(96, n)])) 0 0 (message 0 1 [(96, n)]) = true ∧ msgTransport (message 0 1 [(96, n)]) = 1 ∧
    (offered (message 0 1 [(96, n)])).link.seen = [] ∧
    (msgStep (message 0 1 [(96, n)]) = (offered (message 0 1 [(96, n)])).tlrStep ↔ n = 0) ∧ msgEpoch (message 0 1 [(96, n)]) = (offered (message 0 1 [(96, n)])).epoch ∧
    (msgSkips (message 0 1 [(96, n)]) + 65536 - (offered (message 0 1 [(96, n)])).skips) % 65536 < 32768 ∧ (offered (message 0 1 [(96, n)])).step.post ≠ 2) ∧
    (posting 2).voters = [0] ∧ (posting 2).voteNow { src := 0, step := 0, epoch := 0, skips := 0, nonfinite := false, fault := false } = true := by decide +kernel

/-- A JOIN_REQ, a JOIN_ACK that accepts, READY, LEAVE, STEP_FAULT and MGMT; of package 1, whose level is known. -/
def controls : List Msg :=
  [message 0 2 [], message 0 3 [(256, 1)], message 0 3 [(256, 2), (264, 1)], message 0 3 [(256, 3)], message 0 3 [(256, 4)], message 0 4 []]
theorem meets_ControlMessages : (∀ m ∈ controls, (offered m).alive = true ∧ isOffered (offered m) 0 0 m = true ∧ (offered m).link.seen = [] ∧
      withoutHops m.head ∈ ({ seen := [withoutHops m.head] } : Link).seen ∧ msgStep m = (offered m).tlrStep ∧ msgSkips m = (offered m).skips ∧
      (offered m).step.post < 2) ∧
    controls.map msgTransport = [2, 3, 3, 3, 3, 4] ∧ isMember 1 (message 0 3 [(256, 1)]) = true ∧ isMember 2 (message 0 3 [(256, 2), (264, 1)]) = true ∧
    msgBytes (message 0 3 [(256, 2), (264, 1)]) 33 1 = 1 ∧ isMember 3 (message 0 3 [(256, 3)]) = true ∧ isMember 4 (message 0 3 [(256, 4)]) = true ∧
    (linked { Port.on with peer := 1, peerFeature := 0x107 }).featureOf 1 = some 0x107 ∧ serves 0x107 0x107 = true ∧ serves 0x107 0x108 = false := by
  decide +kernel

/-- A data message at port 0 of a package whose memory serves. -/
def dataAt (x : Nat × Nat) (fs : List (Nat × Nat)) : State := memory (offered (message x.2 x.1 fs))
def transports : List (Nat × Nat) := [(0x10, 1), (0x11, 2), (0x12, 2), (0x18, 3), (0x19, 3)]

/-- Of another epoch; of a later skip count, by 1 and by 32,767; of an earlier, by 32,768 and by 1; of the same. -/
theorem meets_DataMessagesApply : (∀ x ∈ transports,
    (∀ fs ∈ [[(64, 1)], [(128, 1)], [(128, 32767)], [(128, 32768)], [(128, 65535)], []], (dataAt x fs).memFree = true ∧
      isOffered (dataAt x fs) 0 x.2 (message x.2 x.1 fs) = true ∧ msgTransport (message x.2 x.1 fs) = x.1) ∧
    msgEpoch (message x.2 x.1 [(64, 1)]) ≠ (dataAt x []).epoch ∧ msgEpoch (message x.2 x.1 []) = (dataAt x []).epoch ∧
    msgSkips (message x.2 x.1 []) = (dataAt x []).skips ∧
    [1, 32767, 32768, 65535, 0].map (fun n => (msgSkips (message x.2 x.1 [(128, n)]) + 65536 - (dataAt x []).skips) % 65536) = [1, 32767, 32768, 65535, 0]) ∧
    State.reset.memFree = false ∧ msgBytes (message 3 0x18 []) 38 1 = 0 := by
  decide +kernel
/-- Marks that agree in TOTAL and that do not; a PIPE that goes out, with its stamp entry in use and free; a held message whose count is reached,
that is passed, and that waits. -/
theorem meets_DataMessagesApply_held :
    (some ((3 : Nat), msgBytes (message 3 0x19 []) 40 4)).all (fun (y : Nat × Nat) => y.2 == msgBytes (message 3 0x19 []) 40 4) = true ∧
    (some ((3 : Nat), 5)).all (fun (y : Nat × Nat) => y.2 == msgBytes (message 3 0x19 []) 40 4) = false ∧
    (Tab.find? (stamped (memory State.reset)).step.stamps 0).isSome = true ∧ State.reset.step.stamps = [] ∧
    ({ memory State.reset with step := { stamps := [(0, 0)] } } : State).memFree = true ∧ (∀ n ∈ [0, 32768],
      ([(0, message 1 0x10 [(128, n)])] : List (Nat × Msg)).find? (fun x => (msgSkips x.2 + 65536 - (memory State.reset).skips) % 65536 == 0 ||
        decide (32768 ≤ (msgSkips x.2 + 65536 - (memory State.reset).skips) % 65536)) = some (0, message 1 0x10 [(128, n)]) ∧
      msgEpoch (message 1 0x10 [(128, n)]) = (memory State.reset).epoch) ∧
    (∀ x ∈ ([(0, message 1 0x10 [(128, 1)])] : List (Nat × Msg)), 0 < (msgSkips x.2 + 65536 - (memory State.reset).skips) % 65536 ∧
      (msgSkips x.2 + 65536 - (memory State.reset).skips) % 65536 < 32768) := by decide +kernel

/-! ### Clocks and the Treasury -/

/-- The regions of the example after R429: demand, floor, weight. -/
def regions66 : List (Nat × Nat × Nat) :=
  List.replicate 32 (80, 40, 4) ++ List.replicate 4 (0, 10, 1) ++ List.replicate 4 (30, 30, 1) ++ List.replicate 4 (160, 160, 1) ++
    List.replicate 4 (40, 40, 1) ++ List.replicate 4 (30, 30, 1) ++ List.replicate 6 (40, 40, 1) ++ List.replicate 2 (30, 30, 1) ++
    List.replicate 2 (20, 20, 1) ++ List.replicate 2 (10, 10, 1)
theorem test_grants_at_66V : (grantsOf 3814 regions66).take 32 = List.replicate 6 75 ++ List.replicate 26 74 ∧ (grantsOf 3814 regions66).sum = 3814 ∧
    levelOf 80 74 = 5 ∧ levelOf 80 75 = 4 := by decide +kernel

theorem meets_GrantsFollowBudget : regions66[0]? = some (80, 40, 4) ∧ (2720 : Int) ≤ ((regions66.map (fun (x : Nat × Nat × Nat) => x.2.1)).sum : Nat) ∧
    ((regions66.map (fun (x : Nat × Nat × Nat) => x.2.1)).sum : Nat) ≤ (3814 : Int) ∧ (63 : Nat) ≤ 63 ∧ State.reset.power.phase = .on ∧
    ({ (default : Measurement) with vin := 62999 }).vin < 63000 ∧ 66000 ≤ ({ (default : Measurement) with vin := 66000 }).vin ∧
    0 < (regs State.reset [(tsyBase + 0x10, 1)]).overdraw { (default : Measurement) with vin := 72000, vinMin := 72000, iin := 20000, pin := 14400 } ∧
    ({ pending := [40] } : Treasury).pending ≠ [] := by decide +kernel

def changing (x : Treasury) : State := { State.reset with tsy := x, domains := [(0, { awake := true }), (38, { awake := true })] }

theorem meets_PointChanges : (changing { phase := .decided }).power.phase = .on ∧ (0x3FF : BitVec 10) = 0x3FF ∧ (0x1FF : BitVec 10) ≠ 0x3FF ∧
    (changing { phase := .posted, changeEdge := 1024 }).edge + 1024 ≤ (changing { phase := .posted, changeEdge := 1024 }).tsy.changeEdge ∧
    (changing { phase := .posted, changeEdge := 1023 }).tsy.changeEdge < (changing { phase := .posted, changeEdge := 1023 }).edge + 1024 ∧
    (changing { phase := .posted, acks := List.range 9 }).tsy.acks.length < 10 ∧ (9 : Nat) ∉ List.range 9 ∧
    (changing { acks := List.range 10 }).tsy.acks.length = 10 ∧ ((changing {}).domain 0).awake = true ∧
    (0 : Nat) ∉ (changing { switched := [38] }).tsy.switched ∧
    (∀ k < 228, ((changing { switched := [38] }).domain k).awake = true → k = 0 ∨ k ∈ (changing { switched := [38] }).tsy.switched) ∧
    ((changing {}).domain 38).awake = true ∧ (38 : Nat) ∉ (changing {}).tsy.switched := by decide +kernel

/-- Core 0 of CD0 has swallowed four edges; its ring segment none. -/
def skewed : State := { State.reset with edge := 9, domains := [(0, { awake := true, swallowed := 4 }), (34, { awake := true })] }
theorem meets_DomainsSwallow : (regs skewed [(tsyRstat 0, 0x3F000000)]).rf (tsyRstat 0) 29 24 = 63 ∧ skewed.rf (tsyRstat 0) 29 24 = 0 ∧ skewed.tsy.phase = .idle ∧
    (0 : Nat) ∉ skewed.tsy.capped ∧ (skewed.domain 0).awake = true ∧ skewed.crossing 0 34 = true ∧ (skewed.domain 34).deferred = 0 ∧ skewed.crossing 0 1 = false ∧
    4 ≤ max (skewed.domEdge 0) (skewed.domEdge 34) - min (skewed.domEdge 0) (skewed.domEdge 34) ∧
    max (skewed.domEdge 34) (skewed.domEdge 34) - min (skewed.domEdge 34) (skewed.domEdge 34) < 4 := by decide +kernel

/-- The condition of core 0 holds for 64 edges; that of control domain 38 does not hold. -/
theorem meets_DomainsSleepAndWake : ((changing {}).domain 0).awake = true ∧ (changing {}).mayRest 0 = true ∧
    ((changing {}).at ((changing {}).edge + (64 - ((changing {}).domain 0).rested) + 1)).mayRest 0 = true ∧
    (((changing {}).at ((changing {}).edge + (64 - ((changing {}).domain 0).rested) + 1)).domain 0).rested = 64 ∧ (changing {}).mayRest 38 = false := by decide +kernel
/-- Asleep: a domain that never may, a Teller with and without work, a slice of the Depository, an active core with work, and a core in the Reserve. -/
theorem meets_DomainsSleepAndWake_wakes : (State.reset.domain 38).awake = false ∧ domSleepable 38 = false ∧
    ((running {}).domain (domXd 0 9)).awake = false ∧ domSleepable (domXd 0 9) = true ∧ (domAt (domXd 0 9)).1 ≠ 0 ∧ (domAt (domXd 0 9)).1 ≠ 1 ∧
    (regs (running {}) [(tlrBase 0 + 4, 2)]).wakeFrom (domXd 0 9) = none ∧ (domAt (domMd 0 7)).1 = 1 ∧ domSleepable (domMd 0 7) = true ∧
    ({ at1 {} 0 with domains := [] } : State).wakeFrom 0 = some 0 ∧ domSleepable 0 = true ∧ ((at1 {} 0).core 0 0).active = true ∧
    (State.reset.core 0 33).active = false ∧ (domAt 33).2.2 < 34 ∧
    ({ changing {} with domains := [(domXd 0 9, { wakeAt := some 5 })] } : State).wakeFrom (domXd 0 9) = some 5 := by decide +kernel

/-! ### Journal, recovery, boot, power -/

def entry0 : JEntry where
  cls := .notice
  region := 64
  domain := 255
  joined := false
  queued := false
  escalated := false
  lostBefore := false
  seq := 0
  edge := 0
  code := 1
  step := 0
  addr := 0
  unit := 0
  info := 0
theorem meets_JournalAndRating : ([] : List JEntry).length < 3840 ∧ (3839 : Nat) < 3840 ∧ 3840 ≤ (3840 : Nat) ∧ State.reset.fatal.pending = none ∧
    State.reset.fatal.stopped = false ∧ State.reset.power.phase = .on ∧ (default : Health).sourceFaulted = false ∧
    ({ (default : Health) with sourceFaulted := true }).sourceFaulted = true ∧ ({ (default : Health) with lost := [.stack 0] }).lost ≠ [] ∧
    State.reset.ldg.armed = true ∧ (0 : Nat) ≤ State.reset.rf (ldgBase + 0x4C) 15 0 ∧ State.reset.rf (ldgBase + 0x4C) 15 0 < 2 ^ 16 := by decide +kernel
/-- A Journal with as many entries as asked. -/
theorem meets_JournalAndRating_full : ∀ n : Nat, (List.replicate n entry0).length = n := fun _ => List.length_replicate

def err1 (c : ErrClass) (later : Bool) : QueuedErr := { ref := ⟨c, 3, 0x100⟩, seq := 1, addr := 0, later := later }
def stage (n : RecStage) : State := { posting 5 with rec_ := { stage := n } }
/-- A snapshot of 8 lines is being built, with and without lines still to read. -/
def securing (read : Nat) : State :=
  regs { memory State.reset with ldg := { building := some 1, read := read } } [(ldgBase + 4, 1), (ldgBase + 0x1C, 8)]

theorem meets_RecoveryRuns : (∀ e ∈ [err1 .step false, err1 .step true, err1 .restore false, err1 .depart false],
      ({ State.reset with jnl := { queue := [e] } } : State).jnl.queue = e :: [] ∧ ({ queue := [e] } : Journal).handling = none) ∧
    State.reset.alive = true ∧ (some (⟨.step, 3, 0x100⟩ : ErrRef)).isSome = true ∧ State.reset.step.post < 2 ∧ (2 : Nat) ≤ 2 ∧
    (∀ n ∈ [RecStage.pendingSkip, .restoreNeeded], (stage n).memFree = true ∧ (stage n).step.post = 5 ∧ (stage n).rec_.stage = n) ∧
    State.reset.fatal.stopped = false ∧ State.reset.memUp = false ∧ (memory State.reset).memUp = true ∧ State.reset.fatal.dumpHeld = false ∧
    (∀ n ∈ [0, 8], (securing n).ldg.building = some 1 ∧ (securing n).memFree = true ∧ (securing n).ldgOn = true ∧ (securing n).ldg.digest = none) := by
  decide +kernel

def good : BankVerdict := { readOk := true, manifestSig := true, headerSig := true, selfTest := true }
/-- A bank in A of three components without bytes, SVN 0, whose key is 1,952 zero bytes; fuses with the digest of that key. -/
def bankA : Mem :=
  (({} : Mem).setBytes 0 (bytesOfNum 16 (put [(0, 0x4E4B5641), (32, 1), (40, 3)]))).setBytes 0x800
    ([1, 2, 3].flatMap (fun t => bytesOfNum 64 (put [(0, t), (8, 1), (256, (shake256 []).toNat)])))
def fused : Fuses := { rootDigest := shake256 (bankA.bytes (bankBase false + 0x20) 1952) }
theorem test_shake256_empty : (shake256 []).toNat = 0x2f76d56e64270cb5821bb862ea52cd3f24eb3e74eb3f3b23138da80b2bddb946 := by decide +kernel

theorem meets_ColdStartBoots_bank : bankReason bankA (bankBase false) fused good = 0 := by
  unfold bankReason
  dsimp only
  rw [if_neg (by decide), if_neg (by decide +kernel), if_neg (by decide +kernel), if_neg (by simp [fused]), if_neg (by decide), if_neg (by decide),
    if_neg (by decide +kernel), if_neg (by decide +kernel), if_neg (by decide)]

/-- Bank A boots where both verdicts are good; an empty flash boots nothing. -/
theorem meets_ColdStartBoots : (bankOrder bankA).find? (fun b => bankReason bankA (bankBase b) fused (if b then good else good) == 0) = some false := by
  have h : bankOrder bankA = [false] ∨ bankOrder bankA = [false, true] := by decide +kernel
  rcases h with h | h <;> simp [h, meets_ColdStartBoots_bank]
theorem meets_ColdStartBoots_none : State.reset.power.phase = .on ∧ State.reset.far.bootDone = false ∧
    bankReason State.reset.nvm (bankBase false) State.reset.fuses good ≠ 0 ∧
    bankReason State.reset.nvm (bankBase true) State.reset.fuses good ≠ 0 ∧ ({ bootDone := true } : Farhies).bootDone = true := by decide +kernel

/-- After an over-voltage trip with PWR_EN low at 77,999 and 78,000 mV. -/
theorem meets_PowerComesAndGoes : unpowered.power.phase = .off ∧ unpowered.power.overVoltage = false ∧ unpowered.power.alwaysOn = false ∧
    (∀ v ∈ [77999, 78000], (({ phase := .off, overVoltage := true, pwrEn := false } : Power).overVoltage &&
      (({ phase := .off, overVoltage := true, pwrEn := false } : Power).pwrEn || decide (78000 ≤ v))) = (v == 78000)) ∧
    ({ phase := .off } : Power).alwaysOn = true ∧ (64000 : Nat) < 64001 ∧
    State.reset.power.phase = .on ∧ (58000 : Nat) ≤ 58000 ∧ (81000 : Nat) ≤ 81000 ∧ (114 : Int) < 115 ∧
    ({ phase := .holding } : Power).thermTrip = false ∧ ({ phase := .holding, thermTrip := true, vin := 58000 } : Power).vin ≤ 81000 := by decide +kernel

/-! ### Mailbox -/

/-- A request frame, its buffer 64 KiB at address 0. -/
def frame (op : Nat) (xs : List (Nat × Nat)) : Nat := put ([(0, 1), (8, op), (128, 0x10000)] ++ xs)
/-- The module has booted, and one request waits. -/
def asked (s : State) (w : Nat) : State :=
  regs s ([(8, 0x30000000), (0x100, 1)] ++ (List.range 16).map (fun i => (0x1000 + 4 * i, w / 2 ^ (32 * i) % 2 ^ 32)))

/-- A tail that moves by 0, 1, 32 and 33; an answered frame. -/
theorem meets_MailboxRing : State.reset.power.phase = .on ∧
    [0, 1, 32, 33].map (fun n => (n + 65536 - State.reset.rf 0x100 15 0) % 65536) = [0, 1, 32, 33] ∧
    (32 + 65536 - State.reset.rf 0x108 15 0) % 65536 = 32 ∧ State.reset.frame? = none ∧
    (∀ x ∈ requests none true [] good, (asked State.reset (frame x.1 [])).frame? = some (frame x.1 []) ∧ bits (frame x.1 []) 3 0 = 1 ∧
      frOpcode (frame x.1 []) = x.1 ∧ frOpcode (frame 0x1E []) ≠ x.1) ∧ bits (frame 1 [(0, 1)]) 3 0 ≠ 1 ∧
    (regs (asked State.reset (frame 3 [])) [(8, 0)]).forbids (frame 3 []) = some { result := 0x13 } ∧
    (asked State.reset (frame 0x1E [])).forbids (frame 0x1E []) = none ∧ frOpcode (frame 0x1E []) ∉ opcodes ∧ State.reset.jnl.seq < 2 ^ 32 := by
  decide +kernel

def shortOps : List Nat := [1, 2, 3, 4, 5, 6, 0x11, 0x12, 0x13, 0x19]
theorem meets_ShortRequests : ∀ op ∈ shortOps, (asked State.reset (frame op [])).asks op (frame op []) ∧ (asked ready (frame op [])).asks op (frame op []) := by
  unfold State.asks
  decide +kernel
def op0 (done : Bool) : LongOp := { id := 0, frame := 0, hostFault := none, result := 0, detail := 0, done := done }
theorem meets_ShortRequests_more : frArg (frame 3 []) 0 1 ∉ latchedCodes ∧ (0x18 ∈ latchedCodes ∧ frArg (frame 3 [(192, 0x18)]) 0 1 = 0x18) ∧
    State.reset.mbx.ops.find? (fun o => o.id == frArg (frame 4 []) 0 2) = none ∧
    (∀ b ∈ [true, false], [op0 b].find? (fun o => o.id == frArg (frame 4 []) 0 2) = some (op0 b)) ∧ bufferBad (frame 5 [(64, 1)]) 120 = some (badArg 8) ∧
    bufferBad (frame 5 []) 120 = none ∧ State.reset.mbx.reports = [] ∧ bufferBad (frame 6 []) (default : Report).toBytes.length = none ∧
    State.reset.step.job = none ∧ ready.step.job ≠ none ∧ ({ evalLimit := 1 } : Job).evalLimit ≠ 0 ∧ ({} : Job).evalLimit = 0 ∧ bufferBad (frame 0x19 []) 1952 = none ∧
    bufferBad (frame 0x19 [(64, 1)]) 1952 = some (badArg 8) ∧ ready.rf (tlrBase 0 + 0x8010) 1 1 = 0 ∧ ready.rf (tlrBase 1 + 0x8010) 1 1 = 0 ∧
    State.reset.far.jobKey = none ∧ State.reset.far.firstLoad = false := by decide +kernel

/-- Each long request, from reset and, RESTART, from a fatal stop that has been flushed. -/
theorem meets_LongRequests : ∀ x ∈ longRequests none true [] good, ∀ s ∈ [State.reset, { State.reset with fatal := { stopped := true, flushed := true } }],
    s.fatal.stopped = decide (x.1 = 0x1D) → (asked s (frame x.1 [])).asksLong x.1 x.2.1 (frame x.1 []) := by
  unfold State.asksLong State.asks
  decide +kernel

/-- Eight operations held; a buffer that is misaligned, needed on the host path; a LOAD that runs. -/
theorem meets_LongRequestsEnd : (∀ x ∈ longRequests none true [] good, (asked State.reset (frame x.1 [])).asks x.1 (frame x.1 []) ∧
      ((x.2.1 (frame x.1 [(64, 1), (192, 0xFFFFFFFFFFFFFFFFFFFFFFFFFFFF)])).isSome = true ↔ x.1 ≠ 0x1A ∧ x.1 ≠ 0x1D)) ∧ 8 ≤ (List.replicate 8 (op0 true)).length ∧
    sameResource (frame 0x10 []) (frame 0x1B []) = true ∧ State.reset.attestKey = none ∧ frArg (frame 0x10 []) 0 1 ≠ 1 ∧
    (asked State.reset (frame 0x10 [])).mayLoad = true ∧
    ((asked State.reset (frame 0x10 [])).loadRefusal (imageAt [] (frAddr (frame 0x10 [])) (frLen (frame 0x10 []))) true).isSome = true := by
  unfold State.asks
  decide +kernel
def running1 (op : Nat) (hf : Option Nat) : LongOp := { op0 false with frame := BitVec.ofNat 512 (frame op [(192, 5)]), hostFault := hf }
theorem meets_LongRequestsEnd_runs : (∀ o ∈ [op0 true], o.id = (0 : BitVec 16).toNat → o.done = true) ∧
    (∀ op ∈ [0x10, 0x14, 0x16, 0x18], [running1 op none].find? (fun o => o.id == (0 : BitVec 16).toNat && !o.done) = some (running1 op none) ∧
      frOpcode (running1 op none).frame.toNat = op) ∧ (running1 0x14 (some 3)).hostFault ≠ none ∧ (memory State.reset).memFree = true ∧ State.reset.memFree = false ∧
    frArg (running1 0x14 none).frame.toNat 0 4 + 1 ≠ State.reset.tlrStep ∧
    frArg (running1 0x14 none).frame.toNat 0 4 + 1 = (regs (memory State.reset) [(tlrBase 0 + 0x20, 6)]).tlrStep ∧ State.reset.alive = true ∧
    ({ firstRequest := true } : Mailbox).haltedHost = false ∧ (regs State.reset [(0x114, 1)]).rf 0x114 7 0 ≠ 0 := by decide +kernel

/-- The least image: a header, one section entry of no bytes, and a digest over the entry. -/
def directory : Nat := put [(0, 13), (16, 1), (64, 0x100)]
def image : Mem := ({} : Mem).setBytes 0 (bytesOfNum 0x100 (put [(0, 0x424B5641), (32, 1), (48, 0x100), (80, 1), (96, 1), (128, 0x120), (192, 65536),
  (512, (shake256 (bytesOfNum 32 directory)).toNat)]) ++ bytesOfNum 32 directory)
theorem meets_LongRequestsAccepted_load : ∀ r ∈ [0, 1],
    ((asked { State.reset with hostMem := image, rec_ := { stage := if r = 1 then .imageNeeded else .none } } (frame 0x10 [(192, r)])).loadRefusal
      (imageAt image 0 0x10000) true) = none ∧ frArg (frame 0x10 [(192, r)]) 0 1 = r := by decide +kernel

theorem meets_LongRequestsAccepted : ({ State.reset with far := { keySeed := some 0 } } : State).attestKey.isSome = true ∧ ready.step.job ≠ none ∧
    ready.tlrStep ≤ frArg (frame 0x14 []) 0 4 ∧ frArg (frame 0x14 [(192, 5)]) 0 4 + 1 = (regs ready [(tlrBase 0 + 0x20, 6)]).tlrStep ∧
    frArg (frame 0x14 [(192, 4)]) 0 4 + 1 < (regs ready [(tlrBase 0 + 0x20, 6)]).tlrStep ∧ ready.step.post < 2 ∧ 2 ≤ (posting 4).step.post ∧
    frArg (frame 0x18 []) 8 1 ≤ 1 ∧ 1 < frArg (frame 0x18 [(256, 2)]) 8 1 ∧
    State.reset.where_ (frArg (frame 0x18 []) 0 8) ≠ .unmapped ∧
    State.reset.where_ (frArg (frame 0x18 []) 0 8 + frLen (frame 0x18 []) - 1) ≠ .unmapped ∧ (memory ready).memFree = true ∧ ready.memFree = false ∧
    frArg (frame 0x15 []) 4 2 ≠ 0xFFFF ∧ (regs ready [(ldgBase + 4, 1)]).ldgOn = true ∧ 32 + 8 * State.reset.hostMem.num 28 2 + 4 * State.reset.hostMem.num 30 2 ≤ 0x10000 ∧
    frLen (frame 0x17 []) < 32 + 8 * (State.reset.hostMem.setBytes 28 [0xFF, 0xFF]).num 28 2 + 4 * (State.reset.hostMem.setBytes 28 [0xFF, 0xFF]).num 30 2 ∧
    headerValid State.reset.nvm (bankBase true) = false ∧ headerValid (({} : Mem).setBytes (bankBase true) (bankA.bytes 0 16)) (bankBase true) = true ∧
    (({} : Mem).setBytes (bankBase true) (bankA.bytes 0 16)).num (bankBase true + 0xC) 4 < (regs State.reset [(0xC, 0x100)]).rf 0xC 15 8 ∧
    frArg (frame 0x1A [(192, 1)]) 0 1 = 1 ∧ ({ nonce := some 0 } : Farhies).nonce = some 0 ∧ State.reset.hostMem.num 0 32 = State.reset.far.devidDigest.toNat ∧
    State.reset.hostMem.num 32 32 = (0 : BitVec 256).toNat ∧ frLen (frame 0x1C []) ≤ bankSize ∧ bankSize < frLen (frame 0x1C [(128, 0x8000000)]) ∧
    bankReason [] 0 State.reset.fuses good ≠ 0 ∧ State.reset.inputHeld = true := by decide +kernel

/-! ### Tally and the outside ports -/

def tallying : State := regs { State.reset with tally := { counts := [(0, 2 ^ 64 - 1)] } } [(tlyBase + 4, 1), (tlyBase + 8, 0x10000), (tlyBlock 0 + 0x100, 0x81FF0001)]
theorem meets_TallyControls : tallying.power.phase = .on ∧ tallying.rf (tlyBase + 4) 0 0 = 1 ∧ tallying.rf (tlyBase + 8) 16 16 = 1 ∧ tallying.rf (tlyBase + 4) 2 2 = 0 ∧
    tallying.rf (tlyBlock 0 + 0x100 + 4 * 0) 31 31 = 1 ∧ Tab.read 0 tallying.tally.counts (16 * 0 + 0) = 2 ^ 64 - 1 ∧
    (tallying.reg (tlyBase + 8)).toNat = bits (0x10000 : Word).toNat 16 0 ∧ (tallying.reg (tlyBase + 8)).toNat ≠ bits (0x1FFFF : Word).toNat 16 0 := by decide +kernel

theorem meets_OutsidePorts : State.reset.power.alwaysOn = true ∧ unpowered.power.alwaysOn = false ∧ 7 ≤ (0xFF : Byte).toNat ∧ (6 : Byte).toNat < 7 ∧
    State.reset.pinsFree = true ∧ ready.pinsFree = false := by decide +kernel

/-- The invariant holds after reset and after an unlock; a step with and without a waiting command answers. -/
theorem meets_InvariantKept : State.reset.Inv ∧ ({ State.reset with far := { unlocked := true } } : State).Inv ∧
    gives .heartbeat State.reset (fun _ => true) = true := by
  unfold State.Inv
  decide +kernel

end Sys2Proof.Tests
end

section
/-! SUPPORT. The number formats of 02_number_formats.md: what a code decodes to, that a code's value encodes to that code
again, and the maximum, the minimum, their reductions and the KFS scales. -/

namespace Sys2Proof.Machine

/-! ### Codes and values (R48, R51 to R56) -/

theorem Fmt.width_pos (f : Fmt) : 0 < f.width := by cases f <;> decide

theorem Fmt.emin_eq (f : Fmt) : f.emin = f.qmin + f.mbits := by simp only [emin, qmin]; omega

/-- A code splits into its sign and its magnitude. -/
theorem Fmt.signed_bit_mod (f : Fmt) (c : Nat) :
    f.signed (bit c (f.width - 1)) (c % 2 ^ (f.width - 1)) = c % 2 ^ f.width := by
  have hw : f.width - 1 + 1 = f.width := Nat.sub_add_cancel f.width_pos
  have hc := Nat.mod_pow_succ (x := c) (b := 2) (k := f.width - 1)
  rw [hw] at hc
  rw [hc]
  rcases Nat.mod_two_eq_zero_or_one (c / 2 ^ (f.width - 1)) with h | h <;> simp [signed, bit, h]

/-- The bits above a format's width do not enter a value. -/
theorem Fmt.decode_mod {f : Fmt} (hf : f ≠ .i8) (c : Nat) : f.decode (c % 2 ^ f.width) = f.decode c := by
  have hw : 2 ^ f.width = 2 ^ (f.width - 1) * 2 := by rw [← pow_succ, Nat.sub_add_cancel f.width_pos]
  have hneg : bit (c % 2 ^ f.width) (f.width - 1) = bit c (f.width - 1) := by
    rw [hw, bit, bit, Nat.mod_mul_right_div_self, Nat.mod_mod]
  have hmag : c % 2 ^ f.width % 2 ^ (f.width - 1) = c % 2 ^ (f.width - 1) :=
    Nat.mod_mod_of_dvd _ ⟨2, hw⟩
  simp only [decode, if_neg hf, hneg, hmag]

/-- A magnitude that is neither NaN nor infinity is at most the largest finite one. -/
theorem Fmt.mag_le_maxMag {f : Fmt} {mag : Nat} (hf : f ≠ .i8) (hm : mag < 2 ^ (f.width - 1))
    (hinf : ¬ (f.hasInf && mag / 2 ^ f.mbits == 2 ^ f.ebits - 1) = true)
    (hnan : ¬ ((f == .kf8a || f == .kf8b) && mag == 0x7F) = true) : mag ≤ f.maxMag := by
  cases f <;> simp [hasInf, mbits, ebits, width, maxMag] at * <;> omega

/-- What a code other than a NaN decodes to: an infinity, a subnormal (or zero), or a normal number. -/
theorem Fmt.decode_cases {f : Fmt} {c : Nat} (hf : f ≠ .i8) (hc : (f.decode c).isNan = false) :
    (f.hasInf = true ∧ c % 2 ^ (f.width - 1) = f.infMag ∧ f.decode c = .inf (bit c (f.width - 1))) ∨
    (c % 2 ^ (f.width - 1) ≤ f.maxMag ∧ c % 2 ^ (f.width - 1) < 2 ^ f.mbits ∧
      f.decode c = .fin (bit c (f.width - 1)) (c % 2 ^ (f.width - 1)) f.qmin) ∨
    (c % 2 ^ (f.width - 1) ≤ f.maxMag ∧ ∃ k fr, fr < 2 ^ f.mbits ∧ c % 2 ^ (f.width - 1) = (k + 1) * 2 ^ f.mbits + fr ∧
      f.decode c = .fin (bit c (f.width - 1)) (2 ^ f.mbits + fr) (f.qmin + k)) := by
  have hlt : c % 2 ^ (f.width - 1) < 2 ^ (f.width - 1) := Nat.mod_lt _ (Nat.two_pow_pos _)
  simp only [decode, if_neg hf] at hc ⊢
  generalize c % 2 ^ (f.width - 1) = mag at hc hlt ⊢
  have hdm : mag / 2 ^ f.mbits * 2 ^ f.mbits + mag % 2 ^ f.mbits = mag := Nat.div_add_mod' _ _
  split at hc
  next hinf =>
    rw [if_pos hinf]
    split at hc
    next hfr =>
      rw [Bool.and_eq_true, beq_iff_eq] at hinf
      exact .inl ⟨hinf.1, by rw [infMag, ← hinf.2, ← hdm, hfr]; simp, if_pos hfr⟩
    next => simp [Num.isNan] at hc
  next hinf =>
    rw [if_neg hinf]
    split at hc
    next => simp [Num.isNan] at hc
    next hnan =>
      rw [if_neg hnan]
      have hle : mag ≤ f.maxMag := mag_le_maxMag hf hlt hinf hnan
      refine .inr ?_
      by_cases hex : mag / 2 ^ f.mbits = 0
      · rw [if_pos hex]
        have hsub : mag < 2 ^ f.mbits := (Nat.div_eq_zero_iff_lt (Nat.two_pow_pos _)).1 hex
        exact .inl ⟨hle, hsub, by rw [Nat.mod_eq_of_lt hsub]⟩
      · rw [if_neg hex]
        refine .inr ⟨hle, mag / 2 ^ f.mbits - 1, mag % 2 ^ f.mbits, Nat.mod_lt _ (Nat.two_pow_pos _), ?_, rfl⟩
        rw [Nat.sub_add_cancel (Nat.pos_of_ne_zero hex), hdm]

/-! ### Rounding leaves a value of the format as it is -/

/-- A value that is a multiple of the last place is rounded to itself. -/
theorem roundAt_self (mode : Rnd) (neg : Bool) (m : Nat) (e : Int) : roundAt mode neg m e e = (m, false) := by
  simp [roundAt]

theorem Fmt.roundMag_subnormal (f : Fmt) (mode : Rnd) (neg : Bool) {m : Nat} (h0 : m ≠ 0) (hm : m < 2 ^ f.mbits) :
    f.roundMag mode neg m f.qmin = (m, false) := by
  have hlog : Nat.log2 m < f.mbits := (Nat.log2_lt h0).2 hm
  have hq : Max.max (f.qmin + (Nat.log2 m : Int)) f.emin - f.mbits = f.qmin := by rw [f.emin_eq]; omega
  simp [roundMag, hq, roundAt_self]

theorem Fmt.roundMag_normal (f : Fmt) (mode : Rnd) (neg : Bool) (k : Nat) {fr : Nat} (hfr : fr < 2 ^ f.mbits) :
    f.roundMag mode neg (2 ^ f.mbits + fr) (f.qmin + k) = ((k + 1) * 2 ^ f.mbits + fr, false) := by
  have hlog : Nat.log2 (2 ^ f.mbits + fr) = f.mbits :=
    (Nat.log2_eq_iff (by omega)).2 ⟨by omega, by rw [pow_succ]; omega⟩
  have hq : Max.max (f.qmin + (k : Int) + (f.mbits : Int)) f.emin - f.mbits = f.qmin + k := by rw [f.emin_eq]; omega
  have hk : (f.qmin + (k : Int) - f.qmin).toNat = k := by omega
  simp only [roundMag, hlog, hq, hk, roundAt_self, Prod.mk.injEq, and_true]
  ring

/-- A value that every mode places exactly on a finite magnitude of the format is delivered there without flags. -/
theorem Fmt.roundFin_exact {f : Fmt} {neg : Bool} {m r : Nat} {e : Int} (mode : Rnd) (h0 : m ≠ 0)
    (hr : ∀ mode, f.roundMag mode neg m e = (r, false)) (hle : r ≤ f.maxMag) : f.roundFin mode neg m e = (r, 0) := by
  cases mode <;> simp [roundFin, roundDirected, h0, hr, Nat.not_lt.2 hle]

/-- Zero keeps its sign and raises no flag. -/
theorem Fmt.encode_fin_zero {f : Fmt} (hf : f ≠ .i8) (mode : Rnd) (neg : Bool) (e : Int) :
    f.encode mode (.fin neg 0 e) = (f.signed neg 0, 0) := by
  simp [encode, hf, roundFin]

/-- Decoding and encoding gives the code again, without flags, in every rounding mode. -/
theorem Fmt.encode_decode {f : Fmt} {c : Nat} (hf : f ≠ .i8) (mode : Rnd) (hc : (f.decode c).isNan = false) :
    f.encode mode (f.decode c) = (c % 2 ^ f.width, 0) := by
  rw [← f.signed_bit_mod c]
  obtain ⟨hinf, hmag, hd⟩ | ⟨hle, hsub, hd⟩ | ⟨hle, k, fr, hfr, hmag, hd⟩ := decode_cases hf hc
  · simp [hd, encode, hf, hinf, hmag]
  · by_cases h0 : c % 2 ^ (f.width - 1) = 0
    · rw [hd, h0, encode_fin_zero hf]
    · simp [hd, encode, hf, roundFin_exact mode h0 (fun mo => f.roundMag_subnormal mo _ h0 hsub) hle]
  · have h0 : 2 ^ f.mbits + fr ≠ 0 := by have := Nat.two_pow_pos f.mbits; omega
    rw [hmag] at hle ⊢
    simp [hd, encode, hf, roundFin_exact mode h0 (fun mo => f.roundMag_normal mo _ k hfr) hle]

/-- The exact value of a code is delivered as that code, with the flags of the operation alone. -/
theorem Fmt.deliver_decode {f : Fmt} {c : Nat} (hf : f ≠ .i8) (mode : Rnd) (hc : (f.decode c).isNan = false) (fl : Nat) :
    f.deliver mode (f.decode c, fl) = (c % 2 ^ f.width, fl) := by
  simp [deliver, encode_decode hf mode hc]

theorem Fmt.deliver_zero {f : Fmt} (hf : f ≠ .i8) (mode : Rnd) (neg : Bool) :
    f.deliver mode (.zero neg, 0) = (f.signed neg 0, 0) := by
  simp [deliver, Num.zero, encode_fin_zero hf]

/-- A quiet NaN is delivered as the canonical NaN. -/
theorem Fmt.deliver_nan {f : Fmt} (hf : f ≠ .i8) (mode : Rnd) (fl : Nat) :
    f.deliver mode (.nan false, fl) = (f.nanCode, fl) := by
  simp [deliver, encode, hf]

/-- A code of zero is the sign bit of its value and nothing else. -/
theorem Fmt.eq_signed_of_isZero {f : Fmt} {c : Nat} (hf : f ≠ .i8) (hc : c < 2 ^ f.width) (hz : (f.decode c).isZero = true) :
    c = f.signed (f.decode c).neg 0 := by
  cases hd : f.decode c with
  | nan g => simp [hd, Num.isZero] at hz
  | inf neg => simp [hd, Num.isZero] at hz
  | fin neg m e =>
    have hm : m = 0 := by simpa [hd, Num.isZero] using hz
    have hrt := encode_decode (c := c) hf .rne (by simp [hd, Num.isNan])
    rw [hd, hm, encode_fin_zero hf, Nat.mod_eq_of_lt hc] at hrt
    exact (congrArg Prod.fst hrt).symm

theorem Fmt.ne_i8_of_ieee {f : Fmt} (hf : f.ieee = true) : f ≠ .i8 := by
  rintro rfl
  simp [ieee] at hf

theorem Fmt.isNan_decode_signed_zero {f : Fmt} (hf : f.ieee = true) (neg : Bool) :
    (f.decode (f.signed neg 0)).isNan = false := by
  revert neg hf
  cases f <;> decide

/-! ### Comparison of values -/

theorem Num.isSnan_of_not_isNan {x : Num} (h : x.isNan = false) : x.isSnan = false := by
  cases x <;> simp_all [Num.isNan, Num.isSnan]

theorem snanFlag_pair (x y : Num) : snanFlag [x, y] = if x.isSnan || y.isSnan then fInvalid else 0 := by
  simp [snanFlag]

/-- The strict order of values is asymmetric. -/
theorem ltNum_asymm {x y : Num} (hx : x.isNan = false) (hy : y.isNan = false) (h : ltNum x y = true) : ltNum y x = false := by
  cases x with
  | nan g => simp [Num.isNan] at hx
  | inf nx => cases y <;> cases nx <;> simp_all [ltNum, Num.isNan]
  | fin nx mx ex =>
    cases y with
    | nan g => simp [Num.isNan] at hy
    | inf ny => simp_all [ltNum]
    | fin ny my ey =>
      simp only [ltNum, min_comm ey ex] at h ⊢
      cases nx <;> cases ny <;> simp_all <;> omega

theorem ltNum_irrefl {x : Num} (hx : x.isNan = false) : ltNum x x = false := by
  by_contra h
  exact h (ltNum_asymm hx hx (by simpa using h))

/-- Of two zeros neither is the smaller. -/
theorem not_isZero_of_ltNum {x y : Num} (h : ltNum x y = true) : (x.isZero && y.isZero) = false := by
  cases x with
  | nan g => rfl
  | inf n => rfl
  | fin nx mx ex =>
    cases y with
    | nan g => simp [Num.isZero]
    | inf n => simp [Num.isZero]
    | fin ny my ey =>
      by_contra hz
      obtain ⟨rfl, rfl⟩ : mx = 0 ∧ my = 0 := by simpa [Num.isZero] using hz
      simp [ltNum] at h

/-! ### Maximum and minimum (R79) -/

theorem maxNum_minNum_nan_left {x y : Num} (hx : x.isNan = true) (hy : y.isNan = false) :
    maxNum x y = (y, if x.isSnan then fInvalid else 0) ∧ minNum x y = (y, if x.isSnan then fInvalid else 0) := by
  simp [maxNum, minNum, hx, hy, snanFlag_pair, Num.isSnan_of_not_isNan hy]

theorem maxNum_minNum_nan_right {x y : Num} (hx : x.isNan = false) (hy : y.isNan = true) :
    maxNum x y = (x, if y.isSnan then fInvalid else 0) ∧ minNum x y = (x, if y.isSnan then fInvalid else 0) := by
  simp [maxNum, minNum, hx, hy, snanFlag_pair, Num.isSnan_of_not_isNan hx]

theorem maxNum_minNum_nan_nan {x y : Num} (hx : x.isNan = true) (hy : y.isNan = true) :
    maxNum x y = (.nan false, if x.isSnan || y.isSnan then fInvalid else 0) ∧
    minNum x y = (.nan false, if x.isSnan || y.isSnan then fInvalid else 0) := by
  simp [maxNum, minNum, hx, hy, snanFlag_pair]

theorem Num.not_isNan_of_isZero {x : Num} (h : x.isZero = true) : x.isNan = false := by
  cases x <;> simp_all [isZero, isNan]

theorem maxNum_minNum_zeros {x y : Num} (hx : x.isZero = true) (hy : y.isZero = true) :
    maxNum x y = (.zero (x.neg && y.neg), 0) ∧ minNum x y = (.zero (x.neg || y.neg), 0) := by
  simp [maxNum, minNum, Num.not_isNan_of_isZero hx, Num.not_isNan_of_isZero hy, hx, hy]

/-- Two numbers that are not both zero are compared, and the one or the other is the result. -/
theorem maxNum_minNum_numbers {x y : Num} (hx : x.isNan = false) (hy : y.isNan = false)
    (hz : (x.isZero && y.isZero) = false) :
    maxNum x y = (if ltNum x y then y else x, 0) ∧ minNum x y = (if ltNum y x then y else x, 0) := by
  constructor
  · cases h : ltNum x y <;> simp [maxNum, hx, hy, hz, h]
  · cases h : ltNum y x <;> simp [minNum, hx, hy, hz, h]

/-- A result that is one of two operands, that one a number, or a zero. -/
def Num.Picks (x y r : Num) : Prop := (r = x ∧ x.isNan = false) ∨ (r = y ∧ y.isNan = false) ∨ ∃ neg, r = .zero neg

theorem maxNum_minNum_picks {x y : Num} (h : ¬ (x.isNan = true ∧ y.isNan = true)) :
    x.Picks y (maxNum x y).1 ∧ x.Picks y (minNum x y).1 := by
  cases hx : x.isNan <;> cases hy : y.isNan
  case false.false =>
    cases hz : x.isZero && y.isZero with
    | true =>
      rw [Bool.and_eq_true] at hz
      simp [Num.Picks, maxNum_minNum_zeros hz.1 hz.2, Num.zero]
    | false =>
      obtain ⟨hmax, hmin⟩ := maxNum_minNum_numbers hx hy hz
      rw [hmax, hmin]
      constructor
      · cases ltNum x y <;> simp [Num.Picks, hx, hy]
      · cases ltNum y x <;> simp [Num.Picks, hx, hy]
  case false.true => simp [Num.Picks, maxNum_minNum_nan_right hx hy, hx]
  case true.false => simp [Num.Picks, maxNum_minNum_nan_left hx hy, hy]
  case true.true => exact absurd ⟨hx, hy⟩ h

section Pairs
variable {f : Fmt} {a b : Nat}

/-- A NaN and a number: the number, and INVALID for a signalling NaN (R79). -/
theorem Fmt.max_min_nan_left (hf : f ≠ .i8) (hb : b < 2 ^ f.width)
    (ha : (f.decode a).isNan = true) (hbn : (f.decode b).isNan = false) :
    f.max a b = (b, if (f.decode a).isSnan then fInvalid else 0) ∧
    f.min a b = (b, if (f.decode a).isSnan then fInvalid else 0) := by
  simp [Fmt.max, Fmt.min, maxNum_minNum_nan_left ha hbn, deliver_decode hf _ hbn, Nat.mod_eq_of_lt hb]

theorem Fmt.max_min_nan_right (hf : f ≠ .i8) (ha : a < 2 ^ f.width)
    (han : (f.decode a).isNan = false) (hb : (f.decode b).isNan = true) :
    f.max a b = (a, if (f.decode b).isSnan then fInvalid else 0) ∧
    f.min a b = (a, if (f.decode b).isSnan then fInvalid else 0) := by
  simp [Fmt.max, Fmt.min, maxNum_minNum_nan_right han hb, deliver_decode hf _ han, Nat.mod_eq_of_lt ha]

/-- Two NaNs: the canonical NaN (R79). -/
theorem Fmt.max_min_nan_nan (hf : f ≠ .i8) (ha : (f.decode a).isNan = true) (hb : (f.decode b).isNan = true) :
    f.max a b = (f.nanCode, if (f.decode a).isSnan || (f.decode b).isSnan then fInvalid else 0) ∧
    f.min a b = (f.nanCode, if (f.decode a).isSnan || (f.decode b).isSnan then fInvalid else 0) := by
  simp [Fmt.max, Fmt.min, maxNum_minNum_nan_nan ha hb, deliver_nan hf]

/-- Two zeros: the maximum is -0 only if both are, the minimum is -0 if either is (R79). -/
theorem Fmt.max_min_zeros (hf : f ≠ .i8) (ha : (f.decode a).isZero = true) (hb : (f.decode b).isZero = true) :
    f.max a b = (f.signed ((f.decode a).neg && (f.decode b).neg) 0, 0) ∧
    f.min a b = (f.signed ((f.decode a).neg || (f.decode b).neg) 0, 0) := by
  simp only [Fmt.max, Fmt.min, maxNum_minNum_zeros ha hb, deliver_zero hf, and_self]

/-- Two different zeros: +0 is the maximum and -0 the minimum (R79). -/
theorem Fmt.max_min_opposite_zeros (hf : f ≠ .i8) (ha : a < 2 ^ f.width) (hb : b < 2 ^ f.width)
    (hza : (f.decode a).isZero = true) (hzb : (f.decode b).isZero = true) (hab : a ≠ b) :
    f.max a b = (0, 0) ∧ f.min a b = (2 ^ (f.width - 1), 0) := by
  have hneg : (f.decode a).neg ≠ (f.decode b).neg := fun h =>
    hab (by rw [eq_signed_of_isZero hf ha hza, eq_signed_of_isZero hf hb hzb, h])
  obtain ⟨hmax, hmin⟩ := max_min_zeros hf hza hzb
  rw [hmax, hmin]
  cases hna : (f.decode a).neg <;> cases hnb : (f.decode b).neg <;> simp_all [signed]

/-- Two numbers, one below the other: the larger and the smaller, in either order of the operands (R79). -/
theorem Fmt.max_min_of_ltNum (hf : f ≠ .i8) (ha : a < 2 ^ f.width) (hb : b < 2 ^ f.width)
    (han : (f.decode a).isNan = false) (hbn : (f.decode b).isNan = false) (hlt : ltNum (f.decode a) (f.decode b) = true) :
    f.max a b = (b, 0) ∧ f.max b a = (b, 0) ∧ f.min a b = (a, 0) ∧ f.min b a = (a, 0) := by
  have hz := not_isZero_of_ltNum hlt
  have hz' : ((f.decode b).isZero && (f.decode a).isZero) = false := by rw [Bool.and_comm, hz]
  have hgt := ltNum_asymm han hbn hlt
  simp [Fmt.max, Fmt.min, maxNum_minNum_numbers, han, hbn, hz, hz', hlt, hgt, deliver_decode hf,
    Nat.mod_eq_of_lt ha, Nat.mod_eq_of_lt hb]

/-- A number with itself gives itself. -/
theorem Fmt.max_min_self (hf : f ≠ .i8) (ha : a < 2 ^ f.width) (han : (f.decode a).isNan = false) :
    f.max a a = (a, 0) ∧ f.min a a = (a, 0) := by
  cases hz : (f.decode a).isZero with
  | true =>
    obtain ⟨hmax, hmin⟩ := max_min_zeros hf hz hz
    rw [hmax, hmin, Bool.and_self, Bool.or_self, ← eq_signed_of_isZero hf ha hz]
    exact ⟨rfl, rfl⟩
  | false =>
    simp [Fmt.max, Fmt.min, maxNum_minNum_numbers, han, hz, deliver_decode hf, Nat.mod_eq_of_lt ha]

/-- A number among the operands, or a zero, is a number once it is delivered. -/
theorem Fmt.isNan_decode_deliver_of_picks (hf : f.ieee = true) (mode : Rnd) {r : NumF}
    (hr : (f.decode a).Picks (f.decode b) r.1) : (f.decode (f.deliver mode r).1).isNan = false := by
  have h8 := ne_i8_of_ieee hf
  rw [deliver]
  obtain ⟨hr, han⟩ | ⟨hr, hbn⟩ | ⟨neg, hr⟩ := hr
  · rw [hr, encode_decode h8 mode han, decode_mod h8, han]
  · rw [hr, encode_decode h8 mode hbn, decode_mod h8, hbn]
  · rw [hr, Num.zero, encode_fin_zero h8, isNan_decode_signed_zero hf]

/-- A maximum or a minimum is a NaN only if both operands are (R79). -/
theorem Fmt.both_nan_of_max_or_min_nan (hf : f.ieee = true)
    (h : (f.decode (f.max a b).1).isNan = true ∨ (f.decode (f.min a b).1).isNan = true) :
    (f.decode a).isNan = true ∧ (f.decode b).isNan = true := by
  by_contra hn
  obtain ⟨hmax, hmin⟩ := maxNum_minNum_picks hn
  simp [Fmt.max, Fmt.min, isNan_decode_deliver_of_picks hf .rne hmax, isNan_decode_deliver_of_picks hf .rne hmin] at h

end Pairs

/-! ### Reductions by maximum and minimum (R79, R102) -/

/-- Whether an entry of an FP32 reduction is a NaN. -/
def CodeF.Nan (x : CodeF) : Prop := (Fmt.fp32.decode x.1).isNan = true

/-- An entry that is the canonical NaN if it is a NaN at all. -/
def CodeF.Canonical (x : CodeF) : Prop := x.Nan → x.1 = Fmt.fp32.nanCode

section Reductions
variable {code : Nat} (hcode : code = 1 ∨ code = 2)
include hcode

/-- A step of a maximum or minimum reduction is a NaN only if both its entries are, and then the canonical one (R79). -/
theorem both_nan_of_redStep_nan {x y : CodeF} (h : (redStep code x y).Nan) : x.Nan ∧ y.Nan := by
  rcases hcode with rfl | rfl
  · exact Fmt.both_nan_of_max_or_min_nan (f := .fp32) rfl (.inl h)
  · exact Fmt.both_nan_of_max_or_min_nan (f := .fp32) rfl (.inr h)

theorem redStep_canonical (x y : CodeF) : (redStep code x y).Canonical := by
  intro h
  obtain ⟨hx, hy⟩ := both_nan_of_redStep_nan hcode h
  obtain ⟨hmax, hmin⟩ := Fmt.max_min_nan_nan (f := .fp32) (by decide) hx hy
  rcases hcode with rfl | rfl
  · exact congrArg Prod.fst hmax
  · exact congrArg Prod.fst hmin

omit hcode in
theorem length_redFold (h : Nat) (t : List CodeF) : (redFold code h t).length = min h t.length := by
  simp [redFold]

omit hcode in
theorem redFold_two (u v : CodeF) : redFold code 1 [u, v] = [redStep code u v] := rfl

omit hcode in
/-- A halving combines entry i with entry i + h where that is present, and keeps it where it is not. -/
theorem mem_redFold_pair {h i : Nat} {t : List CodeF} {x y : CodeF} (hi : i < h) (hx : t[i]? = some x)
    (hy : t[i + h]? = some y) : redStep code x y ∈ redFold code h t := by
  rw [Nat.add_comm] at hy
  exact List.mem_iff_getElem?.2 ⟨i, by simp [redFold, hi, hx, hy]⟩

omit hcode in
theorem mem_redFold_alone {h i : Nat} {t : List CodeF} {x : CodeF} (hi : i < h) (hx : t[i]? = some x)
    (hy : t[i + h]? = none) : x ∈ redFold code h t := by
  rw [Nat.add_comm] at hy
  exact List.mem_iff_getElem?.2 ⟨i, by simp [redFold, hi, hx, hy]⟩

/-- If a halving leaves only NaNs, it began with only NaNs. -/
theorem all_nan_of_redFold_nan {h : Nat} {t : List CodeF} (ht : t.length ≤ 2 * h) (hall : ∀ x ∈ redFold code h t, x.Nan) :
    ∀ x ∈ t, x.Nan := by
  intro x hx
  obtain ⟨i, hlen, rfl⟩ := List.mem_iff_getElem.1 hx
  rcases Nat.lt_or_ge i h with hi | hi
  · cases hy : t[i + h]? with
    | none => exact hall _ (mem_redFold_alone hi (List.getElem?_eq_getElem hlen) hy)
    | some y =>
      exact (both_nan_of_redStep_nan hcode (hall _ (mem_redFold_pair hi (List.getElem?_eq_getElem hlen) hy))).1
  · have hlo : t[i - h]? = some t[i - h] := List.getElem?_eq_getElem (by omega)
    have hhi : t[i - h + h]? = some t[i] := by rw [Nat.sub_add_cancel hi, List.getElem?_eq_getElem hlen]
    exact (both_nan_of_redStep_nan hcode (hall _ (mem_redFold_pair (by omega) hlo hhi))).2

/-- A chunk of 32 to 128 entries ends in a step on two entries, which are both NaNs only if the whole chunk is. -/
theorem redChunk_eq_redStep {t : List CodeF} (hlo : 32 ≤ t.length) (hhi : t.length ≤ 128) :
    ∃ u v, redChunk code t = redStep code u v ∧ (u.Nan → v.Nan → ∀ x ∈ t, x.Nan) := by
  obtain ⟨u, v, huv⟩ : ∃ u v, [64, 32, 16, 8, 4, 2].foldl (fun t h => redFold code h t) t = [u, v] :=
    List.length_eq_two.1 (by simp only [List.foldl, length_redFold]; omega)
  refine ⟨u, v, ?_, fun hu hv => ?_⟩
  · calc redChunk code t
        = (redFold code 1 ([64, 32, 16, 8, 4, 2].foldl (fun t h => redFold code h t) t)).headD (0, 0) := by
          simp only [redChunk, List.foldl]
      _ = redStep code u v := by rw [huv, redFold_two]; exact List.headD_cons
  · have hpair : ∀ x ∈ [64, 32, 16, 8, 4, 2].foldl (fun t h => redFold code h t) t, x.Nan := by simp [huv, hu, hv]
    simp only [List.foldl] at hpair
    iterate 5 replace hpair := all_nan_of_redFold_nan hcode (by simp only [length_redFold]; omega) hpair
    exact all_nan_of_redFold_nan hcode (by omega) hpair

theorem redChunk_canonical {t : List CodeF} (hlo : 32 ≤ t.length) (hhi : t.length ≤ 128) : (redChunk code t).Canonical := by
  obtain ⟨u, v, h, -⟩ := redChunk_eq_redStep hcode hlo hhi
  exact h ▸ redStep_canonical hcode u v

theorem all_nan_of_redChunk_nan {t : List CodeF} (hlo : 32 ≤ t.length) (hhi : t.length ≤ 128) (h : (redChunk code t).Nan) :
    ∀ x ∈ t, x.Nan := by
  obtain ⟨u, v, heq, hall⟩ := redChunk_eq_redStep hcode hlo hhi
  obtain ⟨hu, hv⟩ := both_nan_of_redStep_nan hcode (heq ▸ h)
  exact hall hu hv

/-- Combining further results keeps a result canonical. -/
theorem foldl_redStep_canonical {x : CodeF} (hx : x.Canonical) (rest : List CodeF) :
    (rest.foldl (redStep code) x).Canonical := by
  induction rest generalizing x with
  | nil => exact hx
  | cons y ys ih => exact ih (redStep_canonical hcode x y)

theorem all_nan_of_foldl_redStep_nan {x : CodeF} {rest : List CodeF} (h : (rest.foldl (redStep code) x).Nan) :
    ∀ y ∈ x :: rest, y.Nan := by
  induction rest generalizing x with
  | nil => simpa using h
  | cons y ys ih =>
    obtain ⟨hstep, hys⟩ := List.forall_mem_cons.1 (ih h)
    obtain ⟨hx, hy⟩ := both_nan_of_redStep_nan hcode hstep
    simpa [hx, hy] using hys

end Reductions

/-! ### Chunks -/

/-- A chunk holds at most 128 entries, and at least 32 of a row that is made of blocks of 32. -/
theorem length_of_mem_chunks128 {n : Nat} {l t : List CodeF} (hblocks : l.length % 32 = 0) (hn : 128 * n < l.length + 128)
    (ht : t ∈ chunks128 n l) : 32 ≤ t.length ∧ t.length ≤ 128 := by
  induction n generalizing l with
  | zero => simp [chunks128] at ht
  | succ n ih =>
    rcases List.mem_cons.1 ht with rfl | ht
    · rw [List.length_take]; omega
    · cases n with
      | zero => simp [chunks128] at ht
      | succ n => exact ih (by rw [List.length_drop]; omega) (by rw [List.length_drop]; omega) ht

/-- Enough chunks hold every entry. -/
theorem exists_mem_chunks128 {n : Nat} {l : List CodeF} {x : CodeF} (hn : l.length ≤ 128 * n) (hx : x ∈ l) :
    ∃ t ∈ chunks128 n l, x ∈ t := by
  induction n generalizing l with
  | zero => simp_all
  | succ n ih =>
    rw [← List.take_append_drop 128 l, List.mem_append] at hx
    rcases hx with hx | hx
    · exact ⟨_, List.mem_cons_self, hx⟩
    · obtain ⟨t, ht, hxt⟩ := ih (by rw [List.length_drop]; omega) hx
      exact ⟨t, List.mem_cons_of_mem _ ht, hxt⟩

/-- What enters a maximum or minimum reduction are the elements themselves. -/
theorem redElem_of_max_min {code : Nat} (hcode : code = 1 ∨ code = 2) (a b : Nat) : redElem code a b = (a, 0) := by
  rcases hcode with rfl | rfl <;> rfl

/-- A maximum or minimum reduction combines its chunks' results in order. -/
theorem reduce_eq_foldl {code : Nat} (hcode : code = 1 ∨ code = 2) {xs : List Nat} (hne : xs ≠ []) :
    ∃ t rest, chunks128 ((xs.length + 127) / 128) (xs.map (·, 0)) = t :: rest ∧
      reduce code xs [] = (rest.map (redChunk code)).foldl (redStep code) (redChunk code t) := by
  have helems : xs.zipIdx.map (fun x => redElem code x.1 (([] : List Nat).getD x.2 0)) = xs.map (·, 0) := by
    simp only [redElem_of_max_min hcode]
    calc xs.zipIdx.map (fun x => (x.1, 0)) = (xs.zipIdx.map Prod.fst).map (·, 0) := by rw [List.map_map]; rfl
      _ = xs.map (·, 0) := by rw [List.zipIdx_map_fst]
  obtain ⟨n, hn⟩ : ∃ n, (xs.length + 127) / 128 = n + 1 :=
    Nat.exists_eq_succ_of_ne_zero (by have := List.length_pos_iff.2 hne; omega)
  rw [reduce, helems, List.length_map, hn]
  exact ⟨_, _, rfl, rfl⟩

/-- A maximum or minimum reduction gives a NaN only if every element is one, and then the canonical one (R79). -/
theorem all_nan_of_reduce_nan {code : Nat} (hcode : code = 1 ∨ code = 2) {xs : List Nat} (hne : xs ≠ [])
    (hlen : xs.length % 32 = 0) (h : (reduce code xs []).Nan) :
    (∀ x ∈ xs, (Fmt.fp32.decode x).isNan = true) ∧ (reduce code xs []).1 = Fmt.fp32.nanCode := by
  obtain ⟨t, rest, hchunks, hred⟩ := reduce_eq_foldl hcode hne
  have hpos : 0 < xs.length := List.length_pos_iff.2 hne
  have hsize : ∀ u ∈ t :: rest, 32 ≤ u.length ∧ u.length ≤ 128 := fun u hu =>
    length_of_mem_chunks128 (l := xs.map (·, 0)) (by simpa using hlen) (by rw [List.length_map]; omega) (hchunks ▸ hu)
  obtain ⟨hlo, hhi⟩ := hsize t List.mem_cons_self
  constructor
  · intro x hx
    obtain ⟨u, hu, hxu⟩ := exists_mem_chunks128 (l := xs.map (·, 0)) (n := (xs.length + 127) / 128)
      (by rw [List.length_map]; omega) (List.mem_map_of_mem hx)
    rw [hchunks] at hu
    rw [hred] at h
    obtain ⟨hulo, huhi⟩ := hsize u hu
    have hall := all_nan_of_foldl_redStep_nan hcode h
    rw [← List.map_cons] at hall
    exact all_nan_of_redChunk_nan hcode hulo huhi (hall _ (List.mem_map_of_mem hu)) _ hxu
  · exact (hred ▸ foldl_redStep_canonical hcode (redChunk_canonical hcode hlo hhi) _ : (reduce code xs []).Canonical) h

/-! ### KFS scales (R58) -/

theorem kfsExp_of_range {c : Nat} (h1 : 1 ≤ c) (h2 : c ≤ 0xFF) : kfsExp c = some ((c : Int) - 128) := by
  have hmod : c % 256 = c := Nat.mod_eq_of_lt (by omega)
  rw [kfsExp, hmod, if_neg (by omega)]

theorem kfsExp_zero : kfsExp 0 = none := rfl

/-- Settles O12: each code of the range gives its power of two, code 0 gives none, and a scale moves only the exponent. -/
theorem kfsScales : Obligations.KfsScales := by
  unfold Obligations.KfsScales
  refine ⟨fun c h1 h2 => ⟨kfsExp_of_range h1 h2, by omega, by omega⟩, kfsExp_of_range (by decide) (by decide), fun c h => ?_,
    fun f code => rfl, fun f code c m neg e h1 h2 hd => ?_⟩
  · constructor
    · intro hnone
      by_contra hc
      simp [kfsExp_of_range (Nat.pos_of_ne_zero hc) h] at hnone
    · rintro rfl
      exact kfsExp_zero
  · simp [scaledValue, kfsExp_of_range h1 h2, hd, Num.scale]

/-- Settles O11: by the cases of R79 for two operands, and for a reduction by its chunks and their halvings. -/
theorem maximumMinimum : Obligations.MaximumMinimum := by
  unfold Obligations.MaximumMinimum
  refine ⟨fun f a b hf ha hb => ?_, fun code xs hcode hne _ hlen h => all_nan_of_reduce_nan hcode hne hlen h⟩
  have h8 := Fmt.ne_i8_of_ieee hf
  exact ⟨Fmt.max_min_nan_left h8 hb, Fmt.max_min_nan_right h8 ha, Fmt.max_min_nan_nan h8,
    Fmt.max_min_opposite_zeros h8 ha hb, Fmt.max_min_of_ltNum h8 ha hb, Fmt.max_min_self h8 ha⟩

end Sys2Proof.Machine
end

section
/-! SUPPORT. The address map of 07_memory_and_vault.md in PACKAGE interleave: the parts of a line index, and the address of a line
from its place. -/

namespace Sys2Proof.Machine

/-! ### The parts of a line index (R261) -/

section LineIndex
variable {p : Nat} (hp : p < 1024) (l : Nat)
include hp

theorem lineIndex_mod : lineIndex p l % 1024 = p := by
  rw [lineIndex, Nat.mul_add_mod, Nat.mod_eq_of_lt hp]

theorem lineIndex_div : lineIndex p l / 1024 = l := by
  rw [lineIndex, Nat.mul_add_div (by decide), Nat.div_eq_of_lt hp, Nat.add_zero]

theorem lineDie_lineIndex : lineDie (lineIndex p l) = bits p 9 8 := by
  rw [lineDie, lineIndex_mod hp]
  exact (Nat.mod_eq_of_lt (Nat.div_lt_of_lt_mul hp)).symm

theorem lineStack_lineIndex : lineStack (lineIndex p l) = bits p 9 6 := by
  rw [lineStack, lineIndex_mod hp]
  exact (Nat.mod_eq_of_lt (Nat.div_lt_of_lt_mul hp)).symm

theorem lineRow_lineIndex : lineRow (lineIndex p l) = l / 15 := by
  rw [lineRow, lineIndex_div hp]

end LineIndex

/-- A pseudo-channel within its die is numbered by stack, channel and pseudo-channel in this order. -/
theorem lineChan_lineIndex (p l : Nat) :
    lineChan (lineIndex p l) = 64 * (bits p 9 6 % 4) + 2 * bits p 5 1 + bits p 0 0 := by
  simp only [lineChan, lineIndex, bits]
  omega

/-! ### The address of a line from its place (R260, R261) -/

theorem foldP_lt (a : Nat) : foldP a < 1024 := Nat.mod_lt _ (by decide)

@[simp] theorem placeOf_nil (a : Nat) : placeOf [] a = (foldP a, a / 2 ^ 18) := rfl

theorem mod_xor_mod (x y : Nat) : (x % 1024 ^^^ y) % 1024 = (x ^^^ y) % 1024 := by
  rw [Nat.xor_mod_two_pow (n := 10), Nat.mod_mod]
  exact (Nat.xor_mod_two_pow (n := 10)).symm

/-- The three upper fields of an address, which are the three fields of L, cancel out of the fold and leave a[17:8]. -/
theorem foldP_xor_lineFields (a : Nat) :
    (foldP a ^^^ a / 2 ^ 18 ^^^ a / 2 ^ 18 / 2 ^ 10 ^^^ a / 2 ^ 18 / 2 ^ 20) % 1024 = a / 2 ^ 8 % 1024 := by
  simp only [foldP, Nat.div_div_eq_div_mul, ← pow_add, Nat.reduceAdd, Nat.xor_assoc]
  rw [mod_xor_mod, Nat.xor_xor_cancel_right]

theorem addressOf_foldP (a : Nat) : addressOf [] (foldP a) (a / 2 ^ 18) = a / 256 * 256 := by
  simp only [addressOf, List.find?_nil, foldP_xor_lineFields]
  omega

theorem line_eq_of_placeOf_eq {a b : Nat} (h : placeOf [] a = placeOf [] b) : a / 256 = b / 256 := by
  obtain ⟨hP, hL⟩ := Prod.mk.inj h
  have haddr : a / 256 * 256 = b / 256 * 256 := by
    rw [← addressOf_foldP a, ← addressOf_foldP b, hP, hL]
  exact Nat.eq_of_mul_eq_mul_right (by decide) haddr

/-- Settles O23: a line index gives back P and L, and the fold of R260 with the fields of L gives back a[17:8]. -/
theorem addressPlaces : Obligations.AddressPlaces := by
  unfold Obligations.AddressPlaces
  refine ⟨fun a ha => ?_, fun a b _ _ => line_eq_of_placeOf_eq⟩
  have hP := foldP_lt a
  have hL : a / 2 ^ 18 < 3932160 := Nat.div_lt_of_lt_mul ha
  have hbits : a / 2 ^ 18 = bits a 47 18 := (Nat.mod_eq_of_lt (hL.trans (by decide))).symm
  exact ⟨lineDie_lineIndex hP _, lineStack_lineIndex hP _, lineChan_lineIndex _ _, hbits, hL, lineRow_lineIndex hP _,
    by rw [lineIndex_div hP], addressOf_foldP a⟩

end Sys2Proof.Machine
end

section
/-! SUPPORT. What every command keeps, and with it every step: the queue's order, the fuses, the canonical memories and the erased
key (R488). -/

namespace Sys2Proof.Machine

variable {s t : State}

/-- Every command keeps the queue, the fuses but for a rising SVN, the canonical memories and the erased key. -/
theorem exec_keeps : (c : Instr) → exec c s = .next t → Keeps s t
  | .registerWrite _ _ _, h => execRegisterWrite_keeps _ _ _ _ _ h
  | .unmappedAccess _ _ _, h => execUnmappedAccess_keeps _ _ _ _ _ h
  | .unsupportedRequest _ _ write, h => execUnsupportedRequest_keeps _ _ write _ _ h
  | .clkEdgeRead, h => execClkEdgeRead_keeps _ _ h
  | .tlyCntRead _ _, h => execTlyCntRead_keeps _ _ _ _ h
  | .bar2Read _, h => execBar2Read_keeps _ _ _ h
  | .bar2Write _ val, h => execBar2Write_keeps _ val _ _ h
  | .instructionFetch _ _ _ _, h => .of_outer (execInstructionFetch_outer _ _ _ _ _ t h)
  | .ctrlNop _ _ _, h => .of_outer (execCtrlNop_outer _ _ _ _ t h)
  | .ctrlWait _ _ _, h => .of_outer (execCtrlWait_outer _ _ _ _ t h)
  | .ctrlBarrier _ _ _, h => .of_outer (execCtrlBarrier_outer _ _ _ _ t h)
  | .skipIfKept _ _ _, h => .of_outer (execSkipIfKept_outer _ _ _ _ t h)
  | .ctrlEnd _ _ _, h => .of_outer (execCtrlEnd_outer _ _ _ _ t h)
  | .pass _ _ _, h => .of_outer (execPass_outer _ _ _ _ t h)
  | .passStart _ _ _, h => .of_outer (execPassStart_outer _ _ _ _ t h)
  | .passComplete _ _ _, h => .of_outer (execPassComplete_outer _ _ _ _ t h)
  | .wload _ _ _, h => .of_outer (execWload_outer _ _ _ _ t h)
  | .weightRowWrite _ _, h => .of_outer (execWeightRowWrite_outer _ _ _ t h)
  | .feed _ _ _, h => .of_outer (execFeed_outer _ _ _ _ t h)
  | .feedFillComplete _ _ _, h => .of_outer (execFeedFillComplete_outer _ _ _ _ t h)
  | .rowAdd _ _ _, h => .of_outer (execRowAdd_outer _ _ _ _ t h)
  | .rowSub _ _ _, h => .of_outer (execRowSub_outer _ _ _ _ t h)
  | .rowMul _ _ _, h => .of_outer (execRowMul_outer _ _ _ _ t h)
  | .rowFma _ _ _, h => .of_outer (execRowFma_outer _ _ _ _ t h)
  | .rowMin _ _ _, h => .of_outer (execRowMin_outer _ _ _ _ t h)
  | .rowMax _ _ _, h => .of_outer (execRowMax_outer _ _ _ _ t h)
  | .rowCmp _ _ _, h => .of_outer (execRowCmp_outer _ _ _ _ t h)
  | .rowSel _ _ _, h => .of_outer (execRowSel_outer _ _ _ _ t h)
  | .rowAbs _ _ _, h => .of_outer (execRowAbs_outer _ _ _ _ t h)
  | .rowNeg _ _ _, h => .of_outer (execRowNeg_outer _ _ _ _ t h)
  | .rowCopy _ _ _, h => .of_outer (execRowCopy_outer _ _ _ _ t h)
  | .rowScale2 _ _ _, h => .of_outer (execRowScale2_outer _ _ _ _ t h)
  | .rowCvt _ _ _, h => .of_outer (execRowCvt_outer _ _ _ _ t h)
  | .rowCvts _ _ _, h => .of_outer (execRowCvts_outer _ _ _ _ t h)
  | .rowExp _ _ _, h => .of_outer (execRowExp_outer _ _ _ _ t h)
  | .rowRcp _ _ _, h => .of_outer (execRowRcp_outer _ _ _ _ t h)
  | .rowRsqrt _ _ _, h => .of_outer (execRowRsqrt_outer _ _ _ _ t h)
  | .rowDiv _ _ _, h => .of_outer (execRowDiv_outer _ _ _ _ t h)
  | .rowSqrt _ _ _, h => .of_outer (execRowSqrt_outer _ _ _ _ t h)
  | .rowRed _ _ _, h => .of_outer (execRowRed_outer _ _ _ _ t h)
  | .rowRed2 _ _ _, h => .of_outer (execRowRed2_outer _ _ _ _ t h)
  | .drain _ _ _, h => .of_outer (execDrain_outer _ _ _ _ t h)
  | .inject _ _ _, h => .of_outer (execInject_outer _ _ _ _ t h)
  | .injectReadIssue _ _, h => .of_outer (execInjectReadIssue_outer _ _ _ t h)
  | .injectFlitSend _ _ _, h => .of_outer (execInjectFlitSend_outer _ _ _ _ t h)
  | .multicastDelivery _ _, h => .of_outer (execMulticastDelivery_outer _ _ _ t h)
  | .ringFlitArrival _ _ _ _, h => .of_outer (execRingFlitArrival_outer _ _ _ _ _ t h)
  | .takeWrite _ _ _, h => .of_outer (execTakeWrite_outer _ _ _ _ t h)
  | .accum _ _ _, h => .of_outer (execAccum_outer _ _ _ _ t h)
  | .contrib _ _ _, h => .of_outer (execContrib_outer _ _ _ _ t h)
  | .accFlitAdd _ _ _ _, h => .of_outer (execAccFlitAdd_outer _ _ _ _ _ t h)
  | .creditReturn _ _, h => .of_outer (execCreditReturn_outer _ _ _ t h)
  | .barrierEdge _ _, h => .of_outer (execBarrierEdge_outer _ _ _ t h)
  | .barrierTimeout _, h => .of_outer (execBarrierTimeout_outer _ _ t h)
  | .ringEnable _ _, h => .of_outer (execRingEnable_outer _ _ _ t h)
  | .ringDisable _ _, h => .of_outer (execRingDisable_outer _ _ _ t h)
  | .ringSpanWrite _ _ _, h => .of_outer (execRingSpanWrite_outer _ _ _ _ t h)
  | .coreRunStart _ _ _, h => .of_outer (execCoreRunStart_outer _ _ _ _ t h)
  | .coreRunStop _ _ _, h => .of_outer (execCoreRunStop_outer _ _ _ _ t h)
  | .clearInbox _ _ _, h => .of_outer (execClearInbox_outer _ _ _ _ t h)
  | .clearAcc _ _ _, h => .of_outer (execClearAcc_outer _ _ _ _ t h)
  | .coreCeClr _ _ _, h => .of_outer (execCoreCeClr_outer _ _ _ _ t h)
  | .ringCeClr _ _, h => .of_outer (execRingCeClr_outer _ _ _ t h)
  | .memRead _ _ _, h => .of_outer (execMemRead_outer _ _ _ _ t h)
  | .memWrite _ _ _, h => .of_outer (execMemWrite_outer _ _ _ _ t h)
  | .memAdd _ _ _, h => .of_outer (execMemAdd_outer _ _ _ _ t h)
  | .memReadClear _ _ _, h => .of_outer (execMemReadClear_outer _ _ _ _ t h)
  | .memRelease _ _ _, h => .of_outer (execMemRelease_outer _ _ _ _ t h)
  | .esave _ _ _, h => .of_outer (execEsave_outer _ _ _ _ t h)
  | .eread _ _ _, h => .of_outer (execEread_outer _ _ _ _ t h)
  | .memReadComplete _ _, h => .of_outer (execMemReadComplete_outer _ _ _ t h)
  | .depWrite _ _ _, h => .of_outer (execDepWrite_outer _ _ _ _ t h)
  | .depRead _ _ _, h => .of_outer (execDepRead_outer _ _ _ _ t h)
  | .depFetch _ _ _, h => .of_outer (execDepFetch_outer _ _ _ _ t h)
  | .depDrop _ _ _, h => .of_outer (execDepDrop_outer _ _ _ _ t h)
  | .vaultRead _ _, h => .of_outer (execVaultRead_outer _ _ _ t h)
  | .vaultWrite _, h => .of_outer (execVaultWrite_outer _ _ t h)
  | .vaultAdd _, h => .of_outer (execVaultAdd_outer _ _ t h)
  | .vaultReadClear _, h => .of_outer (execVaultReadClear_outer _ _ t h)
  | .vaultRelease _, h => .of_outer (execVaultRelease_outer _ _ t h)
  | .hbmReadComplete _ _ _, h => .of_outer (execHbmReadComplete_outer _ _ _ _ t h)
  | .hbmRefresh _ _ _, h => .of_outer (execHbmRefresh_outer _ _ _ _ t h)
  | .scrubRead _ _ _ _, h => .of_outer (execScrubRead_outer _ _ _ _ _ t h)
  | .hbmEnable _, h => .of_outer (execHbmEnable_outer _ _ t h)
  | .hbmEnableMember _ _, h => .of_outer (execHbmEnableMember_outer _ _ _ t h)
  | .hbmCeClr _ _ _, h => .of_outer (execHbmCeClr_outer _ _ _ _ t h)
  | .vaultEnable _ _, h => .of_outer (execVaultEnable_outer _ _ _ t h)
  | .vaultDisable _ _, h => .of_outer (execVaultDisable_outer _ _ _ t h)
  | .vaultFlush _ _, h => .of_outer (execVaultFlush_outer _ _ _ t h)
  | .vaultFlushComplete _, h => .of_outer (execVaultFlushComplete_outer _ _ t h)
  | .unkeepAll _ _, h => .of_outer (execUnkeepAll_outer _ _ _ t h)
  | .xtRead _, h => .of_outer (execXtRead_outer _ _ t h)
  | .xtWrite _, h => .of_outer (execXtWrite_outer _ _ t h)
  | .xtCompletion _ _, h => .of_outer (execXtCompletion_outer _ _ _ t h)
  | .cxlPortLost _, h => .of_outer (execCxlPortLost_outer _ _ t h)
  | .depOpen _ _, h => .of_outer (execDepOpen_outer _ _ _ t h)
  | .depOpenComplete, h => .of_outer (execDepOpenComplete_outer _ t h)
  | .depClose _ _, h => .of_outer (execDepClose_outer _ _ _ t h)
  | .depEnable _, h => .of_outer (execDepEnable_outer _ _ t h)
  | .pageOutStart _, h => .of_outer (execPageOutStart_outer _ _ t h)
  | .pageOutComplete _, h => .of_outer (execPageOutComplete_outer _ _ t h)
  | .pageInStart _, h => .of_outer (execPageInStart_outer _ _ t h)
  | .pageInComplete _ _, h => .of_outer (execPageInComplete_outer _ _ _ t h)
  | .depIntakeRelease _, h => .of_outer (execDepIntakeRelease_outer _ _ t h)
  | .microbatchAdmit, h => .of_outer (execMicrobatchAdmit_outer _ t h)
  | .layerRecordEnqueue _, h => .of_outer (execLayerRecordEnqueue_outer _ _ t h)
  | .tlrEnq _ _ _, h => .of_outer (execTlrEnq_outer _ _ _ _ t h)
  | .tellerUpdate _, h => .of_outer (execTellerUpdate_outer _ _ t h)
  | .tellerContribute _, h => .of_outer (execTellerContribute_outer _ _ t h)
  | .tellerFrozen _, h => .of_outer (execTellerFrozen_outer _ _ t h)
  | .recordComplete _, h => .of_outer (execRecordComplete_outer _ _ t h)
  | .qflush _ _, h => .of_outer (execQflush_outer _ _ _ t h)
  | .schCompute _ _, h => .of_outer (execSchCompute_outer _ _ _ t h)
  | .settle, h => .of_outer (execSettle_outer _ t h)
  | .voteSend, h => .of_outer (execVoteSend_outer _ t h)
  | .vote _, h => .of_outer (execVote_outer _ _ t h)
  | .voteTimeout, h => .of_outer (execVoteTimeout_outer _ t h)
  | .posting, h => .of_outer (execPosting_outer _ t h)
  | .skip, h => .of_outer (execSkip_outer _ t h)
  | .stepEntry, h => .of_outer (execStepEntry_outer _ t h)
  | .eval, h => execEval_keeps _ _ h
  | .evalSlotBegin, h => .of_outer (execEvalSlotBegin_outer _ t h)
  | .evalSlotEnd, h => .of_outer (execEvalSlotEnd_outer _ t h)
  | .portTraining _ _, h => .of_outer (execPortTraining_outer _ _ _ t h)
  | .portRetrain _ _ _, h => .of_outer (execPortRetrain_outer _ _ _ _ t h)
  | .vlRetrain _ _ _ _, h => .of_outer (execVlRetrain_outer _ _ _ _ _ t h)
  | .vlEnable _ _, h => .of_outer (execVlEnable_outer _ _ _ t h)
  | .vlPerrClr _ _, h => .of_outer (execVlPerrClr_outer _ _ _ t h)
  | .vlRouteWrite _ _ _, h => .of_outer (execVlRouteWrite_outer _ _ _ _ t h)
  | .flitTransmit _, h => .of_outer (execFlitTransmit_outer _ _ t h)
  | .flitReceive _ _, h => .of_outer (execFlitReceive_outer _ _ _ t h)
  | .nak _ _, h => .of_outer (execNak_outer _ _ _ t h)
  | .replayLimit _ _, h => .of_outer (execReplayLimit_outer _ _ _ t h)
  | .messageForward _ _, h => .of_outer (execMessageForward_outer _ _ _ t h)
  | .stepFault _, h => .of_outer (execStepFault_outer _ _ t h)
  | .joinReq _, h => .of_outer (execJoinReq_outer _ _ t h)
  | .joinAck _, h => .of_outer (execJoinAck_outer _ _ t h)
  | .ready _, h => .of_outer (execReady_outer _ _ t h)
  | .leave _, h => .of_outer (execLeave_outer _ _ t h)
  | .mgmt _, h => .of_outer (execMgmt_outer _ _ t h)
  | .secure _, h => .of_outer (execSecure_outer _ _ t h)
  | .pipe _ _, h => .of_outer (execPipe_outer _ _ _ t h)
  | .grad _, h => .of_outer (execGrad_outer _ _ t h)
  | .bcast _, h => .of_outer (execBcast_outer _ _ t h)
  | .parity _, h => .of_outer (execParity_outer _ _ t h)
  | .put _, h => .of_outer (execPut_outer _ _ t h)
  | .heldMessageApply, h => .of_outer (execHeldMessageApply_outer _ t h)
  | .allowancePeriod _, h => .of_outer (execAllowancePeriod_outer _ _ t h)
  | .grantEffect, h => .of_outer (execGrantEffect_outer _ t h)
  | .throttleSwallow _, h => .of_outer (execThrottleSwallow_outer _ _ t h)
  | .hardCap _ _, h => .of_outer (execHardCap_outer _ _ _ t h)
  | .tsyRcfgWrite _ _ _, h => .of_outer (execTsyRcfgWrite_outer _ _ _ _ t h)
  | .opChangePrepare _, h => .of_outer (execOpChangePrepare_outer _ _ t h)
  | .change, h => .of_outer (execChange_outer _ t h)
  | .changeAck _, h => .of_outer (execChangeAck_outer _ _ t h)
  | .cancel, h => .of_outer (execCancel_outer _ t h)
  | .opChangeSwitch _, h => .of_outer (execOpChangeSwitch_outer _ _ t h)
  | .stretchToken _ _, h => .of_outer (execStretchToken_outer _ _ _ t h)
  | .droopSwallow _ _, h => .of_outer (execDroopSwallow_outer _ _ _ t h)
  | .skewHold _ _, h => .of_outer (execSkewHold_outer _ _ _ t h)
  | .clkSkewClr _, h => .of_outer (execClkSkewClr_outer _ _ t h)
  | .domainSleep _, h => .of_outer (execDomainSleep_outer _ _ t h)
  | .domainWake _, h => .of_outer (execDomainWake_outer _ _ t h)
  | .queuedErrorRun, h => .of_outer (execQueuedErrorRun_outer _ t h)
  | .restoreRecovery _, h => .of_outer (execRestoreRecovery_outer _ _ t h)
  | .fatalDump _ _, h => .of_outer (execFatalDump_outer _ _ _ t h)
  | .jnlPop _ _, h => .of_outer (execJnlPop_outer _ _ _ t h)
  | .dumpRelease _, h => .of_outer (execDumpRelease_outer _ _ t h)
  | .ratingUpdate _, h => execRatingUpdate_keeps _ _ _ h
  | .slowUnitFlag _ _, h => .of_outer (execSlowUnitFlag_outer _ _ _ t h)
  | .securingRead _, h => .of_outer (execSecuringRead_outer _ _ t h)
  | .coldStart _, h => execColdStart_keeps _ _ _ h
  | .powerUp _, h => execPowerUp_keeps _ _ _ h
  | .powerDown _ _, h => execPowerDown_keeps _ _ _ _ h
  | .overVoltageTrip _, h => execOverVoltageTrip_keeps _ _ _ h
  | .thermalTrip _ _, h => execThermalTrip_keeps _ _ _ _ h
  | .linkReset _, h => execLinkReset_keeps _ _ _ h
  | .mbxReqTailWrite _ _, h => .of_outer (execMbxReqTailWrite_outer _ _ _ t h)
  | .mbxRplHeadWrite _ _, h => .of_outer (execMbxRplHeadWrite_outer _ _ _ t h)
  | .badFrame, h => .of_outer (execBadFrame_outer _ t h)
  | .heartbeat, h => execHeartbeat_keeps _ _ h
  | .ident, h => execIdent_keeps _ _ h
  | .ackAttn, h => execAckAttn_keeps _ _ h
  | .queryOp, h => execQueryOp_keeps _ _ h
  | .getLatency _, h => execGetLatency_keeps _ _ _ h
  | .getReport _, h => execGetReport_keeps _ _ _ h
  | .attest _, h => execAttest_keeps _ _ _ h
  | .getCerts _, h => execGetCerts_keeps _ _ _ h
  | .load _ _, h => execLoad_keeps _ _ _ _ h
  | .start, h => execStart_keeps _ _ h
  | .stop, h => execStop_keeps _ _ h
  | .checkpoint, h => execCheckpoint_keeps _ _ h
  | .restore _ _, h => execRestore_keeps _ _ _ _ h
  | .ledgerRestore _, h => execLedgerRestore_keeps _ _ _ h
  | .membership _, h => execMembership_keeps _ _ _ h
  | .stage _, h => execStage_keeps _ _ _ h
  | .setJobKey _, h => execSetJobKey_keeps _ _ _ h
  | .svnCommit, h => execSvnCommit_keeps _ _ h
  | .debugUnlock _ _, h => execDebugUnlock_keeps _ _ _ _ h
  | .nvmUpdate _ _ _, h => execNvmUpdate_keeps _ _ _ _ _ h
  | .restart, h => execRestart_keeps _ _ h
  | .longOpComplete _, h => execLongOpComplete_keeps _ _ _ h
  | .heartbeatGraceExpiry, h => .of_outer (execHeartbeatGraceExpiry_outer _ t h)
  | .tallyWindowClose, h => .of_outer (execTallyWindowClose_outer _ t h)
  | .tlyClr _ _, h => .of_outer (execTlyClr_outer _ _ _ t h)
  | .tlyFreeze _ _, h => .of_outer (execTlyFreeze_outer _ _ _ t h)
  | .tlyWinCfgWrite _ _, h => .of_outer (execTlyWinCfgWrite_outer _ _ _ t h)
  | .counterWrap _ _, h => .of_outer (execCounterWrap_outer _ _ _ t h)
  | .mgmtIdent, h => (State.block_keeps s _).next h
  | .mgmtBoot, h => (State.block_keeps s _).next h
  | .mgmtStatus, h => (State.block_keeps s _).next h
  | .mgmtInput, h => (State.block_keeps s _).next h
  | .mgmtTemps, h => (State.block_keeps s _).next h
  | .mgmtRating, h => (State.block_keeps s _).next h
  | .mgmtDevid, h => (State.block_keeps s _).next h
  | .mgmtReservedCommand _, h => execMgmtReservedCommand_keeps _ _ _ h
  | .bypass, h => (State.tap_keeps s _).next h
  | .idcode, h => (State.tap_keeps s _).next h
  | .samplePreload _, h => execSamplePreload_keeps _ _ _ h
  | .extest, h => (State.tap_keeps s _).next h
  | .highz, h => (State.tap_keeps s _).next h
  | .clamp, h => (State.tap_keeps s _).next h
  | .crossingWaitSwallow _ _, h => .of_outer (execCrossingWaitSwallow_outer _ _ _ t h)
  | .alwaysOnHoldExpiry, h => execAlwaysOnHoldExpiry_keeps _ _ h

/-- A step takes the first command from the queue, and keeps of the rest what a command keeps. -/
theorem step_keeps (h : step s = .next t) : Keeps { s with pending := s.pending.tail } t := by
  unfold step at h
  split at h
  next hq => exact (Keeps.of_outer ((State.idle_outer s).trans (by simp [State.outer, hq]))).next h
  next hq => simpa [hq] using exec_keeps _ h

/-- What a command keeps includes the invariant. -/
theorem Keeps.inv (k : Keeps s t) : s.Inv → t.Inv
  | ⟨hnvm, hhost, hkeys⟩ => ⟨k.nvm hnvm, k.hostMem hhost, k.keys hkeys⟩

/-- Settles O59: each command keeps the invariant, the queue and the fuses, and an edge that passes touches none of them. -/
theorem invariantKept : Obligations.InvariantKept := by
  unfold Obligations.InvariantKept
  refine ⟨fun s t hs h => (step_keeps h).inv hs, fun s t h => ?_⟩
  obtain ⟨hpending, hsvn, hfuses, -, -, -⟩ := step_keeps h
  exact ⟨hpending, hsvn, hfuses⟩

end Sys2Proof.Machine
end

section
/-! SUPPORT. Rounding and the codes of every format (R45 to R59, R70 to R72). -/

namespace Sys2Proof.Machine

/-- An integer in the range of I8 is delivered as its two's complement, without flags (R77). -/
theorem toI8_self (mode : Rnd) {neg : Bool} {m : Nat} (hm : m ≤ if neg then 128 else 127) :
    toI8 mode (.fin neg m 0) = (if neg then (256 - m) % 256 else m, 0) := by
  have hround : ∀ mo, roundAt mo neg m 0 0 = (m, false) := fun mo => roundAt_self mo neg m 0
  cases neg <;> cases mode <;> simp_all [toI8, Nat.not_lt.2]

/-- A code of I8 is delivered as itself, without flags. -/
theorem Fmt.encode_decode_i8 (mode : Rnd) {c : Nat} (hc : c < 256) : Fmt.i8.encode mode (Fmt.i8.decode c) = (c, 0) := by
  simp only [encode, decode, if_true, Nat.mod_eq_of_lt hc]
  by_cases h : c < 128
  · simp only [if_pos h]
    rw [toI8_self mode (by simp; omega), if_neg (by simp)]
  · simp only [if_neg h]
    rw [toI8_self mode (by simp; omega), if_pos rfl, Nat.mod_eq_of_lt (by omega), Nat.sub_sub_self hc.le]

/-- Settles O13: the integers of I8 are rounded to themselves, and the codes of the floating formats by `Fmt.encode_decode`. -/
theorem codesRoundTrip : Obligations.CodesRoundTrip := by
  unfold Obligations.CodesRoundTrip
  intro f mode c hc hn
  by_cases hf : f = .i8
  · subst hf
    exact Fmt.encode_decode_i8 mode hc
  · rw [Fmt.encode_decode hf mode hn, Nat.mod_eq_of_lt hc]

/-! ### The rounding modes (R71, R72) -/

/-- Nothing is lost where the bits shifted out are all zero. -/
theorem roundShift_exact {mode : Rnd} {neg : Bool} {m k : Nat} (h : m % 2 ^ k = 0) :
    roundShift mode neg m k = (m / 2 ^ k, false) := if_pos h

/-- Where bits are lost, the result is the integer below or the one above. -/
theorem roundShift_inexact_snd {mode : Rnd} {neg : Bool} {m k : Nat} (h : m % 2 ^ k ≠ 0) :
    (roundShift mode neg m k).2 = true := by simp [roundShift, h]

/-- To nearest: the error is at most half a unit, and a tie goes to the even integer. -/
theorem roundShift_rne {neg : Bool} {m k : Nat} (h : m % 2 ^ k ≠ 0) :
    2 * (roundShift .rne neg m k).1 * 2 ^ k ≤ 2 * m + 2 ^ k ∧ 2 * m ≤ 2 * (roundShift .rne neg m k).1 * 2 ^ k + 2 ^ k ∧
      (2 * (m % 2 ^ k) = 2 ^ k → (roundShift .rne neg m k).1 % 2 = 0) := by
  have hm : 2 ^ k * (m / 2 ^ k) + m % 2 ^ k = m := Nat.div_add_mod m _
  have hr : m % 2 ^ k < 2 ^ k := Nat.mod_lt _ (Nat.two_pow_pos k)
  simp only [roundShift, if_neg h]
  generalize m / 2 ^ k = q at hm ⊢
  generalize m % 2 ^ k = r at hm hr ⊢
  generalize 2 ^ k = u at hm hr ⊢
  subst hm
  clear h
  by_cases hup : u < 2 * r ∨ (2 * r = u ∧ q % 2 = 1)
  · have hle : u ≤ 2 * r := by omega
    rw [if_pos (by simpa using hup)]
    exact ⟨by nlinarith, by nlinarith, by omega⟩
  · have hle : 2 * r ≤ u := by omega
    rw [if_neg (by simpa using hup)]
    exact ⟨by nlinarith, by nlinarith, by omega⟩

/-- Settles O14: by the mode, the bits that are shifted out being zero or not. -/
theorem roundingModes : Obligations.RoundingModes := by
  unfold Obligations.RoundingModes
  intro mode neg m k
  by_cases h : m % 2 ^ k = 0
  · simp [roundShift_exact h, h]
  · refine ⟨by simp [roundShift_inexact_snd h, h], fun h0 => absurd h0 h, fun _ => ⟨?_, ?_, ?_, ?_, ?_⟩⟩
    · rintro rfl
      exact roundShift_rne h
    · rintro rfl
      simp [roundShift, h]
    · rintro rfl
      cases neg <;> simp [roundShift, h]
    · rintro rfl
      cases neg <;> simp [roundShift, h]
    · rintro x rfl
      by_cases hx : x < m % 2 ^ k * 65536 / 2 ^ k <;> simp [roundShift, h, hx]

end Sys2Proof.Machine
end

section
/-! SUPPORT. The step of an idle module (log 1), the state after reset (log 6), the management port (R542) and the test port (R543). -/

namespace Sys2Proof.Machine

/-- What stands alike differs in the edge count, the registers, the cores, the domains and Tally alone. -/
theorem State.eq_of_standing {s t : State} (h : t.standing = s.standing) :
    t = { s with edge := t.edge, regs := t.regs, recent := t.recent, cores := t.cores, domains := t.domains, tally := t.tally } :=
  calc t = { t.standing with edge := t.edge, regs := t.regs, recent := t.recent, cores := t.cores, domains := t.domains,
                             tally := t.tally } := rfl
    _ = { s.standing with edge := t.edge, regs := t.regs, recent := t.recent, cores := t.cores, domains := t.domains,
                          tally := t.tally } := by rw [h]

theorem State.idle_on {s : State} (h : s.power.phase = .on) : s.idle = s.pass 1 := if_pos (by simp [h])

theorem State.idle_off {s : State} (h : s.power.phase ≠ .on) : s.idle = s := if_neg (by simpa using h)

/-- Settles O1: a step runs the first command; with none an edge passes, which leaves what stands. -/
theorem stepRunsTheQueue : Obligations.StepRunsTheQueue := by
  unfold Obligations.StepRunsTheQueue
  refine ⟨fun s c rest h => by simp only [step, h], fun s hq hon => ?_, fun s hq hoff => by simp only [step, hq, State.idle_off hoff]⟩
  refine ⟨s.pass 1, by simp only [step, hq, State.idle_on hon], s.edge_pass 1, ?_⟩
  exact State.eq_of_standing (s.pass_standing 1)

/-- Settles O2: each value is read off the reset state, in which every table is empty. -/
theorem resetState : Obligations.ResetState := by
  unfold Obligations.ResetState
  refine ⟨⟨rfl, rfl, fun i => rfl, rfl, rfl, rfl, rfl, rfl, rfl, rfl, rfl, ?_, ?_, ?_, ?_⟩, Tab.wf_nil _, Tab.wf_nil _, fun _ => rfl⟩
  · decide
  · decide
  · decide
  · decide

/-! ### The management port and the test port (R542, R543) -/

theorem State.block_on {s : State} (h : s.power.alwaysOn = true) (bs : List Byte) : s.block bs = { s with mgmtOut := bs } := if_pos h

theorem State.block_off {s : State} (h : s.power.alwaysOn = false) (bs : List Byte) : s.block bs = s := if_neg (by simp [h])

theorem State.tap_on {s : State} (h : s.power.alwaysOn = true) (f : Jtag → Jtag) : s.tap f = { s with jtag := f s.jtag } := if_pos h

/-- A block read answers with its block while the supply is up, and changes nothing without it. -/
theorem State.block_answers (s : State) (bs : List Byte) :
    (s.power.alwaysOn = true → (Host.Outcome.next (s.block bs) : Out) = .next { s with mgmtOut := bs }) ∧
    (s.power.alwaysOn = false → (Host.Outcome.next (s.block bs) : Out) = .next s) :=
  ⟨fun h => by rw [State.block_on h], fun h => by rw [State.block_off h]⟩

/-- The identity is the sum of its fields, which do not meet. -/
theorem Fuses.toNat_idcode (f : Fuses) :
    f.idcode.toNat = 2 ^ 28 * (f.stepMajor % 16) + 0x4B31 * 2 ^ 12 + f.manufacturer.toNat * 2 + 1 := by
  have hman := f.manufacturer.isLt
  rw [Fuses.idcode, BitVec.toNat_ofNat]
  omega

theorem Fuses.idcode_fields (f : Fuses) :
    f.idcode.toNat % 2 = 1 ∧ bits f.idcode.toNat 27 12 = 0x4B31 ∧ bits f.idcode.toNat 11 1 = f.manufacturer.toNat ∧
    bits f.idcode.toNat 31 28 = f.stepMajor % 16 := by
  have hman := f.manufacturer.isLt
  simp only [bits, f.toNat_idcode, Nat.reduceAdd, Nat.reduceSub, Nat.reducePow]
  omega

/-- SAMPLE/PRELOAD takes what is shifted in, or a free value for the pins. -/
theorem execSamplePreload_on {s : State} (h : s.power.alwaysOn = true) (v : Option (BitVec 64)) :
    execSamplePreload v s = .next { s with
      free := s.free + 1,
      jtag := { s.jtag.toBypass with selected := .boundary, cells := v.getD ((Config.freeDigest s.free).setWidth 64) } } :=
  congrArg _ (State.tap_on (s := { s with free := s.free + 1 }) h _)

/-- Settles O58: each block read by `State.block`, each instruction of the test port by `State.tap`. -/
theorem outsidePorts : Obligations.OutsidePorts := by
  unfold Obligations.OutsidePorts
  refine ⟨fun s => ⟨?_, fun code => ⟨fun h hc => ?_, fun hc => ?_⟩⟩, fun s h => ?_⟩
  · simp only [List.forall_mem_cons, List.not_mem_nil, false_implies, implies_true, and_true]
    exact ⟨s.block_answers _, s.block_answers _, s.block_answers _, s.block_answers _, s.block_answers _, s.block_answers _,
      s.block_answers _⟩
  · change Host.Outcome.next (if code.toNat < 7 then s else s.block []) = _
    rw [if_neg (by omega), State.block_on h]
  · change Host.Outcome.next (if code.toNat < 7 then s else s.block []) = _
    rw [if_pos hc]
  · obtain ⟨hone, hdev, hman, hstep⟩ := s.fuses.idcode_fields
    have htap : ∀ f, (Host.Outcome.next (s.tap f) : Out) = .next { s with jtag := f s.jtag } := fun f => by rw [State.tap_on h]
    refine ⟨htap _, htap _, hone, hdev, hman, hstep, fun v => ⟨_, execSamplePreload_on h _, rfl⟩,
      ⟨_, _, execSamplePreload_on h _, rfl⟩, fun hp => ?_, fun hp => ?_⟩
    · change execExtest s = _ ∧ execHighz s = _ ∧ execClamp s = _
      simp only [execExtest, execHighz, execClamp, hp, if_true, htap, and_self]
    · simp only [List.forall_mem_cons, List.not_mem_nil, false_implies, implies_true, and_true]
      change execExtest s = _ ∧ execHighz s = _ ∧ execClamp s = _
      simp only [execExtest, execHighz, execClamp, hp, Bool.false_eq_true, if_false, htap, and_self]

end Sys2Proof.Machine
end

section
/-! SUPPORT. Bits of numbers (R12), what a register's field reads after a write of the same or another field, and what register
writes leave. -/

namespace Sys2Proof.Machine

/-! ### Bits [hi:lo] -/

theorem testBit_bits (n hi lo i : Nat) : (bits n hi lo).testBit i = (decide (i < hi + 1 - lo) && n.testBit (lo + i)) := by
  rw [bits, Nat.testBit_mod_two_pow, Nat.testBit_div_two_pow, Nat.add_comm i lo]

/-- A number is made of the bits above a field, the field and the bits below it. -/
theorem eq_add_bits (n hi lo : Nat) :
    n = 2 ^ lo * (2 ^ (hi + 1 - lo) * (n / 2 ^ lo / 2 ^ (hi + 1 - lo)) + bits n hi lo) + n % 2 ^ lo := by
  rw [bits, Nat.div_add_mod, Nat.div_add_mod]

theorem setBits_eq (n hi lo v : Nat) :
    setBits n hi lo v =
      2 ^ lo * (2 ^ (hi + 1 - lo) * (n / 2 ^ lo / 2 ^ (hi + 1 - lo)) + v % 2 ^ (hi + 1 - lo)) + n % 2 ^ lo := by
  have h := eq_add_bits n hi lo
  rw [Nat.mul_add] at h
  rw [setBits, Nat.mul_add]
  omega

theorem testBit_setBits (n hi lo v i : Nat) :
    (setBits n hi lo v).testBit i = if lo ≤ i ∧ i < hi + 1 then v.testBit (i - lo) else n.testBit i := by
  have hlow : n % 2 ^ lo < 2 ^ lo := Nat.mod_lt _ (Nat.two_pow_pos _)
  have hmid : v % 2 ^ (hi + 1 - lo) < 2 ^ (hi + 1 - lo) := Nat.mod_lt _ (Nat.two_pow_pos _)
  rw [setBits_eq, Nat.testBit_two_pow_mul_add _ hlow, Nat.testBit_two_pow_mul_add _ hmid]
  by_cases h1 : i < lo
  · rw [if_pos h1, if_neg (by omega), Nat.testBit_mod_two_pow, decide_eq_true h1, Bool.true_and]
  · rw [if_neg h1]
    by_cases h2 : i < hi + 1
    · rw [if_pos (by omega), if_pos ⟨by omega, h2⟩, Nat.testBit_mod_two_pow, decide_eq_true (by omega), Bool.true_and]
    · by_cases h3 : i - lo < hi + 1 - lo
      · omega
      · rw [if_neg h3, if_neg (by omega), Nat.testBit_div_two_pow, Nat.testBit_div_two_pow]
        by_cases h4 : lo ≤ hi + 1
        · congr 1; omega
        · congr 1; omega

/-- A field reads as it was written. -/
@[simp] theorem bits_setBits_same (n hi lo v : Nat) : bits (setBits n hi lo v) hi lo = v % 2 ^ (hi + 1 - lo) := by
  refine Nat.eq_of_testBit_eq fun i => ?_
  rw [testBit_bits, testBit_setBits, Nat.testBit_mod_two_pow]
  by_cases h : i < hi + 1 - lo
  · rw [if_pos ⟨by omega, by omega⟩, Nat.add_sub_cancel_left]
  · simp [h]

/-- A write of a field leaves the fields that do not meet it. -/
theorem bits_setBits_other (n v : Nat) {hi lo hi' lo' : Nat} (h : hi' < lo ∨ hi < lo') :
    bits (setBits n hi lo v) hi' lo' = bits n hi' lo' := by
  refine Nat.eq_of_testBit_eq fun i => ?_
  rw [testBit_bits, testBit_bits, testBit_setBits]
  by_cases hi' : i < hi' + 1 - lo'
  · rw [if_neg (by omega)]
  · simp [hi']

theorem bits_lt (n hi lo : Nat) : bits n hi lo < 2 ^ (hi + 1 - lo) := Nat.mod_lt _ (Nat.two_pow_pos _)

theorem bits_mod_word (n : Nat) {hi : Nat} (lo : Nat) (h : hi < 32) : bits (n % 2 ^ 32) hi lo = bits n hi lo := by
  refine Nat.eq_of_testBit_eq fun i => ?_
  rw [testBit_bits, testBit_bits, Nat.testBit_mod_two_pow]
  by_cases hi : i < hi + 1 - lo
  · simp [hi]; omega
  · simp [hi]

/-! ### Fields of registers -/

section Fields
variable (s : State) (off v : Nat) {hi lo : Nat}

theorem State.reg_setRf_same (hi lo : Nat) :
    (s.setRf off hi lo v).reg off = BitVec.ofNat 32 (setBits (s.reg off).toNat hi lo v) := s.reg_setReg_same off _

/-- A field of a register reads as it was written, as far as its bits hold the value. -/
theorem State.rf_setRf_same (lo : Nat) (h : hi < 32) : (s.setRf off hi lo v).rf off hi lo = v % 2 ^ (hi + 1 - lo) := by
  rw [rf, reg_setRf_same, BitVec.toNat_ofNat, bits_mod_word _ _ h, bits_setBits_same]

/-- A write of a field leaves the other fields of its register. -/
theorem State.rf_setRf_disjoint {hi' lo' : Nat} (h' : hi' < 32) (h : hi' < lo ∨ hi < lo') :
    (s.setRf off hi lo v).rf off hi' lo' = s.rf off hi' lo' := by
  rw [rf, reg_setRf_same, BitVec.toNat_ofNat, bits_mod_word _ _ h', bits_setBits_other _ _ h, rf]

theorem State.setRf_eq (hi lo : Nat) : ∃ r, s.setRf off hi lo v = { s with regs := r } := ⟨_, rfl⟩

end Fields

end Sys2Proof.Machine
end

section
/-! SUPPORT. Register accesses (R15 to R20, R434, R494, R495, R516): what a write gives each field, what it leaves, reads that latch,
and BAR2. -/

namespace Sys2Proof.Machine

/-! ### What a write of fields gives (R19, R20) -/

/-- What a write gives a field: nothing where the writer may not write it. -/
def State.given (s : State) (by_ : Writer) (off : Nat) (val : Word) (f : Fld) : Option Nat :=
  if s.mayWrite by_ f then s.fieldWrite off f val else none

/-- Two fields without a common bit. -/
def Fld.apart (f g : Fld) : Prop := g.hi < f.lo ∨ f.hi < g.lo

section Given
variable {s : State} {by_ : Writer} {off : Nat} {val : Word} {f : Fld}

theorem State.given_rw (hw : s.mayWrite by_ f = true) (hl : s.lockOf off f = .writable) (ha : f.acc = .rw) :
    s.given by_ off val f = some (bits val.toNat f.hi f.lo) := by
  simp [given, fieldWrite, hw, hl, ha]

theorem State.given_w1c (hw : s.mayWrite by_ f = true) (hl : s.lockOf off f = .writable) (ha : f.acc = .w1c) :
    s.given by_ off val f = some (bits (s.readReg off &&& (~~~val ||| BitVec.ofNat 32 (s.freshBits off))).toNat f.hi f.lo) := by
  simp [given, fieldWrite, hw, hl, ha]

theorem State.given_none (hw : s.mayWrite by_ f = false) : s.given by_ off val f = none := by simp [given, hw]

/-- A value that a field is given fits it. -/
theorem State.given_lt {v : Nat} (h : s.given by_ off val f = some v) : v < 2 ^ (f.hi + 1 - f.lo) := by
  unfold given fieldWrite at h
  split at h
  · split at h
    · cases h
    · split at h
      · exact Option.some.inj h ▸ bits_lt _ _ _
      · exact Option.some.inj h ▸ bits_lt _ _ _
      · cases h
  · cases h

/-- One field's share of a write. -/
def State.giveField (s : State) (by_ : Writer) (off : Nat) (val : Word) (t : State) (f : Fld) : State :=
  match s.given by_ off val f with
  | some v => t.setRf off f.hi f.lo v
  | none => t

theorem State.writeFields_eq_foldl (fs : List Fld) : s.writeFields by_ off val fs = fs.foldl (s.giveField by_ off val) s := rfl

theorem State.giveField_eq (t : State) (f : Fld) : ∃ r, s.giveField by_ off val t f = { t with regs := r } := by
  unfold giveField
  split
  · exact ⟨_, rfl⟩
  · exact ⟨t.regs, rfl⟩

theorem State.reg_giveField_other (t : State) (f : Fld) {o : Nat} (ho : o ≠ off) : (s.giveField by_ off val t f).reg o = t.reg o := by
  unfold giveField
  split
  · exact t.reg_setRf_other _ _ _ ho
  · rfl

/-- A field apart from the one that is written keeps its value. -/
theorem State.rf_giveField_apart (t : State) {g : Fld} (hhi : f.hi < 32) (h : f.apart g) :
    (s.giveField by_ off val t g).rf off f.hi f.lo = t.rf off f.hi f.lo := by
  unfold giveField
  split
  · exact t.rf_setRf_disjoint off _ hhi h.symm
  · rfl

theorem State.rf_giveField_self (t : State) (hhi : f.hi < 32) :
    (s.giveField by_ off val t f).rf off f.hi f.lo = (s.given by_ off val f).getD (t.rf off f.hi f.lo) := by
  unfold giveField
  split
  next v hv => rw [t.rf_setRf_same off v f.lo hhi, Nat.mod_eq_of_lt (given_lt hv), hv, Option.getD_some]
  next hv => rw [hv, Option.getD_none]

theorem State.foldl_giveField_eq (fs : List Fld) (t : State) : ∃ r, fs.foldl (s.giveField by_ off val) t = { t with regs := r } := by
  induction fs generalizing t with
  | nil => exact ⟨t.regs, rfl⟩
  | cons g gs ih =>
    obtain ⟨r, hr⟩ := giveField_eq (s := s) (by_ := by_) (off := off) (val := val) t g
    obtain ⟨r', hr'⟩ := ih (s.giveField by_ off val t g)
    exact ⟨r', by rw [List.foldl_cons, hr', hr]⟩

theorem State.reg_foldl_giveField_other (fs : List Fld) (t : State) {o : Nat} (ho : o ≠ off) :
    (fs.foldl (s.giveField by_ off val) t).reg o = t.reg o := by
  induction fs generalizing t with
  | nil => rfl
  | cons g gs ih => rw [List.foldl_cons, ih, reg_giveField_other t g ho]

/-- After a write of fields apart from each other, a field among them reads what it was given, or what it read before. -/
theorem State.rf_foldl_giveField {fs : List Fld} (t : State) (hhi : f.hi < 32) (hapart : ∀ g ∈ fs, g ≠ f → f.apart g)
    (hmem : f ∈ fs ∨ t.rf off f.hi f.lo = (s.given by_ off val f).getD (s.rf off f.hi f.lo))
    (hnone : s.given by_ off val f = none → t.rf off f.hi f.lo = s.rf off f.hi f.lo) :
    (fs.foldl (s.giveField by_ off val) t).rf off f.hi f.lo = (s.given by_ off val f).getD (s.rf off f.hi f.lo) := by
  induction fs generalizing t with
  | nil => simpa using hmem
  | cons g gs ih =>
    have hgs : ∀ x ∈ gs, x ≠ f → f.apart x := fun x hx => hapart x (List.mem_cons_of_mem _ hx)
    rw [List.foldl_cons]
    by_cases hg : g = f
    · subst hg
      have hself : (s.giveField by_ off val t g).rf off g.hi g.lo = (s.given by_ off val g).getD (s.rf off g.hi g.lo) := by
        rw [rf_giveField_self t hhi]
        cases hv : s.given by_ off val g with
        | none => exact hnone hv
        | some v => rfl
      exact ih _ hgs (.inr hself) (fun hv => by rw [hself, hv, Option.getD_none])
    · have hkeep := rf_giveField_apart (s := s) (by_ := by_) (off := off) (val := val) t hhi (hapart g List.mem_cons_self hg)
      refine ih _ hgs (hmem.imp (fun hm => ?_) (fun hr => by rw [hkeep, hr])) (fun hv => by rw [hkeep, hnone hv])
      exact (List.mem_cons.1 hm).resolve_left (Ne.symm hg)

theorem State.rf_writeFields {fs : List Fld} (hf : f ∈ fs) (hhi : f.hi < 32) (hapart : ∀ g ∈ fs, g ≠ f → f.apart g) :
    (s.writeFields by_ off val fs).rf off f.hi f.lo = (s.given by_ off val f).getD (s.rf off f.hi f.lo) := by
  rw [writeFields_eq_foldl]
  exact rf_foldl_giveField s hhi hapart (.inl hf) (fun _ => rfl)

end Given

/-! ### What else a write does -/

/-- Ports that go down change the link alone. -/
theorem State.foldl_portOff_eq (l : List Nat) (t : State) : ∃ x, l.foldl State.portOff t = { t with link := x } := by
  induction l generalizing t with
  | nil => exact ⟨t.link, rfl⟩
  | cons p l ih =>
    obtain ⟨x, hx⟩ := ih (t.portOff p)
    exact ⟨x, hx⟩

theorem State.wakeSeen_eq (s : State) (i : Nat) : ∃ x, s.wakeSeen i = { s with domains := x } := by
  unfold wakeSeen
  dsimp only
  split
  · exact ⟨s.domains, rfl⟩
  · exact ⟨_, rfl⟩

/-- What a write does beside its fields: it reaches Tally, the recovery, the link and domains; it clears an enable bit, with the ports
of a link; or it clears the counts of a Teller. -/
inductive Reaches (s t : State) (by_ : Writer) (off : Nat) : State → Prop
  | fields (ta : Tally) (re : Recovery) (li : Link) (dm : Tab Domain) :
      Reaches s t by_ off { t with tally := ta, rec_ := re, link := li, domains := dm }
  | enable (li : Link) :
      (0x20 ≤ off / 0x1000000 ∧ off / 0x1000000 < 0x24 ∨ 0x30 ≤ off / 0x1000000 ∧ off / 0x1000000 < 0x32) →
      off % 0x1000000 = 4 → s.mayWrite by_ (fRw 0 0) = true → Reaches s t by_ off { t.setRf off 0 0 0 with link := li }
  | counts : off % 0x1000000 = 0x800004 →
      Reaches s t by_ off (((t.setReg (off + 0x2C) 0).setReg (off + 0x30) 0).setReg (off + 0x34) 0)

theorem State.reaches_afterWrite (s t : State) (by_ : Writer) (off : Nat) (val : Word) :
    Reaches s t by_ off (s.afterWrite t by_ off val) := by
  have hkeep : Reaches s t by_ off t := .fields t.tally t.rec_ t.link t.domains
  unfold afterWrite
  extract_lets o b cleared
  refine iteInduction (fun _ => ?_) fun _ => iteInduction (fun _ => ?_) fun _ => iteInduction (fun h => ?_) fun _ =>
    iteInduction (fun hb => ?_) fun _ => hkeep
  · exact .fields _ t.rec_ t.link t.domains
  · exact .fields _ t.rec_ t.link t.domains
  · obtain ⟨hlo, hhi, ho, hc⟩ := h
    exact .enable t.link (.inl ⟨hlo, hhi⟩) ho (Bool.and_eq_true_iff.1 hc).1
  · refine iteInduction (fun h => ?_) fun _ => iteInduction (fun _ => ?_) fun _ => iteInduction (fun h => ?_) fun _ =>
      iteInduction (fun _ => ?_) fun _ => hkeep
    · exact .counts h.1
    · exact .fields t.tally _ t.link t.domains
    · obtain ⟨x, hx⟩ := foldl_portOff_eq (upFrom (9 * (b - 0x30)) 9) (t.setRf off 0 0 0)
      obtain ⟨ho, -, hc⟩ := h
      rw [hx]
      exact .enable x (.inr hb) ho (Bool.and_eq_true_iff.1 hc).1
    · refine iteInduction (fun _ => iteInduction (fun _ => ?_) fun _ => hkeep) fun _ => iteInduction (fun _ => ?_) fun _ => hkeep
      · exact .fields t.tally t.rec_ _ t.domains
      · obtain ⟨x, hx⟩ := State.wakeSeen_eq (t.modPort (9 * (b - 0x30) + (o - 0x100) / 0x20) (fun x => { x with state := .training }))
          (domXd (b - 0x30) ((9 * (b - 0x30) + (o - 0x100) / 0x20) % 9))
        rw [hx]
        exact .fields t.tally t.rec_ _ x

/-- The effects of a field's change leave all but registers, Tally, the recovery, the link and domains. -/
theorem State.afterWrite_eq (s t : State) (by_ : Writer) (off : Nat) (val : Word) :
    ∃ r ta re li dm, s.afterWrite t by_ off val = { t with regs := r, tally := ta, rec_ := re, link := li, domains := dm } := by
  have h := s.reaches_afterWrite t by_ off val
  generalize s.afterWrite t by_ off val = u at h ⊢
  cases h with
  | fields ta re li dm => exact ⟨_, ta, re, li, dm, rfl⟩
  | enable li => exact ⟨_, t.tally, t.rec_, li, t.domains, rfl⟩
  | counts => exact ⟨_, t.tally, t.rec_, t.link, t.domains, rfl⟩

theorem State.reg_of_regs {s t : State} (h : s.regs = t.regs) (o : Nat) : s.reg o = t.reg o := by rw [reg, reg, h]

theorem State.rf_of_regs {s t : State} (h : s.regs = t.regs) (o hi lo : Nat) : s.rf o hi lo = t.rf o hi lo := by
  rw [rf, rf, reg_of_regs h]

/-- But for the counts of a Teller that its control register enables, a write reaches its own register alone. -/
theorem State.reg_afterWrite_other (s t : State) (by_ : Writer) {off o : Nat} (val : Word) (ho : o ≠ off)
    (htlr : off % 0x1000000 ≠ 0x800004) : (s.afterWrite t by_ off val).reg o = t.reg o := by
  have h := s.reaches_afterWrite t by_ off val
  generalize s.afterWrite t by_ off val = u at h ⊢
  cases h with
  | fields => rfl
  | enable => exact t.reg_setRf_other _ _ _ ho
  | counts hc => exact absurd hc htlr

/-- In the control registers of HBM and of a link, no field that a register write sets lies at bit 0. -/
theorem lo_pos_of_control {off : Nat} {fs : List Fld} {f : Fld} (hfs : regFields off = some fs) (hf : f ∈ fs)
    (hb : 0x20 ≤ off / 0x1000000 ∧ off / 0x1000000 < 0x24 ∨ 0x30 ≤ off / 0x1000000 ∧ off / 0x1000000 < 0x32)
    (ho : off % 0x1000000 = 4) (ha : f.acc = .rw ∨ f.acc = .w1c) : 0 < f.lo := by
  have hlist : fs = [fRw 31 24 0x18, fRw 1 1 1, fAct 0 0] ∨ fs = [fRw 7 4 8, fAct 0 0] := by
    unfold regFields at hfs
    rcases hb with hb | hb
    · left
      simpa [ho, hb, show ¬ off / 0x1000000 = 0 by omega, show ¬ off / 0x1000000 = 1 by omega, show ¬ off / 0x1000000 = 2 by omega,
        show ¬ off / 0x1000000 = 3 by omega, show ¬ off / 0x1000000 < 0x14 by omega, hbmFields, hbmRegs, RegTable.at?, eq_comm]
        using hfs
    · right
      simpa [ho, hb, show ¬ off / 0x1000000 = 0 by omega, show ¬ off / 0x1000000 = 1 by omega, show ¬ off / 0x1000000 = 2 by omega,
        show ¬ off / 0x1000000 = 3 by omega, show ¬ off / 0x1000000 < 0x14 by omega, show ¬ off / 0x1000000 < 0x24 by omega,
        vlFields, vlRegs, RegTable.at?, eq_comm] using hfs
  rcases hlist with rfl | rfl <;> simp [fRw, fAct] at hf <;> rcases hf with rfl | rfl | rfl <;> simp_all

/-- What else a write does leaves the fields of its register that a register write can set, and all that its writer may not. -/
theorem State.rf_afterWrite {s t : State} {by_ : Writer} {off : Nat} (val : Word) {fs : List Fld} {f : Fld}
    (hfs : regFields off = some fs) (hf : f ∈ fs) (hhi : f.hi < 32)
    (ha : f.acc = .rw ∨ f.acc = .w1c ∨ s.mayWrite by_ f = false) :
    (s.afterWrite t by_ off val).rf off f.hi f.lo = t.rf off f.hi f.lo := by
  have h := s.reaches_afterWrite t by_ off val
  generalize s.afterWrite t by_ off val = u at h ⊢
  cases h with
  | fields => rfl
  | enable li hb ho hw =>
    have hlo : 0 < f.lo := by
      refine lo_pos_of_control hfs hf hb ho ?_
      rcases ha with ha | ha | ha
      · exact .inl ha
      · exact .inr ha
      · rw [mayWrite] at hw ha
        cases by_ <;> simp_all [fRw]
    exact t.rf_setRf_disjoint off 0 hhi (.inr hlo)
  | counts =>
    rw [rf_setReg_other _ _ _ _ (by omega), rf_setReg_other _ _ _ _ (by omega), rf_setReg_other _ _ _ _ (by omega)]

/-! ### Notices -/

/-- A Journal entry, or its loss, changes the Journal alone. -/
theorem State.journal_eq (s : State) (e : Err) (joined queued escalated : Bool) :
    ∃ j, s.journal e joined queued escalated = { s with jnl := j } := by
  unfold journal
  dsimp only
  split <;> exact ⟨_, rfl⟩

theorem State.notice_eq (s : State) (e : Err) : ∃ j, s.notice e = { s with jnl := j } := s.journal_eq _ _ _ _

theorem State.ignored_eq (s : State) (off : Nat) : ∃ j, s.ignored off = { s with jnl := j } := s.notice_eq _

theorem State.answer_eq (s : State) (by_ : Writer) (r : BusReply) :
    s.answer by_ r = { s with bus := if by_ = .host then r else s.bus } := by cases by_ <;> rfl

/-! ### A register write (R19, R494) -/

/-- A write of a register is the write of its fields, its effects, and where one of its fields is refused a Journal entry. -/
theorem State.regWrite_eq {s : State} {by_ : Writer} {off : Nat} {val : Word} {fs : List Fld} (h : isMirror off = false) :
    ∃ j, s.regWrite by_ off val fs = { s.afterWrite (s.writeFields by_ off val fs) by_ off val with jnl := j } := by
  rw [regWrite, if_neg (by simp [h])]
  dsimp only
  split
  · exact State.ignored_eq _ off
  · exact ⟨_, rfl⟩

theorem execRegisterWrite_mapped {s : State} {off : Word} {fs : List Fld} (by_ : Writer) (val : Word) (hon : s.power.phase = .on)
    (hal : off.toNat % 4 = 0) (hfs : regFields off.toNat = some fs) :
    execRegisterWrite by_ off val s =
      .next { s.regWrite by_ off.toNat val fs with bus := if by_ = .host then .done else (s.regWrite by_ off.toNat val fs).bus } := by
  rw [execRegisterWrite, if_neg (by simp [hon]), if_neg (by simpa using hal), hfs, ← State.answer_eq]

/-- The first clause of O3: a write of a mapped register. -/
theorem execRegisterWrite_completes (by_ : Writer) (off val : Word) (fs : List Fld) (s : State) (hon : s.power.phase = .on)
    (hal : off.toNat % 4 = 0) (hfs : regFields off.toNat = some fs) :
    ∃ t, exec (.registerWrite by_ off val) s = .next t ∧
      t = { s with regs := t.regs, tally := t.tally, rec_ := t.rec_, link := t.link, domains := t.domains, jnl := t.jnl, bus := t.bus } ∧
      t.bus = (if by_ = .host then .done else s.bus) ∧
      (isMirror off.toNat = true → t = { s with bus := t.bus }) ∧
      (∀ o : Nat, o ≠ off.toNat → off.toNat % 0x1000000 ≠ 0x800004 → t.reg o = s.reg o) ∧
      (isMirror off.toNat = false → ∀ f ∈ fs, f.lo ≤ f.hi → f.hi < 32 → (∀ g ∈ fs, g ≠ f → g.hi < f.lo ∨ f.hi < g.lo) →
        (s.mayWrite by_ f = true → s.lockOf off.toNat f = .writable →
          (f.acc = .rw → t.rf off.toNat f.hi f.lo = bits val.toNat f.hi f.lo) ∧
          (f.acc = .w1c → t.rf off.toNat f.hi f.lo =
            bits (s.readReg off.toNat &&& (~~~val ||| BitVec.ofNat 32 (s.freshBits off.toNat))).toNat f.hi f.lo)) ∧
        (s.mayWrite by_ f = false → t.rf off.toNat f.hi f.lo = s.rf off.toNat f.hi f.lo)) := by
  refine ⟨_, execRegisterWrite_mapped by_ val hon hal hfs, ?_⟩
  cases hm : isMirror off.toNat with
  | true =>
    have hkeep : s.regWrite by_ off.toNat val fs = s := if_pos hm
    rw [hkeep]
    exact ⟨rfl, rfl, fun _ => rfl, fun _ _ _ => rfl, fun h => by simp at h⟩
  | false =>
    obtain ⟨j, hj⟩ := State.regWrite_eq (s := s) (by_ := by_) (val := val) (fs := fs) hm
    obtain ⟨r, ta, re, li, dm, hafter⟩ := s.afterWrite_eq (s.writeFields by_ off.toNat val fs) by_ off.toNat val
    obtain ⟨r', hfields⟩ := State.foldl_giveField_eq (s := s) (by_ := by_) (off := off.toNat) (val := val) fs s
    rw [← State.writeFields_eq_foldl] at hfields
    have hregs : (s.regWrite by_ off.toNat val fs).regs =
        (s.afterWrite (s.writeFields by_ off.toNat val fs) by_ off.toNat val).regs := by rw [hj]
    have hall : s.regWrite by_ off.toNat val fs =
        { s with regs := r, tally := ta, rec_ := re, link := li, domains := dm, jnl := j } := by rw [hj, hafter, hfields]
    refine ⟨by rw [hall], by rw [hall], fun h => by simp at h, fun o ho htlr => ?_, fun _ f hf _ hhi hapart => ?_⟩
    · refine (State.reg_of_regs hregs o).trans ((s.reg_afterWrite_other _ by_ val ho htlr).trans ?_)
      rw [State.writeFields_eq_foldl, State.reg_foldl_giveField_other fs s ho]
    · have hrf : ∀ (_ : f.acc = .rw ∨ f.acc = .w1c ∨ s.mayWrite by_ f = false),
          (s.regWrite by_ off.toNat val fs).rf off.toNat f.hi f.lo =
            (s.given by_ off.toNat val f).getD (s.rf off.toNat f.hi f.lo) := fun ha => by
        rw [State.rf_of_regs hregs, State.rf_afterWrite val hfs hf hhi ha, State.rf_writeFields hf hhi hapart]
      refine ⟨fun hw hl => ⟨fun ha => ?_, fun ha => ?_⟩, fun hw => ?_⟩
      · exact (hrf (.inl ha)).trans (by rw [State.given_rw hw hl ha, Option.getD_some])
      · exact (hrf (.inr (.inl ha))).trans (by rw [State.given_w1c hw hl ha, Option.getD_some])
      · exact (hrf (.inr (.inr hw))).trans (by rw [State.given_none hw, Option.getD_none])

/-! ### Reads that latch, and BAR2 (R434, R495, R516) -/

theorem execBar2Read_aligned {off : BitVec 25} {s : State} (hon : s.power.phase = .on) (hal : off.toNat % 4 = 0) (h0 : 4 < off.toNat) :
    execBar2Read off s = .next (if 0x1000000 ≤ off.toNat then s.userRead (off.toNat + 0x2000000)
      else { s.unmapped off.toNat with bus := .value 0 }) := by
  rw [execBar2Read]
  dsimp only
  rw [if_neg (by simp [hon]), if_neg (by simpa using hal), if_neg (by omega)]
  split <;> rfl

/-- A read of the Tally mirror with USER_RD. -/
theorem State.userRead_on {s : State} {off : Nat} {fs : List Fld} (hfs : regFields off = some fs) (hrd : s.rf (tlyBase + 4) 1 1 = 1) :
    ∃ r v, s.userRead off = { s with regs := r, bus := .value v } ∧
      (off % 0x1000000 < 0x10000 → r = s.regs ∧ v = s.readReg off) := by
  rw [userRead, hfs]
  dsimp only
  rw [if_neg (by omega)]
  split
  next h => exact ⟨_, _, rfl, fun hlt => absurd h.1 (by omega)⟩
  · exact ⟨_, _, rfl, fun _ => ⟨rfl, rfl⟩⟩

/-- Settles O3, access by access. -/
theorem registerAccessesComplete : Obligations.RegisterAccessesComplete := by
  unfold Obligations.RegisterAccessesComplete
  refine ⟨execRegisterWrite_completes, fun by_ off write s hon hal hfs => ?_, fun off size write s hon hbad => ?_, fun s hon => ?_,
    fun b k s hon => ?_, fun s hon => ?_, fun off s hon hal => ⟨fun h0 h1 => ?_, fun h1 hfs => ?_, fun fs h1 hfs => ⟨fun hrd => ?_, fun hrd => ?_⟩⟩,
    fun off val s hon => if_pos (by simp [hon])⟩
  · exact if_pos (by simp [hon, hal, hfs])
  · exact if_pos (by simpa [hon, badAccess, bne_iff_ne, beq_iff_eq, imp_iff_not_or] using hbad)
  · refine ⟨_, if_pos (by simp [hon]), rfl, s.reg_setReg_same _ _, fun o ho => s.reg_setReg_other _ ho, rfl⟩
  · refine ⟨_, if_pos (by simp [hon]), rfl, s.reg_setReg_same _ _, fun o ho => s.reg_setReg_other _ ho, rfl⟩
  · change execBar2Read 0 s = _ ∧ execBar2Read 4 s = _
    simp [execBar2Read, hon]
  · change execBar2Read off s = _
    rw [execBar2Read_aligned hon hal h0, if_neg (by omega)]
    rfl
  · change execBar2Read off s = _
    rw [execBar2Read_aligned hon hal (by omega), if_pos h1, State.userRead, hfs]
    rfl
  · change execBar2Read off s = _
    rw [execBar2Read_aligned hon hal (by omega), if_pos h1, State.userRead, hfs]
    dsimp only
    rw [if_pos hrd]
  · obtain ⟨r, v, hread, hlow⟩ := State.userRead_on hfs hrd
    refine ⟨{ s with regs := r, bus := .value v }, v, (execBar2Read_aligned hon hal (by omega)).trans ?_, rfl, fun hlt => hlow (by omega)⟩
    rw [if_pos h1, hread]

end Sys2Proof.Machine
end

section
/-! SUPPORT. Writes that are refused (R115, R494). -/

namespace Sys2Proof.Machine

/-! ### The gate of a field of its own behaviour (R494) -/

section Gate
variable {s : State} (hon : s.power.phase = .on) (off : Nat) (k : State → State)
include hon

theorem State.gate_firmware (host : Bool) : s.gate .firmware host off k = k s := if_neg (by simp [hon])

/-- A field that the host may write takes the write of either writer. -/
theorem State.gate_open (by_ : Writer) : s.gate by_ true off k = k s := by
  cases by_
  · exact State.gate_firmware hon off k true
  · exact (if_neg (by simp [hon])).trans (if_pos (by simp))

end Gate

/-! ### A write that reaches no field (R494) -/

/-- A write none of whose fields the writer may write gives nothing. -/
theorem State.writeFields_refused {s : State} {by_ : Writer} {fs : List Fld} (off : Nat) (val : Word)
    (h : ∀ f ∈ fs, s.mayWrite by_ f = false) : s.writeFields by_ off val fs = s := by
  rw [writeFields_eq_foldl]
  induction fs with
  | nil => rfl
  | cons f fs ih =>
    obtain ⟨hf, hfs⟩ := List.forall_mem_cons.1 h
    have hself : s.giveField by_ off val s f = s := by rw [giveField, given_none hf]
    rw [List.foldl_cons, hself, ih hfs]

/-- The registers of a Tally block whose writes reach Tally have a field that the host may write. -/
theorem exists_host_field_of_tally {off : Nat} {fs : List Fld} (hfs : regFields off = some fs) (hal : off % 4 = 0)
    (hb : off / 0x1000000 = 3) (ho : 0x10000 ≤ off % 0x1000000)
    (hr : off % 0x1000000 % 0x10000 = 4 ∨ 0x100 ≤ off % 0x1000000 % 0x10000 ∧ off % 0x1000000 % 0x10000 < 0x140) :
    ∃ f ∈ fs, f.host = true := by
  have hfs' : tlyFields (off % 0x1000000) = some fs := by simpa [regFields, hb] using hfs
  rw [tlyFields, if_neg (by omega)] at hfs'
  split at hfs'
  · rw [tlyBlockFields] at hfs'
    rcases hr with hr | ⟨hlo, hhi⟩
    · rw [if_neg (by omega), if_pos hr] at hfs'
      exact ⟨fW1c 15 0, by simp [← Option.some.inj hfs'], rfl⟩
    · rw [if_neg (by omega), if_neg (by omega), if_pos ⟨hlo, hhi, by omega⟩] at hfs'
      exact ⟨fRwH 31 31, by simp [← Option.some.inj hfs'], rfl⟩
  · cases hfs'

theorem exists_host_field_of_lossScale {fs : List Fld} (hfs : regFields (tlrBase 0 + 0x28) = some fs) : ∃ f ∈ fs, f.host = true := by
  have hlist : regFields (tlrBase 0 + 0x28) = some [fRwH 31 16, fRwH 15 8, fRwH 6 0] := by decide
  exact ⟨fRwH 6 0, by simp [← Option.some.inj (hlist.symm.trans hfs)], rfl⟩

/-- A host write of a register none of whose fields the host may write has no further effect. -/
theorem State.afterWrite_refused {s : State} {off : Nat} (val : Word) {fs : List Fld} (hwr : s.hostWr = false) (hal : off % 4 = 0)
    (hfs : regFields off = some fs) (hhost : ∀ f ∈ fs, f.host = false) : s.afterWrite s .host off val = s := by
  have hno : ¬ ∃ f ∈ fs, f.host = true := fun ⟨f, hf, h⟩ => by simp [hhost f hf] at h
  have hcleared : (s.mayWrite .host (fRw 0 0) && !bit val.toNat 0) = false := by simp [mayWrite, fRw, hwr]
  unfold afterWrite
  extract_lets o b cleared
  have hclr : ¬ cleared = true := by simp [cleared, hcleared]
  refine ite_eq_iff'.2 ⟨fun h => ?_, fun _ => ite_eq_iff'.2 ⟨fun h => ?_, fun _ => ite_eq_iff'.2 ⟨fun h => ?_, fun _ =>
    ite_eq_iff'.2 ⟨fun hb => ?_, fun _ => rfl⟩⟩⟩⟩
  · exact absurd (exists_host_field_of_tally hfs hal h.1 h.2.1 (.inl h.2.2)) hno
  · exact absurd (exists_host_field_of_tally hfs hal h.1 h.2.1 (.inr ⟨h.2.2.1, h.2.2.2.1⟩)) hno
  · exact absurd h.2.2.2 hclr
  · refine ite_eq_iff'.2 ⟨fun h => by omega, fun _ => ite_eq_iff'.2 ⟨fun h => ?_, fun _ => ite_eq_iff'.2 ⟨fun h => ?_, fun _ =>
      ite_eq_iff'.2 ⟨fun _ => ?_, fun _ => rfl⟩⟩⟩⟩
    · exact absurd (exists_host_field_of_lossScale (h.1 ▸ hfs)) hno
    · exact absurd h.2.2 hclr
    · exact ite_eq_iff'.2 ⟨fun h0 => if_neg (by omega), fun h0 => if_neg (fun h => h0 h.1)⟩

/-- Where the host may write none of its fields, a host write of a register is at most journalled. -/
theorem State.regWrite_refused {s : State} {off : Nat} (val : Word) {fs : List Fld} (hwr : s.hostWr = false) (hal : off % 4 = 0)
    (hfs : regFields off = some fs) (hmir : isMirror off = false) (hhost : ∀ f ∈ fs, f.host = false) :
    s.regWrite .host off val fs =
      if ∃ f ∈ fs, bits val.toNat f.hi f.lo ≠ bits (s.readReg off).toNat f.hi f.lo then s.ignored off else s := by
  have hmay : ∀ f ∈ fs, s.mayWrite .host f = false := fun f hf => by simp [mayWrite, hhost f hf, hwr]
  rw [regWrite, if_neg (by simp [hmir])]
  dsimp only
  rw [writeFields_refused off val hmay, afterWrite_refused val hwr hal hfs hhost]
  refine if_congr ?_ rfl rfl
  rw [List.any_eq_true]
  refine exists_congr fun f => and_congr_right fun hf => ?_
  simp [fieldRefused, hmay f hf, fieldReads]

/-! ### Clears of a core that is not quiet (R115) -/

/-- A clear by firmware of a core that runs, is stopping or is not quiet is ignored and journalled. -/
theorem State.whenQuiet_refused {s : State} {d p : Nat} (hon : s.power.phase = .on)
    (h : s.coreRun d p = true ∨ (s.core d p).stopping = true ∨ s.quiet d p = false) (f : Core → Core) :
    s.whenQuiet .firmware d p f = s.ignored (coreBase d p + 4) := by
  rw [whenQuiet, gate_firmware hon, if_neg]
  rcases h with h | h | h <;> simp [h]

/-- Settles O4. -/
theorem writesRefused : Obligations.WritesRefused := by
  unfold Obligations.WritesRefused
  refine ⟨fun off val fs s hon hal hwr hfs hmir hhost => ?_, fun d p s hon h => ⟨?_, ?_⟩, fun by_ d p s hrun => ?_⟩
  · refine ⟨_, execRegisterWrite_mapped .host val hon hal hfs, ?_⟩
    rw [State.regWrite_refused val hwr hal hfs hmir hhost]
    obtain ⟨j, hj⟩ := s.ignored_eq off.toNat
    split
    next hdiff =>
      refine ⟨by rw [hj]; rfl, fun _ => rfl, fun hsame => ?_⟩
      obtain ⟨f, hf, hne⟩ := hdiff
      exact absurd (hsame f hf) hne
    next hsame => exact ⟨rfl, fun hdiff => absurd hdiff hsame, fun _ => rfl⟩
  · exact congrArg Host.Outcome.next (State.whenQuiet_refused hon h _)
  · exact congrArg Host.Outcome.next (State.whenQuiet_refused hon h _)
  · exact congrArg Host.Outcome.next (if_pos hrun)

end Sys2Proof.Machine
end

section
/-! SUPPORT. Corrected reads of a core store (R104), the fetch (R366) and the picker: what a rejection, a taken head and the CTRL
instructions leave (R108 to R112, R352). -/

namespace Sys2Proof.Machine

/-! ### Tables that agree but at some keys -/

section SameBut
variable {α : Type} {a b c : Tab α} {l l' : List Nat}

theorem sameBut_refl (a : Tab α) (l : List Nat) : sameBut a a l := fun _ _ => rfl

theorem sameBut_trans (h : sameBut a b l) (h' : sameBut b c l) : sameBut a c l := fun k hk => (h k hk).trans (h' k hk)

theorem sameBut_mono (h : sameBut a b l) (hl : ∀ k ∈ l, k ∈ l') : sameBut a b l' := fun k hk => h k fun hm => hk (hl k hm)

theorem Tab.find?_write_other [DecidableEq α] (d : α) (t : Tab α) {i j : Nat} (v : α) (h : j ≠ i) :
    Tab.find? (Tab.write d t i v) j = Tab.find? t j := by
  unfold Tab.write
  split
  · exact Tab.find?_del_other t h
  · exact Tab.find?_put_other t v h

/-- A write changes a table at its key alone. -/
theorem sameBut_write [DecidableEq α] (d : α) (t : Tab α) (i : Nat) (v : α) (hi : i ∈ l) : sameBut (Tab.write d t i v) t l :=
  fun _ hk => Tab.find?_write_other d t v fun h => hk (h ▸ hi)

theorem read_of_sameBut (h : sameBut a b l) (d : α) {i : Nat} (hi : i ∉ l) : Tab.read d a i = Tab.read d b i := by
  rw [Tab.read, Tab.read, h i hi]

end SameBut

theorem State.cores_setCore (s : State) (d p : Nat) (c : Core) : sameBut (s.setCore d p c).cores s.cores [34 * d + p] :=
  sameBut_write _ _ _ _ (by simp)

theorem State.cores_modCore (s : State) (d p : Nat) (f : Core → Core) : sameBut (s.modCore d p f).cores s.cores [34 * d + p] :=
  s.cores_setCore d p _

theorem State.regs_setReg (s : State) (off : Nat) (v : Word) : sameBut (s.setReg off v).regs s.regs [off] :=
  sameBut_write _ _ _ _ (by simp)

/-! ### Corrected reads of a core store (R104, R441) -/

/-- What corrections in a core's store do: they take error marks of that store away, and change the core's corrected count, the
record of bits set in the edge and the Journal. -/
structure Corrects (d p : Nat) (s t : State) : Prop where
  frame : t = { s with regs := t.regs, recent := t.recent, cores := t.cores, jnl := t.jnl }
  cores : sameBut t.cores s.cores [34 * d + p]
  core : ∃ m, t.core d p = { s.core d p with marks := m }
  regs : sameBut t.regs s.regs [coreBase d p + 0x3C]

theorem Corrects.refl (d p : Nat) (s : State) : Corrects d p s s :=
  ⟨rfl, sameBut_refl _ _, ⟨_, rfl⟩, sameBut_refl _ _⟩

theorem Corrects.trans {d p : Nat} {s t u : State} (h : Corrects d p s t) (h' : Corrects d p t u) : Corrects d p s u := by
  refine ⟨?_, sameBut_trans h'.cores h.cores, ?_, sameBut_trans h'.regs h.regs⟩
  · rw [h'.frame, h.frame]
  · obtain ⟨m, hm⟩ := h.core
    obtain ⟨m', hm'⟩ := h'.core
    exact ⟨m', by rw [hm', hm]⟩

theorem State.corrected_eq (s : State) (e : Err) (count sat : Nat) : ∃ j, s.corrected e count sat = { s with jnl := j } := by
  unfold corrected
  split
  · exact s.journal_eq _ _ _ _
  · exact ⟨s.jnl, rfl⟩

theorem State.storeCorrected_corrects (s : State) (d p w : Nat) : Corrects d p s (s.storeCorrected d p w) := by
  let unmark : Core → Core := fun c => { c with marks := Tab.del c.marks w }
  have hcores := s.cores_modCore d p unmark
  have hcore := s.core_modCore_same d p unmark
  obtain ⟨j, hj⟩ := ((s.modCore d p unmark).countRf (coreBase d p + 0x3C) 15 0 1).corrected_eq
    (Err.of .corrected 0x120 (domCore d p) p)
    (((s.modCore d p unmark).countRf (coreBase d p + 0x3C) 15 0 1).rf (coreBase d p + 0x3C) 15 0) 0xFFFF
  have hregs : sameBut ((s.modCore d p unmark).countRf (coreBase d p + 0x3C) 15 0 1).regs s.regs [coreBase d p + 0x3C] :=
    State.regs_setReg _ _ _
  have ht : s.storeCorrected d p w = { (s.modCore d p unmark).countRf (coreBase d p + 0x3C) 15 0 1 with jnl := j } := hj
  rw [ht]
  exact ⟨rfl, hcores, ⟨_, hcore⟩, hregs⟩

theorem State.foldl_storeCorrected_corrects (d p : Nat) (l : List Nat) (s : State) :
    Corrects d p s (l.foldl (fun t w => t.storeCorrected d p w) s) := by
  induction l generalizing s with
  | nil => exact Corrects.refl d p s
  | cons w l ih => exact (s.storeCorrected_corrects d p w).trans (ih _)

/-! ### Streams of a core -/

@[simp] theorem Core.stream_setStream_same (c : Core) (st : StreamId) (x : Stream) : (c.setStream st x).stream st = x := by
  cases st <;> rfl

@[simp] theorem Core.stream_setStream_other (c : Core) (st : StreamId) (x : Stream) :
    (c.setStream st x).stream (streamOther st) = c.stream (streamOther st) := by cases st <;> rfl

@[simp] theorem Core.setStream_setStream (c : Core) (st : StreamId) (x y : Stream) :
    (c.setStream st x).setStream st y = c.setStream st y := by cases st <;> rfl

theorem Core.setStream_eq (c : Core) (st : StreamId) (x : Stream) :
    c.setStream st x = { c with fwd := (c.setStream st x).fwd, bwd := (c.setStream st x).bwd } := by cases st <;> rfl

@[simp] theorem Core.store_setStream (c : Core) (st : StreamId) (x : Stream) : (c.setStream st x).store = c.store := by
  cases st <;> rfl

/-! ### The fetch (R366) -/

/-- A fetch that is allowed reads the 32 bytes at its address. -/
theorem State.word_fetched {s : State} {d p a : Nat} (ha : a < 2 ^ 22) (hall : s.storeAllowed d p false true (a, 32) = true) :
    (s.fetched d p a).word = BitVec.ofNat 256 ((s.seen d p).store.num a 32) := by
  rw [fetched, if_neg (by simp [hall]; omega)]

/-- The state in which bit errors have arisen in a core's store differs in its error marks alone. -/
theorem State.upset_frame (s : State) (d p : Nat) (l : List (Fin 524288 × Bool)) :
    ∃ m, (if l.isEmpty then s else s.modCore d p (fun c => c.upset l)) = { s with cores := m } ∧ sameBut m s.cores [34 * d + p] ∧
      ∃ k, (if l.isEmpty then s else s.modCore d p (fun c => c.upset l)).core d p = { s.core d p with marks := k } := by
  split
  · exact ⟨s.cores, rfl, sameBut_refl _ _, _, rfl⟩
  · exact ⟨_, rfl, s.cores_modCore d p (fun c => c.upset l), _, s.core_modCore_same d p (fun c => c.upset l)⟩

/-- The stream after a fetch. -/
def Stream.fetch (x : Stream) (e : FetchEntry) : Stream :=
  { x with buf := x.buf ++ [e], fetchAt := x.fetchAt + 32, stopFetch := e.last }

/-- A fetch that may happen appends its entry to the stream, and corrects what it reads. -/
theorem execInstructionFetch_fetches (d : Fin 4) (p : Fin 34) (st : StreamId) (s : State) {u : State} {x : Stream}
    (l : List (Fin 524288 × Bool)) (hu : u = if l.isEmpty then s else s.modCore d.val p.val (fun c => c.upset l))
    (hx : (u.core d.val p.val).stream st = x)
    (hguard : (u.alive && (u.core d.val p.val).active && !(u.core d.val p.val).off && (u.domain (domCore d.val p.val)).awake &&
      u.coreRun d.val p.val && !x.ended && !x.stopFetch && decide (x.buf.length < 8)) = true) :
    ∃ t, execInstructionFetch d p st s l = .next t ∧ Corrects d.val p.val
      (u.setCore d.val p.val ((u.core d.val p.val).setStream st (x.fetch (u.fetched d.val p.val x.fetchAt)))) t := by
  rw [execInstructionFetch]
  dsimp only
  rw [← hu, hx, if_pos hguard]
  refine ⟨_, rfl, ?_⟩
  split
  · exact Corrects.refl _ _ _
  · exact State.foldl_storeCorrected_corrects _ _ _ _

/-- Settles O6: the entry is appended, and the corrections that the read makes leave it. -/
theorem fetchAppends : Obligations.FetchAppends := by
  unfold Obligations.FetchAppends
  intro d p st l s u halive hact hoff hawake hrun hended hstop hbuf hu
  obtain ⟨m, hframe, hcores, k, hcore⟩ := s.upset_frame d.val p.val l
  rw [← hu] at hframe hcore
  have hstream : ∀ i, (u.core d.val p.val).stream i = (s.core d.val p.val).stream i := fun i => by rw [hcore]; cases i <;> rfl
  have halike : u.alive = s.alive ∧ u.domain (domCore d.val p.val) = s.domain (domCore d.val p.val) ∧
      u.coreRun d.val p.val = s.coreRun d.val p.val := by rw [hframe]; exact ⟨rfl, rfl, rfl⟩
  have hallow : ∀ x, u.storeAllowed d.val p.val false true x = s.storeAllowed d.val p.val false true x := fun x => by
    rw [hframe]; rfl
  obtain ⟨h1, h2, h3⟩ := halike
  obtain ⟨t, ht, hc⟩ := execInstructionFetch_fetches d p st s l hu (hstream st) (by
    rw [h1, h2, h3, halive, hawake, hrun, hended, hstop, hcore]
    simp [hact, hoff, hbuf])
  obtain ⟨m', hm'⟩ := hc.core
  have hstream' : ∀ i, (t.core d.val p.val).stream i = ((u.core d.val p.val).setStream st
      (((s.core d.val p.val).stream st).fetch (u.fetched d.val p.val ((s.core d.val p.val).stream st).fetchAt))).stream i := fun i => by
    rw [hm', State.core_setCore_same]; cases i <;> rfl
  refine ⟨t, ht, ?_, fun hall ha => State.word_fetched ha ((hallow _).trans hall), ?_, ?_, ?_, ?_⟩
  · rw [hstream', Core.stream_setStream_same, Stream.fetch]
  · rw [hstream', Core.stream_setStream_other, hstream]
  · rw [hm', State.core_setCore_same]
    exact (Core.store_setStream _ _ _).trans (by rw [hcore])
  · exact sameBut_trans hc.cores (sameBut_trans (u.cores_setCore d.val p.val _) (by rw [hframe]; exact hcores))
  · have hf := hc.frame
    rw [hframe] at hf
    exact hf

end Sys2Proof.Machine
end

section
/-! SUPPORT. What a detected error leaves (R435 to R444): it reaches the Journal, the handling of errors, the step's fault, the egress
queues of ports and the fault registers of links. -/

namespace Sys2Proof.Machine

/-- What errors that are reported reach, and what stands. -/
structure Reported (s t : State) : Prop where
  frame : t = { s with regs := t.regs, recent := t.recent, step := t.step, link := t.link, jnl := t.jnl, fatal := t.fatal,
                       rec_ := t.rec_ }
  regs : ∀ o, (∀ n, o ≠ vlBase n + 0xC) → Tab.find? t.regs o = Tab.find? s.regs o
  step : t.step = { s.step with faulted := t.step.faulted, faultNext := t.step.faultNext, faultRef := t.step.faultRef }
  fatal : t.fatal = { s.fatal with pending := t.fatal.pending, laterSeq := t.fatal.laterSeq }
  rec_ : t.rec_ = { s.rec_ with stage := t.rec_.stage, lost := t.rec_.lost, memoryRegion := t.rec_.memoryRegion,
                                departNeeded := t.rec_.departNeeded }
  link : t.link = { s.link with ports := t.link.ports, msgCount := t.link.msgCount }

theorem Reported.refl (s : State) : Reported s s := ⟨rfl, fun _ _ => rfl, rfl, rfl, rfl, rfl⟩

theorem Reported.trans {s t u : State} (h : Reported s t) (h' : Reported t u) : Reported s u where
  frame := by rw [h'.frame, h.frame]
  regs o ho := (h'.regs o ho).trans (h.regs o ho)
  step := by rw [h'.step, h.step]
  fatal := by rw [h'.fatal, h.fatal]
  rec_ := by rw [h'.rec_, h.rec_]
  link := by rw [h'.link, h.link]

theorem Reported.reg {s t : State} (h : Reported s t) {o : Nat} (ho : ∀ n, o ≠ vlBase n + 0xC) : t.reg o = s.reg o := by
  rw [State.reg, State.reg, Tab.read, Tab.read, h.regs o ho]

theorem Reported.foldl {α : Type} {f : State → α → State} (hf : ∀ s x, Reported s (f s x)) (l : List α) (s : State) :
    Reported s (l.foldl f s) := by
  induction l generalizing s with
  | nil => exact .refl s
  | cons x l ih => exact (hf s x).trans (ih _)

theorem Reported.journal (s : State) (e : Err) (a b c : Bool) : Reported s (s.journal e a b c) := by
  obtain ⟨j, hj⟩ := s.journal_eq e a b c
  rw [hj]
  exact ⟨rfl, fun _ _ => rfl, rfl, rfl, rfl, rfl⟩

theorem Reported.notice (s : State) (e : Err) : Reported s (s.notice e) := .journal s _ _ _ _

/-- A bit is set in the fault register of a link. -/
theorem Reported.linkFault (s : State) (n mask : Nat) : Reported s (s.orReg (vlBase n + 0xC) mask) :=
  ⟨rfl, fun _ ho => State.regs_setReg s _ _ _ (by simpa using ho n), rfl, rfl, rfl, rfl⟩

theorem Reported.enqueueFlits (s : State) (p c : Nat) (fs : List LinkFlit) : Reported s (s.enqueueFlits p c fs) := by
  have hq : ∀ f : Port → Port, Reported s (s.modPort p f) := fun f => ⟨rfl, fun _ _ => rfl, rfl, rfl, rfl, rfl⟩
  unfold State.enqueueFlits
  extract_lets was q s'
  split
  · exact ((hq _).trans (.linkFault _ _ _)).trans (.notice _ _)
  · exact hq _

theorem Reported.sendMsg (s : State) (dst : Nat) (m : Msg) : Reported s (s.sendMsg dst m) := by
  have hcount : Reported s { s with link := { s.link with msgCount := s.link.msgCount + 1 } } := ⟨rfl, fun _ _ => rfl, rfl, rfl, rfl, rfl⟩
  unfold State.sendMsg
  extract_lets c s'
  split
  · exact hcount.trans (.enqueueFlits _ _ _ _)
  · exact (hcount.trans (.linkFault _ _ _)).trans (.notice _ _)

theorem Reported.sendAll (s : State) (transport step fields : Nat) : Reported s (s.sendAll transport step fields) :=
  .foldl (fun s _ => .sendMsg s _ _) _ s

theorem Reported.raiseStepFault (s : State) (seq : Nat) : Reported s (s.raiseStepFault seq) := by
  unfold State.raiseStepFault
  split
  · exact ⟨rfl, fun _ _ => rfl, rfl, rfl, rfl, rfl⟩
  split
  · exact .refl s
  · exact Reported.trans (t := { s with step := { s.step with faulted := true } }) ⟨rfl, fun _ _ => rfl, rfl, rfl, rfl, rfl⟩ (.sendAll _ _ _ _)

theorem Reported.faultBy (s : State) (cls : ErrClass) (region code : Nat) : Reported s (s.faultBy cls region code) := by
  unfold State.faultBy
  split
  · exact ⟨rfl, fun _ _ => rfl, rfl, rfl, rfl, rfl⟩
  · exact .refl s

theorem Reported.act (s : State) (cls : ErrClass) (region code seq addr : Nat) : Reported s (s.act cls region code seq addr) := by
  unfold State.act
  split
  · exact (Reported.faultBy s _ _ _).trans (.raiseStepFault _ _)
  · exact (Reported.raiseStepFault s seq).trans ⟨rfl, fun _ _ => rfl, rfl, rfl, rfl, rfl⟩
  · exact ((Reported.faultBy s _ _ _).trans (.raiseStepFault _ _)).trans ⟨rfl, fun _ _ => rfl, rfl, rfl, rfl, rfl⟩
  · split
    · exact ⟨rfl, fun _ _ => rfl, rfl, rfl, rfl, rfl⟩
    · exact ⟨rfl, fun _ _ => rfl, rfl, rfl, rfl, rfl⟩
  · exact .refl s

theorem Reported.report (s : State) (e : Err) : Reported s (s.report e) := by
  unfold State.report
  extract_lets seq
  split
  · exact .journal _ _ _ _ _
  · exact .journal _ _ _ _ _
  · exact (Reported.journal s _ _ _ _).trans (.act _ _ _ _ _ _)
  · split
    · exact (Reported.journal s _ _ _ _).trans (.act _ _ _ _ _ _)
    · split
      · exact (Reported.journal s _ _ _ _).trans (.act _ _ _ _ _ _)
      · exact .journal _ _ _ _ _
    · exact (Reported.journal s _ _ _ _).trans ⟨rfl, fun _ _ => rfl, rfl, rfl, rfl, rfl⟩
    · exact (Reported.journal s _ _ _ _).trans (.act _ _ _ _ _ _)

theorem Reported.reports (s : State) (es : List Err) : Reported s (s.reports es) := .foldl Reported.report es s

/-! ### Fault bits -/

/-- The mask of a list of bits. -/
def bitMask (bs : List Nat) : Nat := bs.foldl (fun m b => m ||| 2 ^ b) 0

theorem testBit_foldl_or (bs : List Nat) (m i : Nat) :
    (bs.foldl (fun m b => m ||| 2 ^ b) m).testBit i = (m.testBit i || decide (i ∈ bs)) := by
  induction bs generalizing m with
  | nil => simp
  | cons b bs ih =>
    rw [List.foldl_cons, ih, Nat.testBit_or, Nat.testBit_two_pow, Bool.or_assoc, ← Bool.decide_or]
    simp only [List.mem_cons, eq_comm]

theorem testBit_bitMask (bs : List Nat) (i : Nat) : (bitMask bs).testBit i = decide (i ∈ bs) := by
  rw [bitMask, testBit_foldl_or, Nat.zero_testBit, Bool.false_or]

theorem bit_eq_testBit (n i : Nat) : bit n i = n.testBit i := by
  rw [bit, Nat.testBit_eq_decide_div_mod_eq]
  simp [beq_eq_decide]

/-- Setting fault bits and reporting them is setting bits of a register, and what reports reach. -/
theorem State.raiseBits_reported (s : State) (off : Nat) (bs : List Nat) (err : Nat → Err) :
    Reported (s.orReg off (bitMask bs)) (s.raiseBits off bs err) := Reported.reports _ _

/-- A register keeps its bits when others are set in it. -/
theorem State.bit_orReg (s : State) {off mask b : Nat} (hb : b < 32) :
    bit ((s.orReg off mask).reg off).toNat b = (bit (s.reg off).toNat b || mask.testBit b) := by
  rw [reg_orReg_same, BitVec.toNat_or, bit_eq_testBit, bit_eq_testBit, Nat.testBit_or, BitVec.toNat_ofNat, Nat.testBit_mod_two_pow,
    decide_eq_true hb, Bool.true_and]

/-- A fault bit that is raised stands. -/
theorem State.bit_raiseBits (s : State) {off b : Nat} {bs : List Nat} (err : Nat → Err) (hoff : ∀ n, off ≠ vlBase n + 0xC)
    (hb : b < 32) (hmem : b ∈ bs) : bit ((s.raiseBits off bs err).reg off).toNat b = true := by
  rw [(s.raiseBits_reported off bs err).reg hoff, s.bit_orReg hb, testBit_bitMask, decide_eq_true hmem, Bool.or_true]

theorem coreBase_ne_vlFault {d p o : Nat} (n : Nat) (h : coreBase d p + o < 0x30000000) : coreBase d p + o ≠ vlBase n + 0xC := by
  simp only [vlBase]; omega

end Sys2Proof.Machine
end

section
/-! SUPPORT. The picker: what a rejection leaves (R112, R154), what a taken head leaves, and the CTRL instructions (R352). -/

namespace Sys2Proof.Machine

/-! ### Rejection (R112, R154) -/

/-- The picker's edge is the present one or the next: what stands is as it was. -/
theorem State.pickEdge_standing (s : State) (d p : Nat) (st : StreamId) : (s.pickEdge d p st).standing = s.standing := by
  unfold pickEdge
  split
  · exact s.at_standing _
  · rfl

theorem State.halt_halt_cores (s : State) (d p : Nat) : ((s.halt d p).halt d p).core d p = { s.core d p with halted := true } := by
  rw [halt, halt, core_modCore_same, core_modCore_same]

/-- A core fault stops both streams and sets each of its bits; the rest is what reports reach. -/
theorem State.coreFault_reported (s : State) (d p : Nat) (bs : List Nat) :
    Reported ((s.halt d p).orReg (coreBase d p + 0xC) (bitMask bs.dedup)) (s.coreFault d p bs) := raiseBits_reported _ _ _ _

theorem State.ringFault_reported (s : State) (d j : Nat) (bs : List Nat) :
    Reported (s.orReg (ringBase d + 0xC) (bitMask bs.dedup)) (s.ringFault d j bs) := raiseBits_reported _ _ _ _

theorem State.coreFault_cores (s : State) (d p : Nat) (bs : List Nat) : (s.coreFault d p bs).cores = (s.halt d p).cores := by
  rw [(s.coreFault_reported d p bs).frame]; rfl

theorem State.ringFault_cores (s : State) (d j : Nat) (bs : List Nat) : (s.ringFault d j bs).cores = s.cores := by
  rw [(s.ringFault_reported d j bs).frame]; rfl

/-- A ring fault reaches its register and what reports reach. -/
theorem State.ringFault_frame (s : State) (d j : Nat) (bs : List Nat) :
    s.ringFault d j bs = { s with
      regs := (s.ringFault d j bs).regs, recent := (s.ringFault d j bs).recent, step := (s.ringFault d j bs).step,
      link := (s.ringFault d j bs).link, jnl := (s.ringFault d j bs).jnl, fatal := (s.ringFault d j bs).fatal,
      rec_ := (s.ringFault d j bs).rec_ } := (s.ringFault_reported d j bs).frame

/-- A core fault reaches the core, its register and what reports reach. -/
theorem State.coreFault_frame (s : State) (d p : Nat) (bs : List Nat) :
    s.coreFault d p bs = { s with
      cores := (s.coreFault d p bs).cores, regs := (s.coreFault d p bs).regs, recent := (s.coreFault d p bs).recent,
      step := (s.coreFault d p bs).step, link := (s.coreFault d p bs).link, jnl := (s.coreFault d p bs).jnl,
      fatal := (s.coreFault d p bs).fatal, rec_ := (s.coreFault d p bs).rec_ } :=
  (s.coreFault_reported d p bs).frame.trans (by rw [(s.coreFault_reported d p bs).frame]; rfl)

theorem State.bit_coreFault (s : State) (d : Fin 4) (p : Fin 34) {bs : List Nat} {b : Nat} (hb : b < 32) (hmem : b ∈ bs) :
    bit ((s.coreFault d.val p.val bs).reg (coreBase d.val p.val + 0xC)).toNat b = true :=
  State.bit_raiseBits _ _ (fun n => by simp only [coreBase, vlBase]; omega) hb (List.mem_dedup.2 hmem)

theorem State.bit_ringFault (s : State) (d : Fin 4) (j : Nat) {bs : List Nat} {b : Nat} (hb : b < 32) (hmem : b ∈ bs) :
    bit ((s.ringFault d.val j bs).reg (ringBase d.val + 0xC)).toNat b = true :=
  State.bit_raiseBits _ _ (fun n => by simp only [ringBase, vlBase]; omega) hb (List.mem_dedup.2 hmem)

/-- A ring fault leaves every register but its own and the fault registers of links. -/
theorem State.reg_ringFault_other (s : State) {d o : Nat} (j : Nat) (bs : List Nat) (hr : o ≠ ringBase d + 0xC)
    (hv : ∀ n, o ≠ vlBase n + 0xC) : (s.ringFault d j bs).reg o = s.reg o :=
  ((s.ringFault_reported d j bs).reg hv).trans (s.reg_orReg_other _ hr)

theorem State.reg_coreFault_other (s : State) {d p o : Nat} (bs : List Nat) (hr : o ≠ coreBase d p + 0xC)
    (hv : ∀ n, o ≠ vlBase n + 0xC) : (s.coreFault d p bs).reg o = s.reg o :=
  ((s.coreFault_reported d p bs).reg hv).trans (State.reg_orReg_other _ _ hr)

/-- A rejection stops its core, sets its fault bits, and leaves what the command would change. -/
theorem State.reject_leaves (s : State) (d : Fin 4) (p : Fin 34) (f : List Nat × List Nat) :
    (s.reject d.val p.val f).core d.val p.val = { s.core d.val p.val with halted := true } ∧
    sameBut (s.reject d.val p.val f).cores s.cores [34 * d.val + p.val] ∧
    (∀ b ∈ f.1, b < 32 → bit ((s.reject d.val p.val f).reg (coreBase d.val p.val + 0xC)).toNat b = true) ∧
    s.reject d.val p.val f = { s with
      cores := (s.reject d.val p.val f).cores, regs := (s.reject d.val p.val f).regs, recent := (s.reject d.val p.val f).recent,
      step := (s.reject d.val p.val f).step, link := (s.reject d.val p.val f).link, jnl := (s.reject d.val p.val f).jnl,
      fatal := (s.reject d.val p.val f).fatal, rec_ := (s.reject d.val p.val f).rec_ } := by
  unfold reject
  have hcores : (((s.halt d.val p.val).coreFault d.val p.val f.1).ringFault d.val p.val f.2).cores =
      ((s.halt d.val p.val).halt d.val p.val).cores := by rw [ringFault_cores, coreFault_cores]
  refine ⟨?_, ?_, fun b hb h32 => ?_, ?_⟩
  · rw [State.core, hcores]
    exact s.halt_halt_cores d.val p.val
  · rw [hcores]
    exact sameBut_trans (State.cores_modCore _ _ _ _) (s.cores_modCore _ _ _)
  · rw [State.reg_ringFault_other _ _ _ (by simp only [coreBase, ringBase]; omega) (fun n => by simp only [coreBase, vlBase]; omega)]
    exact State.bit_coreFault _ d p h32 hb
  · have h1 := (s.halt d.val p.val).coreFault_frame d.val p.val f.1
    have h2 := ((s.halt d.val p.val).coreFault d.val p.val f.1).ringFault_frame d.val p.val f.2
    generalize (s.halt d.val p.val).coreFault d.val p.val f.1 = t at h1 h2 ⊢
    generalize t.ringFault d.val p.val f.2 = u at h2 ⊢
    rw [h2, h1]
    rfl

/-- Every command that issues a head looks at the head of its stream for its own class and opcode. -/
theorem exec_streamInsn : ∀ x ∈ streamInsns, ∀ (d : Fin 4) (p : Fin 34) (st : StreamId) (s : State),
    ∃ f, exec (x.2 d p st) s = .next (s.issue d.val p.val st (isInsn x.1.1 x.1.2) f) := by
  simp only [streamInsns, rowInsns, depInsns, memInsns, List.map_cons, List.map_nil, List.cons_append, List.nil_append,
    List.forall_mem_cons, List.not_mem_nil, false_implies, implies_true, and_true]
  and_intros <;> exact fun d p st s => ⟨_, rfl⟩

/-- Settles O8. -/
theorem headsRejectedOrHeld : Obligations.HeadsRejectedOrHeld := by
  unfold Obligations.HeadsRejectedOrHeld
  refine ⟨fun x hx d p st s u e hu hhead hbad hf => ?_, fun x hx d p st s u hu => ⟨fun hnone => ?_, fun e hhead ho hue hok => ⟨fun hmine => ?_, fun hf hw => ?_⟩⟩⟩
  all_goals obtain ⟨f, hexec⟩ := exec_streamInsn x hx d p st s
  all_goals subst hu
  · obtain ⟨hcore, hcores, hbits, hframe⟩ := (s.pickEdge d.val p.val st).reject_leaves d p ((s.pickEdge d.val p.val st).headFaults d.val p.val e)
    have hstand := fun {α : Type} (g : State → α) => State.standing_get (s.pickEdge_standing d.val p.val st) g
    refine ⟨_, hexec.trans (congrArg _ (State.issue_reject hhead hbad hf)), ?_, hbits, hcore, hcores, ?_, ?_, ?_, ?_, ?_, ?_, ?_⟩
    · rw [hcore]
    all_goals rw [hframe]
    · exact hstand State.mem
    · exact hstand State.dep
    · exact hstand State.rings
    · exact hstand State.dies
    · exact hstand State.mint
    · exact hstand State.outer
  · rw [hexec, State.issue_none hnone]
  · rw [hexec, State.issue_other hhead ho hue hok hmine]
  · rw [hexec, State.issue_waits hhead hf hw]

/-! ### The CTRL instructions (R352) -/

/-- A write over a value that is listed leaves nothing of it. -/
theorem Tab.write_write_same {α : Type} [DecidableEq α] {d : α} (t : Tab α) (i : Nat) {v : α} (w : α) (hv : v ≠ d) :
    Tab.write d (Tab.write d t i v) i w = Tab.write d t i w := by
  have hdel : Tab.del (Tab.put t i v) i = Tab.del t i := by
    induction t with
    | nil => simp [Tab.put, Tab.del]
    | cons q t ih =>
      obtain ⟨k, x⟩ := q
      unfold Tab.del at ih ⊢
      simp only [Tab.put]
      split
      · simp
      · split
        next heq => simp [heq]
        next hne => rw [List.filter_cons, List.filter_cons, ih]
  have hput : Tab.put (Tab.put t i v) i w = Tab.put t i w := by
    clear hdel
    induction t with
    | nil => simp [Tab.put]
    | cons q t ih =>
      obtain ⟨k, x⟩ := q
      by_cases hlt : i < k
      · simp [Tab.put, hlt]
      · by_cases heq : i = k
        · simp [Tab.put, heq]
        · simp [Tab.put, hlt, heq, ih]
  rw [Tab.write, Tab.write, Tab.write, if_neg hv, hdel, hput]

theorem State.setCore_setCore (s : State) (d p : Nat) {x : Core} (y : Core) (hx : x ≠ {}) :
    (s.setCore d p x).setCore d p y = s.setCore d p y := by
  simp only [setCore, Tab.write_write_same _ _ _ hx]

/-- A core whose stream has issued is listed. -/
theorem Core.setStream_issued_ne (c : Core) (st : StreamId) (x : Stream) (w edge : Nat) : c.setStream st (x.issued w edge) ≠ {} := by
  intro h
  have hst := congrArg (fun c => (c.stream st).issuedAt) h
  rw [Core.stream_setStream_same] at hst
  cases st <;> simp [Stream.issued, Core.stream] at hst

/-- The state after a head has been taken and its stream has changed further. -/
theorem State.took_modStream (s : State) (d p : Nat) (st : StreamId) (w : Nat) (f : Stream → Stream) :
    ∃ j t, (s.took d p st w).modStream d p st f =
      { s.setCore d p ((s.core d p).setStream st (f (((s.core d p).stream st).issued w s.edge))) with jnl := j, tally := t } := by
  obtain ⟨j, t, h⟩ := s.took_eq d p st w
  refine ⟨j, t, ?_⟩
  have hset := s.setCore_setCore d p ((s.core d p).setStream st (f (((s.core d p).stream st).issued w s.edge)))
    ((s.core d p).setStream_issued_ne st ((s.core d p).stream st) w s.edge)
  have hcore : (s.took d p st w).core d p = (s.core d p).setStream st (((s.core d p).stream st).issued w s.edge) := by
    rw [h]
    exact s.core_setCore_same d p _
  rw [modStream, modCore, hcore, Core.stream_setStream_same, Core.setStream_setStream, ← hset, h]
  rfl

theorem isInsn_of_mayIssue {s : State} {d p : Nat} {st : StreamId} {cls op w : Nat} (h : s.mayIssue d p st cls op w) :
    isInsn cls op w = true := by
  obtain ⟨-, e, -, rfl, -, -, -, hm, -⟩ := h
  exact hm

/-- A command whose head may issue takes the head and runs its effect. -/
theorem State.issue_mayIssue {s : State} {d p : Nat} {st : StreamId} {cls op w : Nat} (h : s.mayIssue d p st cls op w)
    (f : State → Nat → State) : s.issue d p st (isInsn cls op) f = f (s.took d p st w) w :=
  State.issue_taken h (isInsn_of_mayIssue h)

/-- Settles O7: the head is taken, and the instruction changes its stream further. -/
theorem ctrlIssues : Obligations.CtrlIssues := by
  unfold Obligations.CtrlIssues
  intro d p st s w x hx
  subst hx
  refine ⟨fun h => ?_, fun h => ?_, fun h => ?_, fun h => ?_, fun h => ?_⟩
  all_goals refine ⟨_, congrArg Host.Outcome.next (State.issue_mayIssue h _), ?_⟩
  · obtain ⟨j, t, ht⟩ := s.took_eq d.val p.val st w
    rw [ht]
  · obtain ⟨j, t, ht⟩ := s.took_modStream d.val p.val st w
      (fun x => { x with wait := some (ctrlMark w), waited := x.waited ++ [ctrlMark w] })
    rw [ht]
  · obtain ⟨j, t, ht⟩ := s.took_modStream d.val p.val st w (fun x => { x with barrier := true })
    have hedge : (s.took d.val p.val st w).edge = s.edge := by
      obtain ⟨j, t, ht⟩ := s.took_eq d.val p.val st w
      rw [ht]; rfl
    rw [ht, hedge]
    exact ⟨rfl, sameBut_write _ _ _ _ (by simp), Tab.read_write_same _ _ _ _⟩
  · have hstep : (s.took d.val p.val st w).step = s.step := by
      obtain ⟨j, t, ht⟩ := s.took_eq d.val p.val st w
      rw [ht]; rfl
    rw [hstep]
    split
    · obtain ⟨j, t, ht⟩ := s.took_eq d.val p.val st w
      rw [ht]
    · obtain ⟨j, t, ht⟩ := s.took_modStream d.val p.val st w (fun x => x.skip (ctrlSkip w))
      rw [ht]
      rfl
  · obtain ⟨j, t, ht⟩ := s.took_modStream d.val p.val st w (fun x => { x with ended := true, buf := [] })
    rw [ht]

end Sys2Proof.Machine
end

section
/-! SUPPORT. Reads of a core store (R104), and the ROW instructions (R101, R357 to R359): their results, and what they leave. -/

namespace Sys2Proof.Machine

/-! ### Reads of a core store (R104) -/

/-- What reads of a core's store reach: corrections there, and where one is uncorrectable a core fault. -/
structure StoreReads (d p : Nat) (s t : State) : Prop where
  frame : t = { s with regs := t.regs, recent := t.recent, cores := t.cores, step := t.step, link := t.link, jnl := t.jnl,
                       fatal := t.fatal, rec_ := t.rec_ }
  cores : sameBut t.cores s.cores [34 * d + p]
  core : ∃ m h, t.core d p = { s.core d p with marks := m, halted := h }

theorem StoreReads.refl (d p : Nat) (s : State) : StoreReads d p s s := ⟨rfl, sameBut_refl _ _, _, _, rfl⟩

theorem StoreReads.trans {d p : Nat} {s t u : State} (h : StoreReads d p s t) (h' : StoreReads d p t u) : StoreReads d p s u := by
  refine ⟨by rw [h'.frame, h.frame], sameBut_trans h'.cores h.cores, ?_⟩
  obtain ⟨m, k, hc⟩ := h.core
  obtain ⟨m', k', hc'⟩ := h'.core
  exact ⟨m', k', by rw [hc', hc]⟩

theorem Corrects.storeReads {d p : Nat} {s t : State} (h : Corrects d p s t) : StoreReads d p s t := by
  obtain ⟨m, hm⟩ := h.core
  exact ⟨by rw [h.frame], h.cores, m, _, hm⟩

theorem State.coreFault_storeReads (s : State) (d p : Nat) (bs : List Nat) : StoreReads d p s (s.coreFault d p bs) := by
  refine ⟨s.coreFault_frame d p bs, ?_, (s.core d p).marks, true, ?_⟩
  · rw [coreFault_cores]
    exact s.cores_modCore d p _
  · rw [core, coreFault_cores]
    exact s.core_modCore_same d p _

theorem State.storeRead_storeReads (s : State) (d p a n : Nat) : StoreReads d p s (s.storeRead d p a n) := by
  have hc := (foldl_storeCorrected_corrects d p ((s.seen d p).marked a n false) s).storeReads
  unfold storeRead
  dsimp only
  split
  · exact hc.trans (coreFault_storeReads _ d p _)
  · exact hc

theorem State.foldl_storeRead_storeReads (d p : Nat) (l : List (Nat × Nat)) (s : State) :
    StoreReads d p s (l.foldl (fun s r => s.storeRead d p r.1 r.2) s) := by
  induction l generalizing s with
  | nil => exact .refl d p s
  | cons r l ih => exact (s.storeRead_storeReads d p r.1 r.2).trans (ih _)

/-- A read without an uncorrectable word only corrects. -/
theorem State.storeRead_corrects {s : State} {d p a n : Nat} (h : (s.seen d p).readsUe a n = false) :
    Corrects d p s (s.storeRead d p a n) := by
  unfold storeRead
  dsimp only
  rw [if_neg (by simp [h])]
  exact foldl_storeCorrected_corrects _ _ _ _

/-! ### What corrections leave of the error marks -/

theorem State.core_storeCorrected (s : State) (d p w : Nat) :
    (s.storeCorrected d p w).core d p = { s.core d p with marks := Tab.del (s.core d p).marks w } := by
  let unmark : Core → Core := fun c => { c with marks := Tab.del c.marks w }
  obtain ⟨j, hj⟩ := ((s.modCore d p unmark).countRf (coreBase d p + 0x3C) 15 0 1).corrected_eq
    (Err.of .corrected 0x120 (domCore d p) p)
    (((s.modCore d p unmark).countRf (coreBase d p + 0x3C) 15 0 1).rf (coreBase d p + 0x3C) 15 0) 0xFFFF
  have ht : s.storeCorrected d p w = { (s.modCore d p unmark).countRf (coreBase d p + 0x3C) 15 0 1 with jnl := j } := hj
  rw [ht]
  exact s.core_modCore_same d p unmark

/-- Corrections take away the marks of the words corrected. -/
theorem State.core_foldl_storeCorrected (d p : Nat) (l : List Nat) (s : State) :
    (l.foldl (fun t w => t.storeCorrected d p w) s).core d p =
      { s.core d p with marks := (s.core d p).marks.filter (fun m => decide (m.1 ∉ l)) } := by
  induction l generalizing s with
  | nil => simp
  | cons w l ih =>
    rw [List.foldl_cons, ih, core_storeCorrected]
    simp only [Tab.del, List.filter_filter, List.mem_cons, not_or, Bool.decide_and, bne, beq_eq_decide, decide_not, Bool.and_comm]

/-- The marks that a read finds, in the words of a range. -/
theorem Core.readsUe_iff {c : Core} {a n : Nat} :
    c.readsUe a n = true ↔ ∃ m ∈ c.marks, a / 8 ≤ m.1 ∧ 8 * m.1 < a + n ∧ m.2 = true := by
  simp [readsUe, marked, List.filter_eq_nil_iff, and_assoc]

theorem Core.mem_marked {c : Core} {a n w : Nat} {ue : Bool} :
    w ∈ c.marked a n ue ↔ (w, ue) ∈ c.marks ∧ a / 8 ≤ w ∧ 8 * w < a + n := by
  simp [marked, and_comm, and_left_comm]

/-- A core whose store was written in an edge shows the marks that stood before; another shows its own. -/
theorem Core.was_cases (c : Core) (edge : Nat) :
    (∃ m k, ∀ x : Tab Bool, ({ c with marks := x } : Core).was edge = { c with store := m, marks := k }) ∨
    ∀ x : Tab Bool, ({ c with marks := x } : Core).was edge = { c with marks := x } := by
  obtain hb | ⟨⟨e, m, k⟩, hb⟩ := Option.eq_none_or_eq_some c.before
  · exact .inr fun x => by simp [was, hb]
  · by_cases he : e = edge
    · exact .inl ⟨m, k, fun x => by simp [was, hb, he]⟩
    · exact .inr fun x => by simp [was, hb, he]

/-- Corrections of a read that finds no uncorrectable word leave what every other read finds uncorrectable. -/
theorem State.readsUe_storeRead {s : State} {d p a n : Nat} (h : (s.seen d p).readsUe a n = false) (a' n' : Nat) :
    ((s.storeRead d p a n).seen d p).readsUe a' n' = (s.seen d p).readsUe a' n' := by
  have hread : s.storeRead d p a n = ((s.seen d p).marked a n false).foldl (fun t w => t.storeCorrected d p w) s := by
    unfold storeRead
    dsimp only
    rw [if_neg (by simp [h])]
  have hedge : (s.storeRead d p a n).edge = s.edge := by rw [(storeRead_corrects h).frame]
  rw [seen, hedge, hread, core_foldl_storeCorrected, seen] at *
  obtain ⟨m, k, hw⟩ | hw := (s.core d p).was_cases s.edge
  · rw [hw, ← hw (s.core d p).marks]
  · have hself : (s.core d p).was s.edge = s.core d p := hw (s.core d p).marks
    rw [hself] at h ⊢
    rw [hw, Bool.eq_iff_iff, Core.readsUe_iff, Core.readsUe_iff]
    constructor
    · rintro ⟨x, hx, hrange⟩
      exact ⟨x, (List.mem_filter.1 hx).1, hrange⟩
    · rintro ⟨⟨w, ue⟩, hx, hlo, hhi, rfl⟩
      refine ⟨(w, true), List.mem_filter.2 ⟨hx, decide_eq_true fun hmem => ?_⟩, hlo, hhi, rfl⟩
      obtain ⟨-, hlo', hhi'⟩ := Core.mem_marked.1 hmem
      rw [Bool.eq_false_iff] at h
      exact h (Core.readsUe_iff.2 ⟨(w, true), hx, hlo', hhi', rfl⟩)

/-- Reads none of which finds an uncorrectable word only correct. -/
theorem State.foldl_storeRead_corrects {d p : Nat} {l : List (Nat × Nat)} {s : State}
    (h : ∀ r ∈ l, (s.seen d p).readsUe r.1 r.2 = false) : Corrects d p s (l.foldl (fun s r => s.storeRead d p r.1 r.2) s) := by
  induction l generalizing s with
  | nil => exact .refl d p s
  | cons r l ih =>
    obtain ⟨hr, hl⟩ := List.forall_mem_cons.1 h
    exact (storeRead_corrects hr).trans (ih fun x hx => by rw [readsUe_storeRead hr, hl x hx])

theorem Corrects.reg {d p : Nat} {s t : State} (h : Corrects d p s t) {o : Nat} (ho : o ≠ coreBase d p + 0x3C) : t.reg o = s.reg o := by
  rw [State.reg, State.reg, Tab.read, Tab.read, h.regs o (by simpa using ho)]

/-- A bit of CORE_FAULT stays set through reads. -/
theorem State.bit_coreFault_storeRead (s : State) (d : Fin 4) (p : Fin 34) (a n : Nat) {b : Nat} (hb : b < 32)
    (h : bit (s.reg (coreBase d.val p.val + 0xC)).toNat b = true) :
    bit ((s.storeRead d.val p.val a n).reg (coreBase d.val p.val + 0xC)).toNat b = true := by
  have hc := foldl_storeCorrected_corrects d.val p.val ((s.seen d.val p.val).marked a n false) s
  unfold storeRead
  dsimp only
  split
  · rw [(State.coreFault_reported _ _ _ _).reg (fun n => by simp only [coreBase, vlBase]; omega), State.bit_orReg _ hb]
    have hreg := hc.reg (o := coreBase d.val p.val + 0xC) (by omega)
    rw [← hreg] at h
    exact Bool.or_eq_true_iff.2 (.inl h)
  · rw [hc.reg (by omega), h]

/-- Reads one of which finds an uncorrectable word set STORE_UE. -/
theorem State.foldl_storeRead_ue (d : Fin 4) (p : Fin 34) {l : List (Nat × Nat)} {s : State}
    (h : bit (s.reg (coreBase d.val p.val + 0xC)).toNat cfUe = true ∨ ∃ r ∈ l, (s.seen d.val p.val).readsUe r.1 r.2 = true) :
    bit ((l.foldl (fun s r => s.storeRead d.val p.val r.1 r.2) s).reg (coreBase d.val p.val + 0xC)).toNat cfUe = true := by
  induction l generalizing s with
  | nil => simpa using h
  | cons r l ih =>
    refine ih ?_
    rcases h with h | ⟨x, hx, hue⟩
    · exact .inl (s.bit_coreFault_storeRead d p _ _ (by decide) h)
    · cases hr : (s.seen d.val p.val).readsUe r.1 r.2 with
      | true =>
        left
        unfold storeRead
        dsimp only
        rw [if_pos hr]
        exact State.bit_coreFault _ d p (by decide) (by simp)
      | false =>
        right
        refine ⟨x, (List.mem_cons.1 hx).resolve_left (fun he => by simp [← he, hue] at hr), ?_⟩
        rw [State.readsUe_storeRead hr, hue]

/-! ### Parts of a core that an operation leaves (R98, R105, R359) -/

theorem Core.acc_modArray {f : Array → Array} (hf : ∀ a, (f a).acc = a.acc) (c : Core) (i j : Nat) :
    ((c.modArray i f).array j).acc = (c.array j).acc := by
  unfold modArray setArray array
  split_ifs <;> simp_all

@[simp] theorem Core.setArray_store (c : Core) (i : Nat) (a : Array) : (c.setArray i a).store = c.store := by
  unfold setArray; split_ifs <;> rfl
@[simp] theorem Core.setArray_rowRegs (c : Core) (i : Nat) (a : Array) : (c.setArray i a).rowRegs = c.rowRegs := by
  unfold setArray; split_ifs <;> rfl

@[simp] theorem Core.note_store (c : Core) (e : Nat) : (c.note e).store = c.store := by unfold note; split_ifs <;> rfl
@[simp] theorem Core.note_rowRegs (c : Core) (e : Nat) : (c.note e).rowRegs = c.rowRegs := by unfold note; split_ifs <;> rfl
@[simp] theorem Core.note_array (c : Core) (e i : Nat) : (c.note e).array i = c.array i := by unfold note; split_ifs <;> rfl

@[simp] theorem Core.holdPort_store (c : Core) (now a b : Nat) : (c.holdPort now a b).store = c.store := by
  unfold holdPort; split_ifs <;> rfl
@[simp] theorem Core.holdPort_rowRegs (c : Core) (now a b : Nat) : (c.holdPort now a b).rowRegs = c.rowRegs := by
  unfold holdPort; split_ifs <;> rfl
@[simp] theorem Core.holdPort_array (c : Core) (now a b i : Nat) : (c.holdPort now a b).array i = c.array i := by
  unfold holdPort; split_ifs <;> rfl

@[simp] theorem Core.releaseOperand_store (c : Core) (u : Use) : (c.releaseOperand u).store = c.store := by
  unfold releaseOperand modArray; split <;> simp
@[simp] theorem Core.releaseOperand_rowRegs (c : Core) (u : Use) : (c.releaseOperand u).rowRegs = c.rowRegs := by
  unfold releaseOperand modArray; split <;> simp
@[simp] theorem Core.releaseOperand_acc (c : Core) (u : Use) (i : Nat) : ((c.releaseOperand u).array i).acc = (c.array i).acc := by
  unfold releaseOperand
  split
  · exact c.acc_modArray (fun a => by rfl) _ i
  · rfl

/-- Releases of accumulator rows leave what a core holds. -/
theorem Core.foldl_releaseOperand_keeps (us : List Use) (c : Core) :
    (us.foldl releaseOperand c).store = c.store ∧ (us.foldl releaseOperand c).rowRegs = c.rowRegs ∧
    ∀ i, ((us.foldl releaseOperand c).array i).acc = (c.array i).acc := by
  induction us generalizing c with
  | nil => simp
  | cons u us ih => simpa using ih (c.releaseOperand u)

@[simp] theorem Core.putOperand_array (c : Core) (o : Operand) (bs : List Byte) (i : Nat) :
    (c.putOperand o bs).array i = c.array i := by
  unfold putOperand; split_ifs <;> rfl

theorem Core.putOperand_store_congr {c c' : Core} (h : c.store = c'.store) (o : Operand) (bs : List Byte) :
    (c.putOperand o bs).store = (c'.putOperand o bs).store := by
  unfold putOperand; split_ifs <;> simp [write, h]

theorem Core.putOperand_rowRegs_congr {c c' : Core} (h : c.rowRegs = c'.rowRegs) (o : Operand) (bs : List Byte) :
    (c.putOperand o bs).rowRegs = (c'.putOperand o bs).rowRegs := by
  unfold putOperand; split_ifs <;> simp [write, h]

/-! ### What a taken head leaves readable -/

theorem Core.was_setStream (c : Core) (st : StreamId) (x : Stream) (e : Nat) : (c.setStream st x).was e = (c.was e).setStream st x := by
  obtain hb | ⟨⟨e', m, k⟩, hb⟩ := Option.eq_none_or_eq_some c.before
  · cases st <;> simp [was, setStream, hb]
  · by_cases he : e' = e <;> cases st <;> simp [was, setStream, hb, he]

@[simp] theorem Core.operand_setStream (c : Core) (st : StreamId) (x : Stream) (o : Operand) (w n imm : Nat) :
    (c.setStream st x).operand o w n imm = c.operand o w n imm := by
  cases st <;> rfl

@[simp] theorem Core.readsUe_setStream (c : Core) (st : StreamId) (x : Stream) (a n : Nat) :
    (c.setStream st x).readsUe a n = c.readsUe a n := by
  cases st <;> rfl

theorem State.seen_took (s : State) (d p : Nat) (st : StreamId) (w : Nat) :
    (s.took d p st w).seen d p = (s.seen d p).setStream st (((s.core d p).stream st).issued w s.edge) := by
  obtain ⟨j, t, h⟩ := s.took_eq d p st w
  have hcore : (s.took d p st w).core d p = (s.core d p).setStream st (((s.core d p).stream st).issued w s.edge) := by
    rw [h]; exact s.core_setCore_same d p _
  have hedge : (s.took d p st w).edge = s.edge := by rw [h]; rfl
  rw [seen, hcore, hedge, Core.was_setStream, seen]

/-- The results of a ROW instruction rest on the stores and arrays alone, not on the streams. -/
theorem State.rowResult_took (s : State) (d p : Nat) (st : StreamId) (w : Nat) (x : RowI) :
    (s.took d p st w).rowResult d p x = s.rowResult d p x := by
  have hmint : (s.took d p st w).mint = s.mint := by
    obtain ⟨j, t, h⟩ := s.took_eq d p st w
    rw [h]; rfl
  simp only [rowResult, rowCvt, narrowRow, rowMode, mintMode, seen_took, Core.operand_setStream, hmint]

/-- A ROW instruction has left its stream and entered the row unit's queue: what its core then still holds. -/
structure RowEntered (d p : Nat) (s t : State) : Prop where
  frame : t = { s with cores := t.cores, jnl := t.jnl, tally := t.tally }
  cores : sameBut t.cores s.cores [34 * d + p]
  core : ∃ a b q e, t.core d p = { s.core d p with fwd := a, bwd := b, rowQueue := q, rowDone := e }

theorem State.rowEnter_entered (s : State) (d p : Nat) (st : StreamId) (w n lanes latency b ev unit v : Nat) :
    RowEntered d p s (((s.took d p st w).setCore d p
      (((s.took d p st w).core d p).rowEnter (s.took d p st w).edge n lanes latency).1).count b ev unit v) := by
  obtain ⟨j, t, h⟩ := s.took_eq d p st w
  have hcore : (s.took d p st w).core d p = (s.core d p).setStream st (((s.core d p).stream st).issued w s.edge) := by
    rw [h]; exact s.core_setCore_same d p _
  have hcores : sameBut (s.took d p st w).cores s.cores [34 * d + p] := by rw [h]; exact s.cores_setCore d p _
  obtain ⟨u, hu⟩ := ((s.took d p st w).setCore d p
    (((s.took d p st w).core d p).rowEnter (s.took d p st w).edge n lanes latency).1).count_eq b ev unit v
  have hentered : ∃ a b q e, (((s.took d p st w).core d p).rowEnter (s.took d p st w).edge n lanes latency).1 =
      { s.core d p with fwd := a, bwd := b, rowQueue := q, rowDone := e } := by
    rw [hcore]
    cases st <;> exact ⟨_, _, _, _, rfl⟩
  obtain ⟨x, y, q, e, hx⟩ := hentered
  rw [hu]
  exact ⟨by rw [h]; rfl, sameBut_trans (State.cores_setCore _ d p _) hcores, x, y, q, e, (State.core_setCore_same _ d p _).trans hx⟩

theorem RowEntered.readsUe {d p : Nat} {s t : State} (h : RowEntered d p s t) (a n : Nat) :
    (t.seen d p).readsUe a n = (s.seen d p).readsUe a n := by
  obtain ⟨x, y, q, e, hc⟩ := h.core
  have hedge : t.edge = s.edge := by rw [h.frame]
  rw [State.seen, State.seen, hc, hedge]
  obtain hb | ⟨⟨e', m, k⟩, hb⟩ := Option.eq_none_or_eq_some (s.core d p).before
  · simp [Core.was, hb, Core.readsUe, Core.marked]
  · by_cases he : e' = s.edge <;> simp [Core.was, hb, he, Core.readsUe, Core.marked]

/-- The entry that a ROW instruction takes in the row unit's queue, with its edges. -/
def RowI.entry (x : RowI) (c : Core) (edge : Nat) : Core × Nat :=
  c.rowEnter edge x.n (rowTiming x.op (x.src?.getD .fp32) (x.dst?.getD .fp32)).1
    (rowTiming x.op (x.src?.getD .fp32) (x.dst?.getD .fp32)).2

/-- A ROW instruction has entered the queue and read its operands. -/
def State.rowOpened (s : State) (d p : Nat) (x : RowI) : State :=
  x.needs.reads.foldl (fun s r => s.storeRead d p r.1 r.2)
    ((s.setCore d p (x.entry (s.core d p) s.edge).1).count (blkCd d) 0x13 p (x.entry (s.core d p) s.edge).2)

/-- What a ROW instruction makes of a core whose operands it has read: results written, rows released, the write port held. -/
def Core.rowWritten (c : Core) (edge : Nat) (x : RowI) (r : RowRes) (a b : Nat) : Core :=
  (x.uses.foldl releaseOperand (((c.note edge).putOperand x.dst r.dst).putOperand x.c r.third)).holdPort edge a b

/-- A ROW instruction one of whose operands reads as uncorrectable stops with its reads (R104). -/
theorem State.rowRun_ue {s : State} {d p : Nat} {x : RowI} (h : ∃ r ∈ x.needs.reads, (s.seen d p).readsUe r.1 r.2 = true) :
    s.rowRun d p x = s.rowOpened d p x :=
  if_pos (List.any_eq_true.2 h)

/-- A ROW instruction whose operands read well writes its results and sets its flags. -/
theorem State.rowRun_good {s : State} {d p : Nat} {x : RowI} (h : ∀ r ∈ x.needs.reads, (s.seen d p).readsUe r.1 r.2 = false) :
    ∃ now a b, s.rowRun d p x =
      (((s.rowOpened d p x).modCore d p (fun c => c.rowWritten now x (s.rowResult d p x) a b)).orReg
        (coreBase d p + 0x10) (s.rowResult d p x).flags).mintAdvance (laneCore d p 4) (s.rowResult d p x).draws := by
  have hany : x.needs.reads.any (fun r => (s.seen d p).readsUe r.1 r.2) = false := by simpa using h
  have hedge : (s.rowOpened d p x).edge = s.edge := by
    rw [rowOpened, (foldl_storeRead_storeReads d p _ _).frame]
    simp
  refine ⟨s.edge, s.edge + (x.entry (s.core d p) s.edge).2 - x.portEdges, s.edge + (x.entry (s.core d p) s.edge).2, ?_⟩
  have hrun : s.rowRun d p x = (((s.rowOpened d p x).modCore d p (fun c => (x.uses.foldl Core.releaseOperand
      (((c.note (s.rowOpened d p x).edge).putOperand x.dst (s.rowResult d p x).dst).putOperand x.c (s.rowResult d p x).third)).holdPort s.edge
        (s.edge + (x.entry (s.core d p) s.edge).2 - x.portEdges) (s.edge + (x.entry (s.core d p) s.edge).2))).orReg
        (coreBase d p + 0x10) (s.rowResult d p x).flags).mintAdvance (laneCore d p 4) (s.rowResult d p x).draws :=
    if_neg (by rw [hany]; exact Bool.false_ne_true)
  rw [hrun, hedge]
  rfl

/-- What a ROW instruction leaves of its core: its store and registers take the results, and accumulator values stay. -/
theorem Core.rowWritten_keeps {c c' : Core} (hstore : c.store = c'.store) (hregs : c.rowRegs = c'.rowRegs)
    (harray : ∀ i, c.array i = c'.array i) (edge : Nat) (x : RowI) (r : RowRes) (a b : Nat) :
    (c.rowWritten edge x r a b).store = ((c'.putOperand x.dst r.dst).putOperand x.c r.third).store ∧
    (c.rowWritten edge x r a b).rowRegs = ((c'.putOperand x.dst r.dst).putOperand x.c r.third).rowRegs ∧
    ∀ i, ((c.rowWritten edge x r a b).array i).acc = (c'.array i).acc := by
  obtain ⟨h1, h2, h3⟩ := foldl_releaseOperand_keeps x.uses (((c.note edge).putOperand x.dst r.dst).putOperand x.c r.third)
  refine ⟨?_, ?_, fun i => ?_⟩
  · rw [rowWritten, holdPort_store, h1]
    exact putOperand_store_congr (putOperand_store_congr (by simpa using hstore) _ _) _ _
  · rw [rowWritten, holdPort_rowRegs, h2]
    exact putOperand_rowRegs_congr (putOperand_rowRegs_congr (by simpa using hregs) _ _) _ _
  · rw [rowWritten, holdPort_array, h3, putOperand_array, putOperand_array, note_array, harray]

/-- The opened instruction has taken its head and entered the queue, and then read. -/
theorem State.rowOpened_took (s : State) (d p : Nat) (st : StreamId) (w : Nat) (x : RowI) :
    ∃ u, RowEntered d p s u ∧ (s.took d p st w).rowOpened d p x = x.needs.reads.foldl (fun s r => s.storeRead d p r.1 r.2) u :=
  ⟨_, s.rowEnter_entered d p st w _ _ _ _ _ _ _, rfl⟩

theorem State.readsUe_took (s : State) (d p : Nat) (st : StreamId) (w a n : Nat) :
    ((s.took d p st w).seen d p).readsUe a n = (s.seen d p).readsUe a n := by
  rw [seen_took, Core.readsUe_setStream]

/-- A head that has been taken and reads well: results, flags, and what stays. -/
theorem State.rowRun_took_good {s : State} (d : Fin 4) (p : Fin 34) (st : StreamId) (w : Nat) {x : RowI}
    (h : ∀ r ∈ x.needs.reads, (s.seen d.val p.val).readsUe r.1 r.2 = false) :
    let t := (s.took d.val p.val st w).rowRun d.val p.val x
    let r := s.rowResult d.val p.val x
    let c := ((s.core d.val p.val).putOperand x.dst r.dst).putOperand x.c r.third
    (∀ i, ((t.core d.val p.val).array i).acc = ((s.core d.val p.val).array i).acc) ∧
    (t.core d.val p.val).rowRegs = c.rowRegs ∧ (t.core d.val p.val).store = c.store ∧
    t.reg (coreBase d.val p.val + 0x10) = s.reg (coreBase d.val p.val + 0x10) ||| BitVec.ofNat 32 r.flags ∧
    sameBut t.cores s.cores [34 * d.val + p.val] ∧
    sameBut t.regs s.regs [coreBase d.val p.val + 0x10, coreBase d.val p.val + 0x3C] ∧
    t = { s with regs := t.regs, recent := t.recent, cores := t.cores, mint := t.mint, jnl := t.jnl, tally := t.tally } := by
  extract_lets t r c
  obtain ⟨now, a, b, ht⟩ := State.rowRun_good (s := s.took d.val p.val st w) (d := d.val) (p := p.val) (x := x)
    (fun q hq => by rw [readsUe_took, h q hq])
  obtain ⟨u, hu, hopen⟩ := s.rowOpened_took d.val p.val st w x
  have hc : Corrects d.val p.val u ((s.took d.val p.val st w).rowOpened d.val p.val x) := by
    rw [hopen]
    exact foldl_storeRead_corrects fun q hq => by rw [hu.readsUe, h q hq]
  rw [rowResult_took] at ht
  obtain ⟨fw, bw, q, e, hcore⟩ := hu.core
  obtain ⟨m, hm⟩ := hc.core
  rw [hcore] at hm
  have hregs : sameBut ((s.took d.val p.val st w).rowOpened d.val p.val x).regs s.regs [coreBase d.val p.val + 0x3C] := by
    have := hc.regs
    rwa [show u.regs = s.regs by rw [hu.frame]] at this
  have hframe := hc.frame
  rw [hu.frame] at hframe
  have hcores := sameBut_trans hc.cores hu.cores
  generalize (s.took d.val p.val st w).rowOpened d.val p.val x = v at *
  have htcore : t.core d.val p.val = (v.core d.val p.val).rowWritten now x r a b := by
    rw [show t = _ from ht]
    exact v.core_modCore_same _ _ (fun c => c.rowWritten now x r a b)
  have harr : ∀ i, (v.core d.val p.val).array i = (s.core d.val p.val).array i := fun i => by rw [hm]; rfl
  obtain ⟨hstore, hrow, hacc⟩ := Core.rowWritten_keeps (c' := s.core d.val p.val) (by rw [hm]) (by rw [hm]) harr now x r a b
  have hreg : v.reg (coreBase d.val p.val + 0x10) = s.reg (coreBase d.val p.val + 0x10) := by
    rw [State.reg, State.reg, Tab.read, Tab.read, hregs _ (by simp)]
  rw [htcore]
  refine ⟨hacc, hrow, hstore, ?_, ?_, ?_, ?_⟩
  · rw [← hreg, show t = _ from ht]
    exact State.reg_orReg_same (v.modCore d.val p.val fun c => c.rowWritten now x r a b) _ _
  · rw [show t = _ from ht]
    exact sameBut_trans (v.cores_modCore d.val p.val fun c => c.rowWritten now x r a b) hcores
  · rw [show t = _ from ht]
    have hset : sameBut (v.orReg (coreBase d.val p.val + 0x10) r.flags).regs v.regs [coreBase d.val p.val + 0x10] := v.regs_setReg _ _
    exact sameBut_trans (sameBut_mono hset (by simp)) (sameBut_mono hregs (by simp))
  · rw [show t = _ from ht, hframe]
    rfl

/-- A head that has been taken and reads an uncorrectable operand: it stops, and what stays. -/
theorem State.rowRun_took_ue {s : State} (d : Fin 4) (p : Fin 34) (st : StreamId) (w : Nat) {x : RowI}
    (h : ∃ r ∈ x.needs.reads, (s.seen d.val p.val).readsUe r.1 r.2 = true) :
    let t := (s.took d.val p.val st w).rowRun d.val p.val x
    (∀ i, ((t.core d.val p.val).array i).acc = ((s.core d.val p.val).array i).acc) ∧
    (t.core d.val p.val).rowRegs = (s.core d.val p.val).rowRegs ∧ (t.core d.val p.val).store = (s.core d.val p.val).store ∧
    bit (t.reg (coreBase d.val p.val + 0xC)).toNat cfUe = true ∧ sameBut t.cores s.cores [34 * d.val + p.val] ∧
    t = { s with regs := t.regs, recent := t.recent, cores := t.cores, step := t.step, link := t.link, jnl := t.jnl,
                 fatal := t.fatal, rec_ := t.rec_, tally := t.tally } := by
  intro t
  obtain ⟨u, hu, hopen⟩ := s.rowOpened_took d.val p.val st w x
  have ht : t = x.needs.reads.foldl (fun s r => s.storeRead d.val p.val r.1 r.2) u := by
    obtain ⟨q, hq, hue⟩ := h
    exact (State.rowRun_ue ⟨q, hq, by rw [readsUe_took, hue]⟩).trans hopen
  have hr := foldl_storeRead_storeReads d.val p.val x.needs.reads u
  have hbit := foldl_storeRead_ue (s := u) d p (l := x.needs.reads) (.inr (by
    obtain ⟨q, hq, hue⟩ := h
    exact ⟨q, hq, by rw [hu.readsUe, hue]⟩))
  rw [← ht] at hr hbit
  obtain ⟨fw, bw, q, e, hcore⟩ := hu.core
  obtain ⟨m, k, hm⟩ := hr.core
  rw [hcore] at hm
  have hframe := hr.frame
  have htally : t.tally = u.tally := by rw [hr.frame]
  rw [hu.frame, ← htally] at hframe
  rw [hm]
  exact ⟨fun i => rfl, rfl, rfl, hbit, sameBut_trans hr.cores hu.cores, hframe⟩

theorem exec_rowInsn : ∀ x ∈ rowInsns, ∀ (d : Fin 4) (p : Fin 34) (st : StreamId) (s : State),
    exec (x.2 d p st) s = .next (s.rowIssue d p st x.1) := by
  simp only [rowInsns, List.forall_mem_cons, List.not_mem_nil, false_implies, implies_true, and_true]
  and_intros <;> exact fun d p st s => rfl

/-- Settles O9: with readable operands the instruction writes its results; with another it stops at its reads. -/
theorem rowResults : Obligations.RowResults := by
  unfold Obligations.RowResults
  intro x hx d p st s w hmay
  refine ⟨_, (exec_rowInsn x hx d p st s).trans (congrArg Host.Outcome.next (State.issue_mayIssue hmay _)), ?_⟩
  by_cases hue : ∃ r ∈ (decRow w).needs.reads, (s.seen d.val p.val).readsUe r.1 r.2 = true
  · have hgood : ¬ ∀ r ∈ (decRow w).needs.reads, (s.seen d.val p.val).readsUe r.1 r.2 = false := fun h => by
      obtain ⟨r, hr, hr'⟩ := hue
      simp [h r hr] at hr'
    obtain ⟨hacc, hrow, hstore, hbit, hcores, hframe⟩ := State.rowRun_took_ue d p st w hue
    generalize (s.took d.val p.val st w).rowRun d.val p.val (decRow w) = t at *
    refine ⟨?_, ?_, ?_, ?_, ?_, hcores, hacc, fun h => absurd h hgood, fun _ => ⟨hrow, hstore, hbit⟩⟩ <;> rw [hframe]
    rfl
  · have hgood : ∀ r ∈ (decRow w).needs.reads, (s.seen d.val p.val).readsUe r.1 r.2 = false := by simpa using hue
    obtain ⟨hacc, hrow, hstore, hflags, hcores, hregs, hframe⟩ := State.rowRun_took_good d p st w hgood
    generalize (s.took d.val p.val st w).rowRun d.val p.val (decRow w) = t at *
    refine ⟨?_, ?_, ?_, ?_, ?_, hcores, hacc, fun _ => ⟨hrow, hstore, hflags, hregs, hframe⟩, fun h => absurd h hue⟩ <;> rw [hframe]
    rfl

end Sys2Proof.Machine
end

section
/-! SUPPORT. Tally (R515, R516, R521, R525). -/

namespace Sys2Proof.Machine

/-! ### Registers written in a row -/

theorem State.reg_foldl_setReg (v : Nat → Word) (l : List Nat) (s : State) (o : Nat) :
    (l.foldl (fun t o => t.setReg o (v o)) s).reg o = if o ∈ l then v o else s.reg o := by
  induction l generalizing s with
  | nil => simp
  | cons a l ih =>
    rw [List.foldl_cons, ih]
    by_cases ho : o = a
    · subst ho; simp
    · simp [ho, s.reg_setReg_other]

theorem State.foldl_setReg_frame (v : Nat → Word) (l : List Nat) (s : State) :
    l.foldl (fun t o => t.setReg o (v o)) s = { s with regs := (l.foldl (fun t o => t.setReg o (v o)) s).regs } := by
  induction l generalizing s with
  | nil => rfl
  | cons a l ih => rw [List.foldl_cons, ih]; rfl

/-! ### Counters -/

/-- Without the keys of a kind, a table reads its default there and its own values elsewhere. -/
theorem Tab.read_filter {α : Type} (d : α) (t : Tab α) (p : Nat → Bool) (i : Nat) :
    Tab.read d (t.filter (fun c => p c.1)) i = if p i then Tab.read d t i else d := by
  unfold Tab.read
  induction t with
  | nil => simp [Tab.find?]
  | cons q t ih =>
    obtain ⟨k, v⟩ := q
    by_cases hk : i = k
    · subst hk
      by_cases hp : p i <;> simp_all [Tab.find?]
    · by_cases hp : p k <;> simp_all [Tab.find?]

/-- The counter wraps from its last value to 0, its overflow bit is set, and the other counters stay (R515). -/
theorem Tally.bump_last {t : Tally} {b k : Nat} (h : Tab.read 0 t.counts (16 * b + k) = 2 ^ 64 - 1) :
    Tab.read 0 (t.bump b k 1).counts (16 * b + k) = 0 ∧ bit (Tab.read 0 (t.bump b k 1).ovf b) k = true ∧
    ∀ i, i ≠ 16 * b + k → Tab.read 0 (t.bump b k 1).counts i = Tab.read 0 t.counts i := by
  have hbump : t.bump b k 1 = { t with counts := Tab.write 0 t.counts (16 * b + k) 0, ovf := Tab.write 0 t.ovf b (Tab.read 0 t.ovf b ||| 2 ^ k) } := by
    simp only [bump, h]
    rfl
  rw [hbump]
  dsimp only
  refine ⟨Tab.read_write_same _ _ _ _, ?_, fun i hi => Tab.read_write_other 0 0 t.counts 0 hi⟩
  rw [Tab.read_write_same, bit_eq_testBit, Nat.testBit_or, Nat.testBit_two_pow_self, Bool.or_true]

/-- The end of a window (R521, R522): each derived register takes the units counted for it. -/
theorem State.windowClose_eq {s : State} (hon : s.power.phase = .on) (hen : s.rf (tlyBase + 4) 0 0 = 1)
    (hwin : s.rf (tlyBase + 8) 16 16 = 1) :
    ∃ t, exec .tallyWindowClose s = .next t ∧ t = { s with regs := t.regs, tally := { s.tally with units := [] } } ∧
      t.reg (tlyBase + 0xC) = s.reg (tlyBase + 0xC) + 1 ∧
      ∀ o ∈ derivedRegs, t.reg o = BitVec.ofNat 32 (min (Tab.read 0 s.tally.units o) 0xFFFFFFFF) := by
  have hcount : tlyBase + 0xC ∉ derivedRegs := by decide
  let v : Nat → Word := fun o => BitVec.ofNat 32 (min (Tab.read 0 s.tally.units o) 0xFFFFFFFF)
  have hreg := State.reg_foldl_setReg v derivedRegs s
  have hframe := State.foldl_setReg_frame v derivedRegs s
  have hexec : exec .tallyWindowClose s = .next
      { (derivedRegs.foldl (fun t o => t.setReg o (v o)) s).setReg (tlyBase + 0xC)
          ((derivedRegs.foldl (fun t o => t.setReg o (v o)) s).reg (tlyBase + 0xC) + 1) with
        tally := { (derivedRegs.foldl (fun t o => t.setReg o (v o)) s).tally with units := [] } } :=
    if_pos (by simp [hon, hen, hwin])
  generalize derivedRegs.foldl (fun t o => t.setReg o (v o)) s = u at *
  refine ⟨_, hexec, ?_, ?_, fun o ho => ?_⟩
  · rw [hframe]
    rfl
  · refine (u.reg_setReg_same _ _).trans ?_
    rw [hreg, if_neg hcount]
  · refine (u.reg_setReg_other _ (ne_of_mem_of_not_mem ho hcount)).trans ?_
    rw [hreg, if_pos ho]

/-- A write of the window's configuration (R525): another value starts a new window. -/
theorem State.winCfg_eq {s : State} (hon : s.power.phase = .on) (by_ : Writer) (v : Word) :
    ∃ t, exec (.tlyWinCfgWrite by_ v) s = .next t ∧ t = { s with regs := t.regs, tally := t.tally } ∧
      (t.reg (tlyBase + 8)).toNat = bits v.toNat 16 0 ∧
      t.tally = if (s.reg (tlyBase + 8)).toNat = bits v.toNat 16 0 then s.tally else { s.tally with units := [] } := by
  have hv : (BitVec.ofNat 32 (bits v.toNat 16 0)).toNat = bits v.toNat 16 0 :=
    (BitVec.toNat_ofNat _ _).trans (Nat.mod_eq_of_lt (bits_lt _ _ _ |>.trans (by decide)))
  refine ⟨_, congrArg Host.Outcome.next (State.gate_open hon _ _ by_), ?_⟩
  dsimp only
  by_cases hsame : s.reg (tlyBase + 8) = BitVec.ofNat 32 (bits v.toNat 16 0)
  · rw [if_pos hsame, s.reg_setReg_same, hv, if_pos (by rw [hsame, hv])]
    exact ⟨rfl, rfl, rfl⟩
  · rw [if_neg hsame, if_neg fun h => hsame (BitVec.eq_of_toNat_eq (by rw [h, hv]))]
    exact ⟨rfl, (congrArg BitVec.toNat (s.reg_setReg_same _ _)).trans hv, rfl⟩

/-- A counter at its last value wraps, and does not wrap again at 0 (R515). -/
theorem State.counterWrap_eq {s : State} {b : Fin 10} {k : Fin 16} (hon : s.power.phase = .on) (hen : s.rf (tlyBase + 4) 0 0 = 1)
    (hfr : s.rf (tlyBase + 4) 2 2 = 0) (hsel : s.rf (tlyBlock b.val + 0x100 + 4 * k.val) 31 31 = 1)
    (hlast : Tab.read 0 s.tally.counts (16 * b.val + k.val) = 2 ^ 64 - 1) :
    ∃ t, exec (.counterWrap b k) s = .next t ∧ t = { s with tally := t.tally, recent := t.recent } ∧
      Tab.read 0 t.tally.counts (16 * b.val + k.val) = 0 ∧ bit (Tab.read 0 t.tally.ovf b.val) k.val = true ∧
      (∀ i, i ≠ 16 * b.val + k.val → Tab.read 0 t.tally.counts i = Tab.read 0 s.tally.counts i) ∧
      exec (.counterWrap b k) t = .next t := by
  obtain ⟨hzero, hovf, hother⟩ := Tally.bump_last hlast
  refine ⟨_, if_pos (by simp [hon, hen, hfr, hsel, hlast]), rfl, hzero, hovf, hother, if_neg fun h => ?_⟩
  simp only [Bool.and_eq_true, beq_iff_eq] at h
  have hmax : Tab.read 0 (s.tally.bump b.val k.val 1).counts (16 * b.val + k.val) = 2 ^ 64 - 1 := h.2
  rw [hzero] at hmax
  exact absurd hmax (by decide)

/-- Settles O57. -/
theorem tallyControls : Obligations.TallyControls := by
  unfold Obligations.TallyControls
  refine ⟨fun s hon hen hwin => State.windowClose_eq hon hen hwin, fun s h => ?_, fun by_ b s hon => ?_, fun by_ f s hon => ?_,
    fun by_ v s hon => ?_, fun b k s hon hen hfr hsel hlast => ?_⟩
  · refine if_neg fun hgo => ?_
    simp only [Bool.and_eq_true, beq_iff_eq] at hgo
    obtain ⟨⟨hon, hen⟩, hwin⟩ := hgo
    rcases h with h | h | h <;> simp_all
  · refine ⟨_, congrArg Host.Outcome.next (State.gate_open hon _ _ by_), rfl, fun i => ?_⟩
    refine (Tab.read_filter 0 s.tally.counts (fun i => i / 16 != b.val) i).trans ?_
    by_cases hi : i / 16 = b.val <;> simp [hi]
  · exact congrArg Host.Outcome.next (State.gate_open hon _ _ by_)
  · exact State.winCfg_eq hon by_ v
  · exact State.counterWrap_eq hon hen hfr hsel hlast

end Sys2Proof.Machine
end

section
/-! SUPPORT. The elementwise operations of the row unit (R78, R358), and elements packed into bytes. -/

namespace Sys2Proof.Machine

/-! ### One and NaNs in the IEEE formats -/

/-- Encoding 1 gives the code of the bias (R51). -/
theorem Fmt.encode_one {f : Fmt} (hf : f.ieee = true) : f.encode .rne oneNum = (f.bias * 2 ^ f.mbits, 0) := by
  revert hf
  cases f <;> decide

/-- An operation that a NaN operand decides delivers the canonical NaN, INVALID with a signalling one (R49, R78). -/
theorem Fmt.deliver_nan_pair {f : Fmt} (hf : f.ieee = true) (mode : Rnd) (x y : Num) :
    f.deliver mode (.nan false, snanFlag [x, y]) = (f.nanCode, if x.isSnan = true ∨ y.isSnan = true then fInvalid else 0) := by
  rw [deliver_nan (ne_i8_of_ieee hf), snanFlag_pair]
  simp

theorem Num.isNan_flip (x : Num) : x.flip.isNan = x.isNan := by cases x <;> rfl
theorem Num.isSnan_flip (x : Num) : x.flip.isSnan = x.isSnan := by cases x <;> rfl

theorem addNum_nan {x y : Num} (mode : Rnd) (h : x.isNan = true ∨ y.isNan = true) : addNum mode x y = (.nan false, snanFlag [x, y]) :=
  if_pos (by simpa using h)

theorem divNum_nan {x y : Num} (h : x.isNan = true ∨ y.isNan = true) : divNum x y = (.nan false, snanFlag [x, y]) :=
  if_pos (by simpa using h)

theorem mulNum_nan {x y : Num} (h : x.isNan = true ∨ y.isNan = true) : mulNum x y = (.nan false, snanFlag [x, y]) := by
  unfold mulNum
  rw [if_neg ?_, if_pos (by simpa using h)]
  cases x <;> cases y <;> simp_all [Num.isNan, Num.isZero, Num.isInf]

/-- Adding a power of two above a number sets its bit. -/
theorem xor_two_pow_of_lt {a k : Nat} (h : a < 2 ^ k) : a ^^^ 2 ^ k = a + 2 ^ k := by
  have hor : a + 2 ^ k = 2 ^ k ||| a := by simpa [Nat.add_comm] using Nat.two_pow_add_eq_or_of_lt h 1
  rw [hor]
  refine Nat.eq_of_testBit_eq fun i => ?_
  rw [Nat.testBit_xor, Nat.testBit_or, Nat.testBit_two_pow]
  by_cases hi : k = i
  · simp [← hi, Nat.testBit_lt_two_pow h]
  · simp [hi]

/-- Inverting the top bit of a code (R49). -/
theorem flip_top_bit {a k : Nat} (h : a < 2 ^ (k + 1)) : (if 2 ^ k ≤ a then a - 2 ^ k else a + 2 ^ k) = a ^^^ 2 ^ k := by
  split
  · next hle =>
    have hlow : a - 2 ^ k < 2 ^ k := by omega
    have hx := xor_two_pow_of_lt hlow
    rw [Nat.sub_add_cancel hle] at hx
    rw [← hx, Nat.xor_assoc, Nat.xor_self, Nat.xor_zero, hx]
  · next hlt => exact (xor_two_pow_of_lt (by omega)).symm

/-! ### Elements packed into bytes -/

theorem length_bytesOfNum (n v : Nat) : (bytesOfNum n v).length = n := by
  induction n generalizing v with
  | zero => rfl
  | succ n ih => simp [bytesOfNum, ih]

theorem numOfBytes_bytesOfNum (n v : Nat) : numOfBytes (bytesOfNum n v) = v % 256 ^ n := by
  induction n generalizing v with
  | zero => simp [bytesOfNum, numOfBytes, Nat.mod_one]
  | succ n ih =>
    rw [bytesOfNum, numOfBytes, ih, BitVec.toNat_ofNat, Nat.pow_succ' (n := n)]
    exact Nat.mod_mul.symm

theorem packElements_lt (w : Nat) (xs : List Nat) : packElements w xs < 2 ^ (w * xs.length) := by
  induction xs with
  | nil => simp [packElements]
  | cons x xs ih =>
    have hx : x % 2 ^ w < 2 ^ w := Nat.mod_lt _ (Nat.two_pow_pos w)
    calc packElements w (x :: xs) < 2 ^ w + 2 ^ w * packElements w xs := by simp only [packElements]; omega
      _ = 2 ^ w * (packElements w xs + 1) := by ring
      _ ≤ 2 ^ w * 2 ^ (w * xs.length) := Nat.mul_le_mul_left _ ih
      _ = 2 ^ (w * (x :: xs).length) := by rw [← Nat.pow_add, List.length_cons]; congr 1; ring

theorem element_packElements (w : Nat) (xs : List Nat) (i : Nat) : element (packElements w xs) w i = xs.getD i 0 % 2 ^ w := by
  induction xs generalizing i with
  | nil => simp [packElements, element]
  | cons x xs ih =>
    have hx : x % 2 ^ w < 2 ^ w := Nat.mod_lt _ (Nat.two_pow_pos w)
    cases i with
    | zero => simp [packElements, element]
    | succ i =>
      rw [List.getD_cons_succ, ← ih, element, element, packElements, Nat.mul_succ, Nat.add_comm (w * i), Nat.pow_add,
        ← Nat.div_div_eq_div_mul, Nat.add_mul_div_left _ _ (Nat.two_pow_pos w), Nat.div_eq_of_lt hx, Nat.zero_add]

/-- The bytes of packed elements spell them (R78). -/
theorem numOfBytes_elementBytes {w : Nat} {xs : List Nat} (h : xs.length * w % 8 = 0) :
    numOfBytes (elementBytes w xs) = packElements w xs := by
  rw [elementBytes, numOfBytes_bytesOfNum, Nat.mod_eq_of_lt]
  calc packElements w xs < 2 ^ (w * xs.length) := packElements_lt w xs
    _ = 256 ^ (xs.length * w / 8) := by
      rw [show (256 : Nat) = 2 ^ 8 from rfl, ← Nat.pow_mul, Nat.mul_div_cancel' (Nat.dvd_of_mod_eq_zero h), Nat.mul_comm]

/-- Settles O10: each operation by its rule, and the packing. -/
theorem rowElements : Obligations.RowElements := by
  unfold Obligations.RowElements
  refine ⟨fun f mode pred imm a b c hf ha hb hc => ⟨rfl, ?_, rfl, ?_, ?_, fun hnan => ?_⟩, fun w xs i h hi => ⟨?_, ?_⟩⟩
  · have hw : f.width - 1 + 1 = f.width := Nat.sub_add_cancel f.width_pos
    exact congrArg (·, 0) (flip_top_bit (k := f.width - 1) (by rwa [hw]))
  · simp [rowElem]
  · simp only [rowElem, Fmt.encode_one hf]
  · simp only [List.forall_mem_cons, List.not_mem_nil, false_implies, implies_true, and_true, rowElem, Fmt.add, Fmt.sub, Fmt.mul, Fmt.div]
    refine ⟨?_, ?_, ?_, ?_⟩
    · rw [addNum_nan mode hnan, Fmt.deliver_nan_pair hf]
    · rw [addNum_nan mode (by rwa [Num.isNan_flip]), Fmt.deliver_nan_pair hf, Num.isSnan_flip]
    · rw [mulNum_nan hnan, Fmt.deliver_nan_pair hf]
    · rw [divNum_nan hnan, Fmt.deliver_nan_pair hf]
  · exact length_bytesOfNum _ _
  · rw [numOfBytes_elementBytes h, element_packElements]

end Sys2Proof.Machine
end

section
/-! SUPPORT. QUADRANT ranges (R262): they do not meet, and the place of a line gives back its address. -/

namespace Sys2Proof.Machine

/-- Two ranges, in units of 4 GiB, have no byte in common. -/
def QuadApart (x y : Nat × Nat) : Prop := x.1 + x.2 ≤ y.1 ∨ y.1 + y.2 ≤ x.1

theorem quadApart_symmetric : Std.Symm QuadApart := ⟨fun _ _ => Or.symm⟩

theorem pairwise_of_qrangesMeet {qs : List (Nat × Nat)} (h : qrangesMeet qs = false) : qs.Pairwise QuadApart := by
  induction qs with
  | nil => exact .nil
  | cons q t ih =>
    simp only [qrangesMeet, Bool.or_eq_false_iff, List.any_eq_false, Bool.and_eq_true, decide_eq_true_eq, not_and] at h
    obtain ⟨hq, ht⟩ := h
    refine .cons (fun x hx => ?_) (ih ht)
    have := hq x hx
    simp only [QuadApart]
    omega

/-- A setting that R262 does not refuse: no range is empty or passes the end, and no two meet. -/
theorem of_qrangesBad {qs : List (Nat × Nat)} (h : qrangesBad qs = false) :
    (∀ q ∈ qs, 0 < q.2 ∧ q.1 + q.2 ≤ 240) ∧ qs.Pairwise QuadApart := by
  simp only [qrangesBad, Bool.or_eq_false_iff, List.any_eq_false] at h
  obtain ⟨hall, hmeet⟩ := h
  refine ⟨fun q hq => ?_, pairwise_of_qrangesMeet hmeet⟩
  have := hall q hq
  simp only [beq_iff_eq, Bool.or_eq_true, decide_eq_true_eq, not_or] at this
  omega

/-- L of a line lies in the rows of a range exactly where its address lies in the range. -/
def inRows (q : Nat × Nat) (l : Nat) : Bool := decide (2 ^ 14 * q.1 ≤ l) && decide (l < 2 ^ 14 * (q.1 + q.2))

theorem inRange_iff {q : Nat × Nat} {a : Nat} : inRange q a = true ↔ 2 ^ 32 * q.1 ≤ a ∧ a < 2 ^ 32 * (q.1 + q.2) := by simp [inRange]
theorem inRows_iff {q : Nat × Nat} {l : Nat} : inRows q l = true ↔ 2 ^ 14 * q.1 ≤ l ∧ l < 2 ^ 14 * (q.1 + q.2) := by simp [inRows]

theorem inRows_div (q : Nat × Nat) (a : Nat) : inRows q (a / 2 ^ 18) = inRange q a := by
  rw [Bool.eq_iff_iff, inRange_iff, inRows_iff]
  omega

/-- Of ranges that do not meet, at most one holds an address, and at most one a row. -/
theorem find?_unique {qs : List (Nat × Nat)} (hp : qs.Pairwise QuadApart) {f : Nat × Nat → Bool}
    (hf : ∀ x y, f x = true → f y = true → ¬ QuadApart x y) {q : Nat × Nat} (hq : q ∈ qs) (hfq : f q = true) :
    qs.find? f = some q := by
  obtain ⟨x, hx⟩ := Option.isSome_iff_exists.1 (List.find?_isSome.2 ⟨q, hq, hfq⟩)
  have := quadApart_symmetric
  have hxq : x = q := by
    by_contra hne
    exact hf x q (List.find?_some hx) hfq (List.Pairwise.forall hp (List.mem_of_find?_eq_some hx) hq hne)
  rw [hx, hxq]

theorem not_apart_of_inRange (a : Nat) (x y : Nat × Nat) (hx : inRange x a = true) (hy : inRange y a = true) : ¬ QuadApart x y := by
  rw [inRange_iff] at hx hy
  simp only [QuadApart]
  omega

theorem not_apart_of_inRows (l : Nat) (x y : Nat × Nat) (hx : inRows x l = true) (hy : inRows y l = true) : ¬ QuadApart x y := by
  rw [inRows_iff] at hx hy
  simp only [QuadApart]
  omega

/-- The fold of R262 within a quarter cancels out, and leaves the low byte of the line number. -/
theorem quadrant_fold (k b : Nat) :
    (256 * k + (b ^^^ b / 2 ^ 8 ^^^ b / 2 ^ 16 ^^^ b / 2 ^ 24) % 256 ^^^ b / 256 ^^^ b / 256 / 2 ^ 8 ^^^ b / 256 / 2 ^ 16) % 256 = b % 256 := by
  have hcancel : (256 * k + (b ^^^ b / 2 ^ 8 ^^^ b / 2 ^ 16 ^^^ b / 2 ^ 24) % 256) % 2 ^ 8 = (b ^^^ (b / 2 ^ 8 ^^^ b / 2 ^ 16 ^^^ b / 2 ^ 24)) % 2 ^ 8 := by
    rw [← Nat.xor_assoc, ← Nat.xor_assoc]
    omega
  have hdiv : b / 256 ^^^ b / 256 / 2 ^ 8 ^^^ b / 256 / 2 ^ 16 = b / 2 ^ 8 ^^^ b / 2 ^ 16 ^^^ b / 2 ^ 24 := by
    simp only [Nat.div_div_eq_div_mul, Nat.reducePow, Nat.reduceMul]
  rw [Nat.xor_assoc, Nat.xor_assoc, ← Nat.xor_assoc (b / 256), hdiv, Nat.xor_mod_two_pow (n := 8), hcancel,
    ← Nat.xor_mod_two_pow, Nat.xor_xor_cancel_right]

/-- P and L of a line of a range, by the quarter and the line within it. -/
theorem quadrant_spec {q : Nat × Nat} {a : Nat} (hq : 0 < q.2) (ha : inRange q a = true) (h256 : a % 256 = 0) :
    ∃ k b, k < 4 ∧ b < 2 ^ 22 * q.2 ∧ a = 2 ^ 32 * q.1 + k * (2 ^ 30 * q.2) + 256 * b ∧ k = (a - 2 ^ 32 * q.1) / (2 ^ 30 * q.2) ∧
      quadrant q a = (256 * k + (b ^^^ b / 2 ^ 8 ^^^ b / 2 ^ 16 ^^^ b / 2 ^ 24) % 256, 2 ^ 14 * q.1 + b / 256) := by
  rw [inRange_iff] at ha
  obtain ⟨hlo, hhi⟩ := ha
  have hsplit := Nat.div_add_mod' (a - 2 ^ 32 * q.1) (2 ^ 30 * q.2)
  have hlt := Nat.mod_lt (a - 2 ^ 32 * q.1) (y := 2 ^ 30 * q.2) (by omega)
  have hmod : (a - 2 ^ 32 * q.1) % (2 ^ 30 * q.2) % 256 = 0 := by
    rw [← Nat.dvd_iff_mod_eq_zero]
    exact (Nat.dvd_mod_iff (by omega)).2 (by omega)
  refine ⟨(a - 2 ^ 32 * q.1) / (2 ^ 30 * q.2), (a - 2 ^ 32 * q.1) % (2 ^ 30 * q.2) / 256, ?_, by omega, ?_, rfl, rfl⟩
  · exact Nat.div_lt_of_lt_mul (by omega)
  · generalize (a - 2 ^ 32 * q.1) / (2 ^ 30 * q.2) * (2 ^ 30 * q.2) = k at *
    omega

/-- The address of a place of a range, by the quarter and the line within it. -/
theorem addressOf_quadrant {qs : List (Nat × Nat)} {q : Nat × Nat} {k b : Nat}
    (hfind : qs.find? (fun x => inRows x (2 ^ 14 * q.1 + b / 256)) = some q) :
    addressOf qs (256 * k + (b ^^^ b / 2 ^ 8 ^^^ b / 2 ^ 16 ^^^ b / 2 ^ 24) % 256) (2 ^ 14 * q.1 + b / 256) =
      2 ^ 32 * q.1 + k * (2 ^ 30 * q.2) + 256 * b := by
  have hlow : (256 * k + (b ^^^ b / 2 ^ 8 ^^^ b / 2 ^ 16 ^^^ b / 2 ^ 24) % 256) / 256 = k := by
    rw [Nat.mul_add_div (by decide), Nat.div_eq_of_lt (Nat.mod_lt _ (by decide)), Nat.add_zero]
  simp only [inRows] at hfind
  simp only [addressOf, hfind, hlow, Nat.add_sub_cancel_left, quadrant_fold]
  omega

/-- A line outside every range has the place of the package's fold (R260). -/
theorem addressOf_outside {qs : List (Nat × Nat)} {a : Nat} (h256 : a % 256 = 0) (hout : qs.find? (fun q => inRange q a) = none) :
    addressOf qs (foldP a) (a / 2 ^ 18) = a := by
  have hrows : qs.find? (fun q => inRows q (a / 2 ^ 18)) = none := by simpa only [inRows_div] using hout
  have hnil : addressOf qs (foldP a) (a / 2 ^ 18) = addressOf [] (foldP a) (a / 2 ^ 18) := by
    simp only [inRows] at hrows
    simp only [addressOf, hrows, List.find?_nil]
  rw [hnil, addressOf_foldP]
  omega

/-- Settles O24: within a range by its quarters, outside every range by the package's fold. -/
theorem quadrantPlaces : Obligations.QuadrantPlaces := by
  unfold Obligations.QuadrantPlaces
  intro qs a hbad ha h256
  obtain ⟨hall, hp⟩ := of_qrangesBad hbad
  by_cases hin : ∃ q ∈ qs, inRange q a = true
  · obtain ⟨q, hq, hqa⟩ := hin
    obtain ⟨hpos, hend⟩ := hall q hq
    obtain ⟨k, b, hk, hb, hab, hkdef, hplace⟩ := quadrant_spec hpos hqa h256
    have hfind := find?_unique hp (not_apart_of_inRange a) hq hqa
    have hrows : qs.find? (fun x => inRows x (2 ^ 14 * q.1 + b / 256)) = some q :=
      find?_unique hp (not_apart_of_inRows _) hq (inRows_iff.2 (by omega))
    have hpl : placeOf qs a = (256 * k + (b ^^^ b / 2 ^ 8 ^^^ b / 2 ^ 16 ^^^ b / 2 ^ 24) % 256, 2 ^ 14 * q.1 + b / 256) := by
      simp only [placeOf, hfind, hplace]
    have hfold : (b ^^^ b / 2 ^ 8 ^^^ b / 2 ^ 16 ^^^ b / 2 ^ 24) % 256 < 256 := Nat.mod_lt _ (by decide)
    rw [hpl]
    refine ⟨by omega, by omega, (addressOf_quadrant hrows).trans hab.symm, fun x hx hxa => ?_⟩
    obtain rfl : x = q := Option.some.inj ((find?_unique hp (not_apart_of_inRange a) hx hxa).symm.trans hfind)
    rw [← hkdef]
    omega
  · have hout : ∀ q ∈ qs, inRange q a = false := by simpa using hin
    have hfind : qs.find? (fun q => inRange q a) = none := List.find?_eq_none.2 fun q hq => by simp [hout q hq]
    have hpl : placeOf qs a = (foldP a, a / 2 ^ 18) := by simp only [placeOf, hfind]
    rw [hpl]
    exact ⟨foldP_lt a, by omega, addressOf_outside h256 hfind, fun q hq hqa => absurd hqa (by simp [hout q hq])⟩

end Sys2Proof.Machine
end

section
/-! SUPPORT. COLD_START (R481 to R485): the bank that boots, and what it leaves. Power (R531, R537 to R540, R544). -/

namespace Sys2Proof.Machine

/-- Outside the package, booting a bank reaches the Farhies' memory alone, and notes the bank there. -/
structure Booted (b : Bool) (s t : State) : Prop where
  outer : t.outer = { s.outer with far := t.far }
  done : t.far.bootDone = s.far.bootDone
  bank : t.far.bank = some b

theorem Booted.after {b : Bool} {s t u : State} (h : Booted b s t) (ho : u.outer = t.outer) : Booted b s u := by
  have hfar : u.far = t.far := congrArg Outer.far ho
  exact ⟨by rw [ho, h.outer, hfar], by rw [hfar, h.done], by rw [hfar, h.bank]⟩

theorem Booted.digest {b : Bool} {s t : State} (h : Booted b s t) (x : BitVec 256) :
    Booted b s { t with far := { t.far with configDigest := x } } :=
  ⟨congrArg (fun o : Outer => { o with far := { t.far with configDigest := x } }) h.outer, h.done, h.bank⟩

theorem State.deriveKeys_frame (s : State) (svn : Nat) :
    s.deriveKeys svn = { s with far := (s.deriveKeys svn).far } ∧ (s.deriveKeys svn).far.bootDone = s.far.bootDone ∧
      (s.deriveKeys svn).far.bank = s.far.bank := by
  unfold deriveKeys
  split <;> exact ⟨rfl, rfl, rfl⟩

theorem State.bootBank_booted (s : State) (b : Bool) : Booted b s (s.bootBank b) := by
  let s1 : State := { s with far := { s.far with bank := some b, measurement := shake256 (s.nvm.bytes (bankBase b) 0x1000) } }
  obtain ⟨hframe, hdone, hbank⟩ := s1.deriveKeys_frame (s.nvm.num (bankBase b + 0xC) 4)
  have h1 : Booted b s (s1.deriveKeys (s.nvm.num (bankBase b + 0xC) 4)) := ⟨by rw [hframe]; rfl, hdone, hbank⟩
  have h2 : Booted b s (((s1.deriveKeys (s.nvm.num (bankBase b + 0xC) 4)).setRf 8 24 24 (b2n b)).setRf 0xC 15 8
    (s.nvm.num (bankBase b + 0xC) 4)) := h1.after (by simp)
  unfold bootBank
  dsimp only
  split
  · exact h2
  · next c hc =>
    have h3 := h2.digest (BitVec.ofNat 256 c.digest)
    split
    · exact h3.after (State.setRf_outer _ _ _ _ _)
    · exact h3.after ((foldl_outer _ (fun s e => State.applyConfig_outer s e) _ _).trans (State.setRf_outer _ _ _ _ _))

/-- A core that start-up has made active under its own index. -/
def State.BootedCore (s : State) (i : Nat) : Prop :=
  (Tab.read {} s.cores i).active = true ∧ (Tab.read {} s.cores i).activeIndex = i % 34

/-- Once its turn has come a core is active, and the turns of the others leave it so. -/
theorem State.foldl_bootCores {i : Nat} (hi : i % 34 < 32) (l : List Nat) (s : State) (h : i ∈ l ∨ s.BootedCore i) :
    (l.foldl (fun s i => if i % 34 < 32 then s.modCore (i / 34) (i % 34) (fun c => { c with active := true, activeIndex := i % 34 }) else s)
      s).BootedCore i := by
  induction l generalizing s with
  | nil => simpa using h
  | cons j l ih =>
    refine ih _ ?_
    by_cases hij : i = j
    · subst hij
      right
      dsimp only
      rw [if_pos hi]
      have hkey : 34 * (i / 34) + i % 34 = i := Nat.div_add_mod i 34
      have hcore := s.core_modCore_same (i / 34) (i % 34) (fun c => { c with active := true, activeIndex := i % 34 })
      rw [core, hkey] at hcore
      rw [BootedCore, hcore]
      exact ⟨rfl, rfl⟩
    · refine h.imp (fun h => (List.mem_cons.1 h).resolve_left hij) fun h => ?_
      dsimp only
      split
      · have hother := Tab.read_write_other ({} : Core) {} s.cores (i := 34 * (j / 34) + j % 34) (j := i)
          { s.core (j / 34) (j % 34) with active := true, activeIndex := j % 34 } (by rw [Nat.div_add_mod]; exact hij)
        rw [BootedCore, modCore, setCore, hother]
        exact h
      · exact h

/-- After start-up the physical cores 0 to 31 of each die are active under their own index (R114; log 6). -/
theorem State.core_bootCores (s : State) (d : Fin 4) (p : Fin 34) (hp : p.val < 32) :
    (s.bootCores.core d.val p.val).active = true ∧ (s.bootCores.core d.val p.val).activeIndex = p.val := by
  have hmod : (34 * d.val + p.val) % 34 = p.val := by rw [Nat.mul_add_mod, Nat.mod_eq_of_lt p.isLt]
  have h := State.foldl_bootCores (i := 34 * d.val + p.val) (by rw [hmod]; exact hp) (List.range 136) s (.inl (List.mem_range.2 (by omega)))
  rw [BootedCore, hmod] at h
  exact h

/-- Opening gates leaves the cores, and what lies outside the package. -/
theorem State.foldl_modDomain_keeps (p : State → Nat → Bool) (f : Domain → Domain) (l : List Nat) (s : State) :
    (l.foldl (fun s i => if p s i then s.modDomain i f else s) s).cores = s.cores ∧
    (l.foldl (fun s i => if p s i then s.modDomain i f else s) s).outer = s.outer := by
  induction l generalizing s with
  | nil => exact ⟨rfl, rfl⟩
  | cons i l ih =>
    rw [List.foldl_cons, (ih _).1, (ih _).2]
    split <;> exact ⟨rfl, rfl⟩

theorem State.noticeOpen_cores (s : State) (info : Nat) : (s.noticeOpen info).cores = s.cores := by
  obtain ⟨j, hj⟩ := (s.freeBelow 65536).2.notice_eq (Err.aon .notice (s.freeBelow 65536).1 0 0 info)
  rw [noticeOpen, hj]
  rfl

/-- The last of a start-up: the tier's capacities are noted, the gates of the units in use open, and FW2 journals its start. -/
def State.startGates (s : State) (cxl : List Nat) : State :=
  ((List.range 231).foldl (fun (s : State) i => if s.bootAwake i then s.modDomain i (fun x => { x with awake := true }) else s)
    { s with mem := { s.mem with cxl := cxl } }).noticeOpen 0

theorem State.startGates_keeps (s : State) (cxl : List Nat) :
    (s.startGates cxl).cores = s.cores ∧ (s.startGates cxl).outer = s.outer := by
  obtain ⟨hc, ho⟩ := State.foldl_modDomain_keeps (fun s i => s.bootAwake i) (fun x => { x with awake := true }) (List.range 231)
    { s with mem := { s.mem with cxl := cxl } }
  exact ⟨(State.noticeOpen_cores _ _).trans hc, (State.noticeOpen_outer _ _).trans ho⟩

/-- Noting the reasons of the banks tried writes registers alone. -/
theorem State.foldl_reasons_frame (r : Bool → Nat) (l : List Bool) (s : State) :
    l.foldl (fun (s : State) b => if b then s.setRf 8 15 8 (r b) else s.setRf 8 7 0 (r b)) s =
      { s with regs := (l.foldl (fun (s : State) b => if b then s.setRf 8 15 8 (r b) else s.setRf 8 7 0 (r b)) s).regs } := by
  induction l generalizing s with
  | nil => rfl
  | cons b l ih =>
    rw [List.foldl_cons, ih]
    split <;> rfl

/-- The bank found boots: memory, cores and gates follow (R482). -/
theorem State.coldStart_boots {f : BootFinds} {s : State} {b : Bool} (hon : s.power.phase = .on) (hnew : s.far.bootDone = false)
    (hfind : (bankOrder s.nvm).find? (fun b => bankReason s.nvm (bankBase b) s.fuses (if b then f.bankB else f.bankA) == 0) = some b) :
    ∃ u v w : State, Booted b { s with far := { s.far with bootDone := true } } u ∧ v.outer = u.outer ∧
      v.cores = (w.bootCores).cores ∧ exec (.coldStart f) s = .next (v.setRf 8 31 28 3) := by
  change ∃ u v w : State, _ ∧ _ ∧ _ ∧ execColdStart f s = _
  unfold execColdStart
  rw [if_neg (by simp [hon, hnew])]
  extract_lets far reason order chosen tried s0 s1
  have hchosen : chosen = some b := hfind
  have hs1 : s1 = { s0 with regs := s1.regs } := State.foldl_reasons_frame reason tried s0
  have hfar : s1.far = s0.far := by rw [hs1]
  have houter : s1.outer = s0.outer := by rw [hs1]; rfl
  obtain ⟨ho, hdone, hbank⟩ := s1.bootBank_booted b
  rw [hchosen]
  dsimp only
  have hbooted : Booted b s0 (s1.bootBank b) := ⟨by rw [ho, houter], by rw [hdone, hfar], hbank⟩
  obtain ⟨hc, hout⟩ := (((s1.bootBank b).bootMemory f).bootCores).startGates_keeps (((f.cxl ++ [0, 0, 0, 0]).take 4).map (min 2048))
  exact ⟨s1.bootBank b, _, (s1.bootBank b).bootMemory f, hbooted,
    hout.trans ((State.bootCores_outer _).trans (State.bootMemory_outer _ _)), hc, rfl⟩

/-- With no bank that passes, the start-up ends in its failure (R483). -/
theorem State.coldStart_fails {f : BootFinds} {s : State} (hon : s.power.phase = .on) (hnew : s.far.bootDone = false)
    (hA : bankReason s.nvm (bankBase false) s.fuses f.bankA ≠ 0) (hB : bankReason s.nvm (bankBase true) s.fuses f.bankB ≠ 0) :
    ∃ r : Tab Word, exec (.coldStart f) s = .next (({ s with far := { s.far with bootDone := true }, regs := r } : State).setRf 8 31 28 0xF) := by
  change ∃ r : Tab Word, execColdStart f s = _
  unfold execColdStart
  rw [if_neg (by simp [hon, hnew])]
  extract_lets reason order chosen tried far s0 s1
  have hchosen : chosen = none := List.find?_eq_none.2 fun b _ => by cases b <;> simp [reason, hA, hB]
  rw [hchosen]
  have hs1 : s1 = { s0 with regs := s1.regs } := State.foldl_reasons_frame reason tried s0
  exact ⟨s1.regs, by rw [hs1]⟩

/-- Settles O51: by the bank found, by none, and without a start to make. -/
theorem coldStartBoots : Obligations.ColdStartBoots := by
  unfold Obligations.ColdStartBoots
  refine ⟨fun f s b hon hnew hfind => ?_, fun f s hon hnew hA hB => ?_, fun f s h => ?_⟩
  · obtain ⟨u, v, w, hu, hv, hcores, hexec⟩ := State.coldStart_boots hon hnew hfind
    have hstage : (v.setRf 8 31 28 3).rf 8 31 28 = 3 := (State.rf_setRf_same _ _ _ _ (by decide)).trans (by decide)
    have htcores : (v.setRf 8 31 28 3).cores = w.bootCores.cores := (State.setRf_cores _ _ _ _ _).trans hcores
    have hbooted := hu.after (u := v.setRf 8 31 28 3) (by rw [State.setRf_outer, hv])
    generalize v.setRf 8 31 28 3 = t at *
    have ho := hbooted.outer
    refine ⟨t, hexec, hbooted.done, hbooted.bank, hstage, fun d p hp => ?_, ?_⟩
    · rw [State.core, htcores]
      exact w.core_bootCores d p hp
    · exact ⟨congrArg Outer.nvm ho, congrArg Outer.fuses ho, congrArg Outer.hostMem ho, congrArg Outer.pending ho, congrArg Outer.power ho⟩
  · obtain ⟨r, hexec⟩ := State.coldStart_fails hon hnew hA hB
    refine ⟨_, hexec, ?_, ?_⟩
    · exact (State.rf_setRf_same _ _ _ _ (by decide)).trans (by decide)
    · rw [State.setRf, State.setReg]
  · change execColdStart f s = _
    unfold execColdStart
    rw [if_pos (by rcases h with h | h <;> simp [h])]

/-! ### Power -/

theorem exec_powerUp_on {vin : Nat} {s : State} (hoff : s.power.phase = .off)
    (hov : (s.power.overVoltage && (s.power.pwrEn || decide (78000 ≤ vin))) = false) (hvin : 64000 < vin) :
    exec (.powerUp vin) s = .next (if s.power.alwaysOn then
      { s.coldState with regs := s.regs.filter (fun r => decide (jnlBase ≤ r.1) && decide (r.1 < tlyBase)),
                         jnl := { s.jnl with handling := none, queue := [], stepFaults := 0 }, power := { vin := vin } }
      else { s.coldState with power := { vin := vin } }) :=
  if_pos (by simp [hoff, hov, hvin])

theorem exec_powerUp_none {vin : Nat} {s : State} (h : s.power.phase ≠ .off ∨ vin ≤ 64000 ∨
    (s.power.overVoltage && (s.power.pwrEn || decide (78000 ≤ vin))) = true) : exec (.powerUp vin) s = .next s := by
  refine if_neg fun hgo => ?_
  simp only [Bool.and_eq_true, beq_iff_eq, decide_eq_true_eq, Bool.not_eq_true'] at hgo
  obtain ⟨⟨hoff, hvin⟩, hov⟩ := hgo
  rcases h with h | h | h
  · exact h hoff
  · omega
  · exact absurd h (by simp [hov])

/-- The events that remove the supplies of the dies (R539). -/
theorem State.exec_diesOff {s : State} (hon : s.power.phase = .on) {c : Instr}
    (hc : (∃ vin : Nat, c = .powerDown true vin ∨ (vin < 58000 ∧ c = .powerDown false vin) ∨ (81000 < vin ∧ c = .overVoltageTrip vin)) ∨
      ∃ die stack : Int, (115 ≤ die ∨ 105 ≤ stack) ∧ c = .thermalTrip die stack) : ∃ p, exec c s = .next (s.diesOff p) := by
  rcases hc with ⟨vin, rfl | ⟨hvin, rfl⟩ | ⟨hvin, rfl⟩⟩ | ⟨die, stack, h, rfl⟩
  · exact ⟨_, if_pos (by simp [hon])⟩
  · exact ⟨_, if_pos (by simp [hon, hvin])⟩
  · exact ⟨_, if_pos (by simp [hon, hvin])⟩
  · exact ⟨_, if_pos (by simp [hon, h])⟩

/-- A link reset takes the endpoint and the mailbox back to their start (R491). -/
theorem State.linkReset_eq {s : State} (hon : s.power.phase = .on) (hot : Bool) :
    ∃ t, exec (.linkReset hot) s = .next t ∧ t.rf 0x100 15 0 = 0 ∧ t.rf 0x104 15 0 = 0 ∧ t.rf 0x108 15 0 = 0 ∧
      t.mbx = { s.mbx with taken := 0 } ∧ t = { s with regs := t.regs, mbx := t.mbx, power := t.power, bus := .none } ∧
      t.power = { s.power with perstN := t.power.perstN } ∧ (hot = true → t.power = s.power) := by
  refine ⟨_, if_neg (by simp [hon]), ?_, ?_, ?_, rfl, rfl, ?_, fun h => by simp [h]⟩
  · have h : (((s.setReg 0x100 0).setReg 0x104 0).setReg 0x108 0).reg 0x100 = 0 := by
      rw [State.reg_setReg_other _ _ (by decide), State.reg_setReg_other _ _ (by decide), State.reg_setReg_same]
    exact congrArg (fun w : Word => bits w.toNat 15 0) h
  · have h : (((s.setReg 0x100 0).setReg 0x104 0).setReg 0x108 0).reg 0x104 = 0 := by
      rw [State.reg_setReg_other _ _ (by decide), State.reg_setReg_same]
    exact congrArg (fun w : Word => bits w.toNat 15 0) h
  · have h : (((s.setReg 0x100 0).setReg 0x104 0).setReg 0x108 0).reg 0x108 = 0 := State.reg_setReg_same _ _ _
    exact congrArg (fun w : Word => bits w.toNat 15 0) h
  · cases hot <;> rfl

/-- Settles O52: by the phase of the power stage and the event. -/
theorem powerComesAndGoes : Obligations.PowerComesAndGoes := by
  unfold Obligations.PowerComesAndGoes
  refine ⟨fun vin s hoff hov => ⟨fun hvin haon => ?_, fun hvin haon => ?_, fun hvin => exec_powerUp_none (.inr (.inl hvin))⟩,
    fun vin s h => exec_powerUp_none (h.imp id .inr), fun s hon => ⟨fun c hc => ?_, fun vin hvin => ?_, fun vin hvin => ?_,
    fun die stack hd hs => ?_, State.linkReset_eq hon⟩, fun s hhold => ⟨fun h => ?_, fun htherm hlo hhi => ⟨?_, fun vin hlo hhi => ?_⟩⟩⟩
  · rw [exec_powerUp_on hoff hov hvin, if_pos haon]
    exact ⟨_, rfl, rfl, rfl, rfl, rfl, rfl, rfl, rfl⟩
  · rw [exec_powerUp_on hoff hov hvin, if_neg (by simp [haon])]
    exact ⟨_, rfl, rfl, rfl, rfl, rfl, rfl, rfl, rfl, rfl, rfl, rfl, rfl⟩
  · obtain ⟨p, hexec⟩ := State.exec_diesOff hon hc
    exact ⟨_, hexec, rfl, rfl, rfl, rfl, rfl, rfl, rfl, rfl, rfl, rfl, rfl, rfl, rfl⟩
  · change execPowerDown false vin s = _
    simp [execPowerDown, hon, Nat.not_lt.2 hvin]
  · change execOverVoltageTrip vin s = _
    simp [execOverVoltageTrip, hon, Nat.not_lt.2 hvin]
  · exact if_neg (by simp [hon, hd, hs])
  · refine ⟨_, if_pos ?_, rfl, rfl, rfl, rfl, rfl, rfl, rfl, rfl⟩
    rcases h with h | h | h <;> simp [hhold, h]
  · exact if_neg (by simp [hhold, htherm, hlo, hhi])
  · change execPowerDown true vin s = _
    simp [execPowerDown, hhold, htherm, hlo, hhi]

end Sys2Proof.Machine
end

section
/-! SUPPORT. The mailbox (R496 to R508): requests, answers, and the bytes of a reply. -/

namespace Sys2Proof.Machine

/-! ### Requests -/

section Request
variable {s : State} {op w : Nat} {f : State → Nat → State × Reply}

theorem State.request_none (h : s.frame? = none) : s.request op f = .next s := by
  simp only [request, h]

theorem State.request_other (h : s.frame? = some w) (hw : bits w 3 0 ≠ 1 ∨ frOpcode w ≠ op) : s.request op f = .next s := by
  simp only [request, h]
  refine if_pos ?_
  rcases hw with hw | hw <;> simp [hw]

theorem State.request_forbidden {r : Reply} (h : s.frame? = some w) (hon : s.power.phase = .on) (hver : bits w 3 0 = 1)
    (hop : frOpcode w = op) (hr : s.forbids w = some r) : s.request op f = .next (s.answerWith w r) := by
  simp only [request, h, hr]
  exact if_neg (by simp [hon, hver, hop])

theorem State.request_taken (h : s.frame? = some w) (hon : s.power.phase = .on) (hver : bits w 3 0 = 1) (hop : frOpcode w = op)
    (hr : s.forbids w = none) : s.request op f = .next ((f s w).1.answerWith w (f s w).2) := by
  simp only [request, h, hr]
  exact if_neg (by simp [hon, hver, hop])

end Request

/-- Every request command is a request of its opcode. -/
theorem exec_request (hf : Option (BitVec 32)) (ok : Bool) (rs : List Replica) (v : BankVerdict) :
    ∀ x ∈ requests hf ok rs v, ∃ f, ∀ s : State, exec x.2 s = s.request x.1 f := by
  simp only [requests, List.forall_mem_cons, List.not_mem_nil, false_implies, implies_true, and_true]
  and_intros <;> exact ⟨_, fun s => rfl⟩

/-! ### Slots -/

theorem State.putSlot_frame (s : State) (off n v : Nat) : s.putSlot off n v = { s with regs := (s.putSlot off n v).regs } := by
  induction n generalizing s off v with
  | zero => rfl
  | succ n ih => rw [putSlot, ih]; rfl

/-- A slot reaches its own registers alone. -/
theorem State.reg_putSlot_other {o off : Nat} (s : State) (n v : Nat) (h : o < off) : (s.putSlot off n v).reg o = s.reg o := by
  induction n generalizing s off v with
  | zero => rfl
  | succ n ih => rw [putSlot, ih _ _ (by omega), s.reg_setReg_other _ (by omega)]

/-- A slot reads as it was written. -/
theorem State.slotWords_putSlot (s : State) (off n v : Nat) : (s.putSlot off n v).slotWords off n = v % 2 ^ (32 * n) := by
  induction n generalizing s off v with
  | zero => simp [slotWords, Nat.mod_one]
  | succ n ih =>
    rw [putSlot, slotWords, ih, reg_putSlot_other _ _ _ (by omega), s.reg_setReg_same, BitVec.toNat_ofNat, Nat.mul_succ, Nat.add_comm (32 * n),
      Nat.pow_add]
    exact Nat.mod_mul.symm

theorem State.slotWords_of_reg {s t : State} {off n : Nat} (h : ∀ o, off ≤ o → s.reg o = t.reg o) : s.slotWords off n = t.slotWords off n := by
  induction n generalizing off with
  | zero => rfl
  | succ n ih => rw [slotWords, slotWords, h off (Nat.le_refl _), ih fun o ho => h o (by omega)]

/-! ### Answers -/

/-- An answer writes a slot, counts a reply, and takes the request (R498, R508). -/
theorem State.answerWith_eq (s : State) (w : Nat) (r : Reply) : ∃ x, s.answerWith w r =
    { (s.putSlot (0x2000 + 64 * (s.mbx.taken % 32)) 16 (s.replyFrame w r)).setRf 0x104 15 0
        ((s.putSlot (0x2000 + 64 * (s.mbx.taken % 32)) 16 (s.replyFrame w r)).rf 0x104 15 0 + 1) with
      tally := x, mbx := { s.mbx with taken := (s.mbx.taken + 1) % 65536, firstRequest := (s.answerWith w r).mbx.firstRequest } } := by
  have hframe := s.putSlot_frame (0x2000 + 64 * (s.mbx.taken % 32)) 16 (s.replyFrame w r)
  unfold answerWith
  dsimp only
  generalize s.putSlot (0x2000 + 64 * (s.mbx.taken % 32)) 16 (s.replyFrame w r) = u at *
  obtain ⟨x, hx⟩ := (u.setRf 0x104 15 0 (u.rf 0x104 15 0 + 1)).count_eq (blkXd 0) 0x23 0x1FF 1
  rw [hx]
  refine ⟨x, ?_⟩
  rw [hframe]
  rfl

theorem State.answerWith_leaves (s : State) (w : Nat) (r : Reply) :
    s.answerWith w r = { s with regs := (s.answerWith w r).regs, tally := (s.answerWith w r).tally, mbx := (s.answerWith w r).mbx } ∧
    (s.answerWith w r).mbx.taken = (s.mbx.taken + 1) % 65536 ∧ (s.answerWith w r).rf 0x104 15 0 = (s.rf 0x104 15 0 + 1) % 65536 ∧
    (s.answerWith w r).slotWords (0x2000 + 64 * (s.mbx.taken % 32)) 16 = s.replyFrame w r % 2 ^ 512 := by
  obtain ⟨x, hx⟩ := s.answerWith_eq w r
  have hframe := s.putSlot_frame (0x2000 + 64 * (s.mbx.taken % 32)) 16 (s.replyFrame w r)
  have hcount : (s.putSlot (0x2000 + 64 * (s.mbx.taken % 32)) 16 (s.replyFrame w r)).rf 0x104 15 0 = s.rf 0x104 15 0 := by
    rw [rf, s.reg_putSlot_other _ _ (by omega), rf]
  have hslot := s.slotWords_putSlot (0x2000 + 64 * (s.mbx.taken % 32)) 16 (s.replyFrame w r)
  generalize s.answerWith w r = t at *
  rw [hcount] at hx
  generalize s.putSlot (0x2000 + 64 * (s.mbx.taken % 32)) 16 (s.replyFrame w r) = u at *
  have hregs : t.regs = (u.setRf 0x104 15 0 (s.rf 0x104 15 0 + 1)).regs := by rw [hx]
  refine ⟨?_, by rw [hx], ?_, ?_⟩
  · rw [hx, hframe]
    rfl
  · rw [State.rf_of_regs hregs, State.rf_setRf_same _ _ _ _ (by decide)]
    rfl
  · rw [State.slotWords_of_reg (t := u) (fun o ho => ?_), hslot]
    rw [State.reg_of_regs hregs, State.setRf, State.reg_setReg_other _ _ (by omega)]

theorem State.statusCodes_lt (s : State) : ∀ c ∈ s.statusCodes, c.1 < 256 := by
  simp only [statusCodes, List.forall_mem_cons, List.not_mem_nil, false_implies, implies_true, and_true]
  decide

/-- The status field is a byte (R505). -/
theorem State.attn_lt (s : State) : s.attn < 256 := by
  unfold attn
  cases h : s.statusCodes.find? (fun c => c.2.2) with
  | none => decide
  | some c => exact s.statusCodes_lt c (List.mem_of_find?_eq_some h)

theorem State.replyFrame_fields {s : State} {w : Nat} {r : Reply} (hr : r.result < 256) (ho : r.opId < 65536) (hj : s.jnl.seq < 2 ^ 32) :
    bits (s.replyFrame w r) 3 0 = 1 ∧ bits (s.replyFrame w r) 15 8 = frOpcode w ∧ bits (s.replyFrame w r) 31 16 = frTag w ∧
    bits (s.replyFrame w r) 39 32 = r.result ∧ bits (s.replyFrame w r) 63 48 = r.opId ∧
    bits (s.replyFrame w r) 95 64 = r.detail % 2 ^ 32 ∧ bits (s.replyFrame w r) 127 96 = s.jnl.seq := by
  have hop : frOpcode w < 256 := bits_lt w 15 8
  have htag : frTag w < 65536 := bits_lt w 31 16
  have hattn := s.attn_lt
  have hdet : r.detail % 2 ^ 32 < 2 ^ 32 := Nat.mod_lt _ (by decide)
  simp only [replyFrame]
  generalize frOpcode w = a at *
  generalize frTag w = b at *
  generalize s.attn = c at *
  generalize r.detail % 2 ^ 32 = d at *
  generalize r.data % 2 ^ 384 = e at *
  simp only [bits]
  omega

/-! ### The ring of requests -/

/-- A tail beyond what the ring allows is ignored and flagged (R498). -/
theorem State.tail_refused (s : State) : ∃ t, (s.orReg 0x10C 0x10000).ignored 0x100 = t ∧
    t = { s with regs := t.regs, recent := t.recent, jnl := t.jnl } ∧ sameBut t.regs s.regs [0x10C] ∧
    t.rf 0x100 15 0 = s.rf 0x100 15 0 ∧ bit (t.reg 0x10C).toNat 16 = true := by
  obtain ⟨j, hj⟩ := (s.orReg 0x10C 0x10000).ignored_eq 0x100
  refine ⟨_, hj, rfl, s.regs_setReg _ _, ?_, ?_⟩
  · exact congrArg (fun v : Word => bits v.toNat 15 0) (s.reg_orReg_other _ (by decide))
  · exact (s.bit_orReg (by decide)).trans (Bool.or_eq_true_iff.2 (.inr (by decide)))

/-- Settles O53. -/
theorem mailboxRing : Obligations.MailboxRing := by
  unfold Obligations.MailboxRing
  refine ⟨fun by_ tail s hon => ⟨fun h => ?_, fun h h1 h2 => ?_, fun h h1 => ?_, ?_⟩, fun hf ok rs v x hx s => ?_,
    fun s => ⟨fun h => ?_, fun w hon hw => ⟨fun hver hop => ?_, fun hbad => ?_⟩⟩, State.answerWith_leaves, fun s w r => State.replyFrame_fields⟩
  · exact (congrArg Host.Outcome.next (State.gate_open hon _ _ by_)).trans (congrArg Host.Outcome.next (if_pos h))
  · exact (congrArg Host.Outcome.next (State.gate_open hon _ _ by_)).trans
      (congrArg Host.Outcome.next ((if_neg (by omega)).trans (if_pos ⟨h1, h2⟩)))
  · obtain ⟨t, ht, hrest⟩ := s.tail_refused
    refine ⟨t, (congrArg Host.Outcome.next (State.gate_open hon _ _ by_)).trans
      (congrArg Host.Outcome.next ((if_neg (by omega)).trans ((if_neg (by omega)).trans ht))), hrest⟩
  · exact congrArg Host.Outcome.next (State.gate_open hon _ _ by_)
  · obtain ⟨f, hexec⟩ := exec_request hf ok rs v x hx
    rw [hexec]
    exact ⟨State.request_none, fun w hw => ⟨State.request_other hw, fun r hon hver hop hr => State.request_forbidden hw hon hver hop hr⟩⟩
  · change execBadFrame s = _
    simp only [execBadFrame, h]
  · change execBadFrame s = _
    simp only [execBadFrame, hw]
    exact if_pos (by simp [hver, hop])
  · change execBadFrame s = _
    simp only [execBadFrame, hw]
    refine if_neg ?_
    rcases hbad with h | h <;> simp [hon, h]

end Sys2Proof.Machine
end

section
/-! SUPPORT. What edges that pass leave (log 3): registers other than the flag words of arrays, and domains but for how long they have
rested (R413). -/

namespace Sys2Proof.Machine

/-- What edges that pass leave besides what stands: registers but for the flags that passes leave, and domains but for their rest. -/
structure Passed (s t : State) : Prop where
  standing : t.standing = s.standing
  regs : ∀ o, (∀ d p i, p < 34 → i < 4 → o ≠ coreBase d p + 0x14 + 4 * i) → t.reg o = s.reg o
  domain : ∀ k, ∃ r, t.domain k = { s.domain k with rested := r }

theorem Passed.refl (s : State) : Passed s s := ⟨rfl, fun _ _ => rfl, fun k => ⟨(s.domain k).rested, rfl⟩⟩

theorem Passed.trans {s t u : State} (h : Passed s t) (h' : Passed t u) : Passed s u where
  standing := h'.standing.trans h.standing
  regs o ho := (h'.regs o ho).trans (h.regs o ho)
  domain k := by
    obtain ⟨r, hr⟩ := h.domain k
    obtain ⟨r', hr'⟩ := h'.domain k
    exact ⟨r', by rw [hr', hr]⟩

/-- A change of cores, edge count and Tally alone. -/
theorem Passed.of_rest {s t : State} (hs : t.standing = s.standing) (hr : t.regs = s.regs) (hd : t.domains = s.domains) : Passed s t :=
  ⟨hs, fun o _ => State.reg_of_regs hr o, fun k => ⟨(s.domain k).rested, by rw [State.domain, hd]; rfl⟩⟩

theorem Passed.tally (s : State) (x : Tally) : Passed s { s with tally := x } := .of_rest rfl rfl rfl
theorem Passed.edge (s : State) (e : Nat) : Passed s { s with edge := e } := .of_rest rfl rfl rfl
theorem Passed.modCore (s : State) (d p : Nat) (f : Core → Core) : Passed s (s.modCore d p f) := .of_rest rfl rfl rfl

theorem Passed.foldl {α : Type} {f : State → α → State} (h : ∀ s x, Passed s (f s x)) (l : List α) (s : State) : Passed s (l.foldl f s) := by
  induction l generalizing s with
  | nil => exact .refl s
  | cons x l ih => exact (h s x).trans (ih _)

theorem State.restOver_passed (s : State) (n : Nat) : Passed s (s.restOver n) := by
  unfold restOver
  refine Passed.foldl (fun t i => ?_) _ s
  split
  · exact .refl t
  · refine ⟨rfl, fun o _ => rfl, fun k => ?_⟩
    by_cases hk : k = i
    · subst hk
      exact ⟨_, t.domain_modDomain_same _ _⟩
    · exact ⟨(t.domain k).rested, t.domain_modDomain_other _ hk⟩

theorem State.count_passed (s : State) (b ev unit v : Nat) : Passed s (s.count b ev unit v) := by
  obtain ⟨x, hx⟩ := s.count_eq b ev unit v
  rw [hx]
  exact .of_rest rfl rfl rfl

theorem State.advanceArray_passed (s : State) (d : Nat) {p : Nat} (hp : p < 34) (edge : Nat) {i : Nat} (hi : i < 4) :
    Passed s (s.advanceArray d p edge i) := by
  unfold advanceArray
  dsimp only
  split
  · exact .refl s
  · have h1 : Passed s (s.modCore d p (fun c => c.setArray i (((s.core d p).array i).advance edge).1)) := .of_rest rfl rfl rfl
    refine Passed.trans (t := if (((s.core d p).array i).advance edge).2 = 0
      then s.modCore d p (fun c => c.setArray i (((s.core d p).array i).advance edge).1)
      else (s.modCore d p (fun c => c.setArray i (((s.core d p).array i).advance edge).1)).orReg (coreBase d p + 0x14 + 4 * i)
        (((s.core d p).array i).advance edge).2) ?_ (Passed.foldl (fun t e => ?_) _ _)
    · split
      · exact h1
      · exact h1.trans ⟨rfl, fun o ho => State.reg_orReg_other _ _ (ho d p i hp hi), fun k => ⟨_, rfl⟩⟩
    · split
      · exact (t.count_passed _ _ _ _).trans (State.count_passed _ _ _ _ _)
      · exact t.count_passed _ _ _ _

theorem State.settleStop_passed (s : State) (d p : Nat) : Passed s (s.settleStop d p) := by
  unfold settleStop
  split
  · exact .of_rest rfl rfl rfl
  · exact .refl s

theorem Passed.foldl_mem {α : Type} {f : State → α → State} {l : List α} (h : ∀ s, ∀ x ∈ l, Passed s (f s x)) (s : State) :
    Passed s (l.foldl f s) := by
  induction l generalizing s with
  | nil => exact .refl s
  | cons x l ih => exact (h s x (by simp)).trans (ih (fun s y hy => h s y (by simp [hy])) _)

theorem State.advanceCores_passed (s : State) (edge : Nat) : Passed s (s.advanceCores edge) := by
  unfold advanceCores
  refine Passed.foldl (fun t k => ?_) _ s
  dsimp only
  split
  · exact .refl t
  · have h := Passed.foldl_mem (f := fun (t : State) i => t.advanceArray (k / 34) (k % 34) edge i) (l := List.range 4)
      (fun u i hi => u.advanceArray_passed _ (Nat.mod_lt _ (by decide)) edge (List.mem_range.1 hi)) t
    exact (h.trans (.modCore _ _ _ _)).trans (State.settleStop_passed _ _ _)

theorem State.pass_passed (s : State) (n : Nat) : Passed s (s.pass n) := by
  have h := (s.restOver_passed n).trans (.tally _ (s.levels n))
  unfold pass
  dsimp only
  split
  · exact (h.trans (State.advanceCores_passed _ _)).trans (.edge _ _)
  · exact h.trans (.edge _ _)

theorem State.at_passed (s : State) (due : Nat) : Passed s (s.at due) := by
  unfold State.at
  split
  · exact .refl s
  · exact s.pass_passed _

end Sys2Proof.Machine
end

section
/-! SUPPORT. Operating-point changes (R416). -/

namespace Sys2Proof.Machine

/-- What an operating-point change leaves of a state: the domains' points, near memory, the rings, and what lies outside. -/
structure PointsKept (s t : State) : Prop where
  points : ∀ k, (t.domain k).opIndex = (s.domain k).opIndex
  mem : t.mem = s.mem
  rings : t.rings = s.rings
  outer : t.outer = s.outer

theorem PointsKept.refl (s : State) : PointsKept s s := ⟨fun _ => rfl, rfl, rfl, rfl⟩

theorem PointsKept.trans {s t u : State} (h : PointsKept s t) (h' : PointsKept t u) : PointsKept s u :=
  ⟨fun k => (h'.points k).trans (h.points k), h'.mem.trans h.mem, h'.rings.trans h.rings, h'.outer.trans h.outer⟩

theorem Passed.pointsKept {s t : State} (h : Passed s t) : PointsKept s t where
  points k := by
    obtain ⟨r, hr⟩ := h.domain k
    rw [hr]
  mem := State.standing_get h.standing State.mem
  rings := State.standing_get h.standing State.rings
  outer := State.standing_get h.standing State.outer

theorem State.stretched_eq (s : State) (i : Nat) : ∃ x, s.stretched i = { s with tally := x } := by
  unfold stretched
  split
  · exact s.count_eq _ _ _ _
  · exact ⟨s.tally, rfl⟩

/-- A change of how much a domain has swallowed keeps every point. -/
theorem State.setDomain_pointsKept (s : State) {i : Nat} {x : Domain} (hx : x.opIndex = (s.domain i).opIndex) :
    PointsKept s (s.setDomain i x) := by
  refine ⟨fun k => ?_, rfl, rfl, rfl⟩
  by_cases hk : k = i
  · rw [hk, domain_setDomain_same, hx]
  · rw [s.domain_setDomain_other x hk]

theorem State.stretched_pointsKept (s : State) (i : Nat) : PointsKept s (s.stretched i) := by
  obtain ⟨x, hx⟩ := s.stretched_eq i
  rw [hx]
  exact ⟨fun _ => rfl, rfl, rfl, rfl⟩

theorem PointsKept.foldl {α : Type} {f : State → α → State} (h : ∀ s x, PointsKept s (f s x)) (l : List α) (s : State) :
    PointsKept s (l.foldl f s) := by
  induction l generalizing s with
  | nil => exact .refl s
  | cons x l ih => exact (h s x).trans (ih _)

/-- What swallows that a window held back reach: domains and Tally. -/
theorem State.swallowDeferred_frame (s : State) :
    PointsKept s s.swallowDeferred ∧ ∃ x y, s.swallowDeferred = { s with domains := x, tally := y } := by
  unfold swallowDeferred
  constructor
  · refine PointsKept.foldl (fun t i => ?_) _ s
    dsimp only
    split
    · exact .refl t
    · refine PointsKept.trans ?_ (stretched_pointsKept _ i)
      exact t.setDomain_pointsKept rfl
  · generalize s.awakeDomains = l
    induction l generalizing s with
    | nil => exact ⟨_, _, rfl⟩
    | cons i l ih =>
      rw [List.foldl_cons]
      dsimp only
      split
      · exact ih s
      · obtain ⟨z, hz⟩ := (s.setDomain i { s.domain i with swallowed := (s.domain i).swallowed + (s.domain i).deferred, deferred := 0 }).stretched_eq i
        rw [hz]
        obtain ⟨x, y, h⟩ := ih _
        exact ⟨x, y, h⟩

/-- A Treasury fault sets its bit and journals, and reaches nothing else (R431). -/
theorem State.tsyFault_eq (s : State) {b : Nat} (hb : b < 32) : ∃ r q j, s.tsyFault b = { s with regs := r, recent := q, jnl := j } ∧
    sameBut r s.regs [tsyBase + 0xC] ∧ bit ((s.tsyFault b).reg (tsyBase + 0xC)).toNat b = true := by
  obtain ⟨j, hj⟩ := (s.orReg (tsyBase + 0xC) (2 ^ b)).notice_eq (Err.aon .notice (0x800 + b))
  have hreg : ((s.tsyFault b).reg (tsyBase + 0xC)) = (s.orReg (tsyBase + 0xC) (2 ^ b)).reg (tsyBase + 0xC) := by
    rw [tsyFault, hj]; rfl
  refine ⟨_, _, j, hj, s.regs_setReg _ _, ?_⟩
  rw [hreg, s.bit_orReg hb, Nat.testBit_two_pow_self, Bool.or_true]

theorem Passed.tsy {s t : State} (h : Passed s t) : t.tsy = s.tsy := State.standing_get h.standing State.tsy

/-- Edges that pass leave the Treasury's registers. -/
theorem Passed.reg_low {s t : State} (h : Passed s t) {o : Nat} (ho : o < 0x10000000) : t.reg o = s.reg o :=
  h.regs o fun d p i _ _ => by simp only [coreBase]; omega

theorem Passed.rf_low {s t : State} (h : Passed s t) {o : Nat} (hi lo : Nat) (ho : o < 0x10000000) : t.rf o hi lo = s.rf o hi lo := by
  rw [State.rf, State.rf, h.reg_low ho]

/-- The end of a change where an acknowledgement is missing (R416). -/
theorem State.cancel_eq {s : State} (hon : s.power.phase = .on) (hph : s.tsy.phase = .posted) (h : s.tsy.acks.length < 10) :
    ∃ t, exec .cancel s = .next t ∧ t.tsy = { s.tsy with phase := .idle, acks := [] } ∧
      bit (t.reg (tsyBase + 0xC)).toNat 1 = true ∧ t.rf (tsyBase + 8) 7 6 = s.rf (tsyBase + 8) 7 6 ∧
      t.edge = max s.edge (s.tsy.changeEdge - 1024) ∧
      (∀ k, (t.domain k).opIndex = (s.domain k).opIndex ∧ (t.domain k).swallowed = (s.domain k).swallowed) ∧
      t.mem = s.mem ∧ t.rings = s.rings ∧ t.outer = s.outer := by
  have hp := s.at_passed (s.tsy.changeEdge - 1024)
  have hedge := s.edge_at (s.tsy.changeEdge - 1024)
  have hexec : exec .cancel s = .next (({ s.at (s.tsy.changeEdge - 1024) with
      tsy := { (s.at (s.tsy.changeEdge - 1024)).tsy with phase := .idle, acks := [] } } : State).tsyFault 1) :=
    if_pos (by simp [hon, hph, h])
  generalize s.at (s.tsy.changeEdge - 1024) = u at *
  let v : State := { u with tsy := { u.tsy with phase := .idle, acks := [] } }
  obtain ⟨r, q, j, ht, hr, hbit⟩ := v.tsyFault_eq (b := 1) (by decide)
  have hk := hp.pointsKept
  have hrf : (v.tsyFault 1).rf (tsyBase + 8) 7 6 = s.rf (tsyBase + 8) 7 6 := by
    rw [← hp.rf_low 7 6 (by decide), ht, State.rf, State.reg, Tab.read, hr _ (by simp)]
    rfl
  refine ⟨_, hexec, ?_, hbit, hrf, ?_, fun k => ?_, ?_⟩
  · rw [← hp.tsy]; exact congrArg State.tsy ht
  · exact (congrArg State.edge ht).trans hedge
  · have hd : (v.tsyFault 1).domain k = u.domain k := by rw [ht]; rfl
    obtain ⟨y, hy⟩ := hp.domain k
    rw [hd, hy]
    exact ⟨rfl, rfl⟩
  · exact ⟨(congrArg State.mem ht).trans hk.mem, (congrArg State.rings ht).trans hk.rings, (congrArg State.outer ht).trans hk.outer⟩

/-- A change that every awake domain has made settles (R416). -/
theorem State.opSettle_all {s : State} (h : s.awakeDomains.all (fun i => s.tsy.switched.contains i) = true) :
    PointsKept s s.opSettle ∧ s.opSettle.tsy.phase = .idle ∧ s.opSettle.rf (tsyBase + 8) 7 6 = s.tsy.nextOp % 4 ∧
      s.tsy.changeEdge + 3 ≤ s.opSettle.edge := by
  have hp := s.at_passed (s.tsy.changeEdge + 3)
  have hedge := s.edge_at (s.tsy.changeEdge + 3)
  unfold opSettle
  rw [if_pos h]
  generalize s.at (s.tsy.changeEdge + 3) = u at *
  let s2 : State := { u.setRf (tsyBase + 8) 7 6 u.tsy.nextOp with tsy := { (u.setRf (tsyBase + 8) 7 6 u.tsy.nextOp).tsy with
    phase := .idle, acks := [], switched := [], sinceChange := 0 } }
  change PointsKept s s2.swallowDeferred ∧ s2.swallowDeferred.tsy.phase = .idle ∧ s2.swallowDeferred.rf (tsyBase + 8) 7 6 = _ ∧
    _ ≤ s2.swallowDeferred.edge
  obtain ⟨hkept, x, y, hframe⟩ := s2.swallowDeferred_frame
  have htsy := hp.tsy
  have hset : PointsKept u s2 := ⟨fun _ => rfl, rfl, rfl, rfl⟩
  refine ⟨(hp.pointsKept.trans hset).trans hkept, ?_, ?_, ?_⟩
  · rw [hframe]
  · have hregs : s2.swallowDeferred.regs = (u.setRf (tsyBase + 8) 7 6 u.tsy.nextOp).regs := by rw [hframe]
    rw [State.rf_of_regs hregs, State.rf_setRf_same _ _ _ _ (by decide), htsy]
    rfl
  · rw [hframe]
    exact (le_max_right _ _).trans_eq hedge.symm

theorem State.opSettle_some {s : State} (h : ¬ s.awakeDomains.all (fun i => s.tsy.switched.contains i) = true) : s.opSettle = s :=
  if_neg h

/-- A domain takes the new point, and is noted among those that have. -/
def State.takePoint (s : State) (i : Nat) : State :=
  { s.modDomain i (fun x => { x with opIndex := s.tsy.nextOp }) with
    tsy := { s.tsy with phase := .switching, switched := i :: s.tsy.switched } }

theorem State.takePoint_domain (s : State) (i : Nat) : (s.takePoint i).domain i = { s.domain i with opIndex := s.tsy.nextOp } :=
  s.domain_modDomain_same i (fun x => { x with opIndex := s.tsy.nextOp })

theorem State.takePoint_same (s : State) (i : Nat) : ((s.takePoint i).domain i).opIndex = s.tsy.nextOp := by rw [takePoint_domain]

theorem State.takePoint_other (s : State) {i k : Nat} (h : k ≠ i) : (s.takePoint i).domain k = s.domain k :=
  s.domain_modDomain_other (fun x => { x with opIndex := s.tsy.nextOp }) h

theorem State.awake_takePoint (s : State) (i k : Nat) : ((s.takePoint i).domain k).awake = (s.domain k).awake := by
  by_cases h : k = i
  · subst h
    rw [takePoint_domain]
  · rw [s.takePoint_other h]

/-- A domain whose own count has reached the edge of the change takes the new point (R416). -/
theorem State.opChangeSwitch_eq {s : State} {i : Fin 231} (hon : s.power.phase = .on) (hi : i.val < 228) (hacks : s.tsy.acks.length = 10)
    (hawake : (s.domain i.val).awake = true) (hnew : i.val ∉ s.tsy.switched) :
    ∃ t, exec (.opChangeSwitch i) s = .next t ∧ (t.domain i.val).opIndex = s.tsy.nextOp ∧
      (∀ k, k ≠ i.val → (t.domain k).opIndex = (s.domain k).opIndex) ∧
      ((∀ k, k < 228 → (s.domain k).awake = true → k = i.val ∨ k ∈ s.tsy.switched) →
        t.tsy.phase = .idle ∧ t.rf (tsyBase + 8) 7 6 = s.tsy.nextOp % 4 ∧ s.tsy.changeEdge + 3 ≤ t.edge) ∧
      (∀ k, k < 228 → (s.domain k).awake = true → k ≠ i.val → k ∉ s.tsy.switched →
        t.tsy = { s.tsy with phase := .switching, switched := i.val :: s.tsy.switched } ∧
        t.rf (tsyBase + 8) 7 6 = s.rf (tsyBase + 8) 7 6) ∧
      t.mem = s.mem ∧ t.rings = s.rings ∧ t.outer = s.outer := by
  have hp := s.at_passed (s.tsy.changeEdge + (s.domain i.val).swallowed - (s.domain (domXd 0 15)).swallowed)
  have hexec : exec (.opChangeSwitch i) s =
      .next ((s.at (s.tsy.changeEdge + (s.domain i.val).swallowed - (s.domain (domXd 0 15)).swallowed)).takePoint i.val).opSettle :=
    if_pos (by simp [hon, hi, hacks, hawake, hnew])
  generalize s.at (s.tsy.changeEdge + (s.domain i.val).swallowed - (s.domain (domXd 0 15)).swallowed) = u at *
  have hkept := hp.pointsKept
  have htsy := hp.tsy
  have hawakes : ∀ k, ((u.takePoint i.val).domain k).awake = (s.domain k).awake := fun k => by
    obtain ⟨r, hr⟩ := hp.domain k
    rw [State.awake_takePoint, hr]
  have hnext : (u.takePoint i.val).tsy.nextOp = s.tsy.nextOp := by rw [← htsy]; rfl
  have hchange : (u.takePoint i.val).tsy.changeEdge = s.tsy.changeEdge := by rw [← htsy]; rfl
  have hswitched : (u.takePoint i.val).tsy.switched = i.val :: s.tsy.switched := by rw [← htsy]; rfl
  have hmem : ∀ {k}, k ∈ (u.takePoint i.val).awakeDomains ↔ k < 228 ∧ (s.domain k).awake = true := fun {k} => by
    simp only [State.awakeDomains, List.mem_filter, List.mem_range, hawakes]
  by_cases hall : (u.takePoint i.val).awakeDomains.all (fun k => (u.takePoint i.val).tsy.switched.contains k) = true
  · obtain ⟨hk, hph, hrf, hedge⟩ := State.opSettle_all hall
    refine ⟨_, hexec, ?_, fun k hki => ?_, fun _ => ⟨hph, ?_, ?_⟩, fun k hk228 hka hki hks => ?_, ?_⟩
    · rw [hk.points, u.takePoint_same, htsy]
    · rw [hk.points, u.takePoint_other hki, hkept.points]
    · rw [hrf, hnext]
    · rwa [hchange] at hedge
    · exact absurd ((List.all_eq_true.1 hall k (hmem.2 ⟨hk228, hka⟩))) (by simp [hswitched, hki, hks])
    · exact ⟨hk.mem.trans hkept.mem, hk.rings.trans hkept.rings, hk.outer.trans hkept.outer⟩
  · rw [State.opSettle_some hall] at hexec
    refine ⟨_, hexec, ?_, fun k hki => ?_, fun h => ?_, fun k hk228 hka hki hks => ⟨?_, ?_⟩, ?_⟩
    · rw [u.takePoint_same, htsy]
    · rw [u.takePoint_other hki, hkept.points]
    · refine absurd (List.all_eq_true.2 fun k hk => ?_) hall
      obtain ⟨hk228, hka⟩ := hmem.1 hk
      simpa [hswitched] using h k hk228 hka
    · exact congrArg (fun x : Treasury => { x with phase := .switching, switched := i.val :: x.switched }) htsy
    · exact (State.rf_of_regs rfl _ _ _).trans (hp.rf_low 7 6 (by decide))
    · exact ⟨hkept.mem, hkept.rings, hkept.outer⟩

/-- Settles O46. -/
theorem pointChanges : Obligations.PointChanges := by
  unfold Obligations.PointChanges
  refine ⟨fun locked s hon hph => ⟨fun hl => ?_, fun hl => ?_⟩, fun s hon hph => ?_, fun die s hon hph => ⟨fun h hnew => ?_, fun h => ?_⟩,
    fun s hon hph => ⟨fun h => State.cancel_eq hon hph h, fun h => ?_⟩, fun i s hon hi hacks hawake hnew => ?_⟩
  · change execOpChangePrepare locked s = _
    rw [execOpChangePrepare, if_neg (by simp [hon, hph]), if_pos hl]
  · change ∃ t, execOpChangePrepare locked s = .next t ∧ _
    rw [execOpChangePrepare, if_neg (by simp [hon, hph]), if_neg hl]
    obtain ⟨r, q, j, ht, hr, hbit⟩ := State.tsyFault_eq { s with tsy := { s.tsy with phase := .idle } } (b := 2) (by decide)
    refine ⟨_, rfl, ?_, hbit, ?_⟩
    · rw [ht]
    · rw [ht]; exact hr
  · change ∃ t, execChange s = .next t ∧ _
    rw [execChange, if_neg (by simp [hon, hph])]
    generalize s.edge + 4096 = e
    exact ⟨_, rfl, rfl, s.regs_setReg _ _, s.reg_setReg_same _ _⟩
  · exact if_pos (by simp [hon, hph, h, hnew])
  · refine if_neg ?_
    rcases h with h | h
    · simp [Nat.not_le.2 h]
    · simp [h]
  · exact if_neg (by simp [Nat.not_lt.2 h])
  · exact State.opChangeSwitch_eq hon hi hacks hawake hnew

end Sys2Proof.Machine
end

section
/-! SUPPORT. Swallowed edges (R417 to R422, R428): throttling, droops, tokens, crossings and skew. -/

namespace Sys2Proof.Machine

/-! ### The throttle pattern (R428) -/

/-- Of any 64 consecutive mesh edges a level above 0 swallows one. -/
theorem exists_throttles {level : Nat} (h : 0 < level) (i : Nat) : ∃ k, i ≤ k ∧ k < i + 64 ∧ throttles level k = true := by
  by_contra hno
  have hstep : ∀ n, n ≤ 64 → (i + n) * level / 64 = i * level / 64 := by
    intro n hn
    induction n with
    | zero => rfl
    | succ n ih =>
      have hk : throttles level (i + n) = false := by
        cases hv : throttles level (i + n) with
        | false => rfl
        | true => exact absurd ⟨i + n, by omega, by omega, hv⟩ hno
      have hle : (i + n) * level / 64 ≤ (i + n + 1) * level / 64 := Nat.div_le_div_right (Nat.mul_le_mul_right _ (by omega))
      simp only [throttles, decide_eq_false_iff_not, not_lt] at hk
      rw [← ih (by omega)]
      exact le_antisymm hk hle
  have h64 := hstep 64 (le_refl _)
  rw [Nat.add_mul, Nat.add_mul_div_left _ _ (by decide)] at h64
  omega

theorem not_throttles_zero (k : Nat) : throttles 0 k = false := by simp [throttles]

/-! ### One domain -/

/-- A domain swallows edges: its own count rises, and Tally; no other domain changes. -/
structure Swallowed (i n : Nat) (own : Bool) (s t : State) : Prop where
  frame : t = { s with domains := t.domains, tally := t.tally }
  self : t.domain i = { s.domain i with swallowed := (s.domain i).swallowed + n,
                                        originated := (s.domain i).originated + if own then n else 0 }
  other : ∀ k, k ≠ i → t.domain k = s.domain k

theorem State.not_inWindow {s : State} (h : s.tsy.phase = .idle) (i : Nat) : s.inWindow i = false := by
  simp [inWindow, h]

/-- With no change in progress an awake domain swallows at once (R418). -/
theorem State.swallow_swallowed {s : State} {i : Nat} (hidle : s.tsy.phase = .idle) (hawake : (s.domain i).awake = true) (n : Nat)
    (own : Bool) : Swallowed i n own s (s.swallow i n own) := by
  unfold swallow
  dsimp only
  by_cases hn : n = 0
  · rw [if_pos (by simp [hn]), hn]
    exact ⟨rfl, by simp, fun _ _ => rfl⟩
  · rw [if_neg (by simp [hawake, hn]), if_neg (by simp [not_inWindow hidle])]
    let x : Domain := { s.domain i with swallowed := (s.domain i).swallowed + n,
                                        originated := if own then (s.domain i).originated + n else (s.domain i).originated }
    obtain ⟨y, hy⟩ := (s.setDomain i x).stretched_eq i
    change Swallowed i n own s ((s.setDomain i x).stretched i)
    rw [hy]
    refine ⟨rfl, (s.domain_setDomain_same i x).trans ?_, fun k hk => s.domain_setDomain_other x hk⟩

    cases own <;> rfl

/-! ### A region -/

theorem State.mem_awakeDomains {s : State} {i : Nat} : i ∈ s.awakeDomains ↔ i < 228 ∧ (s.domain i).awake = true := by
  simp [awakeDomains]

/-- Each awake domain of a list swallows `n` edges, and no other (R418). -/
theorem State.foldl_swallow {n : Nat} {l : List Nat} (hl : l.Nodup) {s : State} (hidle : s.tsy.phase = .idle)
    (hawake : ∀ i ∈ l, (s.domain i).awake = true) :
    (∀ i, (l.foldl (fun s i => s.swallow i n false) s).domain i =
      { s.domain i with swallowed := (s.domain i).swallowed + if i ∈ l then n else 0 }) ∧
    l.foldl (fun s i => s.swallow i n false) s =
      { s with domains := (l.foldl (fun s i => s.swallow i n false) s).domains, tally := (l.foldl (fun s i => s.swallow i n false) s).tally } := by
  induction l generalizing s with
  | nil => exact ⟨fun i => by simp, rfl⟩
  | cons j l ih =>
    obtain ⟨hj, hl⟩ := List.nodup_cons.1 hl
    obtain ⟨hframe, hself, hother⟩ := State.swallow_swallowed hidle (hawake j (by simp)) n false
    rw [List.foldl_cons]
    have hidle' : (s.swallow j n false).tsy.phase = .idle := by rw [hframe]; exact hidle
    obtain ⟨hdom, hfr⟩ := ih hl hidle' fun i hi => by
      rw [hother i (fun h => hj (h ▸ hi)), hawake i (by simp [hi])]
    refine ⟨fun i => ?_, ?_⟩
    · rw [hdom]
      by_cases hij : i = j
      · subst hij
        rw [hself]
        simp [hj]
      · rw [hother i hij]
        simp [hij]
    · rw [hfr, hframe]

/-- Every awake domain of a region swallows `n` edges (R428). -/
theorem State.swallowRegion_eq {s : State} (hidle : s.tsy.phase = .idle) (r n : Nat) :
    (∀ i, (s.swallowRegion r n).domain i = { s.domain i with swallowed :=
      (s.domain i).swallowed + if i < 228 ∧ (s.domain i).awake = true ∧ domRegion i = r then n else 0 }) ∧
    s.swallowRegion r n = { s with domains := (s.swallowRegion r n).domains, tally := (s.swallowRegion r n).tally } := by
  have hnodup : (s.awakeDomains.filter (fun i => domRegion i == r)).Nodup := (List.nodup_range.filter _).filter _
  obtain ⟨hdom, hframe⟩ := State.foldl_swallow (n := n) hnodup hidle fun i hi => (mem_awakeDomains.1 (List.mem_filter.1 hi).1).2
  refine ⟨fun i => ?_, hframe⟩
  have hmem : i ∈ s.awakeDomains.filter (fun i => domRegion i == r) ↔ i < 228 ∧ (s.domain i).awake = true ∧ domRegion i = r := by
    rw [List.mem_filter, mem_awakeDomains, beq_iff_eq, and_assoc]
  refine (hdom i).trans ?_
  simp only [hmem]

theorem mem_upFrom {a n k : Nat} : k ∈ upFrom a n ↔ a ≤ k ∧ k < a + n := by
  simp only [upFrom, List.mem_map, List.mem_range]
  constructor
  · rintro ⟨i, hi, rfl⟩
    omega
  · rintro ⟨h1, h2⟩
    exact ⟨k - a, by omega, by omega⟩

/-- The first of consecutive numbers that serves. -/
theorem find?_upFrom {a n k : Nat} {f : Nat → Bool} (h : (upFrom a n).find? f = some k) :
    a ≤ k ∧ f k = true ∧ ∀ j, a ≤ j → j < k → f j = false := by
  obtain ⟨hk, l, m, hlm, hl⟩ := List.find?_eq_some_iff_append.1 h
  have hmem := mem_upFrom.1 (List.mem_of_find?_eq_some h)
  refine ⟨hmem.1, hk, fun j hj hjk => ?_⟩
  have hsorted : (upFrom a n).Pairwise (· < ·) := by
    rw [upFrom, List.pairwise_map]
    exact List.pairwise_lt_range.imp fun h => by omega
  have hjm : j ∈ l ++ k :: m := hlm ▸ mem_upFrom.2 ⟨hj, by omega⟩
  rw [hlm, List.pairwise_append, List.pairwise_cons] at hsorted
  obtain ⟨-, ⟨hafter, -⟩, -⟩ := hsorted
  rcases List.mem_append.1 hjm with hjl | hjm
  · simpa using hl j hjl
  · rcases List.mem_cons.1 hjm with rfl | hjm
    · omega
    · have := hafter j hjm
      omega

/-! ### The commands -/

/-- A throttled region that is not capped goes to the next mesh edge that its pattern swallows (R428). -/
theorem State.throttleSwallow_eq {s : State} {r : Fin 64} (hon : s.power.phase = .on) (hidle : s.tsy.phase = .idle)
    (hcap : r.val ∉ s.tsy.capped) (hlevel : 0 < s.rf (tsyRstat r.val) 29 24) :
    ∃ t k, exec (.throttleSwallow r) s = .next t ∧ Tab.read 0 s.tsy.meshAt r.val ≤ k ∧
      throttles (s.rf (tsyRstat r.val) 29 24) k = true ∧
      (∀ j, Tab.read 0 s.tsy.meshAt r.val ≤ j → j < k → throttles (s.rf (tsyRstat r.val) 29 24) j = false) ∧
      Tab.read 0 t.tsy.meshAt r.val = k + 1 ∧ sameBut t.tsy.meshAt s.tsy.meshAt [r.val] ∧
      (∀ i, t.domain i = { s.domain i with swallowed :=
        (s.domain i).swallowed + if i < 228 ∧ (s.domain i).awake = true ∧ domRegion i = r.val then 1 else 0 }) ∧
      t = { s with domains := t.domains, tsy := { s.tsy with meshAt := t.tsy.meshAt }, tally := t.tally } := by
  obtain ⟨k₀, hlo, hhi, hk₀⟩ := exists_throttles hlevel (Tab.read 0 s.tsy.meshAt r.val)
  obtain ⟨k, hk⟩ := Option.isSome_iff_exists.1 (List.find?_isSome.2 ⟨k₀, mem_upFrom.2 ⟨hlo, hhi⟩, hk₀⟩)
  obtain ⟨hle, hthr, hfirst⟩ := find?_upFrom hk
  let s1 : State := { s with tsy := { s.tsy with meshAt := Tab.write 0 s.tsy.meshAt r.val (k + 1) } }
  have hexec : exec (.throttleSwallow r) s = .next (s1.swallowRegion r.val 1) := by
    change execThrottleSwallow r s = _
    simp only [execThrottleSwallow, hk]
    exact if_neg (by simp [hon, hcap])
  obtain ⟨hdom, hframe⟩ := State.swallowRegion_eq (s := s1) hidle r.val 1
  refine ⟨_, k, hexec, hle, hthr, hfirst, ?_, ?_, hdom, ?_⟩
  · rw [hframe]
    exact Tab.read_write_same 0 s.tsy.meshAt r.val (k + 1)
  · rw [hframe]
    exact sameBut_write 0 s.tsy.meshAt r.val (k + 1) (by simp)
  · rw [hframe]

/-- A hard cap swallows the edges that are left of the period, once (R428). -/
theorem State.hardCap_eq {s : State} {r : Fin 64} (hon : s.power.phase = .on) (hidle : s.tsy.phase = .idle)
    (hcap : r.val ∉ s.tsy.capped) (n : Nat) :
    ∃ t, exec (.hardCap r n) s = .next t ∧
      (∀ i, t.domain i = { s.domain i with swallowed :=
        (s.domain i).swallowed + if i < 228 ∧ (s.domain i).awake = true ∧ domRegion i = r.val then n else 0 }) ∧
      t = { s with domains := t.domains, tsy := { s.tsy with capped := r.val :: s.tsy.capped }, tally := t.tally } ∧
      exec (.hardCap r n) t = .next t ∧ exec (.throttleSwallow r) t = .next t := by
  let s1 : State := { s with tsy := { s.tsy with capped := r.val :: s.tsy.capped } }
  have hexec : exec (.hardCap r n) s = .next (s1.swallowRegion r.val n) := if_neg (by simp [hon, hcap])
  obtain ⟨hdom, hframe⟩ := State.swallowRegion_eq (s := s1) hidle r.val n
  have hcapped : (s1.swallowRegion r.val n).tsy.capped = r.val :: s.tsy.capped := by rw [hframe]
  refine ⟨_, hexec, hdom, ?_, if_pos (by simp [hcapped]), if_pos (by simp [hcapped])⟩
  rw [hframe]

theorem State.awake_of_crossing {s : State} {a b : Nat} (h : s.crossing a b = true) :
    (s.domain a).awake = true ∧ (s.domain b).awake = true := by
  simp only [crossing, Bool.and_eq_true] at h
  obtain ⟨⟨-, ha⟩, hb⟩ := h
  exact ⟨ha, hb⟩

/-- The ends of a crossing are domains on the arithmetic clock (R411). -/
theorem State.lt_of_crossing {s : State} {a b : Nat} (h : s.crossing a b = true) : a < 228 ∧ b < 228 := by
  simp only [crossing, neighbours, Bool.and_eq_true, decide_eq_true_eq] at h
  obtain ⟨⟨⟨-, ⟨⟨-, ha⟩, hb⟩, -⟩, -⟩, -⟩ := h
  exact ⟨ha, hb⟩

/-- A token raises the receiver's count to the sender's (R418). -/
theorem State.stretchToken_eq {s : State} {a b : Fin 231} (hx : s.crossing a.val b.val = true) (hidle : s.tsy.phase = .idle)
    (hdef : (s.domain b.val).deferred = 0) :
    ∃ t, exec (.stretchToken a b) s = .next t ∧ t = { s with domains := t.domains, tally := t.tally } ∧
      (t.domain b.val).swallowed = max (s.domain a.val).swallowed (s.domain b.val).swallowed ∧
      ∀ k, k ≠ b.val → t.domain k = s.domain k := by
  obtain ⟨-, hb⟩ := State.awake_of_crossing hx
  obtain ⟨hframe, hself, hother⟩ := State.swallow_swallowed hidle hb
    ((s.domain a.val).swallowed - ((s.domain b.val).swallowed + (s.domain b.val).deferred)) false
  refine ⟨_, if_pos hx, hframe, ?_, hother⟩
  rw [hself, hdef]
  exact (Nat.add_comm _ _).trans (Nat.sub_add_eq_max _ _)

/-- A skew event is counted, with both domains (R421). -/
def State.skewCounted (s : State) (lo hi : Nat) : State :=
  ((s.countRf (tsyBase + 0x8014) 31 17 1).setRf (tsyBase + 0x8014) 15 8 lo).setRf (tsyBase + 0x8014) 7 0 hi

/-- A skew event is counted, journalled, and delivered to Tally on both dies (R421). -/
def State.skewNoted (s : State) (lo hi skew : Nat) : State :=
  let s3 := (s.skewCounted lo hi).notice (Err.of .notice 0x820 lo (lo + 256 * hi) 0 skew)
  let s4 := s3.count (domBlock lo) 3 0x1FF 1
  if domBlock hi = domBlock lo then s4 else s4.count (domBlock hi) 3 0x1FF 1

theorem State.skewNoted_eq (s : State) (lo hi skew : Nat) :
    ∃ j x, s.skewNoted lo hi skew = { s.skewCounted lo hi with jnl := j, tally := x } := by
  obtain ⟨j, hj⟩ := (s.skewCounted lo hi).notice_eq (Err.of .notice 0x820 lo (lo + 256 * hi) 0 skew)
  obtain ⟨x, hx⟩ := State.count_eq { s.skewCounted lo hi with jnl := j } (domBlock lo) 3 0x1FF 1
  unfold skewNoted
  rw [hj]
  dsimp only
  rw [hx]
  split
  · exact ⟨j, x, rfl⟩
  · obtain ⟨y, hy⟩ := State.count_eq { s.skewCounted lo hi with jnl := j, tally := x } (domBlock hi) 3 0x1FF 1
    exact ⟨j, y, hy⟩

theorem State.skewCounted_frame (s : State) (lo hi : Nat) :
    ∃ r q, s.skewCounted lo hi = { s with regs := r, recent := q } := ⟨_, _, rfl⟩

theorem State.skewCounted_regs (s : State) {lo hi : Nat} (hlo : lo < 256) (hhi : hi < 256) :
    sameBut (s.skewCounted lo hi).regs s.regs [tsyBase + 0x8014] ∧
    (s.skewCounted lo hi).rf (tsyBase + 0x8014) 31 17 = min (s.rf (tsyBase + 0x8014) 31 17 + 1) 0x7FFF ∧
    (s.skewCounted lo hi).rf (tsyBase + 0x8014) 15 8 = lo ∧ (s.skewCounted lo hi).rf (tsyBase + 0x8014) 7 0 = hi := by
  have hc : (s.countRf (tsyBase + 0x8014) 31 17 1).rf (tsyBase + 0x8014) 31 17 = min (s.rf (tsyBase + 0x8014) 31 17 + 1) 0x7FFF :=
    (s.rf_setRf_same _ _ 17 (by decide)).trans (Nat.mod_eq_of_lt (by omega))
  refine ⟨?_, ?_, ?_, ?_⟩ <;> unfold skewCounted
  · exact sameBut_trans (State.regs_setReg _ _ _) (sameBut_trans (State.regs_setReg _ _ _) (s.regs_setReg _ _))
  · rw [State.rf_setRf_disjoint _ _ _ (by decide) (by decide), State.rf_setRf_disjoint _ _ _ (by decide) (by decide), hc]
  · rw [State.rf_setRf_disjoint _ _ _ (by decide) (by decide), State.rf_setRf_same _ _ _ _ (by decide)]
    exact Nat.mod_eq_of_lt hlo
  · rw [State.rf_setRf_same _ _ _ _ (by decide)]
    exact Nat.mod_eq_of_lt hhi

/-- A skew of 4 or more is held: the leading domain swallows it, and it is counted with both domains (R421). -/
theorem State.skewHold_eq {s : State} {a b : Fin 231} {lo hi lead skew : Nat} (hlo : lo = min a.val b.val) (hhi : hi = max a.val b.val)
    (hskew : skew = max (s.domEdge lo) (s.domEdge hi) - min (s.domEdge lo) (s.domEdge hi))
    (hlead : lead = (if s.domEdge hi < s.domEdge lo then lo else hi)) (hx : s.crossing lo hi = true) (hidle : s.tsy.phase = .idle)
    (h4 : 4 ≤ skew) :
    ∃ t, exec (.skewHold a b) s = .next t ∧
      t = { s with domains := t.domains, regs := t.regs, recent := t.recent, tally := t.tally, jnl := t.jnl } ∧
      (t.domain lead).swallowed = (s.domain lead).swallowed + skew ∧ (∀ k, k ≠ lead → t.domain k = s.domain k) ∧
      sameBut t.regs s.regs [tsyBase + 0x8014] ∧ t.rf (tsyBase + 0x8014) 31 17 = min (s.rf (tsyBase + 0x8014) 31 17 + 1) 0x7FFF ∧
      t.rf (tsyBase + 0x8014) 15 8 = lo ∧ t.rf (tsyBase + 0x8014) 7 0 = hi := by
  have hawake : (s.domain lead).awake = true := by
    obtain ⟨h1, h2⟩ := State.awake_of_crossing hx
    rw [hlead]
    split
    · exact h1
    · exact h2
  have hlt := State.lt_of_crossing hx
  have hs := State.swallow_swallowed hidle hawake skew true
  obtain ⟨j, x, ht⟩ := (s.swallow lead skew true).skewNoted_eq lo hi skew
  have hexec : exec (.skewHold a b) s = .next ((s.swallow lead skew true).skewNoted lo hi skew) := by
    subst hlo hhi hskew hlead
    exact if_pos (by simp [hx, h4])
  obtain ⟨hregs, hcount, hA, hB⟩ := (s.swallow lead skew true).skewCounted_regs (lo := lo) (hi := hi) (by omega) (by omega)
  obtain ⟨hframe, hself, hother⟩ := hs
  have hsregs : (s.swallow lead skew true).regs = s.regs := by rw [hframe]
  generalize s.swallow lead skew true = u at *
  refine ⟨_, hexec, ?_, ?_, fun k hk => ?_, ?_, ?_, ?_, ?_⟩ <;> rw [ht]
  · obtain ⟨r, q, hc⟩ := u.skewCounted_frame lo hi
    rw [hc, hframe]
  · exact congrArg Domain.swallowed hself
  · exact hother k hk
  · rw [← hsregs]
    exact hregs
  · rw [← State.rf_of_regs hsregs]
    exact hcount
  · exact hA
  · exact hB

/-- Settles O47. -/
theorem domainsSwallow : Obligations.DomainsSwallow := by
  unfold Obligations.DomainsSwallow
  refine ⟨fun r s hon hidle hcap => ⟨fun h => State.throttleSwallow_eq hon hidle hcap h, fun h => ?_,
    fun n => State.hardCap_eq hon hidle hcap n⟩, fun i n s hon hi hidle hawake => ?_, fun a b s hx hidle =>
    ⟨fun hdef => State.stretchToken_eq hx hidle hdef, ?_⟩, fun a b s hx => ⟨?_, ?_⟩,
    fun a b s lo hi lead skew hlo hhi hskew hlead => ⟨fun h => ?_, fun hx hidle h4 => State.skewHold_eq hlo hhi hskew hlead hx hidle h4⟩,
    fun by_ s hon => ?_⟩
  · change execThrottleSwallow r s = _
    have hnone : (upFrom (Tab.read 0 s.tsy.meshAt r.val) 64).find? (throttles 0) = none :=
      List.find?_eq_none.2 fun k _ => by simp [not_throttles_zero]
    simp [execThrottleSwallow, h, hnone]
  · obtain ⟨hframe, hself, hother⟩ := State.swallow_swallowed hidle hawake n.val true
    exact ⟨_, if_pos (by simp [hon, hi]), hframe, by rw [hself], hother⟩
  · obtain ⟨hframe, hself, hother⟩ := State.swallow_swallowed hidle (State.awake_of_crossing hx).1
      (s.domEdge a.val - s.domEdge b.val) true
    exact ⟨_, if_pos hx, hframe, by rw [hself], hother⟩
  · exact if_neg (by simp [hx])
  · exact if_neg (by simp [hx])
  · subst hlo hhi hskew
    refine if_neg fun hgo => ?_
    simp only [Bool.and_eq_true, decide_eq_true_eq] at hgo
    obtain ⟨hx, h4⟩ := hgo
    rcases h with h | h
    · simp [hx] at h
    · omega
  · exact congrArg Host.Outcome.next (State.gate_open hon _ _ by_)

end Sys2Proof.Machine
end

section
/-! SUPPORT. The Tellers: their queues, the records at their heads, and the schedule engines (R203 to R253). -/

namespace Sys2Proof.Machine

/-! ### Tellers by number -/

@[simp] theorem Step.teller_setTeller_same (x : Step) (n : Nat) (t : Teller) : (x.setTeller n t).teller n = t := by
  by_cases h : n = 0 <;> simp [Step.setTeller, Step.teller, h]

@[simp] theorem State.teller_setTeller_same (s : State) (n : Nat) (t : Teller) : (s.setTeller n t).teller n = t :=
  Step.teller_setTeller_same _ _ _

theorem Step.setTeller_reportDone (x : Step) (n : Nat) (t : Teller) : (x.setTeller n t).reportDone = x.reportDone := by
  unfold setTeller; split <;> rfl

theorem Step.setTeller_reportEntries (x : Step) (n : Nat) (t : Teller) : (x.setTeller n t).reportEntries = x.reportEntries := by
  unfold setTeller; split <;> rfl

/-- Reports leave the Tellers. -/
theorem Reported.teller {s t : State} (h : Reported s t) (n : Nat) : t.teller n = s.teller n := by
  rw [State.teller, h.step]
  rfl

theorem tlrBase_ne_vlFault (n m o : Nat) (ho : o < 0x100) : tlrBase n + o ≠ vlBase m + 0xC := by
  simp only [tlrBase, vlBase]
  omega

/-- A Teller's fault sets its bit, and reports. -/
theorem State.tlrFault_reported (s : State) (n b : Nat) (cls : ErrClass) (unit addr info : Nat) :
    Reported (s.orReg (tlrBase n + 0xC) (2 ^ b)) (s.tlrFault n b cls unit addr info) := Reported.report _ _

theorem State.tlrFault_teller (s : State) (n b : Nat) (cls : ErrClass) (unit addr info : Nat) (k : Nat) :
    (s.tlrFault n b cls unit addr info).teller k = s.teller k := (s.tlrFault_reported n b cls unit addr info).teller k

theorem State.tlrFault_bit (s : State) (n : Nat) {b : Nat} (hb : b < 32) (cls : ErrClass) (unit addr info : Nat) :
    bit ((s.tlrFault n b cls unit addr info).reg (tlrBase n + 0xC)).toNat b = true := by
  rw [(s.tlrFault_reported n b cls unit addr info).reg (fun m => tlrBase_ne_vlFault n m _ (by decide)), s.bit_orReg hb,
    Nat.testBit_two_pow_self, Bool.or_true]

theorem State.tlrFault_keeps (s : State) (n b : Nat) (cls : ErrClass) (unit addr info : Nat) :
    (s.tlrFault n b cls unit addr info).mem = s.mem ∧ (s.tlrFault n b cls unit addr info).cores = s.cores ∧
      (s.tlrFault n b cls unit addr info).outer = s.outer := by
  rw [(s.tlrFault_reported n b cls unit addr info).frame]
  exact ⟨rfl, rfl, rfl⟩

/-! ### The queue (R213, R239, R242) -/

/-- A record enters a queue that has room (R242). -/
theorem State.enqueueRec_room {s : State} {n i : Nat} (h : (s.teller n).level < 64) :
    s.enqueueRec n i = (s.setTeller n { s.teller n with queue := (s.teller n).queue ++ [i] }).wakeSeen (domXd n 9) :=
  if_neg (Nat.not_le.2 h)

/-- A record is discarded at a full queue, and QUEUE_OVER is set (R241, R242). -/
theorem State.enqueueRec_full {s : State} {n i : Nat} (h : 64 ≤ (s.teller n).level) :
    s.enqueueRec n i = s.tlrFault n 0 .step i 0 0 := if_pos h

/-- A wake condition is noted at its domain. -/
theorem State.wakeSeen_frame (s : State) (i : Nat) :
    s.wakeSeen i = { s with domains := (s.wakeSeen i).domains } ∧ sameBut (s.wakeSeen i).domains s.domains [i] := by
  unfold wakeSeen
  dsimp only
  split
  · exact ⟨rfl, sameBut_refl _ _⟩
  · exact ⟨rfl, sameBut_write _ _ _ _ (by simp)⟩

/-- A status that is posted: TLR_LAST, and the report being formed (R226, R249). -/
theorem State.postStatus_eq (s : State) (n layer status : Nat) : s.postStatus n layer status =
    { s.setReg (tlrBase n + 0x3C) (BitVec.ofNat 32 (2 ^ 24 * status + layer)) with
      step := { s.step with reportDone := s.step.reportDone + (if status = 0 then 1 else 0),
                            reportEntries := s.step.reportEntries ++
                              (if status = 0 then [] else [{ layer := layer, status := status, teller := n }]) } } := by
  unfold postStatus
  by_cases h : status = 0
  · rw [if_pos h, if_pos h, if_pos h, List.append_nil]
    rfl
  · rw [if_neg h, if_neg h, if_neg h]
    rfl

theorem State.broadcast_alone {s : State} (h : s.peersOf = 0) (i : Nat) (r : Rec) : s.broadcast i r = s := if_pos h

/-- A record in progress completes: its status is posted, and the layer it updated is sent (R209, R213). -/
theorem State.recordComplete_eq {n : Fin 2} {s u : State} {i layer status : Nat} {r : Rec} (hfree : s.memFree = true)
    (hcur : (s.teller n.val).current = some (i, layer, status)) (hr : r = decRec (s.teller n.val).record)
    (hu : u = (s.setTeller n.val { s.teller n.val with current := none, matrix := false }).postStatus n.val layer status) :
    exec (.recordComplete n) s = .next (if status ∈ [0, 2, 3] ∧ r.op = 0 then u.broadcast i r else u) := by
  change execRecordComplete n s = _
  subst hr hu
  simp only [execRecordComplete, hcur, hfree, Bool.not_true, Bool.false_eq_true, if_false]
  congr 1
  refine if_congr ?_ rfl rfl
  simp [or_assoc]

/-- Settles O33. -/
theorem tellerQueues : Obligations.TellerQueues := by
  unfold Obligations.TellerQueues
  refine ⟨fun n i s hon => ⟨fun h => ?_, fun h => ?_⟩, fun n s u i layer status r hfree hcur hr hu => ⟨?_, fun halone => ?_⟩, fun n s h => ?_,
    fun n s hon => ⟨fun h => ?_, fun hoff hq hfree => ?_, fun hoff hq hfree => ?_⟩⟩
  · have hw := State.wakeSeen_frame (s.setTeller n.val { s.teller n.val with queue := (s.teller n.val).queue ++ [i.toNat] }) (domXd n.val 9)
    rw [← State.enqueueRec_room h] at hw
    refine ⟨_, congrArg Host.Outcome.next (State.gate_firmware hon _ _ _), ?_, ?_, hw.2⟩
    · rw [hw.1]; rfl
    · rw [hw.1]; rfl
  · have hf : s.enqueueRec n.val i.toNat = _ := State.enqueueRec_full h
    obtain ⟨hmem, hcores, houter⟩ := s.tlrFault_keeps n.val 0 .step i.toNat 0 0
    refine ⟨_, (congrArg Host.Outcome.next (State.gate_firmware hon _ _ _)).trans (congrArg Host.Outcome.next hf), ?_, ?_, hmem, hcores, houter⟩
    · exact s.tlrFault_teller _ _ _ _ _ _ _
    · exact s.tlrFault_bit _ (by decide) _ _ _ _
  · refine State.recordComplete_eq hfree hcur hr ?_
    have hdone := s.step.setTeller_reportDone n.val { s.teller n.val with current := none, matrix := false }
    have hentries := s.step.setTeller_reportEntries n.val { s.teller n.val with current := none, matrix := false }
    rw [hu, State.postStatus_eq, State.setTeller]
    dsimp only
    rw [hdone, hentries]
    rfl
  · refine State.broadcast_alone ?_ i r
    have hreg : u.reg (vlBase 0 + 0x18) = s.reg (vlBase 0 + 0x18) := by
      rw [hu]
      exact s.reg_setReg_other _ (by simp only [tlrBase, vlBase]; omega)
    rw [State.peersOf, State.rf, hreg]
    exact halone
  · change execRecordComplete n s = _
    rcases h with h | h
    · simp only [execRecordComplete, h]
    · unfold execRecordComplete
      dsimp only
      split
      · rfl
      · rw [if_pos (by simp [h])]
  · exact (congrArg Host.Outcome.next (State.gate_firmware hon _ _ _)).trans (congrArg Host.Outcome.next (if_pos h))
  · have hgo : ¬ (s.rf (tlrBase n.val + 4) 0 0 = 1 ∨ (s.teller n.val).queue = []) := by simp [hoff, hq]
    have hflush : s.flushQueue n.val = _ := if_pos hfree
    refine ⟨s.flushQueue n.val, ?_, State.flushQueue_outer _ _, hflush⟩
    exact (congrArg Host.Outcome.next (State.gate_firmware hon _ _ _)).trans (congrArg Host.Outcome.next (if_neg hgo))
  · have hgo : ¬ (s.rf (tlrBase n.val + 4) 0 0 = 1 ∨ (s.teller n.val).queue = []) := by simp [hoff, hq]
    have hflush : s.flushQueue n.val = _ := if_neg (by simp [hfree])
    exact (congrArg Host.Outcome.next (State.gate_firmware hon _ _ _)).trans (congrArg Host.Outcome.next ((if_neg hgo).trans hflush))

end Sys2Proof.Machine
end

section
/-! SUPPORT. The head record of a Teller (R211, R213, R224, R226), and the schedules and the loss scale (R227 to R231). -/

namespace Sys2Proof.Machine

/-! ### The head of the queue -/

theorem State.tellerHead_some {s : State} {n i : Nat} {rest : List Nat} (hq : (s.teller n).queue = i :: rest) (hfree : s.memFree = true)
    (hpost : s.step.post = 0) (hen : s.rf (tlrBase n + 4) 0 0 = 1) (hcur : (s.teller n).current = none)
    (hawake : (s.domain (domXd n 9)).awake = true) :
    ∃ s1, s.tellerHead n = some (i, { (s.readRec n i).1 with frozen := s.frozenNow i (s.readRec n i).1 }, (s.readRec n i).2.1, s1) := by
  refine ⟨(s.readRec n i).2.2.setTeller n { (s.readRec n i).2.2.teller n with record := (s.readRec n i).1.raw }, ?_⟩
  simp only [tellerHead, hq]
  exact if_pos (by simp [hfree, hpost, hen, hcur, hawake])

theorem State.tellerHead_none {s : State} {n : Nat} (h : (s.teller n).queue = [] ∨ s.memFree = false ∨ s.step.post ≠ 0 ∨
    s.rf (tlrBase n + 4) 0 0 = 0 ∨ (s.teller n).current ≠ none ∨ (s.domain (domXd n 9)).awake = false) : s.tellerHead n = none := by
  unfold tellerHead
  dsimp only
  split
  · rfl
  · next i rest hq =>
    refine if_neg fun hgo => ?_
    simp only [Bool.and_eq_true, beq_iff_eq, Option.isNone_iff_eq_none] at hgo
    obtain ⟨⟨⟨⟨hfree, hpost⟩, hen⟩, hcur⟩, hawake⟩ := hgo
    rcases h with h | h | h | h | h | h <;> simp_all

/-- The record in progress is noted, to end with its status. -/
theorem State.teller_beginRec (s : State) (n i layer status : Nat) : (s.beginRec n i layer status).teller n =
    { s.teller n with queue := (s.teller n).queue.tail, current := some (i, layer, status) } := teller_setTeller_same _ _ _

theorem State.beginRec_frame (s : State) (n i layer status : Nat) : s.beginRec n i layer status =
    { s with step := s.step.setTeller n { s.teller n with queue := (s.teller n).queue.tail, current := some (i, layer, status) } } := rfl

/-- A record that ends with a fault: the fault is set, and the record is in progress with its status. -/
theorem State.faultedRec_spec (s : State) (n : Nat) {b : Nat} (hb : b < 32) (cls : ErrClass) (i addr info layer status : Nat) :
    let t := (s.tlrFault n b cls i addr info).beginRec n i layer status
    bit (t.reg (tlrBase n + 0xC)).toNat b = true ∧
      t.teller n = { s.teller n with queue := (s.teller n).queue.tail, current := some (i, layer, status) } ∧
      t.mem = s.mem ∧ t.cores = s.cores ∧ t.outer = s.outer := by
  intro t
  refine ⟨s.tlrFault_bit n hb cls i addr info, ?_, s.tlrFault_keeps n b cls i addr info⟩
  rw [← s.tlrFault_teller n b cls i addr info n]
  exact State.teller_beginRec _ _ _ _ _

section Rejected
variable {s : State} {n i a : Nat} {r : Rec}

theorem State.recBad_ue : s.recBad n i r true a = some ((s.tlrFault n 3 (s.ueClass a false) i a 0x42).beginRec n i r.layer 0x42) := rfl

theorem State.recBad_valid (h : r.invalid n = none) : s.recBad n i r false a = none := by
  simp [recBad, h]

theorem State.recBad_invalid {status : Nat} (h : r.invalid n = some status) :
    s.recBad n i r false a = some ((s.tlrFault n (if status = 0x40 then 1 else 2) .step i 0 status).beginRec n i r.layer status) := by
  by_cases h40 : status = 0x40
  · subst h40
    simp [recBad, h]
  · rw [if_neg h40]
    simp only [recBad, h, Bool.false_eq_true, if_false]

end Rejected

section Commands
variable {n : Fin 2} {s s1 : State} {i : Nat} {r : Rec} {ue : Bool} (h : s.tellerHead n.val = some (i, r, ue, s1))
include h

/-- TELLER_UPDATE on the head that may start: it rejects the record or runs it, where it is not a CONTRIBUTE record. -/
theorem exec_tellerUpdate (hop : ¬ (r.op = 1 ∧ ue = false)) :
    ∃ a, exec (.tellerUpdate n) s = match s1.recBad n.val i r ue a with
      | some t => .next t
      | none => .next (if r.frozen then s else s1.runUpdate n.val i r) := by
  refine ⟨2 ^ 32 * s.rf (tlrBase n.val + 0x1C) 15 0 + 2 ^ 7 * s.rf (tlrBase n.val + 0x18) 31 7 + 128 * i, ?_⟩
  change execTellerUpdate n s = _
  simp only [execTellerUpdate, h]
  rw [if_neg hop] <;> rfl

theorem exec_tellerContribute (hop : r.op = 1) (hue : ue = false) :
    exec (.tellerContribute n) s = match s1.recBad n.val i r ue 0 with
      | some t => .next t
      | none => .next (if r.frozen then s else s1.runContribute n.val i r) := by
  change execTellerContribute n s = _
  simp only [execTellerContribute, h]
  rw [if_neg (by simp [hop, hue])] <;> rfl

theorem exec_tellerFrozen : exec (.tellerFrozen n) s = .next
    (if ue || !r.frozen || (r.invalid n.val).isSome then s else (s1.countRf (tlrBase n.val + 0x30) 31 0 1).beginRec n.val i r.layer 1) := by
  change execTellerFrozen n s = _
  simp only [execTellerFrozen, h]
  split <;> rfl

/-- The head that is bad ends with its fault, whatever else it says. -/
theorem exec_rejectedRec {status b : Nat} (hb : b < 32)
    (hbad : ∀ a, ∃ cls addr info, s1.recBad n.val i r ue a = some ((s1.tlrFault n.val b cls i addr info).beginRec n.val i r.layer status)) :
    ∃ t, exec (if r.op = 1 ∧ ue = false then .tellerContribute n else .tellerUpdate n) s = .next t ∧
      bit (t.reg (tlrBase n.val + 0xC)).toNat b = true ∧
      t.teller n.val = { s1.teller n.val with queue := (s1.teller n.val).queue.tail, current := some (i, r.layer, status) } ∧
      t.mem = s1.mem ∧ t.cores = s1.cores ∧ t.outer = s.outer := by
  rw [← State.tellerHead_outer s n.val h]
  by_cases hop : r.op = 1 ∧ ue = false
  · obtain ⟨cls, addr, info, ht⟩ := hbad 0
    refine ⟨_, ?_, s1.faultedRec_spec n.val hb cls i addr info r.layer status⟩
    rw [if_pos hop, exec_tellerContribute h hop.1 hop.2, ht]
  · obtain ⟨a, hexec⟩ := exec_tellerUpdate h hop
    obtain ⟨cls, addr, info, ht⟩ := hbad a
    refine ⟨_, ?_, s1.faultedRec_spec n.val hb cls i addr info r.layer status⟩
    rw [if_neg hop, hexec, ht]

end Commands

/-- A field that is the whole register, as a count of one more. -/
theorem State.reg_countRf_word (s : State) (off : Nat) :
    (s.countRf off 31 0 1).reg off = BitVec.ofNat 32 (min ((s.reg off).toNat + 1) (2 ^ 32 - 1)) := by
  have hrf : s.rf off 31 0 = (s.reg off).toNat := by
    rw [rf, bits]
    have := (s.reg off).isLt
    omega
  have hset : ∀ x v : Nat, x < 2 ^ 32 → v < 2 ^ 32 → setBits x 31 0 v = v := fun x v hx hv => by
    simp only [setBits, bits]
    omega
  refine (State.reg_setReg_same _ _ _).trans ?_
  rw [hset _ _ (s.reg off).isLt (by omega), hrf]

/-- Settles O34. -/
theorem tellerRunsHead : Obligations.TellerRunsHead := by
  unfold Obligations.TellerRunsHead
  refine ⟨fun n s i rest hq hfree hpost hen hcur hawake => ?_, fun n s h => ?_, fun n s s1 i r ue h =>
    ⟨fun hue => ?_, fun status hue hinv => ?_, fun hue hop hval hfr => ?_, fun hue hop hval hfr => ?_, fun hue hval hfr => ?_,
      fun hue hop => ?_, fun hor => ?_, fun hfr => ?_⟩⟩
  · obtain ⟨s1, h⟩ := State.tellerHead_some hq hfree hpost hen hcur hawake
    exact ⟨s1, h, State.tellerHead_outer s n.val h⟩
  · have hnone := State.tellerHead_none h
    refine ⟨?_, ?_, ?_⟩
    · change execTellerUpdate n s = _
      simp only [execTellerUpdate, hnone]
    · change execTellerContribute n s = _
      simp only [execTellerContribute, hnone]
    · change execTellerFrozen n s = _
      simp only [execTellerFrozen, hnone]
  · subst hue
    have := exec_rejectedRec h (status := 0x42) (b := 3) (by decide) fun a => ⟨_, _, _, State.recBad_ue⟩
    rwa [if_neg (by simp)] at this
  · subst hue
    have := exec_rejectedRec h (status := status) (b := if status = 0x40 then 1 else 2) (by split <;> decide)
      fun a => ⟨_, _, _, State.recBad_invalid hinv⟩
    simpa only [and_true] using this
  · obtain ⟨a, hexec⟩ := exec_tellerUpdate h (by simp [hop])
    subst hue
    refine ⟨_, ?_, rfl, (State.runUpdate_outer _ _ _ _).trans (State.tellerHead_outer s n.val h)⟩
    rw [hexec, State.recBad_valid hval, hfr]
    rfl
  · subst hue
    refine ⟨_, ?_, rfl, (State.runContribute_outer _ _ _ _).trans (State.tellerHead_outer s n.val h)⟩
    rw [exec_tellerContribute h hop rfl, State.recBad_valid hval, hfr]
    rfl
  · refine ⟨_, (exec_tellerFrozen h).trans (congrArg Host.Outcome.next (if_neg (by simp [hue, hval, hfr]))), rfl, ?_, rfl, ?_⟩
    · exact s1.regs_setReg _ _
    · exact s1.reg_countRf_word _
  · change execTellerUpdate n s = _
    simp only [execTellerUpdate, h]
    exact if_pos ⟨hop, hue⟩
  · change execTellerContribute n s = _
    simp only [execTellerContribute, h]
    exact if_pos hor.symm
  · exact (exec_tellerFrozen h).trans (congrArg Host.Outcome.next (if_pos (by simp [hfr])))

/-! ### The loss scale (R230, R231) -/

/-- The fields of TLR_LS and of its configuration, read back. -/
theorem ls_fields {e good bad : Nat} (he : e ≤ 64) (hg : good < 65536) (hb : bad < 256) :
    bits (2 ^ 16 * good + 2 ^ 8 * bad + e) 6 0 = e ∧ bits (2 ^ 16 * good + 2 ^ 8 * bad + e) 31 16 = good ∧
    bits (2 ^ 16 * good + 2 ^ 8 * bad + e) 15 8 = bad := by
  simp only [bits]
  omega

theorem lsCfg_fields {emax emin growth : Nat} (dyn : Bool) (hmax : emax ≤ 64) (hmin : emin ≤ emax) (hg : growth < 65536) :
    bits (2 ^ 31 * b2n dyn + 2 ^ 24 * emax + 2 ^ 16 * emin + growth) 30 24 = emax ∧
    bits (2 ^ 31 * b2n dyn + 2 ^ 24 * emax + 2 ^ 16 * emin + growth) 22 16 = emin ∧
    bits (2 ^ 31 * b2n dyn + 2 ^ 24 * emax + 2 ^ 16 * emin + growth) 15 0 = growth ∧
    bit (2 ^ 31 * b2n dyn + 2 ^ 24 * emax + 2 ^ 16 * emin + growth) 31 = dyn := by
  cases dyn <;> simp only [bits, bit, b2n, beq_eq_decide, decide_eq_true_eq, decide_eq_false_iff_not, Bool.false_eq_true, if_true, if_false] <;> omega

theorem lsAfter_word {e good bad growth emax emin : Nat} (dyn : Bool) (he : e ≤ 64) (hg : good < 65536) (hb : bad < 256)
    (hgr : growth < 65536) (hmin : emin ≤ emax) (hmax : emax ≤ 64) (o : Nat) :
    lsAfter (2 ^ 16 * good + 2 ^ 8 * bad + e) (2 ^ 31 * b2n dyn + 2 ^ 24 * emax + 2 ^ 16 * emin + growth) o =
      if o = 0 then (if dyn = true ∧ growth ≠ 0 ∧ good + 1 = growth ∧ e < emax then e + 1 else 2 ^ 16 * min 65535 (good + 1) + e)
      else if o = 1 then 2 ^ 8 * min 255 (bad + 1) + (if dyn then max (e - 1) emin else e)
      else 2 ^ 16 * good + 2 ^ 8 * bad + e := by
  obtain ⟨h1, h2, h3⟩ := ls_fields he hg hb
  obtain ⟨k1, k2, k3, k4⟩ := lsCfg_fields dyn hmax hmin hgr
  simp only [lsAfter, h1, h2, h3, k1, k2, k3, k4, Nat.min_eq_right he, Nat.min_eq_right hmax, Nat.min_eq_right hmin]
  cases dyn <;> simp

/-! ### SCH_COMPUTE (R229, R250) -/

theorem exec_schCompute {n : Fin 2} {s : State} (hon : s.power.phase = .on) :
    exec (.schCompute .firmware n) s = .next (if !s.tlrDisabled then s.ignored (tlrBase n.val + 0x8004) else s.schNow n.val) :=
  congrArg Host.Outcome.next (State.gate_firmware hon _ _ _)

/-- Settles O35. -/
theorem schedulesAndLossScale : Obligations.SchedulesAndLossScale := by
  unfold Obligations.SchedulesAndLossScale
  refine ⟨fun e good bad growth emax emin he hg hb hgr hmin hmax dyn cfg ls hls hcfg => ?_, fun n s hon hdis => ?_,
    fun n s hon hdis hfree => ?_, fun n s hon hdis hfree => ?_⟩
  · have h := lsAfter_word dyn he hg hb hgr hmin hmax
    rw [hls, hcfg]
    exact ⟨h 0, h 1, h 2⟩
  · rw [exec_schCompute hon, if_pos (by simp [hdis])]
    rfl
  · have hnow : s.schNow n.val = _ := if_pos hfree
    refine ⟨s.schNow n.val, ?_, State.schNow_outer _ _, hnow⟩
    rw [exec_schCompute hon, if_neg (by simp [hdis])]
  · have hnow : s.schNow n.val = _ := if_neg (by simp [hfree])
    rw [exec_schCompute hon, if_neg (by simp [hdis]), hnow]

end Sys2Proof.Machine
end

section
/-! SUPPORT. Micro-batches and layer records (R183 to R192, R205, R207). -/

namespace Sys2Proof.Machine

/-! ### The lowest free number (R187) -/

/-- Numbers that are all in use are no more than the list is long. -/
theorem le_length_of_lt_mem {l : List Nat} {i : Nat} (h : ∀ k < i, k ∈ l) : i ≤ l.length := by
  have hsub : List.range i ⊆ l := fun k hk => h k (List.mem_range.1 hk)
  simpa using (List.nodup_range.subperm hsub).length_le

theorem firstFree_of_lowestFree {l : List Nat} {n i : Nat} (h : LowestFree l n i) : firstFree l n = some i := by
  obtain ⟨hn, hi, hbelow⟩ := h
  have hlen := le_length_of_lt_mem hbelow
  rw [firstFree, List.find?_range_eq_some]
  exact ⟨by simpa using hi, List.mem_range.2 (by omega), fun k hk => by simpa using hbelow k hk⟩

theorem firstFree_none {l : List Nat} {n : Nat} (h : ∀ i < n, i ∈ l) : firstFree l n = none := by
  rw [firstFree, List.find?_eq_none]
  intro i hi
  have hin : i < n := by
    have := List.mem_range.1 hi
    omega
  simpa using h i hin

/-- Where no number is the lowest free one, all are in use. -/
theorem mem_of_no_lowestFree {l : List Nat} {n : Nat} (h : ∀ i, ¬ LowestFree l n i) : ∀ i < n, i ∈ l := by
  intro i
  induction i using Nat.strong_induction_on with
  | _ i ih =>
    intro hi
    by_contra hmem
    exact h i ⟨hi, hmem, fun k hk => ih k hk (by omega)⟩

/-! ### Stamps (R186) -/

theorem stampWord_fields {ls step mb ver : Nat} {stale : Bool} (hver : ver < 2) (hmb : mb < 2 ^ 16) (hstep : step < 2 ^ 32) :
    stampStep (stampWord ls step mb ver stale) = step ∧ stampMb (stampWord ls step mb ver stale) = mb ∧
    stampVer (stampWord ls step mb ver stale) = ver ∧ stampStale (stampWord ls step mb ver stale) = stale ∧
    bits (stampWord ls step mb ver stale).toNat 127 96 = ls % 2 ^ 32 := by
  cases stale <;>
    simp only [stampStep, stampMb, stampVer, stampStale, stampWord, BitVec.toNat_ofNat, bits, bit, b2n, beq_eq_decide,
      decide_eq_true_eq, decide_eq_false_iff_not, Bool.false_eq_true, if_true, if_false] <;>
    omega

theorem State.activeVer_lt (s : State) : s.activeVer < 2 := Nat.mod_lt _ (by decide)

/-! ### The commands -/

theorem exec_microbatchAdmit {s : State} {n mb e : Nat} {stale : Bool} (hon : s.alive = true) (hnext : s.nextAdmission = some (n, mb, stale))
    (hfree : firstFree (s.step.stamps.map (·.1)) 32 = some e) :
    exec .microbatchAdmit s = .next { s with step := { s.step with
      stamps := Tab.put s.step.stamps e (stampWord (lossScale (s.stepExp n)) n mb s.activeVer stale), admitStep := n, nextMb := mb + 1 } } := by
  change execMicrobatchAdmit s = _
  simp only [execMicrobatchAdmit, hnext, hfree, hon, Bool.not_true, Bool.false_eq_true, if_false]

theorem exec_microbatchAdmit_none {s : State} (h : s.alive = false ∨ s.nextAdmission = none ∨ firstFree (s.step.stamps.map (·.1)) 32 = none) :
    exec .microbatchAdmit s = .next s := by
  change execMicrobatchAdmit s = _
  unfold execMicrobatchAdmit
  split
  · next n mb stale e hnext hfree =>
    refine if_pos ?_
    rcases h with h | h | h
    · simp [h]
    · simp [hnext] at h
    · simp [hfree] at h
  · rfl

/-- LAYER_RECORD_ENQUEUE by its conditions (R205, R207, R550). -/
theorem exec_layerRecordEnqueue (i : BitVec 16) (s : State) : exec (.layerRecordEnqueue i) s = .next
    (if !s.memFree || s.step.job.isNone then s
    else if !s.step.enqueued.contains i.toNat then
      (if s.step.post == 0 && s.recordDue s.tlrStep i.toNat then
        { s.enqueueRec (s.recOf i.toNat).teller i.toNat with step := { (s.enqueueRec (s.recOf i.toNat).teller i.toNat).step with
          enqueued := (s.enqueueRec (s.recOf i.toNat).teller i.toNat).step.enqueued ++ [i.toNat] } }
      else s)
    else if (s.step.job.any (·.overlap)) && decide (s.step.post ≤ 2) && !s.step.heldRecords.contains i.toNat &&
        s.recordDue (s.tlrStep + 1) i.toNat then
      { s with step := { s.step with heldRecords := s.step.heldRecords ++ [i.toNat] } }
    else s) := rfl

theorem Step.setTeller_enqueued (x : Step) (n : Nat) (t : Teller) : (x.setTeller n t).enqueued = x.enqueued := by
  unfold setTeller; split <;> rfl

/-- A record that is enqueued reaches the Teller, or its fault register, and nothing of memory or cores. -/
theorem State.enqueueRec_keeps (s : State) (n i : Nat) : (s.enqueueRec n i).step.enqueued = s.step.enqueued ∧
    (s.enqueueRec n i).mem = s.mem ∧ (s.enqueueRec n i).cores = s.cores ∧ (s.enqueueRec n i).outer = s.outer := by
  by_cases h : (s.teller n).level < 64
  · rw [enqueueRec_room h, (State.wakeSeen_frame _ _).1]
    exact ⟨Step.setTeller_enqueued _ _ _, rfl, rfl, rfl⟩
  · rw [enqueueRec_full (Nat.not_lt.1 h)]
    refine ⟨?_, s.tlrFault_keeps _ _ _ _ _ _⟩
    rw [(s.tlrFault_reported _ _ _ _ _ _).step]
    rfl

/-- Settles O36. -/
theorem microbatchesAdmitted : Obligations.MicrobatchesAdmitted := by
  unfold Obligations.MicrobatchesAdmitted
  refine ⟨fun s n mb e stale hon hn hmb hnext hfree => ?_, fun s h => ?_, fun i s hfree hjob hnew => ⟨fun hpost hdue => ?_, fun h => ?_⟩,
    fun i s j hfree hjob hold => ⟨fun h => ?_, fun h => ?_⟩, fun i s h => ?_⟩
  · exact ⟨_, _, exec_microbatchAdmit hon hnext (firstFree_of_lowestFree hfree), rfl, stampWord_fields s.activeVer_lt hmb hn⟩
  · exact exec_microbatchAdmit_none (h.imp id (Or.imp id firstFree_none))
  · have hjob' : s.step.job.isNone = false := by simpa using hjob
    obtain ⟨henq, hmem, hcores, houter⟩ := s.enqueueRec_keeps (s.recOf i.toNat).teller i.toNat
    rw [exec_layerRecordEnqueue, if_neg (by simp [hfree, hjob']), if_pos (by simpa using hnew), if_pos (by simp [hpost, hdue])]
    refine ⟨_, rfl, congrArg (· ++ [i.toNat]) henq, hmem, hcores, houter, fun hroom => ?_⟩
    have hstep : (s.enqueueRec (s.recOf i.toNat).teller i.toNat).step = s.step.setTeller (s.recOf i.toNat).teller
        { s.teller (s.recOf i.toNat).teller with queue := (s.teller (s.recOf i.toNat).teller).queue ++ [i.toNat] } := by
      rw [State.enqueueRec_room hroom, (State.wakeSeen_frame _ _).1]
      rfl
    dsimp only
    rw [henq, hstep]
  · have hjob' : s.step.job.isNone = false := by simpa using hjob
    rw [exec_layerRecordEnqueue, if_neg (by simp [hfree, hjob']), if_pos (by simpa using hnew), if_neg ?_]
    rcases h with h | h <;> simp [h]
  · obtain ⟨hov, hpost, hheld, hdue⟩ := h
    rw [exec_layerRecordEnqueue, if_neg (by simp [hfree, hjob]), if_neg (by simpa using hold), if_pos (by simp [hjob, hov, hpost, hheld, hdue])]
  · rw [exec_layerRecordEnqueue, if_neg (by simp [hfree, hjob]), if_neg (by simpa using hold), if_neg ?_]
    intro hgo
    simp only [hjob, Option.any_some, Bool.and_eq_true, decide_eq_true_eq, Bool.not_eq_true', List.contains_eq_mem, decide_eq_false_iff_not] at hgo
    obtain ⟨⟨⟨hov, hpost⟩, hheld⟩, hdue⟩ := hgo
    exact h ⟨hov, hpost, hheld, hdue⟩
  · rw [exec_layerRecordEnqueue, if_pos ?_]
    rcases h with h | h <;> simp [h]

end Sys2Proof.Machine
end

section
/-! SUPPORT. SETTLE, the vote, and the decision (R233 to R235); class-0 messages that arrive (R396, R398). -/

namespace Sys2Proof.Machine

/-! ### A class-0 message that arrives once -/

/-- A fresh class-0 message for this package is taken from its port, its credits are owed, and it is applied once (R398). -/
theorem State.arrive_once {s : State} {p : Nat} {m : Msg} {mine : Msg → Bool} (f : State → Msg → State) (hon : s.alive = true)
    (hoff : s.offers p 0 m) (hmine : mine m = true) (hseen : withoutHops m.head ∉ s.link.seen) :
    ∃ l : Link, l.members = s.link.members ∧ s.arrive p 0 mine f = f { s with link := l } m := by
  obtain ⟨⟨rest, hin⟩, hdst, hver, hcls⟩ := hoff
  refine ⟨{ ((s.unqueue p 0).owe p m).link with seen := ((s.unqueue p 0).owe p m).link.seen ++ [withoutHops m.head] }, rfl, ?_⟩
  unfold arrive
  split
  · next hnil => rw [hin] at hnil; simp at hnil
  · next m' _ hin' =>
    obtain rfl : m' = m := by
      rw [hin] at hin'
      exact (List.cons.inj hin').1.symm
    rw [if_neg (by simp [hon, hdst]), if_neg (by simp [hver, hcls]), if_neg (by simp [hmine]), if_pos rfl]
    refine if_neg (c := ((s.unqueue p 0).owe p m').link.seen.contains (withoutHops m'.head) = true) ?_
    rw [show ((s.unqueue p 0).owe p m').link.seen = s.link.seen from rfl]
    simpa using hseen

/-! ### The decision (R234) -/

/-- What a decision reaches: the step, and the error that a skip handles. -/
theorem State.beginHandling_eq (s : State) : ∃ j, s.beginHandling = { s with jnl := j } := by
  unfold beginHandling
  split
  · exact ⟨_, rfl⟩
  · exact ⟨s.jnl, rfl⟩

theorem State.beginHandling_step (s : State) : s.beginHandling.step = s.step := by
  obtain ⟨j, hj⟩ := s.beginHandling_eq
  rw [hj]

/-- With a vote missing, or outside VOTE, there is no decision. -/
theorem State.tryDecide_waits {s : State}
    (h : ¬ (s.step.post = 2 ∧ ∀ k ∈ s.voters, ∃ y ∈ s.step.votes, s.voteNow y = true ∧ y.src = k)) : s.tryDecide = s := by
  refine if_neg fun hgo => h ⟨hgo.1, fun k hk => ?_⟩
  have hany := List.all_eq_true.1 hgo.2 k hk
  simpa [and_assoc] using hany

/-- With every vote held in VOTE, the decision is SKIP where one has a latch set, otherwise POSTING. -/
theorem State.tryDecide_decides {s : State} (hpost : s.step.post = 2)
    (h : ∀ k ∈ s.voters, ∃ y ∈ s.step.votes, s.voteNow y = true ∧ y.src = k) :
    s.tryDecide.step.post = (if s.step.votes.any (fun y => s.voteNow y && (y.nonfinite || y.fault)) then 4 else 3) := by
  have hall : (s.voters.all (fun m => (s.step.votes.filter (fun v => s.voteNow v)).any (fun v => v.src == m))) = true := by
    rw [List.all_eq_true]
    intro k hk
    simpa [and_assoc] using h k hk
  have hlatch : ((s.step.votes.filter (fun v => s.voteNow v)).any (fun v => v.nonfinite) ||
      (s.step.votes.filter (fun v => s.voteNow v)).any (fun v => v.fault)) =
      s.step.votes.any (fun y => s.voteNow y && (y.nonfinite || y.fault)) := by
    refine Bool.eq_iff_iff.2 ?_
    simp only [Bool.or_eq_true, List.any_eq_true, List.mem_filter, Bool.and_eq_true]
    grind
  unfold tryDecide
  dsimp only
  rw [if_pos ⟨hpost, hall⟩, hlatch]
  split
  · rw [State.beginHandling_step]
  · rfl

/-- A decision leaves all but the step's place, its latches and votes, and the Journal. -/
theorem State.tryDecide_frame (s : State) : s.tryDecide = { s with step := s.tryDecide.step, jnl := s.tryDecide.jnl } ∧
    s.tryDecide.step.votedNonfinite = s.step.votedNonfinite ∧ s.tryDecide.step.votedFault = s.step.votedFault := by
  unfold tryDecide
  extract_lets mine nf fl step s1
  split
  · split
    · obtain ⟨j, hj⟩ := s1.beginHandling_eq
      rw [hj]
      exact ⟨rfl, rfl, rfl⟩
    · exact ⟨rfl, rfl, rfl⟩
  · exact ⟨rfl, rfl, rfl⟩

/-! ### SETTLE and the vote (R234, R235) -/

/-- The package's own vote (R234). -/
def State.ownVote (s : State) : Vote :=
  { src := s.self, step := s.tlrStep, epoch := s.epoch, skips := s.skips, nonfinite := s.step.nonfinite, fault := s.step.faulted }

/-- The state in VOTE, its latches taken and its own vote held. -/
def State.castVote (s : State) : State :=
  { s with step := { s.step with post := 2, votedNonfinite := s.step.nonfinite, votedFault := s.step.faulted,
                                 votes := s.step.votes ++ [s.ownVote] } }

theorem State.voteNow_ownVote (s : State) : s.voteNow s.ownVote = true := by
  simp [State.voteNow, State.ownVote]

theorem execVoteSend_casts {s : State} (hon : s.alive = true) (hpost : s.step.post = 1) (hacks : s.ldg.acksDue = [])
    (hsec : s.securingDone = true) (hchk : s.checkpointDue = false) :
    execVoteSend s =
      .next (s.castVote.sendAll 1 s.tlrStep (b2n s.step.nonfinite + 2 * b2n s.step.faulted)).tryDecide :=
  if_neg (by simp [hon, hpost, hacks, hsec, hchk])

/-- The vote that a message carries (R235). -/
def voteOf (m : Msg) : Vote :=
  { src := msgSrc m, step := msgStep m, epoch := msgEpoch m, skips := msgSkips m, nonfinite := bit (msgBytes m 32 1) 0,
    fault := bit (msgBytes m 32 1) 1 }

/-- The state that holds one more vote. -/
def State.holdVote (s : State) (v : Vote) : State := { s with step := { s.step with votes := s.step.votes ++ [v] } }

/-- What a vote that arrives once does: it is discarded with its fault bit, or kept and counted. -/
def State.hearVote (s : State) (m : Msg) : State :=
  if (voteOf m).step ≠ s.tlrStep ∨ (voteOf m).epoch ≠ s.epoch ∨ 32768 ≤ ((voteOf m).skips + 65536 - s.skips) % 65536 then
    (s.orReg (tlrBase 0 + 0xC) 0x20).notice (Err.aon .notice 0x605 0 (voteOf m).src)
  else (s.holdVote (voteOf m)).tryDecide

theorem State.hearVote_old {s : State} {m : Msg} (h : (voteOf m).step ≠ s.tlrStep ∨ (voteOf m).epoch ≠ s.epoch ∨
      32768 ≤ ((voteOf m).skips + 65536 - s.skips) % 65536) :
    s.hearVote m = (s.orReg (tlrBase 0 + 0xC) 0x20).notice (Err.aon .notice 0x605 0 (voteOf m).src) :=
  if_pos h

theorem State.hearVote_now {s : State} {m : Msg} (hstep : (voteOf m).step = s.tlrStep) (hepoch : (voteOf m).epoch = s.epoch)
    (hskips : ((voteOf m).skips + 65536 - s.skips) % 65536 < 32768) : s.hearVote m = (s.holdVote (voteOf m)).tryDecide :=
  if_neg fun h => h.elim (fun h => h hstep) fun h => h.elim (fun h => h hepoch) fun h => absurd hskips (Nat.not_lt.2 h)

theorem execVote_arrives (p : Fin 18) (s : State) : execVote p s = .next (s.arrive p.val 0 (isTransport 1) State.hearVote) := rfl

/-- Who votes, and which votes are of the attempt in progress, depends on the registers and the members. -/
theorem State.voters_of_members {s t : State} (hreg : t.regs = s.regs) (hl : t.link.members = s.link.members) :
    t.voters = s.voters := by
  simp only [State.voters, State.peers, State.self, State.rf_of_regs hreg, hl]

/-- With no other package in the job nothing is sent. -/
theorem State.sendAll_alone {s : State} (h : s.peers = []) (transport step fields : Nat) : s.sendAll transport step fields = s := by
  rw [State.sendAll, h, List.foldl_nil]

/-- A lone package decides by its own vote. -/
theorem State.tryDecide_alone {s : State} {v : Vote} (hpeers : s.peers = []) (hpost : s.step.post = 2) (hvotes : s.step.votes = [v])
    (hnow : s.voteNow v = true) (hsrc : v.src = s.self) :
    s.tryDecide.step.post = (if v.nonfinite || v.fault then 4 else 3) := by
  rw [State.tryDecide_decides hpost, hvotes]
  · simp [hnow]
  · intro k hk
    obtain rfl : k = s.self := by simpa [State.voters, hpeers] using hk
    exact ⟨v, by simp [hvotes], hnow, hsrc⟩

/-- Sending to the other packages and deciding leave the latches that were taken, memory, cores and what lies outside. -/
theorem State.tryDecide_sendAll (s : State) (transport step fields : Nat) :
    (s.sendAll transport step fields).tryDecide.step.votedNonfinite = s.step.votedNonfinite ∧
    (s.sendAll transport step fields).tryDecide.step.votedFault = s.step.votedFault ∧
    (s.sendAll transport step fields).tryDecide.mem = s.mem ∧ (s.sendAll transport step fields).tryDecide.cores = s.cores ∧
    (s.sendAll transport step fields).tryDecide.outer = s.outer := by
  obtain ⟨hframe, -, hstep, -⟩ := Reported.sendAll s transport step fields
  obtain ⟨hdecide, hnf, hf⟩ := (s.sendAll transport step fields).tryDecide_frame
  refine ⟨?_, ?_, ?_, ?_, ?_⟩
  · rw [hnf, hstep]
  · rw [hf, hstep]
  · rw [hdecide, hframe]
  · rw [hdecide, hframe]
  · rw [hdecide, hframe]
    rfl

/-- A fault bit of the vote that is set and journalled, and the rest as it was. -/
theorem State.voteFault (s : State) {mask b : Nat} (e : Err) (hb : b < 32) (hbit : mask.testBit b = true) :
    bit (((s.orReg (tlrBase 0 + 0xC) mask).notice e).reg (tlrBase 0 + 0xC)).toNat b = true ∧
    ∃ j, (s.orReg (tlrBase 0 + 0xC) mask).notice e =
      { s with regs := (s.orReg (tlrBase 0 + 0xC) mask).regs, recent := (s.orReg (tlrBase 0 + 0xC) mask).recent, jnl := j } := by
  obtain ⟨j, hj⟩ := (s.orReg (tlrBase 0 + 0xC) mask).notice_eq e
  rw [hj]
  refine ⟨?_, j, rfl⟩
  change bit ((s.orReg (tlrBase 0 + 0xC) mask).reg (tlrBase 0 + 0xC)).toNat b = true
  rw [State.bit_orReg s hb, hbit, Bool.or_true]

/-- Settles O37: SETTLE, the vote and its timeout by their guards; a vote that arrives once is discarded or kept, and decides
when it is the last of the voters'. -/
theorem votesDecide : Obligations.VotesDecide := by
  unfold Obligations.VotesDecide
  refine ⟨fun s => ⟨fun hon hrun hend => ?_, fun hnot => ?_⟩, fun s hon hpost hacks hsec hchk => ?_, fun s hnot => ?_,
    fun p s m v hon hoff htr hseen hv => ?_, fun s hon hpost hst htime => ?_, fun s hnot => ?_⟩
  · refine congrArg Host.Outcome.next (if_pos ?_)
    rcases hend with ⟨hm, hu⟩ | ⟨hf, hw⟩ <;> simp [*]
  · refine congrArg Host.Outcome.next (if_neg ?_)
    rcases hnot with h | h | ⟨h | h, h' | h'⟩ <;> simp [*]
  · refine ⟨_, _, execVoteSend_casts hon hpost hacks hsec hchk, rfl, rfl, ?_⟩
    obtain ⟨hnf, hf, hmem, hcores, hout⟩ :=
      s.castVote.tryDecide_sendAll 1 s.tlrStep (b2n s.step.nonfinite + 2 * b2n s.step.faulted)
    refine ⟨hnf, hf, hmem, hcores, hout, fun hpeers hvotes => ?_⟩
    rw [State.sendAll_alone (s := s.castVote) hpeers]
    refine ⟨State.tryDecide_alone (s := s.castVote) (v := s.ownVote) hpeers rfl ?_ s.voteNow_ownVote rfl, ?_⟩
    · simp [State.castVote, hvotes]
    · rw [s.castVote.tryDecide_frame.1]
      rfl
  · refine if_pos ?_
    rcases hnot with h | h | h | h <;> simp [h]
  · obtain rfl : v = voteOf m := hv
    obtain ⟨l, hl, harr⟩ := State.arrive_once (mine := isTransport 1) State.hearVote hon hoff (by simpa [isTransport] using htr) hseen
    have hexec : exec (.vote p) s = .next (State.hearVote { s with link := l } m) := congrArg Host.Outcome.next harr
    refine ⟨fun hold => ?_, fun hstep hepoch hskips => ?_⟩
    · obtain ⟨hbit, j, hj⟩ := State.voteFault { s with link := l } (mask := 0x20) (b := 5) (Err.aon .notice 0x605 0 (voteOf m).src)
        (by decide) (by decide)
      refine ⟨_, hexec, ?_⟩
      rw [State.hearVote_old (s := { s with link := l }) hold]
      refine ⟨hbit, ?_⟩
      rw [hj]
    · have hkeep := State.hearVote_now (s := { s with link := l }) hstep hepoch hskips
      have hvoters : (State.holdVote { s with link := l } (voteOf m)).voters = s.voters := State.voters_of_members rfl hl
      refine ⟨_, hexec, ?_⟩
      rw [hkeep]
      refine ⟨?_, fun hnot => ?_, fun _ hmiss => ?_, fun hpost hall => ?_⟩
      · rw [(State.holdVote { s with link := l } (voteOf m)).tryDecide_frame.1]
        rfl
      · rw [State.tryDecide_waits (s := State.holdVote { s with link := l } (voteOf m)) fun h => hnot h.1]
        rfl
      · obtain ⟨k, hk, hnone⟩ := hmiss
        rw [State.tryDecide_waits (s := State.holdVote { s with link := l } (voteOf m))]
        · rfl
        · rintro ⟨-, h⟩
          obtain ⟨y, hy, hnow, hsrc⟩ := h k (hvoters ▸ hk)
          exact hnone y hy hnow hsrc
      · exact State.tryDecide_decides hpost (by rw [hvoters]; exact hall)
  · obtain ⟨hbit, j, hj⟩ := State.voteFault { s with step := { s.step with stalled := true } } (mask := 0x10) (b := 4)
      (Err.aon .notice 0x604) (by decide) (by decide)
    refine ⟨_, congrArg Host.Outcome.next (if_pos (by simp [hon, hpost, hst, htime])), ?_, hbit, ?_⟩
    · rw [hj]
    · rw [hj]
  · refine congrArg Host.Outcome.next (if_neg ?_)
    rcases hnot with h | h | h <;> simp [h]

end Sys2Proof.Machine
end

section
/-! SUPPORT. The grants of R427, the throttle levels and patterns of R428. -/

namespace Sys2Proof.Machine

/-! ### Sums and rounds of R427 -/

theorem foldl_add_eq_sum {α : Type} (f : α → Nat) (l : List α) (a : Nat) : l.foldl (fun a x => a + f x) a = a + (l.map f).sum := by
  induction l generalizing a with
  | nil => simp
  | cons x l ih => simp [ih, Nat.add_assoc]

/-- The watts that a list of regions holds. -/
def granted (l : List Want) : Nat := (l.map (·.grant)).sum

/-- What a round may do to a region: raise its grant, not beyond its demand, and not at weight 0. -/
def Want.Raised (x y : Want) : Prop :=
  y.demand = x.demand ∧ y.weight = x.weight ∧ x.grant ≤ y.grant ∧ y.grant ≤ max x.demand x.grant ∧ (x.weight = 0 → y.grant = x.grant)

theorem Want.Raised.refl (x : Want) : x.Raised x := ⟨rfl, rfl, Nat.le_refl _, by omega, fun _ => rfl⟩

theorem Want.Raised.trans {x y z : Want} (h : x.Raised y) (h' : y.Raised z) : x.Raised z := by
  obtain ⟨hd, hw, hle, hmax, hzero⟩ := h
  obtain ⟨hd', hw', hle', hmax', hzero'⟩ := h'
  exact ⟨hd'.trans hd, hw'.trans hw, by omega, by omega, fun h0 => by rw [hzero' (hw.trans h0), hzero h0]⟩

theorem forall₂_raised_trans {l l' l'' : List Want} (h : List.Forall₂ Want.Raised l l') (h' : List.Forall₂ Want.Raised l' l'') :
    List.Forall₂ Want.Raised l l'' := by
  induction h generalizing l'' with
  | nil => exact h'
  | cons hx _ ih =>
    cases h' with
    | cons hy ht => exact .cons (hx.trans hy) (ih ht)

theorem Want.unmet_iff (x : Want) : x.unmet = true ↔ x.grant < x.demand ∧ 0 < x.weight := by
  simp [Want.unmet]

/-- One watt each raises the grants by what it takes from the rest. -/
theorem oneEach_raised (l : List Want) (n : Nat) :
    List.Forall₂ Want.Raised l (oneEach l n).1 ∧ granted (oneEach l n).1 + (oneEach l n).2 = granted l + n := by
  induction l generalizing n with
  | nil => exact ⟨.nil, rfl⟩
  | cons x t ih =>
    rw [oneEach]
    split
    · next hgo =>
      obtain ⟨hx, hn⟩ : x.unmet = true ∧ 0 < n := by simpa using hgo
      obtain ⟨hraised, hsum⟩ := ih (n - 1)
      have hunmet := x.unmet_iff.1 hx
      refine ⟨.cons ⟨rfl, rfl, Nat.le_succ _, ?_, fun h => by omega⟩ hraised, ?_⟩
      · show x.grant + 1 ≤ _
        omega
      · simp only [granted, List.map_cons, List.sum_cons] at hsum ⊢
        omega
    · obtain ⟨hraised, hsum⟩ := ih n
      refine ⟨.cons (.refl x) hraised, ?_⟩
      simp only [granted, List.map_cons, List.sum_cons] at hsum ⊢
      omega

/-- One watt each hands out a watt where a region is unmet and a watt remains. -/
theorem oneEach_lt {l : List Want} {n : Nat} (hn : 0 < n) (h : l.any Want.unmet = true) : (oneEach l n).2 < n := by
  have hle : ∀ (l : List Want) (n : Nat), (oneEach l n).2 ≤ n := fun l => by
    induction l with
    | nil => exact fun n => Nat.le_refl n
    | cons x t ih =>
      intro n
      rw [oneEach]
      split
      · exact (ih _).trans (Nat.sub_le _ _)
      · exact ih n
  induction l with
  | nil => simp at h
  | cons x t ih =>
    rw [oneEach]
    split
    · have := hle t (n - 1)
      show (oneEach t (n - 1)).2 < n
      omega
    · next hnot =>
      have hx : x.unmet = false := by simpa [hn] using hnot
      exact ih (by simpa [hx] using h)

/-- The weights of the unmet regions. -/
def unmetWeight (l : List Want) : Nat := (l.filter Want.unmet).foldl (fun a x => a + x.weight) 0

/-- The shares of a round sum to what remains at most. -/
theorem sum_share_le (l : List Want) (n : Nat) : (l.map (fun x => x.share n (unmetWeight l))).sum ≤ n := by
  have hweight : unmetWeight l = (l.map (fun x => if x.unmet then x.weight else 0)).sum := by
    rw [unmetWeight, foldl_add_eq_sum, Nat.zero_add]
    induction l with
    | nil => rfl
    | cons x t ih => by_cases hx : x.unmet = true <;> simp [hx, ih]
  have hmul : ∀ w, (l.map (fun x => x.share n w)).sum * w ≤ n * (l.map (fun x => if x.unmet then x.weight else 0)).sum := fun w => by
    clear hweight
    induction l with
    | nil => simp
    | cons x t ih =>
      have hx : x.share n w * w ≤ n * (if x.unmet then x.weight else 0) := by
        unfold Want.share
        split
        · exact (Nat.mul_le_mul_right w (Nat.min_le_left _ _)).trans (Nat.div_mul_le_self _ _)
        · simp
      simp only [List.map_cons, List.sum_cons, Nat.add_mul, Nat.mul_add]
      omega
  rcases Nat.eq_zero_or_pos (unmetWeight l) with h0 | hpos
  · have hnone : ∀ x : Want, x.share n 0 = 0 := fun x => by
      unfold Want.share
      split <;> simp
    simp [h0, hnone]
  · refine Nat.le_of_mul_le_mul_right ?_ hpos
    exact (hmul _).trans (by rw [← hweight])

/-- A round raises the grants by what it takes from the rest, and takes a watt where a region is unmet. -/
theorem grantRound_raised (l : List Want) (n : Nat) :
    List.Forall₂ Want.Raised l (grantRound l n).1 ∧ granted (grantRound l n).1 + (grantRound l n).2 = granted l + n ∧
    (0 < n → l.any Want.unmet = true → (grantRound l n).2 < n) := by
  have hgiven : l.foldl (fun a x => a + x.share n (unmetWeight l)) 0 = (l.map (fun x => x.share n (unmetWeight l))).sum := by
    rw [foldl_add_eq_sum, Nat.zero_add]
  have hle := sum_share_le l n
  have hround : grantRound l n = if l.foldl (fun a x => a + x.share n (unmetWeight l)) 0 = 0 then oneEach l n
      else (l.map (fun x => { x with grant := x.grant + x.share n (unmetWeight l) }),
        n - l.foldl (fun a x => a + x.share n (unmetWeight l)) 0) := rfl
  rw [hround, hgiven]
  split
  · exact ⟨(oneEach_raised l n).1, (oneEach_raised l n).2, oneEach_lt⟩
  · next hpos =>
    have hsum : granted (l.map (fun x => { x with grant := x.grant + x.share n (unmetWeight l) })) =
        granted l + (l.map (fun x => x.share n (unmetWeight l))).sum := by
      rw [granted, granted, List.map_map, ← List.sum_map_add]
      rfl
    refine ⟨?_, ?_, fun hn _ => ?_⟩
    · rw [List.forall₂_map_right_iff]
      refine List.forall₂_same.2 fun x _ => ⟨rfl, rfl, Nat.le_add_right _ _, ?_, fun h0 => ?_⟩
      · show x.grant + x.share n _ ≤ _
        unfold Want.share
        split
        · have := x.unmet_iff.1 ‹_›
          omega
        · omega
      · show x.grant + x.share n _ = _
        unfold Want.share
        split
        · have := x.unmet_iff.1 ‹_›
          omega
        · rfl
    · exact (congrArg (· + (n - _)) hsum).trans (by omega)
    · show n - _ < n
      omega

/-- The rounds raise the grants, by the watts at most, and by fewer only if no region is left unmet. -/
theorem grantRounds_raised (fuel : Nat) (l : List Want) {n : Nat} (hn : n ≤ fuel) :
    List.Forall₂ Want.Raised l (grantRounds fuel l n) ∧ granted (grantRounds fuel l n) ≤ granted l + n ∧
    (granted (grantRounds fuel l n) = granted l + n ∨ (grantRounds fuel l n).any Want.unmet = false) := by
  induction fuel generalizing l n with
  | zero =>
    obtain rfl : n = 0 := by omega
    exact ⟨List.forall₂_same.2 fun x _ => .refl x, Nat.le_refl _, .inl rfl⟩
  | succ fuel ih =>
    rw [grantRounds]
    split
    · next hstop =>
      refine ⟨List.forall₂_same.2 fun x _ => .refl x, Nat.le_add_right _ _, ?_⟩
      rcases hstop with h0 | hmet
      · exact .inl (by rw [h0, Nat.add_zero])
      · exact .inr (by simpa using hmet)
    · next hgo =>
      obtain ⟨hpos, hany⟩ : n ≠ 0 ∧ l.any Want.unmet = true := by simpa using hgo
      obtain ⟨hraised, hsum, hlt⟩ := grantRound_raised l n
      have hless := hlt (Nat.pos_of_ne_zero hpos) hany
      obtain ⟨hraised', hle, hend⟩ := ih (grantRound l n).1 (n := (grantRound l n).2) (by omega)
      rw [hsum] at hle hend
      exact ⟨forall₂_raised_trans hraised hraised', hle, hend⟩

/-! ### The grants of a period (R427) -/

/-- A region's want at the start: its demand and weight, its floor granted. -/
def wantOf (x : Nat × Nat × Nat) : Want := { demand := x.1, grant := x.2.1, weight := x.2.2 }

theorem granted_wantOf (l : List (Nat × Nat × Nat)) : granted (l.map wantOf) = (l.map (fun x => x.2.1)).sum := by
  rw [granted, List.map_map]
  rfl

/-- What the budget leaves over the floors. -/
def overFloors (b : Int) (l : List (Nat × Nat × Nat)) : Nat := (b - ((l.map (fun x => x.2.1)).sum : Nat)).toNat

theorem grantsOf_eq (b : Int) (l : List (Nat × Nat × Nat)) :
    grantsOf b l = (grantRounds (overFloors b l) (l.map wantOf) (overFloors b l)).map (·.grant) := by
  rw [overFloors, ← Nat.zero_add (List.sum _), ← foldl_add_eq_sum]
  rfl

theorem grantsOf_length (b : Int) (l : List (Nat × Nat × Nat)) : (grantsOf b l).length = l.length := by
  rw [grantsOf_eq, List.length_map, ← (grantRounds_raised (overFloors b l) (l.map wantOf) (Nat.le_refl _)).1.length_eq,
    List.length_map]

/-- The grant of a region is that of its want after the rounds. -/
theorem exists_want_of_grant {b : Int} {l : List (Nat × Nat × Nat)} {i : Nat} {x : Nat × Nat × Nat} {a : Nat} (hx : l[i]? = some x)
    (ha : (grantsOf b l)[i]? = some a) :
    ∃ y ∈ grantRounds (overFloors b l) (l.map wantOf) (overFloors b l), (wantOf x).Raised y ∧ y.grant = a := by
  have hraised := (grantRounds_raised (overFloors b l) (l.map wantOf) (Nat.le_refl _)).1
  rw [grantsOf_eq, List.getElem?_map, Option.map_eq_some_iff] at ha
  obtain ⟨y, hy, hya⟩ := ha
  obtain ⟨hi, hyi⟩ := List.getElem?_eq_some_iff.1 hy
  obtain ⟨hi', hxi⟩ := List.getElem?_eq_some_iff.1 hx
  refine ⟨y, List.mem_of_getElem? hy, ?_, hya⟩
  have := hraised.get (by simpa using hi') hi
  simpa [hyi, hxi] using this

/-- The grants keep to floor, demand and budget (R427). -/
theorem grantsOf_keeps (b : Int) (l : List (Nat × Nat × Nat)) : (grantsOf b l).length = l.length ∧
    (∀ (i : Nat) (x : Nat × Nat × Nat) (a : Nat), l[i]? = some x → (grantsOf b l)[i]? = some a →
      x.2.1 ≤ a ∧ a ≤ max x.1 x.2.1 ∧ (x.2.2 = 0 → a = x.2.1)) ∧
    (b ≤ ((l.map (fun (x : Nat × Nat × Nat) => x.2.1)).sum : Nat) → grantsOf b l = l.map (fun (x : Nat × Nat × Nat) => x.2.1)) ∧
    (((l.map (fun (x : Nat × Nat × Nat) => x.2.1)).sum : Nat) ≤ b → ((grantsOf b l).sum : Nat) ≤ b ∧
      (((grantsOf b l).sum : Nat) = b ∨
        ∀ (i : Nat) (x : Nat × Nat × Nat) (a : Nat), l[i]? = some x → (grantsOf b l)[i]? = some a → 0 < x.2.2 → x.1 ≤ a)) := by
  refine ⟨grantsOf_length b l, fun i x a hx ha => ?_, fun hb => ?_, fun hb => ?_⟩
  · obtain ⟨y, -, ⟨-, -, hle, hmax, hzero⟩, rfl⟩ := exists_want_of_grant hx ha
    exact ⟨hle, hmax, hzero⟩
  · have hnone : overFloors b l = 0 := by
      unfold overFloors
      omega
    rw [grantsOf_eq, hnone, grantRounds, List.map_map]
    rfl
  · obtain ⟨-, hle, hend⟩ := grantRounds_raised (overFloors b l) (l.map wantOf) (Nat.le_refl _)
    have hsum : (grantsOf b l).sum = granted (grantRounds (overFloors b l) (l.map wantOf) (overFloors b l)) := by
      rw [grantsOf_eq]
      rfl
    have hover : (overFloors b l : Int) = b - ((l.map (fun x => x.2.1)).sum : Nat) := Int.toNat_of_nonneg (by omega)
    rw [granted_wantOf, ← hsum] at hle hend
    refine ⟨by omega, hend.imp (fun h => by omega) fun hmet i x a hx ha hw => ?_⟩
    obtain ⟨y, hy, ⟨hd, hwt, -⟩, rfl⟩ := exists_want_of_grant hx ha
    have hdone : ¬ (y.grant < y.demand ∧ 0 < y.weight) := by
      rw [← y.unmet_iff]
      exact fun h => List.any_eq_false.1 hmet y hy h
    rw [hd, hwt] at hdone
    simp only [wantOf] at hdone
    omega

/-! ### The throttle level and its pattern (R428) -/

/-- The level is the smallest at which the throttled demand fits the grant, and 63 where none does. -/
theorem levelOf_smallest (demand grant : Nat) : levelOf demand grant ≤ 63 ∧
    (demand * (64 - levelOf demand grant) ≤ grant * 64 ∨ levelOf demand grant = 63) ∧
    ∀ l, l < levelOf demand grant → grant * 64 < demand * (64 - l) := by
  unfold levelOf
  cases hfind : (List.range 64).find? (fun l => decide (demand * (64 - l) ≤ grant * 64)) with
  | none =>
    refine ⟨Nat.le_refl _, .inr rfl, fun l hl => ?_⟩
    simpa using List.find?_eq_none.1 hfind l (List.mem_range.2 (by simp at hl; omega))
  | some k =>
    obtain ⟨hk, hmem, hbefore⟩ := List.find?_range_eq_some.1 hfind
    exact ⟨Nat.le_of_lt_succ (List.mem_range.1 hmem), .inl (by simpa using hk), fun l hl => by simpa using hbefore l hl⟩

/-- How many edges below `n` from `k` on a level swallows. -/
theorem length_throttles {level : Nat} (h : level ≤ 64) (k n : Nat) :
    ((List.range n).filter (fun i => throttles level (k + i))).length = (k + n) * level / 64 - k * level / 64 := by
  induction n with
  | zero => simp
  | succ n ih =>
    have hmono : k * level / 64 ≤ (k + n) * level / 64 := Nat.div_le_div_right (Nat.mul_le_mul_right _ (Nat.le_add_right _ _))
    have hstep : (k + n + 1) * level = (k + n) * level + level := Nat.succ_mul _ _
    rw [List.range_succ, List.filter_append, List.length_append, ih]
    have hlast : ([n].filter (fun i => throttles level (k + i))).length =
        if (k + n) * level / 64 < (k + n + 1) * level / 64 then 1 else 0 := by
      simp only [List.filter_cons, List.filter_nil, throttles]
      split <;> simp_all
    rw [hlast, ← Nat.add_assoc]
    split <;> omega

end Sys2Proof.Machine
end

section
/-! SUPPORT. The allowance period, its registers and the grants that take effect (R423 to R431). -/

namespace Sys2Proof.Machine

/-! ### Steps of the Treasury that write registers alone -/

/-- Registers other than those of `l` are as they were, and beside registers at most the Journal changed. -/
structure Metered (l : List Nat) (s t : State) : Prop where
  frame : t = { s with regs := t.regs, recent := t.recent, jnl := t.jnl }
  reg : ∀ o, o ∉ l → t.reg o = s.reg o

theorem Metered.trans {l l' : List Nat} {s t u : State} (h : Metered l s t) (h' : Metered l' t u) : Metered (l ++ l') s u where
  frame := by rw [h'.frame, h.frame]
  reg o ho := by
    rw [List.mem_append, not_or] at ho
    rw [h'.reg o ho.2, h.reg o ho.1]

theorem Metered.mono {l l' : List Nat} {s t : State} (h : Metered l s t) (hl : ∀ o ∈ l, o ∈ l') : Metered l' s t where
  frame := h.frame
  reg o ho := h.reg o fun hm => ho (hl o hm)

theorem Metered.rf {l : List Nat} {s t : State} (h : Metered l s t) {o : Nat} (ho : o ∉ l) (hi lo : Nat) : t.rf o hi lo = s.rf o hi lo := by
  rw [State.rf, State.rf, h.reg o ho]

theorem Metered.setReg (s : State) (o : Nat) (v : Word) : Metered [o] s (s.setReg o v) :=
  ⟨rfl, fun o' ho => State.reg_setReg_other s _ (by simpa using ho)⟩

theorem Metered.setRf (s : State) (o hi lo v : Nat) : Metered [o] s (s.setRf o hi lo v) := .setReg s o _

theorem Metered.notice (s : State) (e : Err) : Metered [] s (s.notice e) := by
  obtain ⟨j, hj⟩ := s.notice_eq e
  rw [hj]
  exact ⟨rfl, fun _ _ => rfl⟩

theorem Metered.tsyFault (s : State) (b : Nat) : Metered [tsyBase + 0xC] s (s.tsyFault b) := by
  have hor : Metered [tsyBase + 0xC] s (s.orReg (tsyBase + 0xC) (2 ^ b)) :=
    ⟨rfl, fun o ho => State.reg_setReg_other s _ (by simpa using ho)⟩
  exact (hor.trans (.notice _ _)).mono (by simp)

theorem Metered.refl (s : State) : Metered [] s s := ⟨rfl, fun _ _ => rfl⟩

/-! ### A register of each region -/

theorem tsyRstat_inj {r k : Nat} (h : tsyRstat r = tsyRstat k) : r = k := by
  simp only [tsyRstat] at h
  omega

theorem tsyRstat_ne_low {r o : Nat} (h : o < 0x200) : tsyBase + o ≠ tsyRstat r := by
  simp only [tsyRstat]
  omega

theorem tsyRcfg_ne_tsyRstat {k : Nat} (hk : k < 64) (r : Nat) : tsyRcfg k ≠ tsyRstat r := by
  simp only [tsyRcfg, tsyRstat]
  omega

theorem tsyRcfg_ne_low {k o : Nat} (h : o < 0x100) : tsyRcfg k ≠ tsyBase + o := by
  simp only [tsyRcfg]
  omega

theorem tsyRstat_not_mem {l : List Nat} {r : Nat} (h : ∀ o ∈ l, o < 0x200) : tsyRstat r ∉ l.map (tsyBase + ·) := fun hm => by
  obtain ⟨o, ho, heq⟩ := List.mem_map.1 hm
  exact tsyRstat_ne_low (h o ho) heq

theorem tsyRcfg_not_mem {l : List Nat} {k : Nat} (h : ∀ o ∈ l, o < 0x100) : tsyRcfg k ∉ l.map (tsyBase + ·) := fun hm => by
  obtain ⟨o, ho, heq⟩ := List.mem_map.1 hm
  exact tsyRcfg_ne_low (h o ho) heq.symm

/-- A step for each region that writes the region's status register alone. -/
theorem Metered.foldl {g : State → Nat → State} (hg : ∀ s r, Metered [tsyRstat r] s (g s r)) (l : List Nat) (s : State) :
    Metered (l.map tsyRstat) s (l.foldl g s) := by
  induction l generalizing s with
  | nil => exact .refl s
  | cons r l ih => exact (hg s r).trans (ih _)

/-- What such steps leave in a region's register is what its own step leaves there, from what stood there before. -/
theorem Metered.foldl_reg {g : State → Nat → State} (hg : ∀ s r, Metered [tsyRstat r] s (g s r)) (s : State) {k : Nat} (hk : k < 64) :
    ∃ u : State, u.reg (tsyRstat k) = s.reg (tsyRstat k) ∧
      ((List.range 64).foldl g s).reg (tsyRstat k) = (g u k).reg (tsyRstat k) := by
  obtain ⟨l, l', hl⟩ := List.append_of_mem (List.mem_range.2 hk)
  have hnodup : (l ++ k :: l').Nodup := hl ▸ List.nodup_range
  have hapart : ∀ {l : List Nat}, k ∉ l → tsyRstat k ∉ l.map tsyRstat := fun h hm => by
    obtain ⟨r, hr, hrk⟩ := List.mem_map.1 hm
    exact h (tsyRstat_inj hrk ▸ hr)
  obtain ⟨hbefore, hafter⟩ : k ∉ l ∧ k ∉ l' := by
    rw [List.nodup_append] at hnodup
    exact ⟨fun hm => hnodup.2.2 k hm k (by simp) rfl, (List.nodup_cons.1 hnodup.2.1).1⟩
  refine ⟨l.foldl g s, (Metered.foldl hg l s).reg _ (hapart hbefore), ?_⟩
  rw [hl, List.foldl_append, List.foldl_cons, (Metered.foldl hg l' _).reg _ (hapart hafter)]

theorem State.rf_of_reg {s t : State} {o : Nat} (h : t.reg o = s.reg o) (hi lo : Nat) : t.rf o hi lo = s.rf o hi lo := by
  rw [State.rf, State.rf, h]

/-! ### The stages of an allowance period -/

/-- The demands of the regions (R425). -/
def State.demands (s : State) (m : Measurement) : List Nat :=
  (List.range 64).map (fun r => demandOf ((m.power[r]?).getD (0, 0)).1 ((m.power[r]?).getD (0, 0)).2 (s.rf (tsyRcfg r) 23 12))

/-- The input measurements as they are shown (R431). -/
def State.showInput (s : State) (m : Measurement) : State :=
  let s1 := (s.setReg (tsyBase + 0x14) (BitVec.ofNat 32 (2 ^ 16 * min 0xFFFF m.iin + min 0xFFFF (m.vin / 10)))).setRf
    (tsyBase + 0x18) 15 0 (min 0xFFFF m.pin)
  s1.setReg (tsyBase + 0x1C) (s1.reg (tsyBase + 0x1C) + 1)

/-- The state of the input voltage and of the overdraw (R426, R429). -/
def State.judgeInput (s : State) (m : Measurement) (excess : Nat) : State :=
  let t := (((s.vinHold m.vin).vinFlag 3 0x821 (decide (m.vin < 66000))).vinFlag 4 0x822 (decide (78000 < m.vin)))
  if excess = 0 then t else t.tsyFault 0

/-- The demands as they are shown. -/
def State.showDemands (s : State) (ds : List Nat) : State :=
  (List.range 64).foldl (fun s r => s.setRf (tsyRstat r) 23 12 ((ds[r]?).getD 0)) s

/-- The grants of the next period (R427, R429). -/
def State.nextGrants (s : State) (b : Int) (ds : List Nat) : List Nat :=
  if s.rf (tsyBase + 8) 2 2 = 1 then (List.range 64).map s.tsyFloor
  else grantsOf b ((List.range 64).map (fun r => ((ds[r]?).getD 0, s.tsyFloor r, s.rf (tsyRcfg r) 31 24)))

/-- A period computes the next grants, from the state that is judged, and shows measurements and demands. -/
theorem execAllowancePeriod_eq (m : Measurement) {s : State} (hon : s.power.phase = .on) :
    ∃ (bind : Nat) (history : List Nat) (fits : List Bool) (since : Nat) (u v : State),
      u = (s.showInput m).judgeInput m (s.overdraw m) ∧
      v = (u.showDemands (s.demands m)).setRf (tsyBase + 8) 1 0 bind ∧
      execAllowancePeriod m s = .next (State.decideOp { v with tsy := { v.tsy with
        pending := u.nextGrants (budget (s.inputLimit m.vinMin) m.pAon (s.overdraw m)) (s.demands m), capped := [],
        swallowHistory := history, fitHistory := fits, sinceChange := since } }) :=
  ⟨_, _, _, _, _, _, rfl, rfl, if_neg (by simp [hon])⟩

/-- A decision at a period's end leaves all but the change in progress. -/
theorem State.decideOp_frame (s : State) : s.decideOp = { s with tsy := s.decideOp.tsy } ∧ s.decideOp.tsy.pending = s.tsy.pending ∧
    s.decideOp.tsy.capped = s.tsy.capped := by
  unfold decideOp
  split <;> exact ⟨rfl, rfl, rfl⟩

theorem State.showInput_metered (s : State) (m : Measurement) :
    Metered [tsyBase + 0x14, tsyBase + 0x18, tsyBase + 0x1C] s (s.showInput m) ∧
    (s.showInput m).reg (tsyBase + 0x1C) = s.reg (tsyBase + 0x1C) + 1 ∧
    (s.showInput m).reg (tsyBase + 0x14) = BitVec.ofNat 32 (2 ^ 16 * min 0xFFFF m.iin + min 0xFFFF (m.vin / 10)) ∧
    (s.showInput m).rf (tsyBase + 0x18) 15 0 = min 0xFFFF m.pin := by
  have hin := Metered.setReg s (tsyBase + 0x14) (BitVec.ofNat 32 (2 ^ 16 * min 0xFFFF m.iin + min 0xFFFF (m.vin / 10)))
  have hpin := Metered.setRf (s.setReg (tsyBase + 0x14) (BitVec.ofNat 32 (2 ^ 16 * min 0xFFFF m.iin + min 0xFFFF (m.vin / 10))))
    (tsyBase + 0x18) 15 0 (min 0xFFFF m.pin)
  have hboth := hin.trans hpin
  unfold showInput
  extract_lets s1
  have hcount := Metered.setReg s1 (tsyBase + 0x1C) (s1.reg (tsyBase + 0x1C) + 1)
  refine ⟨(hboth.trans hcount).mono (by simp), ?_, ?_, ?_⟩
  · rw [State.reg_setReg_same, hboth.reg _ (by simp)]
  · rw [hcount.reg _ (by simp), hpin.reg _ (by simp), State.reg_setReg_same]
  · rw [hcount.rf (by simp), State.rf_setRf_same _ _ _ _ (by decide)]
    omega

/-- A status bit that is shown leaves the other fields of the status. -/
theorem State.vinFlag_metered (s : State) {b : Nat} (code : Nat) (on : Bool) : Metered [tsyBase + 8] s (s.vinFlag b code on) ∧
    ∀ {hi lo : Nat}, hi < 32 → hi < b ∨ b < lo → (s.vinFlag b code on).rf (tsyBase + 8) hi lo = s.rf (tsyBase + 8) hi lo := by
  unfold vinFlag
  extract_lets was s1
  have hset : Metered [tsyBase + 8] s s1 := .setRf _ _ _ _ _
  have hkeep : ∀ {hi lo : Nat}, hi < 32 → hi < b ∨ b < lo → s1.rf (tsyBase + 8) hi lo = s.rf (tsyBase + 8) hi lo :=
    fun h h' => State.rf_setRf_disjoint _ _ _ h h'
  split
  · have hnote := Metered.notice s1 (Err.aon .notice code)
    exact ⟨hset.trans hnote, fun h h' => (hnote.rf (by simp) _ _).trans (hkeep h h')⟩
  · exact ⟨hset, hkeep⟩

/-- The hold at the floors: from below 63 V until 66 V or more (R429). -/
theorem State.vinHold_metered (s : State) (vin : Nat) : Metered [tsyBase + 8, tsyBase + 0xC] s (s.vinHold vin) ∧
    (s.vinHold vin).rf (tsyBase + 8) 2 2 = (if vin < 63000 then 1 else if 66000 ≤ vin then 0 else s.rf (tsyBase + 8) 2 2) ∧
    (s.vinHold vin).rf (tsyBase + 8) 7 6 = s.rf (tsyBase + 8) 7 6 := by
  have hbit : s.rf (tsyBase + 8) 2 2 < 2 := bits_lt _ 2 2
  unfold vinHold
  extract_lets was on s1
  have hset : Metered [tsyBase + 8] s s1 := .setRf _ _ _ _ _
  have hval : s1.rf (tsyBase + 8) 2 2 = (if vin < 63000 then 1 else if 66000 ≤ vin then 0 else s.rf (tsyBase + 8) 2 2) := by
    rw [State.rf_setRf_same _ _ _ _ (by decide)]
    by_cases hlow : vin < 63000
    · simp [on, hlow, b2n]
    · by_cases hhigh : 66000 ≤ vin
      · simp [on, hlow, hhigh, Nat.not_lt.2 hhigh, b2n]
      · have hw : was = (s.rf (tsyBase + 8) 2 2 == 1) := rfl
        simp only [on, hlow, hhigh, decide_false, Bool.false_or, Nat.lt_of_not_le hhigh, decide_true, Bool.and_true, hw, if_false]
        interval_cases s.rf (tsyBase + 8) 2 2 <;> rfl
  have hpoint : s1.rf (tsyBase + 8) 7 6 = s.rf (tsyBase + 8) 7 6 := State.rf_setRf_disjoint _ _ _ (by decide) (.inr (by decide))
  split
  · have hfault := Metered.tsyFault s1 3
    exact ⟨hset.trans hfault, (hfault.rf (by simp) _ _).trans hval, (hfault.rf (by simp) _ _).trans hpoint⟩
  · exact ⟨hset.mono (by simp), hval, hpoint⟩

theorem State.judgeInput_metered (s : State) (m : Measurement) (excess : Nat) :
    Metered [tsyBase + 8, tsyBase + 0xC] s (s.judgeInput m excess) ∧
    (s.judgeInput m excess).rf (tsyBase + 8) 2 2 =
      (if m.vin < 63000 then 1 else if 66000 ≤ m.vin then 0 else s.rf (tsyBase + 8) 2 2) ∧
    (s.judgeInput m excess).rf (tsyBase + 8) 7 6 = s.rf (tsyBase + 8) 7 6 ∧
    (0 < excess → bit ((s.judgeInput m excess).reg (tsyBase + 0xC)).toNat 0 = true) := by
  obtain ⟨hhold, hval, hpoint⟩ := s.vinHold_metered m.vin
  obtain ⟨hlow, hlowf⟩ := (s.vinHold m.vin).vinFlag_metered (b := 3) 0x821 (decide (m.vin < 66000))
  obtain ⟨hhigh, hhighf⟩ := ((s.vinHold m.vin).vinFlag 3 0x821 (decide (m.vin < 66000))).vinFlag_metered (b := 4) 0x822
    (decide (78000 < m.vin))
  have hall := hhold.trans (hlow.trans hhigh)
  rw [← hlowf (by decide) (.inl (by decide)), ← hhighf (by decide) (.inl (by decide))] at hval
  rw [← hlowf (by decide) (.inr (by decide)), ← hhighf (by decide) (.inr (by decide))] at hpoint
  unfold judgeInput
  extract_lets t
  split
  · next h0 => exact ⟨hall.mono (by simp), hval, hpoint, fun h => absurd h0 (by omega)⟩
  · obtain ⟨_, _, _, _, _, hbit⟩ := t.tsyFault_eq (b := 0) (by decide)
    have hfault := Metered.tsyFault t 0
    exact ⟨(hall.trans hfault).mono (by simp), (hfault.rf (by simp) _ _).trans hval, (hfault.rf (by simp) _ _).trans hpoint,
      fun _ => hbit⟩

theorem State.showDemands_metered (s : State) (ds : List Nat) :
    Metered ((List.range 64).map tsyRstat) s (s.showDemands ds) ∧
    ∀ r < 64, (s.showDemands ds).rf (tsyRstat r) 23 12 = (ds[r]?).getD 0 % 4096 ∧
      (s.showDemands ds).rf (tsyRstat r) 11 0 = s.rf (tsyRstat r) 11 0 := by
  have hstep : ∀ (s : State) (r : Nat), Metered [tsyRstat r] s (s.setRf (tsyRstat r) 23 12 ((ds[r]?).getD 0)) :=
    fun s r => .setRf _ _ _ _ _
  refine ⟨.foldl hstep _ s, fun r hr => ?_⟩
  obtain ⟨u, hu, hval⟩ := Metered.foldl_reg hstep s hr
  constructor
  · exact (State.rf_of_reg hval 23 12).trans (State.rf_setRf_same _ _ _ _ (by decide))
  · exact ((State.rf_of_reg hval 11 0).trans (State.rf_setRf_disjoint _ _ _ (by decide) (.inl (by decide)))).trans
      (State.rf_of_reg hu 11 0)

/-! ### Grants that take effect (R423, R428) -/

/-- A region shows its grant and the level of its last demand. -/
def State.showGrant (g : List Nat) (s : State) (r : Nat) : State :=
  (s.setRf (tsyRstat r) 11 0 ((g[r]?).getD 0)).setRf (tsyRstat r) 29 24 (Machine.levelOf (s.rf (tsyRstat r) 23 12) ((g[r]?).getD 0))

theorem State.showGrant_metered (g : List Nat) (s : State) (r : Nat) : Metered [tsyRstat r] s (s.showGrant g r) :=
  ((Metered.setRf s _ _ _ _).trans (.setRf _ _ _ _ _)).mono (by simp)

theorem State.rf_showGrant (g : List Nat) (s : State) (r : Nat) :
    (s.showGrant g r).rf (tsyRstat r) 11 0 = (g[r]?).getD 0 % 4096 ∧
    (s.showGrant g r).rf (tsyRstat r) 29 24 = Machine.levelOf (s.rf (tsyRstat r) 23 12) ((g[r]?).getD 0) ∧
    (s.showGrant g r).rf (tsyRstat r) 23 12 = s.rf (tsyRstat r) 23 12 := by
  have hlevel := (levelOf_smallest (s.rf (tsyRstat r) 23 12) ((g[r]?).getD 0)).1
  unfold showGrant
  refine ⟨?_, ?_, ?_⟩
  · exact (State.rf_setRf_disjoint _ _ _ (by decide) (.inl (by decide))).trans (State.rf_setRf_same _ _ _ _ (by decide))
  · rw [State.rf_setRf_same _ _ _ _ (by decide)]
    exact Nat.mod_eq_of_lt (Nat.lt_succ_of_le hlevel)
  · rw [State.rf_setRf_disjoint _ _ _ (by decide) (.inl (by decide)), State.rf_setRf_disjoint _ _ _ (by decide) (.inr (by decide))]

/-- Steps that write registers alone. -/
theorem State.foldl_showGrant_frame (g l : List Nat) (s : State) :
    l.foldl (State.showGrant g) s = { s with regs := (l.foldl (State.showGrant g) s).regs } := by
  induction l generalizing s with
  | nil => rfl
  | cons r l ih => rw [List.foldl_cons, ih]; rfl

theorem execGrantEffect_eq {s : State} (hon : s.power.phase = .on) (hp : s.tsy.pending ≠ []) :
    ∃ u, u = ((List.range 64).foldl (State.showGrant s.tsy.pending) s).setRf (tsyBase + 0x18) 31 16
        (s.tsy.pending.foldl (· + ·) 0) ∧
      execGrantEffect s = .next { u with tsy := { u.tsy with pending := [], meshAt := [] } } := by
  refine ⟨_, rfl, ?_⟩
  exact if_neg (by simp [hon, hp])

theorem grantEffect_shows {s : State} (hon : s.power.phase = .on) (hp : s.tsy.pending ≠ []) :
    ∃ t, exec .grantEffect s = .next t ∧ t = { s with regs := t.regs, tsy := { s.tsy with pending := [], meshAt := [] } } ∧
      t.rf (tsyBase + 0x18) 31 16 = s.tsy.pending.sum % 65536 ∧
      ∀ r : Fin 64, t.rf (tsyRstat r.val) 11 0 = (s.tsy.pending[r.val]?).getD 0 % 4096 ∧
        t.rf (tsyRstat r.val) 29 24 = levelOf (s.rf (tsyRstat r.val) 23 12) ((s.tsy.pending[r.val]?).getD 0) ∧
        t.rf (tsyRstat r.val) 23 12 = s.rf (tsyRstat r.val) 23 12 := by
  obtain ⟨u, hu, hexec⟩ := execGrantEffect_eq hon hp
  have hsum : Metered [tsyBase + 0x18] ((List.range 64).foldl (State.showGrant s.tsy.pending) s) u := hu ▸ .setRf _ _ _ _ _
  have hframe : u = { s with regs := u.regs } := by
    rw [hu, State.foldl_showGrant_frame]
    rfl
  refine ⟨_, hexec, ?_, ?_, fun r => ?_⟩
  · rw [hframe]
  · change u.rf _ _ _ = _
    rw [hu, List.sum_eq_foldl]
    exact State.rf_setRf_same _ _ _ _ (by decide)
  · obtain ⟨w, hw, hval⟩ := Metered.foldl_reg (State.showGrant_metered s.tsy.pending) s r.isLt
    have hreg : u.reg (tsyRstat r.val) = (w.showGrant s.tsy.pending r.val).reg (tsyRstat r.val) :=
      (hsum.reg _ (by simpa using (tsyRstat_ne_low (by decide)).symm)).trans hval
    obtain ⟨hgrant, hlevel, hdemand⟩ := w.rf_showGrant s.tsy.pending r.val
    rw [State.rf_of_reg hw] at hlevel hdemand
    exact ⟨(State.rf_of_reg hreg _ _).trans hgrant, (State.rf_of_reg hreg _ _).trans hlevel, (State.rf_of_reg hreg _ _).trans hdemand⟩

/-! ### The period as a whole -/

theorem demandOf_le (power edges ceil : Nat) : demandOf power edges ceil ≤ ceil := by
  unfold demandOf
  split
  · exact Nat.zero_le _
  · exact Nat.min_le_left _ _

theorem State.demands_lt (s : State) (m : Measurement) (r : Nat) : ((s.demands m)[r]?).getD 0 < 4096 := by
  by_cases hr : r < 64
  · have hceil : s.rf (tsyRcfg r) 23 12 < 4096 := bits_lt _ 23 12
    simp only [State.demands, List.getElem?_map, List.getElem?_range hr, Option.map_some, Option.getD_some]
    exact Nat.lt_of_le_of_lt (demandOf_le _ _ _) hceil
  · simp [State.demands, List.getElem?_eq_none (l := List.range 64) (i := r) (by simpa using Nat.le_of_not_lt hr)]

theorem State.nextGrants_of_metered {s t : State} {l : List Nat} (h : Metered l s t) (hl : ∀ k < 64, tsyRcfg k ∉ l) (b : Int)
    (ds : List Nat) : t.nextGrants b ds = if t.rf (tsyBase + 8) 2 2 = 1 then (List.range 64).map s.tsyFloor
      else grantsOf b ((List.range 64).map (fun r => ((ds[r]?).getD 0, s.tsyFloor r, s.rf (tsyRcfg r) 31 24))) := by
  have hfloor : (List.range 64).map t.tsyFloor = (List.range 64).map s.tsyFloor :=
    List.map_congr_left fun r hr => h.rf (hl r (List.mem_range.1 hr)) _ _
  have hwant : (List.range 64).map (fun r => ((ds[r]?).getD 0, t.tsyFloor r, t.rf (tsyRcfg r) 31 24)) =
      (List.range 64).map (fun r => ((ds[r]?).getD 0, s.tsyFloor r, s.rf (tsyRcfg r) 31 24)) :=
    List.map_congr_left fun r hr => by
      rw [State.tsyFloor, State.tsyFloor, h.rf (hl r (List.mem_range.1 hr)), h.rf (hl r (List.mem_range.1 hr))]
  rw [State.nextGrants, hfloor, hwant]

theorem allowancePeriod_shows (m : Measurement) {s : State} (hon : s.power.phase = .on) :
    ∃ (t : State) (ds : List Nat), exec (.allowancePeriod m) s = .next t ∧
      t = { s with regs := t.regs, recent := t.recent, jnl := t.jnl, tsy := t.tsy } ∧
      ds = s.demands m ∧
      t.reg (tsyBase + 0x1C) = s.reg (tsyBase + 0x1C) + 1 ∧
      t.reg (tsyBase + 0x14) = BitVec.ofNat 32 (2 ^ 16 * min 0xFFFF m.iin + min 0xFFFF (m.vin / 10)) ∧
      t.rf (tsyBase + 0x18) 15 0 = min 0xFFFF m.pin ∧
      (∀ r : Fin 64, t.rf (tsyRstat r.val) 23 12 = (ds[r.val]?).getD 0 ∧ t.rf (tsyRstat r.val) 11 0 = s.rf (tsyRstat r.val) 11 0) ∧
      t.rf (tsyBase + 8) 2 2 = (if m.vin < 63000 then 1 else if 66000 ≤ m.vin then 0 else s.rf (tsyBase + 8) 2 2) ∧
      t.rf (tsyBase + 8) 7 6 = s.rf (tsyBase + 8) 7 6 ∧ t.tsy.capped = [] ∧
      t.tsy.pending = (if t.rf (tsyBase + 8) 2 2 = 1 then (List.range 64).map s.tsyFloor
        else grantsOf (budget (s.inputLimit m.vinMin) m.pAon (s.overdraw m)) ((List.range 64).map (fun r =>
          ((ds[r]?).getD 0, s.tsyFloor r, s.rf (tsyRcfg r) 31 24)))) ∧
      (0 < s.overdraw m → bit (t.reg (tsyBase + 0xC)).toNat 0 = true) := by
  obtain ⟨bind, history, fits, since, u, v, hu, hv, hexec⟩ := execAllowancePeriod_eq m hon
  obtain ⟨hin, hcount, hinput, hpower⟩ := s.showInput_metered m
  obtain ⟨hjudge, hhold, hpoint, hover⟩ := (s.showInput m).judgeInput_metered m (s.overdraw m)
  rw [← hu] at hjudge hhold hpoint hover
  obtain ⟨hshow, hregion⟩ := u.showDemands_metered (s.demands m)
  have hbind : Metered [tsyBase + 8] (u.showDemands (s.demands m)) v := hv ▸ .setRf _ _ _ _ _
  have hlater := hshow.trans hbind
  have hall := (hin.trans hjudge).trans hlater
  have hlow : ∀ o < 0x200, o ≠ 8 → tsyBase + o ∉ (List.range 64).map tsyRstat ++ [tsyBase + 8] := fun o ho h8 hm => by
    rcases List.mem_append.1 hm with h | h
    · obtain ⟨r, -, hr⟩ := List.mem_map.1 h
      exact tsyRstat_ne_low ho hr.symm
    · exact h8 (Nat.add_left_cancel (List.mem_singleton.1 h))
  have hstatus : ∀ o < 0x200, tsyBase + o ∉ (List.range 64).map tsyRstat := fun o ho h => by
    obtain ⟨r, -, hr⟩ := List.mem_map.1 h
    exact tsyRstat_ne_low ho hr.symm
  have hkeep : ∀ {hi lo : Nat}, hi < 32 → 1 < lo → v.rf (tsyBase + 8) hi lo = u.rf (tsyBase + 8) hi lo := fun hhi hlo => by
    rw [hv, State.rf_setRf_disjoint _ _ _ hhi (.inr hlo), hshow.rf (hstatus 8 (by decide))]
  obtain ⟨hdecide, hpending, hcapped⟩ := State.decideOp_frame { v with tsy := { v.tsy with
    pending := u.nextGrants (budget (s.inputLimit m.vinMin) m.pAon (s.overdraw m)) (s.demands m), capped := [],
    swallowHistory := history, fitHistory := fits, sinceChange := since } }
  refine ⟨_, s.demands m, hexec, ?_, rfl, ?_⟩
  · rw [hdecide, hall.frame]
  rw [hpending, hcapped, hdecide]
  refine ⟨?_, ?_, ?_, fun r => ?_, ?_, ?_, rfl, ?_, fun hexcess => ?_⟩
  · exact ((hlater.reg _ (hlow 0x1C (by decide) (by decide))).trans (hjudge.reg _ (by simp))).trans hcount
  · exact ((hlater.reg _ (hlow 0x14 (by decide) (by decide))).trans (hjudge.reg _ (by simp))).trans hinput
  · exact ((hlater.rf (hlow 0x18 (by decide) (by decide)) _ _).trans (hjudge.rf (by simp) _ _)).trans hpower
  · obtain ⟨hdemand, hgrant⟩ := hregion r.val r.isLt
    have hapart : tsyRstat r.val ∉ [tsyBase + 8] := by simpa using (tsyRstat_ne_low (by decide)).symm
    rw [Nat.mod_eq_of_lt (s.demands_lt m r.val)] at hdemand
    refine ⟨(hbind.rf hapart _ _).trans hdemand, (hbind.rf hapart _ _).trans (hgrant.trans ?_)⟩
    rw [hjudge.rf (tsyRstat_not_mem (l := [8, 0xC]) (by decide)), hin.rf (tsyRstat_not_mem (l := [0x14, 0x18, 0x1C]) (by decide))]
  · exact (hkeep (by decide) (by decide)).trans (hhold.trans (by rw [hin.rf (by simp)]))
  · exact (hkeep (by decide) (by decide)).trans (hpoint.trans (hin.rf (by simp) _ _))
  · have hgrants := State.nextGrants_of_metered (hin.trans hjudge) (fun k _ => tsyRcfg_not_mem (l := [0x14, 0x18, 0x1C, 8, 0xC]) (by decide))
      (budget (s.inputLimit m.vinMin) m.pAon (s.overdraw m)) (s.demands m)
    rw [← hkeep (by decide) (by decide)] at hgrants
    exact hgrants
  · exact (congrArg (fun w : Word => bit w.toNat 0) (hlater.reg _ (hlow 0xC (by decide) (by decide)))).trans (hover hexcess)

/-- Settles O45: the rounds of R427 by induction on the watts, the periods by the registers that each stage writes. -/
theorem grantsFollowBudget : Obligations.GrantsFollowBudget := by
  unfold Obligations.GrantsFollowBudget
  refine ⟨⟨grantsOf_keeps, levelOf_smallest, fun level k hlevel => ?_⟩, fun m s hon => allowancePeriod_shows m hon, fun s hp => ?_,
    fun s hon hp => grantEffect_shows hon hp, fun r v s hon => ?_⟩
  · rw [length_throttles (Nat.le_succ_of_le hlevel), Nat.add_mul, Nat.add_mul_div_left _ _ (by decide)]
    omega
  · exact if_pos (by simp [hp])
  · have hsum : (List.range 64).foldl (fun a k => a + if k = r.val then bits v.toNat 11 0 else s.tsyFloor k) 0 =
        ((List.range 64).map (fun k => if k = r.val then bits v.toNat 11 0 else s.tsyFloor k)).sum := by
      rw [foldl_add_eq_sum, Nat.zero_add]
    refine congrArg Host.Outcome.next ((State.gate_firmware (by simp [hon]) _ _ false).trans ?_)
    rw [hsum]
    rfl

end Sys2Proof.Machine
end

section
/-! SUPPORT. The sleep and wake of clock domains (R412 to R414). -/

namespace Sys2Proof.Machine

/-! ### Domains that change together -/

/-- A change that does nothing more the second time, made at each domain of a list. -/
theorem State.domain_foldl_modDomain {f : Domain → Domain} (hf : ∀ x, f (f x) = f x) (l : List Nat) (s : State) (i : Nat) :
    (l.foldl (fun s k => s.modDomain k f) s).domain i = if i ∈ l then f (s.domain i) else s.domain i := by
  induction l generalizing s with
  | nil => simp
  | cons k l ih =>
    rw [List.foldl_cons, ih]
    by_cases hk : i = k
    · subst hk
      rw [State.domain_modDomain_same s _ f, hf]
      simp
    · rw [State.domain_modDomain_other s f hk]
      simp [hk]

theorem State.foldl_modDomain_frame (f : Domain → Domain) (l : List Nat) (s : State) :
    l.foldl (fun s k => s.modDomain k f) s = { s with domains := (l.foldl (fun s k => s.modDomain k f) s).domains } := by
  induction l generalizing s with
  | nil => rfl
  | cons k l ih => rw [List.foldl_cons, ih]; rfl

/-- A domain is one of those that sleep and wake with it. -/
theorem State.mem_sleepGroup (s : State) {i : Nat} (waking : Bool) : i ∈ s.sleepGroup i waking := by
  unfold sleepGroup
  dsimp only
  split
  · next hseg =>
    obtain ⟨hi, hlo, hhi⟩ := hseg
    simp only [domAt, if_pos hi] at hlo hhi
    have hself : i = domSegment (i / 39) (i % 39 - 34) := by
      simp only [domSegment]
      omega
    have hdie : (domAt i).2.1 = i / 39 := by simp [domAt, hi]
    rw [List.mem_flatMap, hdie]
    refine ⟨i / 39, ?_, List.mem_map.2 ⟨i % 39 - 34, List.mem_range.2 (by omega), hself.symm⟩⟩
    have hfour : i / 39 < 4 := by omega
    unfold ringDies
    split
    · split
      · interval_cases i / 39 <;> simp
      · simp
    · simp
  · simp

/-! ### A gate that opens -/

/-- The die control of a domain's die. -/
def ctlOf (i : Nat) : Nat :=
  if (domAt i).1 = 0 then domCdCtl (domAt i).2.1 else if (domAt i).1 = 1 then domMd (domAt i).2.1 9 else domXd (domAt i).2.1 15

theorem ctlOf_cd {i : Nat} (h : i < 156) : ctlOf i = domCdCtl (i / 39) := by
  simp [ctlOf, domAt, h]

theorem ctlOf_xd {i : Nat} (h : 196 ≤ i) : ctlOf i = domXd ((i - 196) / 16) 15 := by
  simp [ctlOf, domAt, Nat.not_lt.2 h, show ¬ i < 156 by omega]

theorem ctlOf_md {i : Nat} (h : 156 ≤ i) (h' : i < 196) : ctlOf i = domMd ((i - 156) / 10) 9 := by
  simp [ctlOf, domAt, Nat.not_lt.2 h, h']

/-- A sleeping domain of a group opens its gate. -/
def State.wakeGate (s : State) (k : Nat) : State := if (s.domain k).awake then s else s.openGate k

theorem State.openGate_domain (s : State) (i : Nat) : (s.openGate i).domain i = { s.domain i with
    awake := true, wakeAt := none, rested := 0, swallowed := (s.domain (ctlOf i)).swallowed, deferred := 0,
    opIndex := (s.domain (ctlOf i)).opIndex, wakes := min ((s.domain i).wakes + 1) 0xFFFF } := by
  have hsame : ∀ f, (s.modDomain i f).domain i = f (s.domain i) := s.domain_modDomain_same i
  unfold openGate
  extract_lets c ctl s1
  have hring : ∀ f, (s1.modRing c.2.1 f).domain i = s1.domain i := fun _ => rfl
  split
  · exact (hring _).trans (hsame _)
  · exact hsame _

theorem State.openGate_domain_other (s : State) {i k : Nat} (h : k ≠ i) : (s.openGate i).domain k = s.domain k := by
  have hother : ∀ f, (s.modDomain i f).domain k = s.domain k := fun f => s.domain_modDomain_other f h
  unfold openGate
  extract_lets c ctl s1
  have hring : ∀ f, (s1.modRing c.2.1 f).domain k = s1.domain k := fun _ => rfl
  split
  · exact (hring _).trans (hother _)
  · exact hother _

theorem State.openGate_frame (s : State) (i : Nat) : ∃ d r, s.openGate i = { s with domains := d, rings := r } := by
  unfold openGate
  extract_lets c ctl s1
  split
  · exact ⟨_, _, rfl⟩
  · exact ⟨_, _, rfl⟩

theorem State.wakeGate_awake {s : State} {k : Nat} (h : (s.domain k).awake = true) : s.wakeGate k = s := if_pos h

theorem State.wakeGate_asleep {s : State} {k : Nat} (h : (s.domain k).awake = false) : s.wakeGate k = s.openGate k :=
  if_neg (by simp [h])

theorem State.wakeGate_other (s : State) {i k : Nat} (h : k ≠ i) : (s.wakeGate i).domain k = s.domain k := by
  cases hi : (s.domain i).awake
  · rw [State.wakeGate_asleep hi, State.openGate_domain_other s h]
  · rw [State.wakeGate_awake hi]

theorem State.foldl_wakeGate_other (l : List Nat) (s : State) {k : Nat} (h : k ∉ l) : (l.foldl State.wakeGate s).domain k = s.domain k := by
  induction l generalizing s with
  | nil => rfl
  | cons i l ih =>
    rw [List.mem_cons, not_or] at h
    rw [List.foldl_cons, ih _ h.2, State.wakeGate_other s h.1]

theorem State.foldl_wakeGate_awake (l : List Nat) (s : State) {k : Nat} (h : (s.domain k).awake = true) :
    (l.foldl State.wakeGate s).domain k = s.domain k := by
  induction l generalizing s with
  | nil => rfl
  | cons i l ih =>
    have hk : (s.wakeGate i).domain k = s.domain k := by
      by_cases hi : k = i
      · rw [State.wakeGate_awake (hi ▸ h)]
      · exact State.wakeGate_other s hi
    rw [List.foldl_cons, ih _ (by rw [hk]; exact h), hk]

theorem State.foldl_wakeGate_frame (l : List Nat) (s : State) : ∃ d r, l.foldl State.wakeGate s = { s with domains := d, rings := r } := by
  induction l generalizing s with
  | nil => exact ⟨_, _, rfl⟩
  | cons i l ih =>
    obtain ⟨d, r, h⟩ := ih (s.wakeGate i)
    obtain ⟨d', r', h'⟩ : ∃ d r, s.wakeGate i = { s with domains := d, rings := r } := by
      cases hi : (s.domain i).awake
      · rw [State.wakeGate_asleep hi]
        exact s.openGate_frame i
      · rw [State.wakeGate_awake hi]
        exact ⟨_, _, rfl⟩
    exact ⟨d, r, by rw [List.foldl_cons, h, h']⟩

/-- A sleeping domain whose group wakes opens its gate once, by its die control, which is not of the group. -/
theorem State.foldl_wakeGate_domain (l : List Nat) (s : State) {i : Nat} (hi : i ∈ l) (hctl : ctlOf i ∉ l)
    (hasleep : (s.domain i).awake = false) : (l.foldl State.wakeGate s).domain i = { s.domain i with
      awake := true, wakeAt := none, rested := 0, swallowed := (s.domain (ctlOf i)).swallowed, deferred := 0,
      opIndex := (s.domain (ctlOf i)).opIndex, wakes := min ((s.domain i).wakes + 1) 0xFFFF } := by
  obtain ⟨l₁, l₂, rfl, hfirst⟩ := List.eq_append_cons_of_mem hi
  have hself := State.foldl_wakeGate_other l₁ s hfirst
  have hc := State.foldl_wakeGate_other l₁ s (k := ctlOf i) fun h => hctl (by simp [h])
  rw [List.foldl_append, List.foldl_cons, State.wakeGate_asleep (by rw [hself]; exact hasleep),
    State.foldl_wakeGate_awake _ _ (by rw [State.openGate_domain]), State.openGate_domain, hself, hc]

/-- The die control of a domain that may sleep does not sleep with it. -/
theorem State.ctlOf_not_mem_sleepGroup (s : State) {i : Nat} (hs : domSleepable i = true) : ctlOf i ∉ s.sleepGroup i true := by
  unfold sleepGroup
  dsimp only
  split
  · next hseg =>
    rw [List.mem_flatMap]
    rintro ⟨n, -, hn⟩
    obtain ⟨j, hj, hseg'⟩ := List.mem_map.1 hn
    have hj4 := List.mem_range.1 hj
    rw [ctlOf_cd hseg.1] at hseg'
    simp only [domSegment, domCdCtl] at hseg'
    omega
  · rw [List.mem_singleton]
    unfold domSleepable at hs
    by_cases h1 : i < 156
    · rw [ctlOf_cd h1]
      simp only [if_pos h1, decide_eq_true_eq] at hs
      simp only [domCdCtl]
      omega
    · by_cases h2 : i < 196
      · rw [ctlOf_md (by omega) h2]
        simp only [if_neg h1, if_pos h2, beq_iff_eq] at hs
        simp only [domMd]
        omega
      · by_cases h3 : i < 228
        · rw [ctlOf_xd (by omega)]
          simp [if_neg h1, if_neg h2, if_pos h3] at hs
          simp only [domXd]
          omega
        · simp [h1, h2, h3] at hs

/-! ### The two commands -/

/-- A gate that closes. -/
def closeGate (x : Domain) : Domain := { x with awake := false, wakeAt := none, rested := 0 }

theorem execDomainSleep_sleeps {i : Fin 231} {s u : State} (hon : s.power.phase = .on) (haw : (s.domain i.val).awake = true)
    (hu : u = s.at (s.edge + (64 - (s.domain i.val).rested) + 1)) (hs : s.mayRest i.val = true) (hurest : u.mayRest i.val = true)
    (hfull : (u.domain i.val).rested = 64) :
    exec (.domainSleep i) s = .next ((u.sleepGroup i.val false).foldl (fun s k => s.modDomain k closeGate) u) := by
  subst hu
  exact (if_pos (by simp [hon, haw, hs])).trans (if_pos (by simp [hurest, hfull]))

theorem execDomainSleep_stays {i : Fin 231} {s u : State} (hon : s.power.phase = .on) (haw : (s.domain i.val).awake = true)
    (hu : u = s.at (s.edge + (64 - (s.domain i.val).rested) + 1)) (hs : s.mayRest i.val = true)
    (hnot : u.mayRest i.val = false ∨ (u.domain i.val).rested ≠ 64) : exec (.domainSleep i) s = .next u := by
  subst hu
  refine (if_pos (by simp [hon, haw, hs])).trans (if_neg ?_)
  rcases hnot with h | h <;> simp [h]

/-- A wake that is not held back opens the gates of the group, and a slice of the Depository then serves. -/
theorem execDomainWake_opens {i : Fin 231} {s u : State} {e : Nat} (hon : s.power.phase = .on)
    (hasleep : (s.domain i.val).awake = false) (hable : domSleepable i.val = true) (hfrom : s.wakeFrom i.val = some e)
    (hu : u = s.at (e + domWake i.val + s.wakeHold i.val))
    (hcore : (domAt i.val).1 = 0 → (domAt i.val).2.2 < 34 → (s.core (domAt i.val).2.1 (domAt i.val).2.2).active = true) :
    exec (.domainWake i) s = .next (if (domAt i.val).1 = 1 then ((s.sleepGroup i.val true).foldl State.wakeGate u).depSettle
      else (s.sleepGroup i.val true).foldl State.wakeGate u) := by
  subst hu
  change execDomainWake i s = _
  unfold execDomainWake
  dsimp only
  rw [if_neg, hfrom]
  · rfl
  · simp only [hon, hasleep, hable]
    simpa using hcore

theorem execDomainWake_stays {i : Fin 231} {s : State} (h : domSleepable i.val = false ∨ s.wakeFrom i.val = none ∨
      ((domAt i.val).1 = 0 ∧ (domAt i.val).2.2 < 34 ∧ (s.core (domAt i.val).2.1 (domAt i.val).2.2).active = false)) :
    exec (.domainWake i) s = .next s := by
  change execDomainWake i s = _
  unfold execDomainWake
  dsimp only
  split
  · rfl
  · next hgo =>
    rcases h with h | h | ⟨h0, hj, hc⟩
    · simp [h] at hgo
    · rw [h]
    · simp [h0, hj, hc] at hgo

/-- Edges that pass leave a domain asleep, and the counts and the point of each domain. -/
theorem Passed.wakes {s u : State} {i : Nat} (h : Passed s u) (hasleep : (s.domain i).awake = false) (k : Nat) :
    (u.domain i).awake = false ∧ (u.domain i).wakes = (s.domain i).wakes ∧ (u.domain k).swallowed = (s.domain k).swallowed ∧
      (u.domain k).opIndex = (s.domain k).opIndex := by
  obtain ⟨r, hr⟩ := h.domain i
  obtain ⟨q, hq⟩ := h.domain k
  rw [hr, hq]
  exact ⟨hasleep, rfl, rfl, rfl⟩

/-- Settles O48: a sleeping group closes its gates, a waking one opens them by its die control. -/
theorem domainsSleepAndWake : Obligations.DomainsSleepAndWake := by
  unfold Obligations.DomainsSleepAndWake
  refine ⟨fun i s u hon haw hu => ⟨fun hs hurest hfull => ?_, fun hs hnot => execDomainSleep_stays hon haw hu hs hnot, fun hs =>
      if_neg (by simp [hs])⟩, fun i s hon hasleep => ⟨fun h => execDomainWake_stays (.inl h), fun h => execDomainWake_stays (.inr (.inl h)),
      fun h0 hj hc => execDomainWake_stays (.inr (.inr ⟨h0, hj, hc⟩)), fun e u hable hfrom hu hcore => ⟨fun hslice => ?_, fun hslice => ?_⟩⟩⟩
  · have hdomain := State.domain_foldl_modDomain (f := closeGate) (fun _ => rfl) (u.sleepGroup i.val false) u
    refine ⟨_, execDomainSleep_sleeps hon haw hu hs hurest hfull, State.foldl_modDomain_frame _ _ _, ?_, fun k hk => ?_, fun k => ?_⟩
    · rw [hdomain, if_pos (u.mem_sleepGroup false)]
      rfl
    · rw [hdomain, if_neg hk]
    · rw [hdomain]
      split <;> exact ⟨rfl, rfl, rfl⟩
  · rw [execDomainWake_opens hon hasleep hable hfrom hu hcore, if_pos hslice]
    have hgroup : s.sleepGroup i.val true = [i.val] := by
      refine if_neg fun h => ?_
      rw [domAt, if_pos h.1] at hslice
      exact absurd hslice Nat.zero_ne_one
    obtain ⟨hasleep', -⟩ := Passed.wakes (hu ▸ s.at_passed _) hasleep i.val
    rw [hgroup, List.foldl_cons, List.foldl_nil, State.wakeGate_asleep hasleep']
  · obtain ⟨hasleep', hwakes, -, -⟩ := Passed.wakes (hu ▸ s.at_passed _) hasleep i.val
    have hopen := State.foldl_wakeGate_domain _ u (s.mem_sleepGroup true) (s.ctlOf_not_mem_sleepGroup hable) hasleep'
    obtain ⟨d, r, hframe⟩ := State.foldl_wakeGate_frame (s.sleepGroup i.val true) u
    obtain ⟨-, -, hswallowed, hpoint⟩ := Passed.wakes (hu ▸ s.at_passed _) hasleep (ctlOf i.val)
    refine ⟨_, (execDomainWake_opens hon hasleep hable hfrom hu hcore).trans (congrArg _ (if_neg hslice)), ?_, ?_, ?_, ?_, ?_,
      fun hi => ?_, fun hi => ?_, ?_⟩
    · rw [hframe]
    · rw [hframe]
      exact (congrArg State.edge hu).trans (s.edge_at _)
    · rw [hopen]
    · rw [hopen, hwakes]
    · rw [hopen]
    · rw [hopen, ← ctlOf_cd hi]
      exact ⟨hswallowed, hpoint⟩
    · rw [hopen, ← ctlOf_xd hi]
      exact ⟨hswallowed, hpoint⟩
    · rw [hframe, hu]
      exact s.at_outer _

end Sys2Proof.Machine
end

section
/-! SUPPORT. The Journal, the Rating and slow units (R438 to R441, R456 to R464). -/

namespace Sys2Proof.Machine

/-! ### The Journal (R438 to R440) -/

theorem State.notice_kept {s : State} (e : Err) (h : s.jnl.entries.length < 3840) : ∃ x, (s.notice e).jnl.entries = s.jnl.entries ++ [x] ∧
    x.seq = s.jnl.seq ∧ x.code = e.code ∧ x.region = e.region ∧ x.step = s.tlrStep ∧ x.cls = .notice ∧
    x.lostBefore = s.jnl.lostRegions.contains e.region ∧ (s.notice e).jnl.seq = (s.jnl.seq + 1) % 2 ^ 32 ∧
    s.notice e = { s with jnl := (s.notice e).jnl } := by
  have hkeeps : Journal.keeps s.jnl.entries.length .notice = true := decide_eq_true h
  unfold State.notice State.journal
  dsimp only
  rw [if_pos hkeeps]
  exact ⟨_, rfl, rfl, rfl, rfl, rfl, rfl, rfl, rfl, rfl⟩

theorem State.notice_dropped {s : State} (e : Err) (h : 3840 ≤ s.jnl.entries.length) : (s.notice e).jnl.entries = s.jnl.entries ∧
    (s.notice e).jnl.lost = min (s.jnl.lost + 1) 0xFFFF ∧ (s.notice e).jnl.lostRegions.contains e.region = true ∧
    s.notice e = { s with jnl := (s.notice e).jnl } := by
  have hkeeps : ¬ Journal.keeps s.jnl.entries.length .notice = true := by simpa [Journal.keeps] using h
  unfold State.notice State.journal
  dsimp only
  rw [if_neg hkeeps]
  exact ⟨rfl, rfl, by simp, rfl⟩

/-- The last place of the Journal takes an error of class STEP, RESTORE or DEPART as FATAL (R440). -/
theorem State.report_last {s : State} {e : Err} (hcls : e.cls = .step ∨ e.cls = .restore ∨ e.cls = .depart)
    (hlen : s.jnl.entries.length = 4095) (hpending : s.fatal.pending = none) (hstopped : s.fatal.stopped = false) :
    ∃ x, (s.report e).jnl.entries = s.jnl.entries ++ [x] ∧ x.cls = .fatal ∧
      x.code = 0x0A25 ∧ x.seq = s.jnl.seq ∧ (s.report e).fatal.pending = some (s.jnl.seq, 0x0A25) := by
  have hverdict : s.verdict e = .escalated 0x0A25 := if_pos hlen
  have hreport : s.report e =
      (s.journal { e with cls := .fatal, code := 0x0A25 } false false false).act .fatal e.region 0x0A25 s.jnl.seq e.addr := by
    unfold State.report
    rcases hcls with h | h | h <;> rw [h, hverdict] <;> rfl
  have hkeeps : Journal.keeps s.jnl.entries.length .fatal = true := decide_eq_true (by omega)
  rw [hreport]
  unfold State.journal State.act
  dsimp only
  rw [if_pos hkeeps, if_neg (by simp [hpending, hstopped])]
  exact ⟨_, rfl, rfl, rfl, rfl, rfl⟩

/-! ### What a SECURE reaches (R452) -/

/-- What sending to other packages leaves: the link, its fault registers, the Journal, and the Ledger but for what arms it. -/
structure Secured (s t : State) : Prop where
  frame : t = { s with regs := t.regs, recent := t.recent, link := t.link, jnl := t.jnl, ldg := t.ldg }
  reg : ∀ o, (∀ n, o ≠ vlBase n + 0xC) → t.reg o = s.reg o
  ldg : t.ldg = { s.ldg with secures := t.ldg.secures, acksDue := t.ldg.acksDue }
  link : t.link = { s.link with ports := t.link.ports, msgCount := t.link.msgCount }
  queue : t.jnl.queue = s.jnl.queue ∧ t.jnl.handling = s.jnl.handling

theorem Secured.armed {s t : State} (h : Secured s t) : t.ldg.armed = s.ldg.armed := by rw [h.ldg]

theorem Secured.refl (s : State) : Secured s s := ⟨rfl, fun _ _ => rfl, rfl, rfl, rfl, rfl⟩

theorem Secured.trans {s t u : State} (h : Secured s t) (h' : Secured t u) : Secured s u where
  frame := by rw [h'.frame, h.frame]
  reg o ho := (h'.reg o ho).trans (h.reg o ho)
  ldg := by rw [h'.ldg, h.ldg]
  link := by rw [h'.link, h.link]
  queue := ⟨h'.queue.1.trans h.queue.1, h'.queue.2.trans h.queue.2⟩

theorem Secured.rf {s t : State} (h : Secured s t) {o : Nat} (ho : ∀ n, o ≠ vlBase n + 0xC) (hi lo : Nat) : t.rf o hi lo = s.rf o hi lo :=
  State.rf_of_reg (h.reg o ho) hi lo

theorem State.journal_queue (s : State) (e : Err) (joined queued escalated : Bool) :
    (s.journal e joined queued escalated).jnl.queue = s.jnl.queue ∧ (s.journal e joined queued escalated).jnl.handling = s.jnl.handling := by
  unfold journal
  dsimp only
  split <;> exact ⟨rfl, rfl⟩

theorem Secured.notice (s : State) (e : Err) : Secured s (s.notice e) := by
  have hqueue := s.journal_queue { e with cls := .notice } false false false
  obtain ⟨j, hj⟩ := s.notice_eq e
  refine ⟨?_, fun _ _ => ?_, ?_, ?_, hqueue⟩
  · rw [hj]
  · rw [hj]
    rfl
  · rw [hj]
  · rw [hj]

theorem Secured.linkFault (s : State) (n mask : Nat) : Secured s (s.orReg (vlBase n + 0xC) mask) :=
  ⟨rfl, fun _ ho => State.reg_setReg_other s _ (ho n), rfl, rfl, rfl, rfl⟩

theorem Secured.enqueueFlits (s : State) (p c : Nat) (fs : List LinkFlit) : Secured s (s.enqueueFlits p c fs) := by
  have hq : ∀ f : Port → Port, Secured s (s.modPort p f) := fun f => ⟨rfl, fun _ _ => rfl, rfl, rfl, rfl, rfl⟩
  unfold State.enqueueFlits
  extract_lets was q s'
  split
  · exact ((hq _).trans (.linkFault _ _ _)).trans (.notice _ _)
  · exact hq _

theorem Secured.sendMsg (s : State) (dst : Nat) (m : Msg) : Secured s (s.sendMsg dst m) := by
  have hcount : Secured s { s with link := { s.link with msgCount := s.link.msgCount + 1 } } := ⟨rfl, fun _ _ => rfl, rfl, rfl, rfl, rfl⟩
  unfold State.sendMsg
  extract_lets c s'
  split
  · exact hcount.trans (.enqueueFlits _ _ _ _)
  · exact (hcount.trans (.linkFault _ _ _)).trans (.notice _ _)

theorem Secured.sendAll (s : State) (transport step fields : Nat) : Secured s (s.sendAll transport step fields) := by
  have hfold : ∀ (l : List Nat) (s : State) (m : State → Nat → Msg), Secured s (l.foldl (fun s d => s.sendMsg d (m s d)) s) := by
    intro l
    induction l with
    | nil => exact fun s _ => .refl s
    | cons d l ih => exact fun s m => (Secured.sendMsg s _ _).trans (ih _ m)
  exact hfold _ s _

theorem Secured.sendSecure (s : State) : Secured s s.sendSecure := by
  unfold State.sendSecure
  extract_lets m
  split
  · exact .refl s
  · exact (Secured.sendAll s 4 m 0).trans ⟨rfl, fun _ _ => rfl, rfl, rfl, rfl, rfl⟩

theorem ldgBase_ne_link {o : Nat} (ho : o < 0x400000) (n : Nat) : ldgBase + o ≠ vlBase n + 0xC := by
  simp only [ldgBase, vlBase]
  omega

/-! ### Units that are lost (R37, R436) -/

/-- What units that are lost leave: the state of the stacks, the Journal and the fatal stop, which stays due. -/
structure UnitsLost (s t : State) : Prop where
  frame : t = { s with regs := t.regs, jnl := t.jnl, fatal := t.fatal }
  reg : ∀ o < 0x400000, t.reg (ldgBase + o) = s.reg (ldgBase + o)
  pending : s.fatal.pending.isSome = true → t.fatal.pending.isSome = true

theorem UnitsLost.refl (s : State) : UnitsLost s s := ⟨rfl, fun _ _ => rfl, id⟩

theorem UnitsLost.trans {s t u : State} (h : UnitsLost s t) (h' : UnitsLost t u) : UnitsLost s u where
  frame := by rw [h'.frame, h.frame]
  reg o ho := (h'.reg o ho).trans (h.reg o ho)
  pending := h'.pending ∘ h.pending

/-- A fatal error is journalled and makes a stop due where none is (R469). -/
theorem UnitsLost.report (s : State) {e : Err} (he : e.cls = .fatal) : UnitsLost s (s.report e) ∧
    (s.fatal.pending = none → s.fatal.stopped = false → (s.report e).fatal.pending.isSome = true) := by
  have hreport : s.report e = (s.journal e false false false).act .fatal e.region e.code s.jnl.seq e.addr := by
    unfold State.report
    rw [he]
  obtain ⟨j, hj⟩ := s.journal_eq e false false false
  rw [hreport, hj]
  unfold State.act
  dsimp only
  split
  · next hdone =>
    refine ⟨⟨rfl, fun _ _ => rfl, id⟩, fun hp hs => ?_⟩
    simp [hp, hs] at hdone
  · exact ⟨⟨rfl, fun _ _ => rfl, fun _ => rfl⟩, fun _ _ => rfl⟩

theorem UnitsLost.unitLost (s : State) (u : LostUnit) : UnitsLost s (s.unitLost u) ∧
    (s.fatal.pending = none → s.fatal.stopped = false → (s.unitLost u).fatal.pending.isSome = true) := by
  cases u with
  | stack k =>
    have hoff : ∀ o < 0x400000, ldgBase + o ≠ hbmBase (k.val / 4) + 8 := fun o ho => by
      have := k.isLt
      simp only [ldgBase, hbmBase]
      omega
    have hset : UnitsLost s (s.setRf (hbmBase (k.val / 4) + 8) (4 + k.val % 4) (4 + k.val % 4) 0) :=
      ⟨rfl, fun o ho => State.reg_setReg_other s _ (hoff o ho), id⟩
    obtain ⟨hlost, hdue⟩ := UnitsLost.report (s.setRf (hbmBase (k.val / 4) + 8) (4 + k.val % 4) (4 + k.val % 4) 0)
      (e := Err.of .fatal 0x321 (domMd (k.val / 4) (k.val % 4)) k.val) rfl
    exact ⟨hset.trans hlost, hdue⟩
  | memoryDie n => exact UnitsLost.report s (e := Err.of .fatal 0xA23 _ _) rfl
  | ioDie n => exact UnitsLost.report s (e := Err.of .fatal 0xA23 _ _) rfl
  | teller n => exact UnitsLost.report s (e := Err.of .fatal 0xA23 _ _) rfl
  | scheduleEngine n => exact UnitsLost.report s (e := Err.of .fatal 0xA23 _ _) rfl
  | hostEndpoint => exact UnitsLost.report s (e := Err.of .fatal 0xA23 _ _) rfl
  | farhies => exact UnitsLost.report s (e := Err.aon .fatal 0xA23) rfl
  | powerStage => exact UnitsLost.report s (e := Err.aon .fatal 0xA23) rfl
  | region64 => exact UnitsLost.report s (e := Err.aon .fatal 0xA23) rfl

theorem UnitsLost.foldl (l : List LostUnit) (s : State) : UnitsLost s (l.foldl State.unitLost s) ∧
    (l ≠ [] → s.fatal.pending = none → s.fatal.stopped = false → (l.foldl State.unitLost s).fatal.pending.isSome = true) := by
  have hall : ∀ (l : List LostUnit) (s : State), UnitsLost s (l.foldl State.unitLost s) := fun l => by
    induction l with
    | nil => exact .refl
    | cons u l ih => exact fun s => (UnitsLost.unitLost s u).1.trans (ih _)
  refine ⟨hall l s, fun hl hp hs => ?_⟩
  cases l with
  | nil => exact absurd rfl hl
  | cons u l => exact (hall l _).pending ((UnitsLost.unitLost s u).2 hp hs)

/-- Banks that are marked as failing reach the dies of the Vault alone. -/
theorem State.markBanks_frame (s : State) (banks : List Nat) : s.markBanks banks = { s with dies := (s.markBanks banks).dies } := by
  have hfold : ∀ (f : State → Nat → State), (∀ s b, ∃ d, f s b = { s with dies := d }) → ∀ (l : List Nat) (s : State),
      ∃ d, l.foldl f s = { s with dies := d } := fun f hf l => by
    induction l with
    | nil => exact fun s => ⟨s.dies, rfl⟩
    | cons b l ih =>
      intro s
      obtain ⟨d, hd⟩ := hf s b
      obtain ⟨d', hd'⟩ := ih (f s b)
      exact ⟨d', by rw [List.foldl_cons, hd', hd]⟩
  obtain ⟨d, hd⟩ : ∃ d, s.markBanks banks = { s with dies := d } := by
    refine hfold _ (fun s b => ?_) banks s
    dsimp only
    split
    · exact ⟨_, rfl⟩
    · exact ⟨s.dies, rfl⟩
  rw [hd]

/-! ### The Rating (R456, R457) -/

theorem scoresOf_bounds (h : Health) (slow : Bool) : (scoresOf h slow).1 ≤ 255 ∧ (scoresOf h slow).2.1 ≤ 255 ∧
    (scoresOf h slow).2.2.1 ≤ 255 ∧ (scoresOf h slow).2.2.2.1 ≤ 255 := by
  refine ⟨Nat.min_le_left _ _, ?_, Nat.min_le_left _ _, Nat.min_le_left _ _⟩
  simp only [scoresOf]
  omega

/-- The registers of the Rating show it with its scores. -/
structure Published (x : Nat × Nat × Nat × Nat × Nat) (r : Nat) (s : State) : Prop where
  rating : s.rf (ldgBase + 0x3C) 7 0 = r
  corrected : s.rf (ldgBase + 0x3C) 15 8 = x.1
  droop : s.rf (ldgBase + 0x3C) 31 24 = x.2.2.1
  link : s.rf (ldgBase + 0x40) 7 0 = x.2.2.2.1

theorem Published.of_secured {x : Nat × Nat × Nat × Nat × Nat} {r : Nat} {s t : State} (hp : Published x r s) (h : Secured s t) :
    Published x r t := by
  have hlink : ∀ o < 0x400000, ∀ hi lo, t.rf (ldgBase + o) hi lo = s.rf (ldgBase + o) hi lo := fun o ho => h.rf (ldgBase_ne_link ho)
  exact ⟨(hlink _ (by decide) _ _).trans hp.rating, (hlink _ (by decide) _ _).trans hp.corrected,
    (hlink _ (by decide) _ _).trans hp.droop, (hlink _ (by decide) _ _).trans hp.link⟩

theorem Published.of_regs {x : Nat × Nat × Nat × Nat × Nat} {r : Nat} {s t : State} (hp : Published x r s) (h : t.regs = s.regs) :
    Published x r t := by
  obtain ⟨h1, h2, h3, h4⟩ := hp
  rw [← State.rf_of_regs h] at h1 h2 h3 h4
  exact ⟨h1, h2, h3, h4⟩

/-- The state whose registers show a Rating. -/
def State.showRating (s : State) (x : Nat × Nat × Nat × Nat × Nat) (r : Nat) : State :=
  (s.setReg (ldgBase + 0x3C) (BitVec.ofNat 32 (2 ^ 24 * x.2.2.1 + 2 ^ 16 * x.2.1 + 2 ^ 8 * x.1 + r))).setReg (ldgBase + 0x40)
    (BitVec.ofNat 32 (2 ^ 8 * x.2.2.2.2 + x.2.2.2.1))

theorem State.showRating_published (s : State) {x : Nat × Nat × Nat × Nat × Nat} {r : Nat} (h1 : x.1 ≤ 255) (h2 : x.2.1 ≤ 255)
    (h3 : x.2.2.1 ≤ 255) (h4 : x.2.2.2.1 ≤ 255) (hr : r ≤ 255) : Published x r (s.showRating x r) := by
  have hrating : (s.showRating x r).reg (ldgBase + 0x3C) = BitVec.ofNat 32 (2 ^ 24 * x.2.2.1 + 2 ^ 16 * x.2.1 + 2 ^ 8 * x.1 + r) := by
    rw [showRating, State.reg_setReg_other _ _ (by decide), State.reg_setReg_same]
  have hlink : (s.showRating x r).reg (ldgBase + 0x40) = BitVec.ofNat 32 (2 ^ 8 * x.2.2.2.2 + x.2.2.2.1) :=
    State.reg_setReg_same _ _ _
  refine ⟨?_, ?_, ?_, ?_⟩
  · rw [State.rf, hrating, BitVec.toNat_ofNat, bits]
    omega
  · rw [State.rf, hrating, BitVec.toNat_ofNat, bits]
    omega
  · rw [State.rf, hrating, BitVec.toNat_ofNat, bits]
    omega
  · rw [State.rf, hlink, BitVec.toNat_ofNat, bits]
    omega

/-- A crossing of the Rating: the step is secured now, the Rating is disarmed, and the crossing is journalled. -/
def State.crossRating (s : State) (r : Nat) : State :=
  (((s.secureNow).ofArmed false).notice (Err.aon .notice 0x920 0 0 r)).sendSecure

theorem State.crossRating_secured (s : State) (r : Nat) : Secured (s.ofArmed false) (s.crossRating r) := by
  have hnow : Secured (s.ofArmed false) ((s.secureNow).ofArmed false) := by
    unfold secureNow
    split <;> exact ⟨rfl, fun _ _ => rfl, rfl, rfl, rfl, rfl⟩
  exact (hnow.trans (.notice _ _)).trans (.sendSecure _)

theorem State.publish_eq (s : State) (x : Nat × Nat × Nat × Nat × Nat) {r : Nat} (hr : r = ratingOf (s.reg (ldgBase + 0x48)).toNat x) :
    s.publish x = if s.ldg.armed && decide (s.rf (ldgBase + 0x44) 7 0 ≤ r) then (s.showRating x r).crossRating r
      else if r + s.rf (ldgBase + 0x44) 15 8 < s.rf (ldgBase + 0x44) 7 0 then (s.showRating x r).ofArmed true
      else s.showRating x r := by
  subst hr
  rfl

theorem ratingOf_le (w : Nat) (x : Nat × Nat × Nat × Nat × Nat) : ratingOf w x ≤ 255 := Nat.min_le_left _ _

/-- A Rating is published with its scores; it disarms at THRESH, and arms below THRESH less HYST (R457). -/
theorem State.publish_shows (s : State) (h : Health) (slow : Bool) {r : Nat}
    (hr : r = ratingOf (s.reg (ldgBase + 0x48)).toNat (scoresOf h slow)) : Published (scoresOf h slow) r (s.publish (scoresOf h slow)) ∧
    s.publish (scoresOf h slow) = { s with
      regs := (s.publish (scoresOf h slow)).regs, recent := (s.publish (scoresOf h slow)).recent,
      link := (s.publish (scoresOf h slow)).link, jnl := (s.publish (scoresOf h slow)).jnl,
      ldg := (s.publish (scoresOf h slow)).ldg } ∧
    (s.ldg.armed = true → s.rf (ldgBase + 0x44) 7 0 ≤ r → (s.publish (scoresOf h slow)).ldg.armed = false) ∧
    (r + s.rf (ldgBase + 0x44) 15 8 < s.rf (ldgBase + 0x44) 7 0 → (s.publish (scoresOf h slow)).ldg.armed = true) := by
  obtain ⟨h1, h2, h3, h4⟩ := scoresOf_bounds h slow
  have hshow := s.showRating_published h1 h2 h3 h4 (hr ▸ ratingOf_le _ _)
  rw [s.publish_eq _ hr]
  split
  · next hcross =>
    obtain ⟨-, hle⟩ : s.ldg.armed = true ∧ s.rf (ldgBase + 0x44) 7 0 ≤ r := by simpa using hcross
    have hsec := (s.showRating (scoresOf h slow) r).crossRating_secured r
    have hpub : Published (scoresOf h slow) r ((s.showRating (scoresOf h slow) r).ofArmed false) := hshow.of_regs rfl
    refine ⟨hpub.of_secured hsec, ?_, fun _ _ => hsec.armed, fun hlt => absurd hlt (by omega)⟩
    rw [hsec.frame]
    rfl
  · next hcross =>
    have hnot : s.ldg.armed = true → s.rf (ldgBase + 0x44) 7 0 ≤ r → False := fun ha hle => hcross (by simp [ha, hle])
    split
    · exact ⟨hshow.of_regs rfl, rfl, fun ha hle => (hnot ha hle).elim, fun _ => rfl⟩
    · next hlt => exact ⟨hshow, rfl, fun ha hle => (hnot ha hle).elim, fun h => absurd h hlt⟩

/-! ### The update (R37, R456 to R458) -/

/-- The state with the temperatures that an update reports. -/
def State.withTemps (s : State) (h : Health) : State :=
  { s with power := { s.power with dieTemp := h.dieTemp, stackTemp := h.stackTemp } }

/-- The state with the units that are lost and the banks that fail. -/
def State.takeHealth (s : State) (h : Health) : State := h.lost.foldl State.unitLost ((s.withTemps h).markBanks h.failingBanks)

/-- A faulted source of the Rating is journalled once. -/
def State.ratingFault (s : State) : State :=
  if s.rf (ldgBase + 0xC) 3 3 = 1 then s else (s.orReg (ldgBase + 0xC) 8).notice (Err.aon .notice 0x903)

/-- On the fall-back the package secures (R458). -/
def State.secureFallBack (s : State) : State := if s.fallBack && s.step.job.isSome then s.sendSecure else s

theorem State.secureFallBack_secured (s : State) : Secured s s.secureFallBack := by
  unfold secureFallBack
  split
  · exact .sendSecure s
  · exact .refl s

theorem execRatingUpdate_eq {h : Health} {s : State} (hon : s.power.phase = .on) :
    exec (.ratingUpdate h) s = .next (if h.sourceFaulted then (s.takeHealth h).ratingFault else (s.takeHealth h).publish
      (scoresOf h ((List.range 231).any (fun i => ((s.takeHealth h).domain i).slow)))).secureFallBack :=
  if_neg (by simp [hon])

theorem State.takeHealth_lost (s : State) (h : Health) :
    (∃ d r j f, s.takeHealth h = { s.withTemps h with dies := d, regs := r, jnl := j, fatal := f }) ∧
    (∀ o < 0x400000, (s.takeHealth h).reg (ldgBase + o) = s.reg (ldgBase + o)) ∧
    (h.lost ≠ [] → s.fatal.pending = none → s.fatal.stopped = false → (s.takeHealth h).fatal.pending.isSome = true) := by
  obtain ⟨⟨hframe, hreg, -⟩, hdue⟩ := UnitsLost.foldl h.lost ((s.withTemps h).markBanks h.failingBanks)
  have hmark := (s.withTemps h).markBanks_frame h.failingBanks
  unfold takeHealth
  refine ⟨⟨_, _, _, _, hframe.trans (by rw [hmark])⟩, fun o ho => (hreg o ho).trans ?_, fun hl hp hs => hdue hl ?_ ?_⟩
  · rw [hmark]
    rfl
  · rw [hmark]
    exact hp
  · rw [hmark]
    exact hs

theorem State.ratingFault_secured (s : State) : s.ratingFault.rf (ldgBase + 0xC) 3 3 = 1 ∧
    s.ratingFault.reg (ldgBase + 0x3C) = s.reg (ldgBase + 0x3C) ∧
    s.ratingFault = { s with regs := s.ratingFault.regs, recent := s.ratingFault.recent, jnl := s.ratingFault.jnl } := by
  unfold ratingFault
  split
  · next hset => exact ⟨hset, rfl, rfl⟩
  · obtain ⟨j, hj⟩ := (s.orReg (ldgBase + 0xC) 8).notice_eq (Err.aon .notice 0x903)
    have hbit : (s.orReg (ldgBase + 0xC) 8).rf (ldgBase + 0xC) 3 3 = 1 := by
      have h := s.bit_orReg (off := ldgBase + 0xC) (mask := 8) (b := 3) (by decide)
      rw [show Nat.testBit 8 3 = true by decide, Bool.or_true] at h
      simpa [State.rf, bits, bit] using h
    rw [hj]
    exact ⟨hbit, State.reg_setReg_other s _ (by decide), rfl⟩

theorem ratingUpdate_publishes (h : Health) {s : State} {r : Nat} (hon : s.power.phase = .on) (hsrc : h.sourceFaulted = false)
    (hr : r = ratingOf (s.reg (ldgBase + 0x48)).toNat (scoresOf h ((List.range 231).any (fun i => (s.domain i).slow)))) :
    ∃ t, exec (.ratingUpdate h) s = .next t ∧ r ≤ 255 ∧ t.rf (ldgBase + 0x3C) 7 0 = r ∧
      t.rf (ldgBase + 0x3C) 15 8 = min 255 (h.corrected / 16) ∧ t.rf (ldgBase + 0x3C) 31 24 = min 255 (4 * h.droop) ∧
      t.rf (ldgBase + 0x40) 7 0 = min 255 (32 * h.retrains + h.replays / 64) ∧
      (s.ldg.armed = true → s.rf (ldgBase + 0x44) 7 0 ≤ r → t.ldg.armed = false) ∧
      (r + s.rf (ldgBase + 0x44) 15 8 < s.rf (ldgBase + 0x44) 7 0 → t.ldg.armed = true) ∧
      t.power = { s.power with dieTemp := h.dieTemp, stackTemp := h.stackTemp } ∧ t.mem = s.mem ∧ t.cores = s.cores ∧
      t.rings = s.rings ∧ t.nvm = s.nvm ∧ t.hostMem = s.hostMem := by
  obtain ⟨⟨d, regs, j, f, htake⟩, hreg, -⟩ := s.takeHealth_lost h
  have hslow : (List.range 231).any (fun i => ((s.takeHealth h).domain i).slow) = (List.range 231).any (fun i => (s.domain i).slow) := by
    rw [htake]
    rfl
  have harmed : (s.takeHealth h).ldg = s.ldg := by
    rw [htake]
    rfl
  rw [← hreg 0x48 (by decide), ← hslow] at hr
  obtain ⟨hpub, hframe, hdisarm, harm⟩ := (s.takeHealth h).publish_shows h _ hr
  rw [harmed, State.rf_of_reg (hreg 0x44 (by decide))] at hdisarm
  rw [State.rf_of_reg (hreg 0x44 (by decide)), State.rf_of_reg (hreg 0x44 (by decide))] at harm
  refine ⟨_, execRatingUpdate_eq hon, hr ▸ ratingOf_le _ _, ?_⟩
  rw [if_neg (by simp [hsrc])]
  generalize hx : (s.takeHealth h).publish _ = x at hpub hframe hdisarm harm
  have hsec := x.secureFallBack_secured
  obtain ⟨h1, h2, h3, h4⟩ := hpub.of_secured hsec
  refine ⟨h1, h2, h3, h4, fun ha hle => hsec.armed.trans (hdisarm ha hle), fun hlt => hsec.armed.trans (harm hlt), ?_⟩
  rw [hsec.frame, hframe, htake]
  exact ⟨rfl, rfl, rfl, rfl, rfl, rfl⟩

theorem ratingUpdate_faults (h : Health) {s : State} (hon : s.power.phase = .on) (hsrc : h.sourceFaulted = true) :
    ∃ t, exec (.ratingUpdate h) s = .next t ∧
    t.rf (ldgBase + 0xC) 3 3 = 1 ∧ t.reg (ldgBase + 0x3C) = s.reg (ldgBase + 0x3C) ∧ t.mem = s.mem ∧ t.cores = s.cores ∧
    t.rings = s.rings ∧ t.nvm = s.nvm ∧ t.hostMem = s.hostMem := by
  obtain ⟨⟨d, regs, j, f, htake⟩, hreg, -⟩ := s.takeHealth_lost h
  obtain ⟨hbit, hsame, hframe⟩ := (s.takeHealth h).ratingFault_secured
  have hsec := (s.takeHealth h).ratingFault.secureFallBack_secured
  refine ⟨_, execRatingUpdate_eq hon, ?_⟩
  rw [if_pos hsrc]
  refine ⟨(hsec.rf (ldgBase_ne_link (by decide)) _ _).trans hbit,
    ((hsec.reg _ (ldgBase_ne_link (by decide))).trans hsame).trans (hreg _ (by decide)), ?_⟩
  rw [hsec.frame, hframe, htake]
  exact ⟨rfl, rfl, rfl, rfl, rfl⟩

theorem ratingUpdate_loses (h : Health) {s : State} (hon : s.power.phase = .on) (hlost : h.lost ≠ []) (hp : s.fatal.pending = none)
    (hs : s.fatal.stopped = false) : ∃ t, exec (.ratingUpdate h) s = .next t ∧ t.fatal.pending.isSome = true := by
  obtain ⟨-, -, hdue⟩ := s.takeHealth_lost h
  refine ⟨_, execRatingUpdate_eq hon, ?_⟩
  rw [(State.secureFallBack_secured _).frame]
  split
  · rw [(s.takeHealth h).ratingFault_secured.2.2]
    exact hdue hlost hp hs
  · rw [((s.takeHealth h).publish_shows h _ rfl).2.1]
    exact hdue hlost hp hs

/-- A domain whose swallows pass THRESH counts on, and is slow at the end of its window (R464). -/
theorem slowUnitFlag_counts (i : Fin 231) (n : Nat) {s : State} (hon : s.power.phase = .on) (hn : s.rf (ldgBase + 0x4C) 15 0 < n) :
    ∃ t, exec (.slowUnitFlag i n) s = .next t ∧ t = { s with domains := t.domains, jnl := t.jnl } ∧
      t.domain i.val = { s.domain i.val with
        slowPeriods := (s.domain i.val).slowPeriods + 1, originated := 0,
        slow := (s.domain i.val).slow || decide (s.rf (ldgBase + 0x4C) 23 16 ≤ (s.domain i.val).slowPeriods + 1) } ∧
      ∀ k, k ≠ i.val → t.domain k = s.domain k := by
  change ∃ t, execSlowUnitFlag i n s = .next t ∧ _
  unfold execSlowUnitFlag
  dsimp only
  rw [if_neg (by simp [hon]), if_neg (Nat.not_le.2 hn)]
  split
  · next hslow =>
    obtain ⟨hwindow, hnot⟩ := hslow
    obtain ⟨j, hj⟩ := (s.setDomain i.val { s.domain i.val with
      slowPeriods := (s.domain i.val).slowPeriods + 1, originated := 0, slow := true }).notice_eq
      (Err.of .notice 0x122 i.val (if i.val < 156 then i.val % 39 else 0) 0 n)
    refine ⟨_, rfl, ?_, ?_, fun k hk => ?_⟩
    · rw [hj]
      rfl
    · rw [hj]
      simp only [hnot, Bool.false_or, hwindow, decide_true]
      exact s.domain_setDomain_same _ _
    · rw [hj]
      exact s.domain_setDomain_other _ hk
  · next hnot =>
    have hkeep : ((s.domain i.val).slow || decide (s.rf (ldgBase + 0x4C) 23 16 ≤ (s.domain i.val).slowPeriods + 1)) =
        (s.domain i.val).slow := by
      cases hslow : (s.domain i.val).slow
      · simpa [hslow] using hnot
      · rfl
    refine ⟨_, rfl, rfl, ?_, fun k hk => s.domain_setDomain_other _ hk⟩
    rw [hkeep]
    exact s.domain_setDomain_same _ _

/-- Settles O49: the Journal by R440's places, the Rating by what each stage of an update leaves. -/
theorem journalAndRating : Obligations.JournalAndRating := by
  unfold Obligations.JournalAndRating
  refine ⟨⟨fun s e h => State.notice_kept e h, fun s e h => State.notice_dropped e h,
      fun s e hcls hlen hp hs => State.report_last hcls hlen hp hs, fun by_ n s hon => ?_, fun by_ s hon => ?_⟩,
    fun h s r hon hsrc hr => ratingUpdate_publishes h hon hsrc hr, fun h s hon hsrc => ratingUpdate_faults h hon hsrc,
    fun h s hon hl hp hs => ratingUpdate_loses h hon hl hp hs,
    fun i n s hon => ⟨fun hn => (if_neg (by simp [hon])).trans (if_pos hn), fun hn => slowUnitFlag_counts i n hon hn⟩⟩
  · refine ⟨_, congrArg Host.Outcome.next (State.gate_open (by simp [hon]) _ _ by_), rfl, ?_⟩
    have hdrop : s.jnl.entries.drop (min n.toNat s.jnl.entries.length) = s.jnl.entries.drop n.toNat := by
      rcases Nat.le_total n.toNat s.jnl.entries.length with hle | hle
      · rw [Nat.min_eq_left hle]
      · rw [Nat.min_eq_right hle, List.drop_length, List.drop_eq_nil_of_le hle]
    dsimp only
    rw [hdrop]
  · exact congrArg Host.Outcome.next (State.gate_open (by simp [hon]) _ _ by_)

end Sys2Proof.Machine
end

section
/-! SUPPORT. What a use of memory by a unit of the package may change (R255 to R287): the dies of memory, its contents and requests,
registers of faults and counts, the Journal and what an error faults; edges pass in it, and lines that were requested arrive. -/

namespace Sys2Proof.Machine

/-- Registers that a use of memory may change: flag words of arrays, faults and counts of the HBM and the Vault, fault words of the
link, and the Ledger's status. -/
def MemReg (o : Nat) : Prop :=
  (∃ d p i, p < 34 ∧ i < 4 ∧ o = coreBase d p + 0x14 + 4 * i) ∨
  (∃ d k, d < 4 ∧ 3 ≤ k ∧ k < 8 ∧ o = hbmBase d + 4 * k) ∨ (∃ d k, d < 4 ∧ (k = 3 ∨ k = 4 ∨ k = 9) ∧ o = vltBase d + 4 * k) ∨
  (∃ n, o = vlBase n + 0xC) ∨ o = ldgBase + 8 ∨ o = ldgBase + 0xC

/-- No request waits for memory. -/
def State.calm (s : State) : Prop := s.mem.reqs = [] ∧ s.mem.xt = [] ∧ ∀ d, d < 4 → (s.die d).queue = []

/-- What a use of memory may change. -/
structure Moved (s t : State) : Prop where
  frame : t = { s with edge := t.edge, regs := t.regs, recent := t.recent, cores := t.cores, rings := t.rings, dies := t.dies, mem := t.mem,
                       step := t.step, link := t.link, domains := t.domains, jnl := t.jnl, fatal := t.fatal, rec_ := t.rec_, ldg := t.ldg,
                       tally := t.tally, nextId := t.nextId }
  reg : ∀ o, ¬ MemReg o → t.reg o = s.reg o
  step : t.step = { s.step with faulted := t.step.faulted, faultNext := t.step.faultNext, faultRef := t.step.faultRef }
  fatal : t.fatal = { s.fatal with pending := t.fatal.pending, laterSeq := t.fatal.laterSeq }
  ldg : t.ldg = { s.ldg with secures := t.ldg.secures, acksDue := t.ldg.acksDue }
  edge : s.edge ≤ t.edge
  mem : t.mem = { s.mem with near := t.mem.near, check := t.mem.check, reserve := t.mem.reserve, tier := t.mem.tier,
                             tierPoison := t.mem.tierPoison, reqs := t.mem.reqs, xt := t.mem.xt }
  rec_ : t.rec_ = { s.rec_ with stage := t.rec_.stage, lost := t.rec_.lost, memoryRegion := t.rec_.memoryRegion,
                                departNeeded := t.rec_.departNeeded }
  link : t.link = { s.link with ports := t.link.ports, msgCount := t.link.msgCount }

/-- Requests for memory and the rings stand as they were. -/
structure Still (s t : State) : Prop where
  rings : t.rings = s.rings
  reqs : t.mem.reqs = s.mem.reqs
  xt : t.mem.xt = s.mem.xt
  queue : ∀ d, (t.die d).queue = (s.die d).queue

/-- What a use of memory may change: while no request waits, requests and the rings stand as they were. -/
structure Served (s t : State) : Prop extends Moved s t where
  still : s.calm → Still s t

theorem Moved.refl (s : State) : Moved s s := ⟨rfl, fun _ _ => rfl, rfl, rfl, rfl, Nat.le_refl _, rfl, rfl, rfl⟩

theorem Moved.trans {s t u : State} (h : Moved s t) (h' : Moved t u) : Moved s u where
  frame := by rw [h'.frame, h.frame]
  reg o ho := (h'.reg o ho).trans (h.reg o ho)
  step := by rw [h'.step, h.step]
  fatal := by rw [h'.fatal, h.fatal]
  ldg := by rw [h'.ldg, h.ldg]
  edge := h.edge.trans h'.edge
  mem := by rw [h'.mem, h.mem]
  rec_ := by rw [h'.rec_, h.rec_]
  link := by rw [h'.link, h.link]

theorem Still.refl (s : State) : Still s s := ⟨rfl, rfl, rfl, fun _ => rfl⟩

theorem Still.trans {s t u : State} (h : Still s t) (h' : Still t u) : Still s u :=
  ⟨h'.rings.trans h.rings, h'.reqs.trans h.reqs, h'.xt.trans h.xt, fun d => (h'.queue d).trans (h.queue d)⟩

theorem Still.calm {s t : State} (h : Still s t) (hs : s.calm) : t.calm := by
  obtain ⟨hr, hx, hq⟩ := hs
  exact ⟨h.reqs.trans hr, h.xt.trans hx, fun d hd => (h.queue d).trans (hq d hd)⟩

theorem Served.refl (s : State) : Served s s := ⟨.refl s, fun _ => .refl s⟩

theorem Served.trans {s t u : State} (h : Served s t) (h' : Served t u) : Served s u :=
  ⟨h.toMoved.trans h'.toMoved, fun hs => (h.still hs).trans (h'.still ((h.still hs).calm hs))⟩

theorem Moved.foldl {α : Type} {f : State → α → State} (hf : ∀ s x, Moved s (f s x)) (l : List α) (s : State) : Moved s (l.foldl f s) := by
  induction l generalizing s with
  | nil => exact .refl s
  | cons x l ih => exact (hf s x).trans (ih _)

theorem Served.foldl {α : Type} {f : State → α → State} (hf : ∀ s x, Served s (f s x)) (l : List α) (s : State) :
    Served s (l.foldl f s) := by
  induction l generalizing s with
  | nil => exact .refl s
  | cons x l ih => exact (hf s x).trans (ih _)

/-- A use that may be left out. -/
theorem Served.ite {c : Prop} [Decidable c] {s t u : State} (h : Served s t) (h' : Served s u) : Served s (if c then t else u) := by
  split
  · exact h
  · exact h'

theorem Served.getD {s t : State} {o : Option State} (h : ∀ u, o = some u → Served s u) (h' : Served s t) : Served s (o.getD t) := by
  cases o with
  | none => exact h'
  | some u => exact h u rfl

/-! ### Steps that other layers describe -/

theorem Passed.served {s t : State} (h : Passed s t) (he : s.edge ≤ t.edge) : Served s t where
  frame := by rw [State.eq_of_standing h.standing]
  reg o ho := h.regs o fun d p i hp hi heq => ho (.inl ⟨d, p, i, hp, hi, heq⟩)
  step := by rw [State.eq_of_standing h.standing]
  fatal := by rw [State.eq_of_standing h.standing]
  ldg := by rw [State.eq_of_standing h.standing]
  edge := he
  mem := by rw [State.eq_of_standing h.standing]
  rec_ := by rw [State.eq_of_standing h.standing]
  link := by rw [State.eq_of_standing h.standing]
  still _ := by
    rw [State.eq_of_standing h.standing]
    exact ⟨rfl, rfl, rfl, fun _ => rfl⟩

theorem Reported.served {s t : State} (h : Reported s t) : Served s t where
  frame := by rw [h.frame]
  reg o ho := h.reg fun n heq => ho (.inr (.inr (.inr (.inl ⟨n, heq⟩))))
  step := h.step
  fatal := h.fatal
  ldg := by rw [h.frame]
  edge := (congrArg State.edge h.frame).ge
  mem := by rw [h.frame]
  rec_ := h.rec_
  link := h.link
  still _ := by
    rw [h.frame]
    exact ⟨rfl, rfl, rfl, fun _ => rfl⟩

theorem Secured.served {s t : State} (h : Secured s t) : Served s t where
  frame := by rw [h.frame]
  reg o ho := h.reg o fun n heq => ho (.inr (.inr (.inr (.inl ⟨n, heq⟩))))
  step := by rw [h.frame]
  fatal := by rw [h.frame]
  ldg := h.ldg
  edge := (congrArg State.edge h.frame).ge
  mem := by rw [h.frame]
  rec_ := by rw [h.frame]
  link := h.link
  still _ := by
    rw [h.frame]
    exact ⟨rfl, rfl, rfl, fun _ => rfl⟩


/-! ### Single changes -/

theorem Served.setReg (s : State) {o : Nat} (v : Word) (ho : MemReg o) : Served s (s.setReg o v) where
  frame := rfl
  reg _ ho' := State.reg_setReg_other s v fun h => ho' (h ▸ ho)
  step := rfl
  fatal := rfl
  ldg := rfl
  edge := Nat.le_refl _
  mem := rfl
  rec_ := rfl
  link := rfl
  still _ := ⟨rfl, rfl, rfl, fun _ => rfl⟩

theorem Served.markFresh (s : State) (o mask : Nat) : Served s (s.markFresh o mask) :=
  ⟨⟨rfl, fun _ _ => rfl, rfl, rfl, rfl, Nat.le_refl _, rfl, rfl, rfl⟩, fun _ => ⟨rfl, rfl, rfl, fun _ => rfl⟩⟩

theorem Served.orReg (s : State) {o : Nat} (mask : Nat) (ho : MemReg o) : Served s (s.orReg o mask) :=
  (Served.setReg s _ ho).trans (.markFresh _ _ _)

theorem Served.setRf (s : State) {o : Nat} (hi lo v : Nat) (ho : MemReg o) : Served s (s.setRf o hi lo v) := .setReg s _ ho

theorem Served.countRf (s : State) {o : Nat} (hi lo n : Nat) (ho : MemReg o) : Served s (s.countRf o hi lo n) :=
  (Served.setRf s _ _ _ ho).trans (.markFresh _ _ _)

theorem Served.tally (s : State) (x : Tally) : Served s { s with tally := x } :=
  ⟨⟨rfl, fun _ _ => rfl, rfl, rfl, rfl, Nat.le_refl _, rfl, rfl, rfl⟩, fun _ => ⟨rfl, rfl, rfl, fun _ => rfl⟩⟩

theorem Served.count (s : State) (b ev unit v : Nat) : Served s (s.count b ev unit v) := by
  obtain ⟨x, hx⟩ := s.count_eq b ev unit v
  rw [hx]
  exact .tally s x

theorem Served.units (s : State) (off n : Nat) : Served s (s.units off n) := by
  obtain ⟨x, hx⟩ := s.units_eq off n
  rw [hx]
  exact .tally s x

/-- A change of a memory-side die that leaves its queue. -/
theorem Served.modDie (s : State) (d : Nat) {f : MemDie → MemDie} (hf : ∀ m, (f m).queue = m.queue) : Served s (s.modDie d f) :=
  ⟨⟨rfl, fun _ _ => rfl, rfl, rfl, rfl, Nat.le_refl _, rfl, rfl, rfl⟩, fun _ => ⟨rfl, rfl, rfl, fun d' => by
    by_cases h : d' = d
    · subst h
      rw [State.die_modDie_same s _ f, hf]
    · rw [State.die_modDie_other s f h]⟩⟩

theorem Moved.modDie (s : State) (d : Nat) (f : MemDie → MemDie) : Moved s (s.modDie d f) :=
  ⟨rfl, fun _ _ => rfl, rfl, rfl, rfl, Nat.le_refl _, rfl, rfl, rfl⟩

/-- A change of what memory holds. -/
theorem Served.contents (s : State) {m : Memories} (hm : m = { s.mem with
    near := m.near, check := m.check, reserve := m.reserve, tier := m.tier, tierPoison := m.tierPoison }) :
    Served s { s with mem := m } where
  frame := rfl
  reg _ _ := rfl
  step := rfl
  fatal := rfl
  ldg := rfl
  edge := Nat.le_refl _
  mem := by rw [hm]
  rec_ := rfl
  link := rfl
  still _ := ⟨rfl, by rw [hm], by rw [hm], fun _ => rfl⟩

theorem Moved.requests (s : State) (r : List LineReq) (x : List XtReq) (i : Nat) :
    Moved s { s with mem := { s.mem with reqs := r, xt := x }, nextId := i } :=
  ⟨rfl, fun _ _ => rfl, rfl, rfl, rfl, Nat.le_refl _, rfl, rfl, rfl⟩

theorem Moved.modCore (s : State) (d p : Nat) (f : Core → Core) : Moved s (s.modCore d p f) :=
  ⟨rfl, fun _ _ => rfl, rfl, rfl, rfl, Nat.le_refl _, rfl, rfl, rfl⟩

theorem Moved.modStation (s : State) (d j : Nat) (f : Station → Station) : Moved s (s.modStation d j f) :=
  ⟨rfl, fun _ _ => rfl, rfl, rfl, rfl, Nat.le_refl _, rfl, rfl, rfl⟩

end Sys2Proof.Machine
end

section
/-! SUPPORT. Each operation on memory is one of the uses of the layer before (R255 to R287, R333, R334). -/

namespace Sys2Proof.Machine

/-! ### Registers of the memory-side dies -/

theorem memReg_hbm {d : Nat} (hd : d < 4) {k : Nat} (hk : 3 ≤ k) (hk' : k < 8) : MemReg (hbmBase d + 4 * k) :=
  .inr (.inl ⟨d, k, hd, hk, hk', rfl⟩)

theorem memReg_vlt {d : Nat} (hd : d < 4) {k : Nat} (hk : k = 3 ∨ k = 4 ∨ k = 9) : MemReg (vltBase d + 4 * k) :=
  .inr (.inr (.inl ⟨d, k, hd, hk, rfl⟩))

theorem lineDie_lt (li : Nat) : lineDie li < 4 := by
  unfold lineDie
  omega

/-- A scratchpad address leads to one of the four dies (R258). -/
theorem State.where_scratch_lt {s : State} {a d g o : Nat} (h : s.where_ a = .scratch d g o) : d < 4 := by
  unfold where_ at h
  split at h
  · exact nomatch h
  split at h
  · exact nomatch h
  split at h
  · next hlow =>
    dsimp only at h
    split at h
    · obtain ⟨rfl, -, -⟩ := Where.scratch.inj h
      omega
    · exact nomatch h
  split at h
  · obtain ⟨rfl, -, -⟩ := Where.scratch.inj h
    omega
  · exact nomatch h

theorem State.homeDie_lt (s : State) (a : Nat) : s.homeDie a < 4 := by
  have hfold : foldP a / 256 < 4 := by
    unfold foldP
    omega
  unfold homeDie
  split
  · exact lineDie_lt _
  · next h => exact State.where_scratch_lt h
  · exact hfold

/-! ### Journal, faults and counts -/

theorem Served.notice (s : State) (e : Err) : Served s (s.notice e) := (Reported.notice s e).served

theorem Served.report (s : State) (e : Err) : Served s (s.report e) := (Reported.report s e).served

theorem Served.at (s : State) (e : Nat) : Served s (s.at e) := (s.at_passed e).served (by simp)

theorem Served.corrected (s : State) (e : Err) (count sat : Nat) : Served s (s.corrected e count sat) := by
  unfold State.corrected
  split
  · exact (Reported.journal s _ _ _ _).served
  · exact .refl s

theorem Served.vltFault (s : State) {d : Nat} (hd : d < 4) (b a : Nat) : Served s (s.vltFault d b a) :=
  (Served.orReg s _ (memReg_vlt hd (.inl rfl))).trans (.report _ _)

theorem Served.copyUe (s : State) (a : Nat) : Served s (s.copyUe a) := by
  unfold State.copyUe
  split
  · have hstatus := Served.setRf s (o := ldgBase + 8) 1 1 0 (.inr (.inr (.inr (.inr (.inl rfl)))))
    have hfault := Served.orReg (s.setRf (ldgBase + 8) 1 1 0) (o := ldgBase + 0xC) 1 (.inr (.inr (.inr (.inr (.inr rfl)))))
    exact ((hstatus.trans hfault).trans (.notice _ _)).trans (Secured.sendSecure _).served
  · exact .refl s

/-! ### Lines in HBM (R255 to R269) -/

/-- The parts of memory that a line's storage takes. -/
structure LineStored (m n : Memories) : Prop where
  frame : n = { m with near := n.near, check := n.check, reserve := n.reserve, tier := n.tier, tierPoison := n.tierPoison }

theorem LineStored.refl (m : Memories) : LineStored m m := ⟨rfl⟩

theorem LineStored.trans {m n o : Memories} (h : LineStored m n) (h' : LineStored n o) : LineStored m o :=
  ⟨by rw [h'.frame, h.frame]⟩

theorem LineStored.foldl {α : Type} {f : Memories → α → Memories} (hf : ∀ m x, LineStored m (f m x)) (l : List α) (m : Memories) :
    LineStored m (l.foldl f m) := by
  induction l generalizing m with
  | nil => exact .refl m
  | cons x l ih => exact (hf m x).trans (ih _)

theorem LineStored.putPart (m : Memories) (steer : Option Nat) (li i : Nat) (bs : List Byte) : LineStored m (m.putPart steer li i bs) := by
  unfold Memories.putPart
  split
  · exact ⟨rfl⟩
  split
  · exact ⟨rfl⟩
  · exact ⟨rfl⟩

theorem LineStored.putSector (m : Memories) (steer : Option Nat) (li k : Nat) (code : List Nat) :
    LineStored m (m.putSector steer li k code) :=
  (LineStored.foldl (fun m i => .putPart m steer li (4 * k + i) _) _ m).trans (.putPart _ _ _ _ _)

theorem LineStored.putLine (m : Memories) (steer : Option Nat) (li : Nat) (v : Line) (poison : Bool) :
    LineStored m (m.putLine steer li v poison) :=
  .foldl (fun m k => .putSector m steer li k _) _ m

theorem Served.hbmTally (s : State) (li : Nat) (write : Bool) : Served s (s.hbmTally li write) :=
  (Served.count s _ _ _ _).trans (.units _ _ _)

theorem State.hbmTally_mem (s : State) (li : Nat) (write : Bool) : (s.hbmTally li write).mem = s.mem := by
  obtain ⟨x, hx⟩ := s.count_eq (blkMd (lineDie li)) (if write then 0x19 else 0x18) (lineChan li) 1
  obtain ⟨y, hy⟩ := State.units_eq (s.count (blkMd (lineDie li)) (if write then 0x19 else 0x18) (lineChan li) 1)
    (tlyBase + 0x1100 + 8 * lineStack li + 4 * b2n write) 1
  rw [hbmTally, hy, hx]

theorem Served.hbmWrite (s : State) (li : Nat) (v : Line) (poison : Bool) : Served s (s.hbmWrite li v poison) := by
  refine (Served.hbmTally s li true).trans (.contents _ ?_)
  rw [State.hbmTally_mem]
  exact (LineStored.putLine s.mem _ li v poison).frame

theorem Served.rowFails (s : State) (li : Nat) : Served s (s.rowFails li) := by
  unfold State.rowFails
  extract_lets d x
  split
  · exact .refl s
  split
  · exact .modDie s _ fun _ => rfl
  · exact (Served.orReg s _ (memReg_hbm (lineDie_lt li) (k := 3) (by decide) (by decide))).trans (.notice _ _)

theorem Served.symbolFixed (s : State) (li k pos : Nat) : Served s (s.symbolFixed li k pos) := by
  unfold State.symbolFixed
  extract_lets d x
  split
  · exact .rowFails s li
  · exact .modDie s _ fun _ => rfl

theorem Served.sectorFixed (s : State) (li a k pos : Nat) : Served s (s.sectorFixed li a k pos) :=
  ((Served.countRf s _ _ _ (memReg_hbm (lineDie_lt li) (k := 4) (by decide) (by decide))).trans (.corrected _ _ _ _)).trans
    (.symbolFixed _ _ _ _)

theorem Served.hbmUe (s : State) (li a : Nat) (scrub : Bool) : Served s (s.hbmUe li a scrub) := by
  unfold State.hbmUe
  extract_lets d s1 s2
  have hcount : Served s s1 := .countRf s _ _ _ (memReg_hbm (lineDie_lt li) (k := 5) (by decide) (by decide))
  have hcapture : Served s1 s2 := .ite (.refl s1)
    ((Served.setReg s1 _ (memReg_hbm (lineDie_lt li) (k := 6) (by decide) (by decide))).trans
      (.setReg _ _ (memReg_hbm (lineDie_lt li) (k := 7) (by decide) (by decide))))
  have hfault := Served.orReg s2 1 (memReg_hbm (lineDie_lt li) (k := 3) (by decide) (by decide))
  exact ((((hcount.trans hcapture).trans hfault).trans (.report _ _)).trans (.copyUe _ _)).trans (.rowFails _ _)

/-- What a symbol that was corrected leaves, sector by sector. -/
def State.sectorsFixed (s : State) (li a : Nat) (outs : List SectorRead) : State :=
  outs.zipIdx.foldl (fun s o =>
    match o.1 with
    | .single p _ => s.sectorFixed li a o.2 p
    | _ => s) s

theorem Served.sectorsFixed (s : State) (li a : Nat) (outs : List SectorRead) : Served s (s.sectorsFixed li a outs) := by
  refine .foldl (fun s o => ?_) _ s
  split
  · exact .sectorFixed _ _ _ _ _
  · exact .refl _

theorem Served.hbmCheck (s : State) (li : Nat) (flips : List Flip) (scrub : Bool) : Served s (s.hbmCheck li flips scrub).2.2 := by
  unfold State.hbmCheck
  extract_lets a codes outs fixed v single m t t1 s1
  have hstore : Served s t := .contents s (LineStored.foldl (fun m x => by
    split
    · exact .putSector _ _ _ _ _
    · exact .refl m) _ _).frame
  have htally : Served t t1 := .ite (.refl t) (.hbmTally t li true)
  have hfix : Served s s1 := .ite ((hstore.trans htally).trans (.sectorsFixed t1 li a outs)) (.refl s)
  split
  · exact hfix.trans (.hbmUe _ _ _ _)
  · exact hfix

theorem Served.hbmUpset (s : State) (li : Nat) (flips : List Flip) : Served s (s.hbmUpset li flips) :=
  .ite (.refl s) (.contents s (LineStored.foldl (fun m _ => .putSector m _ _ _ _) _ _).frame)

/-! ### The Vault's ways (R274 to R280) -/

theorem Served.setWay (s : State) (d k : Nat) (w : VLine) : Served s (s.setWay d k w) := .modDie s d fun _ => rfl
theorem Served.dropWay (s : State) (d k : Nat) : Served s (s.dropWay d k) := .modDie s d fun _ => rfl
theorem Served.touchWay (s : State) (d k : Nat) (w : VLine) : Served s (s.touchWay d k w) := by
  unfold State.touchWay
  extract_lets n
  exact (Served.modDie s d (f := fun m => { m with clock := n }) fun _ => rfl).trans (.setWay _ _ _ _)

theorem Served.mayKeep (s : State) (li : Nat) (already : Bool) : Served s (s.mayKeep li already).2 := by
  unfold State.mayKeep
  extract_lets d n
  split
  · exact .refl s
  split
  · exact .count s _ _ _ _
  · exact .refl s

theorem Served.writeBack (s : State) (d : Nat) (w : VLine) : Served s (s.writeBack d w) :=
  (Served.count s _ _ _ _).trans (.hbmWrite _ _ _ _)

theorem Served.allocate (s : State) (w : VLine) {t : State} (h : s.allocate w = some t) : Served s t := by
  unfold State.allocate at h
  dsimp only at h
  split at h
  · exact nomatch h
  · next k old hvictim =>
    obtain rfl := Option.some.inj h
    refine Served.trans ?_ (.touchWay _ _ _ _)
    split
    · exact .ite (.writeBack _ _ _) (.refl s)
    · exact .refl s

theorem Served.vaultCorrected (s : State) {d : Nat} (hd : d < 4) (dom bank a : Nat) : Served s (s.vaultCorrected d dom bank a) :=
  (Served.countRf s _ _ _ (memReg_vlt hd (.inr (.inr rfl)))).trans (.corrected _ _ _ _)

theorem Served.readWay (s : State) (k : Nat) (w : VLine) : Served s (s.readWay k w).2.2.2 := by
  unfold State.readWay
  extract_lets d bank a s1 w1
  have hfix : Served s s1 := .foldl (fun s _ => .vaultCorrected s (lineDie_lt w.line) _ _ _) _ s
  split
  · exact hfix
  · exact (hfix.trans (.orReg _ _ (memReg_vlt (lineDie_lt w.line) (.inl rfl)))).trans (.report _ _)

theorem Served.vltTally (s : State) (li : Nat) (hit : Bool) : Served s (s.vltTally li hit) :=
  .ite (.count s _ _ _ _) (.refl s)

theorem Served.readHint (s : State) (h : Hint) (k : Nat) (w : VLine) : Served s (s.readHint h k w) := by
  unfold State.readHint
  extract_lets d
  split
  · exact .touchWay s _ _ _
  · exact (Served.mayKeep s _ _).trans (.touchWay _ _ _ _)
  · exact .ite ((Served.dropWay s _ _).trans (.count _ _ _ _ _)) (.touchWay s _ _ _)

theorem Served.writeHint (s : State) (h : Hint) (k : Nat) (w : VLine) (v : Line) (poison : Bool) :
    Served s (s.writeHint h k w v poison) := by
  unfold State.writeHint
  extract_lets d w1
  split
  · exact .touchWay s _ _ _
  · exact (Served.mayKeep s _ _).trans (.touchWay _ _ _ _)
  · exact .touchWay s _ _ _

theorem Served.fill (s : State) (li : Nat) (v : Line) (poison : Bool) (a : Fill?) : Served s (s.fill li v poison a) := by
  unfold State.fill
  extract_lets w
  split
  · exact .refl s
  split
  · exact .refl s
  · exact (Served.mayKeep s _ _).trans (.getD (fun u hu => .allocate _ _ hu) (.refl _))
  · exact .getD (fun u hu => .allocate _ _ hu) (.refl s)

theorem Served.missWrite (s : State) (h : Hint) (li : Nat) (v : Line) (poison : Bool) : Served s (s.missWrite h li v poison) := by
  unfold State.missWrite
  extract_lets w direct
  split
  · exact .hbmWrite s _ _ _
  split
  · exact .hbmWrite s _ _ _
  · exact (Served.mayKeep s _ _).trans (.getD (fun u hu => .allocate _ _ hu) (.hbmWrite _ _ _ _))
  · exact .getD (fun u hu => .allocate _ _ hu) (.hbmWrite s _ _ _)

/-! ### Scratchpad and the tier (R282 to R287) -/

theorem Served.scratchRead (s : State) {d : Nat} (hd : d < 4) (g o a : Nat) : Served s (s.scratchRead d g o a).2.2 := by
  unfold State.scratchRead
  extract_lets m x bank s1 v
  have hfix : Served s s1 := .foldl (fun s w =>
    (Served.modDie s d (f := fun m => { m with scratchMarks := Tab.del m.scratchMarks w }) fun _ => rfl).trans
      (.vaultCorrected _ hd _ _ _)) _ s
  split
  · exact hfix
  · exact (hfix.trans (.orReg _ _ (memReg_vlt hd (.inl rfl)))).trans (.report _ _)

theorem Served.scratchWrite (s : State) (d g o : Nat) (v : Line) (poison : Bool) : Served s (s.scratchWrite d g o v poison) := by
  unfold State.scratchWrite
  exact .modDie s d fun _ => rfl

theorem Served.bankUpset (s : State) (d bank word : Nat) (double : Bool) : Served s (s.bankUpset d bank word double) := by
  unfold State.bankUpset
  extract_lets line
  split
  · exact .refl s
  · exact .ite (.modDie s d fun _ => rfl) (.modDie s d fun _ => rfl)

theorem Served.cxlTally (s : State) (port n : Nat) (write : Bool) : Served s (s.cxlTally port n write) :=
  (Served.count s _ _ _ _).trans (.units _ _ _)

theorem Served.tierPut (s : State) (o : Nat) (v : Line) (poison : Bool) : Served s (s.tierPut o v poison) := by
  unfold State.tierPut
  extract_lets rest p
  generalize s.mem.tier.setLine (o / 256 * 256) v = x
  exact .contents s rfl

theorem Served.tierSpoil (s : State) (o : Nat) : Served s (s.tierSpoil o) := by
  unfold State.tierSpoil
  exact .contents s rfl

end Sys2Proof.Machine
end

section
/-! SUPPORT. Requests that are served, and the lines that units of the package read and write at once (R271, R272, R287). -/

namespace Sys2Proof.Machine

/-! ### Lines that were read (R108, R131, R137) -/

theorem Moved.toTiles (s : State) (j group index : Nat) (v : Line) (poison : Bool) (due : Nat) :
    Moved s (s.toTiles j group index v poison due) := by
  unfold State.toTiles
  extract_lets all f s1
  have htiles : Moved s s1 := .foldl (fun s d => .modStation s d j _) _ s
  split
  · exact htiles
  · next x hx =>
    extract_lets dies flags
    have hdies : ∀ d ∈ dies, d < 4 := fun d hd => by
      obtain ⟨i, -, rfl⟩ := List.mem_map.1 (List.mem_dedup.1 hd)
      exact s.homeDie_lt _
    refine htiles.trans ?_
    generalize dies = l at hdies ⊢
    generalize s1 = t
    induction l generalizing t with
    | nil => exact .refl t
    | cons d l ih =>
      rw [List.foldl_cons]
      have hflags := (Served.orReg t flags (memReg_vlt (hdies d (by simp)) (k := 4) (.inr (.inl rfl)))).toMoved
      exact (hflags.trans (Served.count _ _ _ _ _).toMoved).trans (ih (fun d hd => hdies d (by simp [hd])) _)

theorem Moved.deliver (s : State) (t : Dest) (v : Line) (poison : Bool) (due : Nat) : Moved s (s.deliver t v poison due) := by
  cases t with
  | none => exact .refl s
  | store d p a op =>
    unfold State.deliver State.toStore
    exact .modCore s d p _
  | tile d j g i => exact .toTiles s j g i v poison due

/-! ### Requests at their home die (R271, R272, R275) -/

theorem Moved.hit (s : State) (q : LineReq) (k : Nat) (w : VLine) : Moved s (s.hit q k w) := by
  have hread := (Served.readWay s k w).toMoved
  unfold State.hit
  split
  · exact (hread.trans (Served.readHint _ _ _ _).toMoved).trans (.deliver _ _ _ _ _)
  · exact (Served.writeHint s _ _ _ _ _).toMoved
  · unfold State.hitAdd
    exact hread.trans (Served.writeHint _ _ _ _ _ _).toMoved
  · exact (hread.trans (Served.writeHint _ _ _ _ _ _).toMoved).trans (.deliver _ _ _ _ _)
  · exact (Served.setWay s _ _ _).toMoved

theorem Moved.miss (s : State) (q : LineReq) (li : Nat) {t : State} (h : s.miss q li = some t) : Moved s t := by
  unfold State.miss at h
  dsimp only at h
  have hqueue : ∀ a, (if 128 ≤ s.channelLoad li then none else some (s.modDie (lineDie li) (fun m =>
      { m with queue := m.queue ++ [{ req := q, channel := lineChan li, alloc := a }] }))) = some t → Moved s t := fun a ha => by
    split at ha
    · exact nomatch ha
    · obtain rfl := Option.some.inj ha
      exact .modDie s _ _
  split at h
  · exact hqueue _ h
  · split at h
    · exact nomatch h
    · obtain rfl := Option.some.inj h
      exact (Served.missWrite s _ _ _ _).toMoved
  · exact hqueue _ h
  · exact hqueue _ h
  · obtain rfl := Option.some.inj h
    exact .refl s

theorem Moved.serveNear (s : State) (q : LineReq) (li : Nat) {t : State} (h : s.serveNear q li = some t) : Moved s t := by
  have htally : ∀ hit, Moved s (if q.kind = .release then s else s.vltTally li hit) := fun hit =>
    (Served.ite (.refl s) (.vltTally s li hit)).toMoved
  unfold State.serveNear at h
  dsimp only at h
  split at h
  · exact nomatch h
  split at h
  · exact nomatch h
  split at h
  · obtain rfl := Option.some.inj h
    exact (htally true).trans (.hit _ _ _ _)
  · exact (htally false).trans (.miss _ _ _ h)

theorem Moved.serveScratch (s : State) (q : LineReq) {d : Nat} (hd : d < 4) (g o : Nat) : Moved s (s.serveScratch q d g o) := by
  unfold State.serveScratch
  split
  · split
    · exact (Served.scratchRead s hd _ _ _).toMoved.trans (.deliver _ _ _ _ _)
    · exact (Served.vltFault s hd _ _).toMoved.trans (.deliver _ _ _ _ _)
  · exact (Served.ite (.scratchWrite s d _ _ _ _) (.vltFault s hd _ _)).toMoved
  · exact (Served.vltFault s hd _ _).toMoved
  · exact (Served.vltFault s hd _ _).toMoved.trans (.deliver _ _ _ _ _)
  · exact .refl s

theorem Moved.refuse (s : State) (q : LineReq) (b : Nat) : Moved s (s.refuse q b) := by
  have hfault := (Served.vltFault s (s.homeDie_lt q.addr) b q.addr).toMoved
  unfold State.refuse
  extract_lets s1
  split
  · exact hfault.trans (.deliver _ _ _ _ _)
  · exact hfault

theorem Moved.serve (s : State) (q : LineReq) {t : State} (h : s.serve q = some t) : Moved s t := by
  unfold State.serve at h
  split at h
  · exact .serveNear s _ _ h
  · next hwhere =>
    obtain rfl := Option.some.inj h
    exact .serveScratch s q (State.where_scratch_lt hwhere) _ _
  · obtain rfl := Option.some.inj h
    split
    · exact .refl s
    · exact .refuse s _ _
  · obtain rfl := Option.some.inj h
    exact .refuse s _ _

theorem Moved.getD {s t : State} {o : Option State} (h : ∀ u, o = some u → Moved s u) (h' : Moved s t) : Moved s (o.getD t) := by
  cases o with
  | none => exact h'
  | some u => exact h u rfl

theorem Moved.reqs (s : State) (r : List LineReq) : Moved s { s with mem := { s.mem with reqs := r } } := .requests s r s.mem.xt s.nextId

theorem Moved.vaultRow (s : State) (r : Requester) (k : LineKind) : Moved s (s.vaultRow r k) := by
  unfold State.vaultRow
  split
  · exact .refl s
  split
  · exact .refl s
  · next q rest htake =>
    have ht := (Served.at s (s.arrival q)).toMoved
    exact .getD (fun u hu => (ht.trans (.reqs _ rest)).trans (.serve _ _ hu)) (.refl s)

theorem Moved.hbmReturn (s : State) (x : HbmRead) (flips : List Flip) : Moved s (s.hbmReturn x flips) := by
  unfold State.hbmReturn
  split
  · next li hwhere =>
    extract_lets r due
    have hcheck : Moved s r.2.2 := ((Served.hbmTally s li false).trans (.hbmCheck _ _ _ _)).toMoved
    split
    · exact hcheck.trans (Served.hbmWrite _ _ _ _).toMoved
    · exact (hcheck.trans (Served.hbmWrite _ _ _ _).toMoved).trans (.deliver _ _ _ _ _)
    · exact (hcheck.trans (Served.fill _ _ _ _ _).toMoved).trans (.deliver _ _ _ _ _)
  · exact .refl s

theorem Moved.hbmNext (s : State) (d : Nat) (x : HbmRead) (flips : List Flip) : Moved s (s.hbmNext d x flips) :=
  (Moved.modDie s d _).trans (.hbmReturn _ _ _)

/-! ### The expansion tier (R285 to R287) -/

theorem Moved.toPort (s : State) (q : LineReq) (rest : List LineReq) {t : State} (h : s.toPort q rest = some t) : Moved s t := by
  unfold State.toPort at h
  dsimp only at h
  split at h
  · obtain rfl := Option.some.inj h
    exact (Moved.reqs s rest).trans (.refuse _ _ _)
  · split at h
    · exact nomatch h
    · obtain rfl := Option.some.inj h
      exact .requests s _ _ _

theorem Moved.xtRow (s : State) (r : Requester) (k : LineKind) : Moved s (s.xtRow r k) := by
  unfold State.xtRow
  split
  · exact .refl s
  split
  · exact .refl s
  · next q rest htake => exact .getD (fun u hu => (Served.at s _).toMoved.trans (.toPort _ _ _ hu)) (.refl s)

theorem Moved.xtDone (s : State) (x : XtReq) (poison : Bool) : Moved s (s.xtDone x poison) := by
  unfold State.xtDone
  extract_lets mem s1 o s2 v
  have hport : Moved s s1 := .requests s s.mem.reqs _ s.nextId
  split
  · exact (hport.trans (Served.cxlTally _ _ _ _).toMoved).trans (Served.tierPut _ _ _ _).toMoved
  · have hspoil : Moved s1 s2 := (Served.ite (.tierSpoil s1 o) (.refl s1)).toMoved
    exact ((hport.trans hspoil).trans (Served.cxlTally _ _ _ _).toMoved).trans (.deliver _ _ _ _ _)

/-! ### Lines for units of the package (R272, R287, R333, R334) -/

theorem Served.makeRoom (s : State) (li : Nat) : Served s (s.makeRoom li) := by
  unfold State.makeRoom
  split
  · exact .refl s
  split
  · next x hx =>
    refine ⟨.hbmNext s _ _ _, fun hcalm => ?_⟩
    rw [hcalm.2.2 _ (lineDie_lt li)] at hx
    exact nomatch hx
  · exact .refl s

theorem Moved.settleStep (s : State) (a : Nat) : Moved s (s.settleStep a) := by
  unfold State.settleStep
  split
  · exact .hbmNext s _ _ _
  split
  · exact .xtDone s _ _
  split
  · exact .refl s
  split
  · exact .getD (fun u hu => .toPort s _ _ hu) (.refl s)
  · extract_lets t
    have hroom : Moved s t := by
      show Moved s (match s.where_ a with
        | .near li => s.makeRoom li
        | _ => s)
      split
      · exact (Served.makeRoom s _).toMoved
      · exact .refl s
    exact .getD (fun u hu => (hroom.trans (.reqs t _)).trans (.serve _ _ hu)) (.refl s)

theorem State.allReqs_calm {s : State} (h : s.calm) : s.allReqs = [] := by
  obtain ⟨hr, hx, hq⟩ := h
  have hflat : (List.range 4).flatMap (fun d => (s.die d).queue.map (·.req)) = [] := by
    rw [List.flatMap_eq_nil_iff]
    intro d hd
    rw [hq d (List.mem_range.1 hd), List.map_nil]
  rw [allReqs, hr, hx, hflat]
  rfl

theorem Served.settleLine (s : State) (a : Nat) : Served s (s.settleLine a) := by
  refine ⟨.foldl (fun s _ => .settleStep s a) _ s, fun hcalm => ?_⟩
  rw [State.settleLine, State.allReqs_calm hcalm]
  exact .refl s

theorem Served.windowIn (s : State) (li : Nat) : Served s (s.windowIn li) := by
  unfold State.windowIn
  split
  · exact .refl s
  · extract_lets d w recent e s1
    have hat : Served s s1 := .at s e
    split
    · exact (hat.trans (.count _ _ _ _ _)).trans (.modDie _ d fun _ => rfl)
    · exact hat.trans (.modDie _ d fun _ => rfl)

theorem Served.enter (s : State) (li : Nat) : Served s (s.enter li) := (Served.makeRoom s li).trans (.windowIn _ _)

theorem Served.readLine (s : State) (a : Nat) (h : Hint) : Served s (s.readLine a h).2.2 := by
  have hsettle := Served.settleLine s a
  unfold State.readLine
  extract_lets s'
  split
  · split
    · exact ((hsettle.trans (.vltTally _ _ _)).trans (.readWay _ _ _)).trans (.readHint _ _ _ _)
    · exact ((((hsettle.trans (.enter _ _)).trans (.vltTally _ _ _)).trans (.hbmTally _ _ _)).trans (.hbmCheck _ _ _ _)).trans
        (.fill _ _ _ _ _)
  · next hwhere =>
    have hd := State.where_scratch_lt hwhere
    split
    · exact hsettle.trans (.scratchRead _ hd _ _ _)
    · exact hsettle.trans (.vltFault _ hd _ _)
  · split
    · exact hsettle.trans (.cxlTally _ _ _ _)
    · exact hsettle.trans (.vltFault _ (State.homeDie_lt _ _) _ _)
  · exact hsettle.trans (.vltFault _ (State.homeDie_lt _ _) _ _)

theorem Served.writeLine (s : State) (a : Nat) (v : Line) (poison : Bool) (h : Hint) : Served s (s.writeLine a v poison h) := by
  have hsettle := Served.settleLine s a
  unfold State.writeLine
  extract_lets s'
  split
  · split
    · exact (hsettle.trans (.vltTally _ _ _)).trans (.writeHint _ _ _ _ _ _)
    · exact ((hsettle.trans (.enter _ _)).trans (.vltTally _ _ _)).trans (.missWrite _ _ _ _ _)
  · next hwhere =>
    have hd := State.where_scratch_lt hwhere
    exact .ite (hsettle.trans (.scratchWrite _ _ _ _ _ _)) (hsettle.trans (.vltFault _ hd _ _))
  · split
    · exact (hsettle.trans (.cxlTally _ _ _ _)).trans (.tierPut _ _ _ _)
    · exact hsettle.trans (.vltFault _ (State.homeDie_lt _ _) _ _)
  · exact hsettle.trans (.vltFault _ (State.homeDie_lt _ _) _ _)

theorem Served.kindFault (s : State) (a : Nat) : Served s (s.kindFault a) := by
  unfold State.kindFault
  split
  · exact .vltFault s (s.homeDie_lt a) _ _
  · exact .vltFault s (s.homeDie_lt a) _ _

theorem Served.addLine (s : State) (a : Nat) (v : Line) (poison : Bool) : Served s (s.addLine a v poison) :=
  .ite ((Served.readLine s a _).trans (.writeLine _ _ _ _ _)) (.kindFault s a)

theorem Served.readClearLine (s : State) (a : Nat) : Served s (s.readClearLine a).2.2 := by
  unfold State.readClearLine
  split
  · exact (Served.readLine s a _).trans (.writeLine _ _ _ _ _)
  · exact .kindFault s a

theorem Served.readLines (h : Hint) (n : Nat) : ∀ (s : State) (a : Nat), Served s (s.readLines h a n).2 := by
  induction n with
  | zero => exact fun s _ => .refl s
  | succ n ih => exact fun s a => (Served.readLine s a h).trans (ih _ _)

theorem Served.readBytes (s : State) (a n : Nat) : Served s (s.readBytes a n).2.2 := .readLines _ _ s _

theorem Served.writeBytes (h : Hint) (f : Nat) : ∀ (s : State) (a : Nat) (bs : List Byte), Served s (s.writeBytes h a bs f) := by
  induction f with
  | zero => exact fun s _ _ => .refl s
  | succ f ih =>
    intro s a bs
    rw [State.writeBytes]
    split
    · exact .refl s
    · extract_lets o here n old v
      have hold : Served s old.2.2 := by
        show Served s (if n = 256 then (0, false, s) else s.readLine (a - o) h).2.2
        split
        · exact .refl s
        · exact .readLine s _ _
      exact (hold.trans (.writeLine _ _ _ _ _)).trans (ih _ _ _)

theorem Served.putBytes (s : State) (a : Nat) (bs : List Byte) (h : Hint) : Served s (s.putBytes a bs h) := .writeBytes h _ s a bs

theorem Served.zeroLines (n : Nat) : ∀ (s : State) (a : Nat), Served s (s.zeroLines a n) := by
  induction n with
  | zero => exact fun s _ => .refl s
  | succ n ih => exact fun s a => (Served.writeLine s a _ _ _).trans (ih _ _)

theorem Served.copyLines (n : Nat) : ∀ (s : State) (a b : Nat), Served s (s.copyLines a b n) := by
  induction n with
  | zero => exact fun s _ _ => .refl s
  | succ n ih => exact fun s a b => ((Served.readLine s a _).trans (.writeLine _ _ _ _ _)).trans (ih _ _ _)

theorem Served.cleanWays (s : State) (d : Nat) : Served s (s.cleanWays d) := by
  unfold State.cleanWays
  have hback := Served.foldl (f := fun s (w : Nat × VLine) => s.writeBack d w.2) (fun s w => .writeBack s d w.2)
    ((s.die d).ways.filter (fun w => w.2.dirty)) s
  exact hback.trans (.modDie _ d fun _ => rfl)

end Sys2Proof.Machine
end

section
/-! SUPPORT. Queued errors, the RESTORE recovery, the fatal stop and the securing read (R442 to R453, R469). -/

namespace Sys2Proof.Machine

/-! ### What leaves the control words of units and the requests for memory -/

/-- Registers at the control word of a block stand as they were, and while no request for memory waits, requests and rings do. -/
structure Halts (s t : State) : Prop where
  reg : ∀ o, o % 0x10000 = 4 → t.reg o = s.reg o
  still : s.calm → Still s t

theorem Halts.refl (s : State) : Halts s s := ⟨fun _ _ => rfl, fun _ => .refl s⟩

theorem Halts.trans {s t u : State} (h : Halts s t) (h' : Halts t u) : Halts s u :=
  ⟨fun o ho => (h'.reg o ho).trans (h.reg o ho), fun hs => (h.still hs).trans (h'.still ((h.still hs).calm hs))⟩

theorem Halts.foldl {α : Type} {f : State → α → State} {l : List α} (hf : ∀ s, ∀ x ∈ l, Halts s (f s x)) (s : State) :
    Halts s (l.foldl f s) := by
  induction l generalizing s with
  | nil => exact .refl s
  | cons x l ih => exact (hf s x (by simp)).trans (ih (fun s y hy => hf s y (by simp [hy])) _)

theorem not_memReg_control {o : Nat} (h : o % 0x10000 = 4) : ¬ MemReg o := by
  rintro (⟨d, p, i, -, hi, rfl⟩ | ⟨d, k, -, hk, hk', rfl⟩ | ⟨d, k, -, hk, rfl⟩ | ⟨n, rfl⟩ | rfl | rfl)
  · simp only [coreBase] at h
    omega
  · simp only [hbmBase] at h
    omega
  · simp only [vltBase] at h
    omega
  · simp only [vlBase] at h
    omega
  · simp only [ldgBase] at h
    omega
  · simp only [ldgBase] at h
    omega

theorem Served.halts {s t : State} (h : Served s t) : Halts s t := ⟨fun o ho => h.reg o (not_memReg_control ho), h.still⟩

/-- A change that reaches neither registers nor requests, rings and queues. -/
theorem Halts.of_eq {s t : State} (hreg : t.regs = s.regs) (hrings : t.rings = s.rings) (hmem : t.mem.reqs = s.mem.reqs ∧ t.mem.xt = s.mem.xt)
    (hdies : t.dies = s.dies) : Halts s t :=
  ⟨fun o _ => State.reg_of_regs hreg o, fun _ => ⟨hrings, hmem.1, hmem.2, fun d => by rw [State.die, hdies]; rfl⟩⟩

theorem Halts.setReg (s : State) {o : Nat} (v : Word) (ho : o % 0x10000 ≠ 4) : Halts s (s.setReg o v) :=
  ⟨fun _ ho' => State.reg_setReg_other s v fun h => ho (h ▸ ho'), fun _ => ⟨rfl, rfl, rfl, fun _ => rfl⟩⟩

theorem Halts.setRf (s : State) {o : Nat} (hi lo v : Nat) (ho : o % 0x10000 ≠ 4) : Halts s (s.setRf o hi lo v) := .setReg s _ ho

theorem Halts.modCore (s : State) (d j : Nat) (f : Core → Core) : Halts s (s.modCore d j f) := .of_eq rfl rfl ⟨rfl, rfl⟩ rfl
theorem Halts.setCore (s : State) (d j : Nat) (c : Core) : Halts s (s.setCore d j c) := .of_eq rfl rfl ⟨rfl, rfl⟩ rfl
theorem Halts.modDomain (s : State) (i : Nat) (f : Domain → Domain) : Halts s (s.modDomain i f) := .of_eq rfl rfl ⟨rfl, rfl⟩ rfl

/-! ### The stop of cores, rings and Tellers -/

/-- No core, ring or Teller runs, the rings are empty, and no request for memory waits. -/
structure Stopped (s : State) : Prop where
  cores : ∀ (d : Fin 4) (p : Fin 34), s.coreRun d.val p.val = false
  rings : ∀ d : Fin 4, s.ringOn d.val = false
  tellers : s.tlrDisabled = true
  empty : s.rings = []
  calm : s.calm

theorem State.coreRun_of_halts {s t : State} (h : Halts s t) (d p : Nat) : t.coreRun d p = s.coreRun d p := by
  rw [coreRun, coreRun, State.rf_of_reg (h.reg _ (by simp only [coreBase]; omega))]

theorem State.ringOn_of_halts {s t : State} (h : Halts s t) (d : Nat) : t.ringOn d = s.ringOn d := by
  rw [ringOn, ringOn, State.rf_of_reg (h.reg _ (by simp only [ringBase]; omega))]

theorem State.tlrDisabled_of_halts {s t : State} (h : Halts s t) : t.tlrDisabled = s.tlrDisabled := by
  rw [tlrDisabled, tlrDisabled, State.rf_of_reg (h.reg (tlrBase 0 + 4) (by decide)), State.rf_of_reg (h.reg (tlrBase 1 + 4) (by decide))]

theorem Stopped.of_halts {s t : State} (hs : Stopped s) (h : Halts s t) : Stopped t where
  cores d p := (State.coreRun_of_halts h _ _).trans (hs.cores d p)
  rings d := (State.ringOn_of_halts h _).trans (hs.rings d)
  tellers := (State.tlrDisabled_of_halts h).trans hs.tellers
  empty := (h.still hs.calm).rings.trans hs.empty
  calm := (h.still hs.calm).calm hs.calm

/-- What one element of a list brings about, and every element keeps, holds after all of them. -/
theorem foldl_establishes {α : Type} {P : State → Prop} {f : State → α → State} (hkeep : ∀ s x, P s → P (f s x)) {x : α}
    (hset : ∀ s, P (f s x)) {l : List α} (hx : x ∈ l) (s : State) : P (l.foldl f s) := by
  have hall : ∀ (l : List α) (s : State), P s → P (l.foldl f s) := fun l => by
    induction l with
    | nil => exact fun _ h => h
    | cons y l ih => exact fun s h => ih _ (hkeep s y h)
  induction l generalizing s with
  | nil => exact absurd hx (List.not_mem_nil)
  | cons y l ih =>
    rcases List.mem_cons.1 hx with rfl | hx'
    · exact hall l _ (hset s)
    · exact ih hx' _

/-- A run bit that is 0 stays 0 when a run bit is cleared, and the one that is cleared is 0. -/
theorem State.run_setRf (s : State) (o o' : Nat) : (s.setRf o 0 0 0).rf o' 0 0 = if o' = o then 0 else s.rf o' 0 0 := by
  split
  · next h =>
    subst h
    exact State.rf_setRf_same _ _ _ _ (by decide)
  · next h => exact State.rf_setReg_other s _ _ _ h

theorem State.run_setRf_zero {s : State} {o o' : Nat} (h : s.rf o' 0 0 = 0) : (s.setRf o 0 0 0).rf o' 0 0 = 0 := by
  rw [State.run_setRf]
  split
  · rfl
  · exact h

/-- One stop of a die: each core, then the ring; `g` is what else is done to a core. -/
def State.stopDie (g : State → Nat → Nat → State) (s : State) (d : Nat) : State :=
  ((List.range 34).foldl (fun s j => g (s.setRf (coreBase d j + 4) 0 0 0) d j) s).setRf (ringBase d + 4) 0 0 0

/-- After the stop of every die, no core and no ring runs. -/
theorem State.stopDie_all {g : State → Nat → Nat → State} (hg : ∀ s d j, (g s d j).regs = s.regs) (s : State) :
    (∀ (d : Fin 4) (p : Fin 34), ((List.range 4).foldl (State.stopDie g) s).coreRun d.val p.val = false) ∧
    ∀ d : Fin 4, ((List.range 4).foldl (State.stopDie g) s).ringOn d.val = false := by
  have hcore : ∀ (s : State) (d j o : Nat), s.rf o 0 0 = 0 → (g (s.setRf (coreBase d j + 4) 0 0 0) d j).rf o 0 0 = 0 :=
    fun s d j o h => (State.rf_of_regs (hg _ d j) _ _ _).trans (State.run_setRf_zero h)
  have hdie : ∀ (s : State) (d o : Nat), s.rf o 0 0 = 0 → (State.stopDie g s d).rf o 0 0 = 0 := fun s d o h => by
    refine State.run_setRf_zero ?_
    generalize List.range 34 = l
    induction l generalizing s with
    | nil => exact h
    | cons j l ih => exact ih _ (hcore s d j o h)
  constructor
  · intro d p
    have hrun := foldl_establishes (P := fun t => t.rf (coreBase d.val p.val + 4) 0 0 = 0) (fun s e h => hdie s e _ h)
      (x := d.val) (fun s => State.run_setRf_zero ?_) (List.mem_range.2 d.isLt) s
    · rw [State.coreRun, hrun]
      rfl
    · refine foldl_establishes (P := fun t => t.rf (coreBase d.val p.val + 4) 0 0 = 0) (fun s j h => hcore s _ j _ h)
        (x := p.val) (fun s => ?_) (List.mem_range.2 p.isLt) s
      rw [State.rf_of_regs (hg _ _ _), State.run_setRf, if_pos rfl]
  · intro d
    have hrun := foldl_establishes (P := fun t => t.rf (ringBase d.val + 4) 0 0 = 0) (fun s e h => hdie s e _ h)
      (x := d.val) (fun s => by rw [State.stopDie, State.run_setRf, if_pos rfl]) (List.mem_range.2 d.isLt) s
    rw [State.ringOn, hrun]
    rfl

/-! ### The quiesce (R445 step 2, R448) -/

theorem Halts.putBytes (s : State) (a : Nat) (bs : List Byte) (h : Hint) : Halts s (s.putBytes a bs h) := (Served.putBytes s a bs h).halts

theorem Halts.clearGrads (s : State) (n : Nat) : Halts s (s.clearGrads n) := by
  unfold State.clearGrads
  refine .foldl (fun s r _ => ?_) s
  split
  · exact .refl s
  · exact (Served.zeroLines _ s _).halts

theorem Halts.depCloseAll (s : State) : Halts s s.depCloseAll :=
  (Halts.foldl (l := s.dep.streams) (fun s _ _ => .putBytes s _ _ _) s).trans (.of_eq rfl rfl ⟨rfl, rfl⟩ rfl)

/-- Statuses that are posted write the last status of a Teller alone. -/
theorem State.postStatus_frame (s : State) (n layer status : Nat) : ∃ x, s.postStatus n layer status =
    { s.setReg (tlrBase n + 0x3C) (BitVec.ofNat 32 (2 ^ 24 * status + layer)) with step := x } :=
  ⟨_, s.postStatus_eq n layer status⟩

theorem Halts.postStatus (s : State) (n layer status : Nat) : Halts s (s.postStatus n layer status) := by
  obtain ⟨x, hx⟩ := s.postStatus_frame n layer status
  rw [hx]
  refine (Halts.setReg s (o := tlrBase n + 0x3C) _ ?_).trans (.of_eq rfl rfl ⟨rfl, rfl⟩ rfl)
  simp only [tlrBase]
  omega

theorem Halts.stopTeller (s : State) (n : Nat) : Halts s (s.stopTeller n) := by
  unfold State.stopTeller
  extract_lets t running layers
  have hset : Halts s (s.setTeller n {}) := .of_eq rfl rfl ⟨rfl, rfl⟩ rfl
  exact hset.trans (.foldl (fun s l _ => .postStatus s n l _) _)

/-- Stopping the Tellers after the dies leaves cores, rings and Tellers stopped. -/
theorem State.stopTellers_stops {s : State} (hcores : ∀ (d : Fin 4) (p : Fin 34), s.coreRun d.val p.val = false)
    (hrings : ∀ d : Fin 4, s.ringOn d.val = false) {t : State} (ht : t = (s.stopTeller 0).stopTeller 1) :
    (∀ (d : Fin 4) (p : Fin 34), ((t.setRf (tlrBase 0 + 4) 0 0 0).setRf (tlrBase 1 + 4) 0 0 0).coreRun d.val p.val = false) ∧
    (∀ d : Fin 4, ((t.setRf (tlrBase 0 + 4) 0 0 0).setRf (tlrBase 1 + 4) 0 0 0).ringOn d.val = false) ∧
    ((t.setRf (tlrBase 0 + 4) 0 0 0).setRf (tlrBase 1 + 4) 0 0 0).tlrDisabled = true := by
  have htellers : Halts s t := ht ▸ (Halts.stopTeller s 0).trans (.stopTeller _ 1)
  have hother : ∀ o, o ≠ tlrBase 0 + 4 → o ≠ tlrBase 1 + 4 →
      ((t.setRf (tlrBase 0 + 4) 0 0 0).setRf (tlrBase 1 + 4) 0 0 0).rf o 0 0 = t.rf o 0 0 := fun o h0 h1 => by
    rw [State.run_setRf, if_neg h1, State.run_setRf, if_neg h0]
  refine ⟨fun d p => ?_, fun d => ?_, ?_⟩
  · have hd := d.isLt
    have hp := p.isLt
    rw [State.coreRun, hother _ (by simp only [coreBase, tlrBase]; omega) (by simp only [coreBase, tlrBase]; omega)]
    exact (State.coreRun_of_halts htellers _ _).trans (hcores d p)
  · have hd := d.isLt
    rw [State.ringOn, hother _ (by simp only [ringBase, tlrBase]; omega) (by simp only [ringBase, tlrBase]; omega)]
    exact (State.ringOn_of_halts htellers _).trans (hrings d)
  · rw [State.tlrDisabled, State.run_setRf, if_neg (by decide), State.run_setRf, if_pos rfl, State.run_setRf, if_pos rfl]
    rfl

/-- Emptying the queues of the four dies leaves registers, and each of the four queues empty. -/
theorem State.emptyQueues (s : State) :
    ((List.range 4).foldl (fun s d => s.modDie d (fun m => { m with queue := [] })) s).regs = s.regs ∧
    ∀ e < 4, (((List.range 4).foldl (fun s d => s.modDie d (fun m => { m with queue := [] })) s).die e).queue = [] := by
  constructor
  · generalize List.range 4 = l
    induction l generalizing s with
    | nil => rfl
    | cons d l ih => exact ih _
  · intro e he
    refine foldl_establishes (P := fun t => (t.die e).queue = []) (fun t d h => ?_) (x := e) (fun t => ?_) (List.mem_range.2 he) s
    · by_cases hd : e = d
      · subst hd
        rw [State.die_modDie_same t _ (fun m => { m with queue := [] })]
      · rw [State.die_modDie_other t (fun m => { m with queue := [] }) hd, h]
    · rw [State.die_modDie_same t _ (fun m => { m with queue := [] })]

/-- With the queues of memory and the rings emptied, units that were stopped stand stopped. -/
theorem Stopped.of_empty {s t : State} (hcores : ∀ (d : Fin 4) (p : Fin 34), s.coreRun d.val p.val = false)
    (hrings : ∀ d : Fin 4, s.ringOn d.val = false) (htellers : s.tlrDisabled = true) (hregs : t.regs = s.regs) (hempty : t.rings = [])
    (hcalm : t.calm) : Stopped t := by
  refine ⟨fun d p => ?_, fun d => ?_, ?_, hempty, hcalm⟩
  · rw [State.coreRun, State.rf_of_regs hregs]
    exact hcores d p
  · rw [State.ringOn, State.rf_of_regs hregs]
    exact hrings d
  · rw [State.tlrDisabled, State.rf_of_regs hregs, State.rf_of_regs hregs]
    exact htellers

theorem State.quiesce_stopped (s : State) : Stopped s.quiesce := by
  unfold State.quiesce
  extract_lets s1 s2 s3 s4 mem s5 n step s6 s7
  obtain ⟨hcores, hrings⟩ : (∀ (d : Fin 4) (p : Fin 34), s1.coreRun d.val p.val = false) ∧ ∀ d : Fin 4, s1.ringOn d.val = false :=
    State.stopDie_all (g := fun s d j => s.modCore d j Core.discard) (fun _ _ _ => rfl) s
  obtain ⟨hcores', hrings', htellers⟩ : (∀ (d : Fin 4) (p : Fin 34), s3.coreRun d.val p.val = false) ∧
      (∀ d : Fin 4, s3.ringOn d.val = false) ∧ s3.tlrDisabled = true := State.stopTellers_stops hcores hrings (t := s2) rfl
  obtain ⟨hregs, hqueue⟩ : s4.regs = s3.regs ∧ ∀ e < 4, (s4.die e).queue = [] := s3.emptyQueues
  clear_value s4 s3
  have hempty : Stopped s6 := .of_empty (s := s3) hcores' hrings' htellers hregs rfl ⟨rfl, rfl, hqueue⟩
  have hclear : Halts s6 s7 := (Halts.clearGrads s6 n).trans (.clearGrads _ _)
  split
  · exact hempty.of_halts (hclear.trans (.depCloseAll s7))
  · exact hempty.of_halts hclear

/-! ### Units that are replaced (R281, R462, R464, R465) -/

theorem Halts.modDie (s : State) (d : Nat) {f : MemDie → MemDie} (hf : ∀ m, (f m).queue = m.queue) : Halts s (s.modDie d f) :=
  (Served.modDie s d hf).halts

theorem Halts.emptySlot (s : State) (d k : Nat) : Halts s (s.emptySlot d k) := by
  unfold State.emptySlot
  extract_lets mine s1
  have hback : Halts s s1 := .foldl (fun s w _ => (Served.writeBack s d w.2).halts) s
  exact hback.trans (.modDie _ d fun _ => rfl)

theorem Halts.notice (s : State) (e : Err) : Halts s (s.notice e) := (Served.notice s e).halts
theorem Halts.report (s : State) (e : Err) : Halts s (s.report e) := (Served.report s e).halts

theorem Halts.replaceBank (s : State) (d b : Nat) : Halts s (s.replaceBank d b) := by
  unfold State.replaceBank
  dsimp only
  split
  · exact .refl s
  · next k b' hfind =>
    split
    · next r hspare =>
      have hslot := (Halts.emptySlot s d k).trans
        (Halts.modDie (s.emptySlot d k) d (f := fun m => { m with slots := Tab.put m.slots k r }) fun _ => rfl)
      exact (hslot.trans (Halts.setRf _ (o := ldgBase + 0x50) _ _ _ (by decide))).trans (.notice _ _)
    · split
      · exact .report s _
      · have hslot := (Halts.emptySlot s d k).trans
          (Halts.modDie (s.emptySlot d k) d (f := fun m => { m with slots := Tab.del m.slots k }) fun _ => rfl)
        exact hslot.trans (.notice _ _)

theorem Halts.replaceBanks (s : State) : Halts s s.replaceBanks := by
  unfold State.replaceBanks
  refine .foldl (fun s d _ => ?_) s
  extract_lets bad
  have hbanks : Halts s (bad.foldl (fun s b => s.replaceBank d b) s) := .foldl (fun s b _ => .replaceBank s d b) s
  exact hbanks.trans (.modDie _ d fun _ => rfl)

theorem coreBase_low {d j o : Nat} (ho : o < 0x10000) (h : o ≠ 4) : (coreBase d j + o) % 0x10000 ≠ 4 := by
  simp only [coreBase]
  omega

theorem Halts.placeSection (s : State) (d j : Nat) (x : CoreSection) : Halts s (s.placeSection d j x) := by
  unfold State.placeSection
  extract_lets base s1
  have hstore : Halts s s1 := .modCore s d j _
  split
  · refine .foldl (fun s k hk => .setReg s _ ?_) s
    have := List.mem_range.1 hk
    simp only [base, coreBase]
    omega
  split
  · exact hstore.trans (.setReg _ _ (coreBase_low (by decide) (by decide)))
  split
  · exact hstore.trans (.setReg _ _ (coreBase_low (by decide) (by decide)))
  · exact hstore

/-- A core's gate that opens leaves the rings: it is no segment. -/
theorem State.openGate_core_rings (s : State) {d k : Nat} (hd : d < 4) (hk : k < 34) : (s.openGate (domCore d k)).rings = s.rings := by
  have hdom : domCore d k < 156 := by
    simp only [domCore]
    omega
  have hindex : domCore d k % 39 < 34 := by
    simp only [domCore]
    omega
  unfold openGate
  extract_lets c ctl s1
  rw [if_neg]
  · rfl
  · rintro ⟨-, hseg⟩
    simp only [c, domAt, if_pos hdom] at hseg
    omega

theorem Halts.openGate_core (s : State) {d k : Nat} (hd : d < 4) (hk : k < 34) : Halts s (s.openGate (domCore d k)) := by
  have hrings := s.openGate_core_rings hd hk
  obtain ⟨doms, rings, hframe⟩ := s.openGate_frame (domCore d k)
  refine .of_eq ?_ hrings ?_ ?_
  · rw [hframe]
  · rw [hframe]
    exact ⟨rfl, rfl⟩
  · rw [hframe]

theorem Halts.fillCore (s : State) {d k : Nat} (j : Nat) (hd : d < 4) (hk : k < 34) : Halts s (s.fillCore d j k) := by
  unfold State.fillCore
  extract_lets old new s1 s2 s3 s4 used
  have hcores : Halts s s1 := (Halts.setCore s d k _).trans (.setCore _ d j _)
  have hcopy : Halts s1 s2 := .foldl (fun s o ho => .setReg s _ (coreBase_low (by revert o; decide) (by revert o; decide))) s1
  have hopen : Halts s2 s3 := (Served.at s2 _).halts.trans (.openGate_core _ hd hk)
  have hoff : Halts s3 s4 := .modDomain s3 _ _
  exact (((hcores.trans hcopy).trans (hopen.trans hoff)).trans (.setRf s4 (o := ldgBase + 0x50) _ _ _ (by decide))).trans (.notice _ _)

theorem Halts.dropCore (s : State) (d j : Nat) : Halts s (s.dropCore d j) := by
  unfold State.dropCore
  extract_lets gone s1 s2
  have hoff : Halts s s1 := .setCore s d j _
  have hindex : Halts s1 s2 := .foldl (fun s k _ => .modCore s d k _) s1
  exact ((hoff.trans hindex).trans (.setRf s2 (o := ldgBase + 0x50) _ _ _ (by decide))).trans (.modDomain _ _ _)

theorem Halts.replaceCore (s : State) {d : Nat} (j : Nat) (hd : d < 4) : Halts s (s.replaceCore d j) := by
  unfold State.replaceCore
  split
  · next k hspare => exact .fillCore s j hd (List.mem_range.1 (List.mem_of_find?_eq_some hspare))
  split
  · exact .setRf s (o := ldgBase + 0x50) _ _ _ (by decide)
  extract_lets job s1
  split
  · refine (Halts.dropCore s d j).trans (.foldl (fun s k _ => ?_) _)
    extract_lets c
    split
    · exact .foldl (fun s x _ => .placeSection s d k x) s
    · exact .refl s
  · exact .report s _

theorem Halts.replaceSlow (s : State) : Halts s s.replaceSlow := by
  unfold State.replaceSlow
  refine .foldl (fun s i hi => ?_) s
  have := List.mem_range.1 hi
  extract_lets d j
  split
  · exact .replaceCore s j (by show i / 34 < 4; omega)
  · exact .refl s

/-! ### Stacks out of service (R268 to R270) -/

theorem hbmBase_low {d o : Nat} (ho : o < 0x10000) (h : o ≠ 4) : (hbmBase d + o) % 0x10000 ≠ 4 := by
  simp only [hbmBase]
  omega

theorem Halts.retrainStack (s : State) (k : Nat) (bad : Bool) : Halts s (s.retrainStack k bad) := by
  unfold State.retrainStack
  extract_lets a t
  have hlanes : Halts s t := (Halts.setRf s _ _ _ (hbmBase_low (by decide) (by decide))).trans (.setRf _ _ _ _ (hbmBase_low (by decide) (by decide)))
  split
  · exact hlanes.trans (.report t _)
  · exact hlanes

theorem Halts.repairRow (s : State) (d channel row : Nat) (spent : Bool) : Halts s (s.repairRow d channel row spent) := by
  unfold State.repairRow
  extract_lets lines addr k s1 s2
  split
  · have hfault : Halts s (s.orReg (hbmBase d + 0xC) 4) := (Halts.setReg s _ (hbmBase_low (by decide) (by decide))).trans (.of_eq rfl rfl ⟨rfl, rfl⟩ rfl)
    exact hfault.trans (.notice _ _)
  · have hlines : Halts s s1 := .foldl (fun s li _ => by
      have hput := LineStored.putLine s.mem (s.steering li) li (freeLine s.free) true
      refine .of_eq rfl rfl ⟨?_, ?_⟩ rfl
      · rw [hput.frame]
      · rw [hput.frame]) s
    have hseen : Halts s1 s2 := .modDie s1 d fun _ => rfl
    exact (hlines.trans hseen).trans (.of_eq rfl rfl ⟨rfl, rfl⟩ rfl)

theorem Halts.repairMemory (s : State) (f : RecoveryFinds) : Halts s (s.repairMemory f) := by
  unfold State.repairMemory
  extract_lets s1 s2 s3
  have hlanes : Halts s s1 := .foldl (fun s x _ => (Halts.setReg s _ (by simp only [hbmBase]; omega)).trans (.retrainStack _ _ _)) s
  have hbad : Halts s1 s2 := .foldl (fun s k _ => by
    split
    · exact .refl s
    · exact .retrainStack s _ _) s1
  have hrows : Halts s2 s3 := .foldl (fun s d _ => by
    extract_lets rows
    have hppr : Halts s (s.modDie d (fun m => { m with ppr := [] })) := .modDie s d fun _ => rfl
    exact hppr.trans (.foldl (fun s x _ => .repairRow s d _ _ _) _)) s2
  exact ((hlanes.trans hbad).trans hrows).trans (.foldl (fun s x _ => by exact .modDie s _ fun _ => rfl) s3)

end Sys2Proof.Machine
end

section
/-! SUPPORT. The commands of recovery: queued errors, RESTORE, the fatal dump and the securing read (R443 to R453, R469). -/

namespace Sys2Proof.Machine

/-! ### Queued errors (R443) -/

theorem execQueuedErrorRun_waits {s : State} (h : s.jnl.queue = [] ∨ s.jnl.handling.isSome = true ∨ s.alive = false) :
    exec .queuedErrorRun s = .next s := by
  change execQueuedErrorRun s = _
  unfold execQueuedErrorRun
  split
  · rfl
  · next q rest hqueue =>
    refine if_pos ?_
    rcases h with h | h | h
    · rw [hqueue] at h
      exact nomatch h
    · simp [h]
    · simp [h]

theorem execQueuedErrorRun_runs {s u : State} {q : QueuedErr} {rest : List QueuedErr} (hq : s.jnl.queue = q :: rest) (hon : s.alive = true)
    (hnone : s.jnl.handling = none) (hu : u = { s with jnl := { s.jnl with queue := rest } }) :
    exec .queuedErrorRun s = .next (if q.ref.cls = .step ∧ q.later = false then u else
      u.act q.ref.cls q.ref.region q.ref.code q.seq q.addr) := by
  subst hu
  change execQueuedErrorRun s = _
  unfold execQueuedErrorRun
  rw [hq]
  exact if_neg (by simp [hon, hnone])

/-- The error that faults the attempt reaches the step alone. -/
theorem State.faultBy_frame (s : State) (cls : ErrClass) (region code : Nat) :
    ∃ r, s.faultBy cls region code = { s with step := { s.step with faultRef := r } } := by
  unfold faultBy
  split
  · exact ⟨_, rfl⟩
  · exact ⟨s.step.faultRef, rfl⟩

/-- The state whose attempt is faulted. -/
def State.faultAttempt (s : State) : State := { s with step := { s.step with faulted := true } }

theorem State.raiseStepFault_eq (s : State) (seq : Nat) : s.raiseStepFault seq =
    if 2 ≤ s.step.post then { s with step := { s.step with faultNext := some seq } }
    else if s.step.faulted then s else s.faultAttempt.sendAll 2 s.tlrStep seq := rfl

/-- A step fault faults the attempt, or from VOTE on the next; the rest is what sending leaves. -/
theorem State.raiseStepFault_frame (s : State) (seq : Nat) :
    (s.step.post < 2 → (s.raiseStepFault seq).step.faulted = true) ∧
    (2 ≤ s.step.post → (s.raiseStepFault seq).step.faultNext = some seq) ∧
    (s.raiseStepFault seq).jnl.queue = s.jnl.queue ∧ (s.raiseStepFault seq).mem = s.mem ∧ (s.raiseStepFault seq).cores = s.cores := by
  rw [State.raiseStepFault_eq]
  split
  · next hlate => exact ⟨fun h => absurd hlate (by omega), fun _ => rfl, rfl, rfl, rfl⟩
  · next hearly =>
    split
    · next hdone => exact ⟨fun _ => hdone, fun h => absurd h hearly, rfl, rfl, rfl⟩
    · have hsent := Secured.sendAll s.faultAttempt 2 s.tlrStep seq
      refine ⟨fun _ => ?_, fun h => absurd h hearly, hsent.queue.1, ?_, ?_⟩
      · rw [hsent.frame]
        rfl
      · rw [hsent.frame]
        rfl
      · rw [hsent.frame]
        rfl

theorem queuedErrorRun_acts {s u : State} {q : QueuedErr} {rest : List QueuedErr} (hq : s.jnl.queue = q :: rest) (hon : s.alive = true)
    (hnone : s.jnl.handling = none) (hu : u = { s with jnl := { s.jnl with queue := rest } }) :
    (q.ref.cls = .step → q.later = false → exec .queuedErrorRun s = .next u) ∧
    (q.ref.cls ≠ .step ∨ q.later = true → exec .queuedErrorRun s = .next (u.act q.ref.cls q.ref.region q.ref.code q.seq q.addr)) ∧
    (q.ref.cls = .step → q.later = true → ∃ t, exec .queuedErrorRun s = .next t ∧ t.jnl.queue = rest ∧
      (s.step.post < 2 → t.step.faulted = true) ∧ (2 ≤ s.step.post → t.step.faultNext = some q.seq) ∧ t.mem = s.mem ∧
      t.cores = s.cores ∧ t.outer = s.outer) ∧
    (q.ref.cls = .restore → ∃ t, exec .queuedErrorRun s = .next t ∧ t.jnl.queue = rest ∧ t.rec_.stage = .pendingSkip ∧
      t.jnl.handling = some ⟨.restore, q.ref.region, q.ref.code⟩ ∧ t.mem = s.mem ∧ t.cores = s.cores ∧ t.outer = s.outer) ∧
    (q.ref.cls = .depart → ∃ t, exec .queuedErrorRun s = .next t ∧ t.jnl.queue = rest ∧ t.rec_.departNeeded = true ∧
      t.mem = s.mem ∧ t.cores = s.cores ∧ t.outer = s.outer) := by
  have hrun := execQueuedErrorRun_runs hq hon hnone hu
  have hacts : q.ref.cls ≠ .step ∨ q.later = true →
      exec .queuedErrorRun s = .next (u.act q.ref.cls q.ref.region q.ref.code q.seq q.addr) := fun h => by
    rw [hrun, if_neg]
    rintro ⟨hc, hl⟩
    rcases h with h | h
    · exact h hc
    · simp [hl] at h
  have houter : (u.act q.ref.cls q.ref.region q.ref.code q.seq q.addr).outer = s.outer := by
    rw [State.act_outer, hu]
    rfl
  obtain ⟨r, hby⟩ := u.faultBy_frame q.ref.cls q.ref.region q.ref.code
  refine ⟨fun hc hl => by rw [hrun, if_pos ⟨hc, hl⟩], hacts, fun hc hl => ?_, fun hc => ?_, fun hc => ?_⟩
  · refine ⟨_, hacts (.inr hl), ?_⟩
    rw [hc] at houter hby ⊢
    obtain ⟨hearly, hlate, hqueue, hmem, hcores⟩ := (u.faultBy .step q.ref.region q.ref.code).raiseStepFault_frame q.seq
    rw [hby, hu] at hearly hlate hqueue hmem hcores
    rw [show u.act .step q.ref.region q.ref.code q.seq q.addr = (u.faultBy .step q.ref.region q.ref.code).raiseStepFault q.seq from rfl,
      hby, hu] at houter ⊢
    exact ⟨hqueue, hearly, hlate, hmem, hcores, houter⟩
  · refine ⟨_, hacts (.inl (by simp [hc])), ?_⟩
    rw [hc] at houter ⊢
    obtain ⟨-, -, hqueue, hmem, hcores⟩ := u.raiseStepFault_frame q.seq
    rw [hu] at hqueue hmem hcores houter ⊢
    exact ⟨hqueue, rfl, rfl, hmem, hcores, houter⟩
  · refine ⟨_, hacts (.inl (by simp [hc])), ?_⟩
    rw [hc] at houter hby ⊢
    obtain ⟨-, -, hqueue, hmem, hcores⟩ := (u.faultBy .depart q.ref.region q.ref.code).raiseStepFault_frame q.seq
    rw [hby, hu] at hqueue hmem hcores
    refine ⟨?_, rfl, ?_, ?_, houter⟩
    · show ((u.faultBy .depart q.ref.region q.ref.code).raiseStepFault q.seq).jnl.queue = rest
      rw [hby, hu]
      exact hqueue
    · show ((u.faultBy .depart q.ref.region q.ref.code).raiseStepFault q.seq).mem = s.mem
      rw [hby, hu]
      exact hmem
    · show ((u.faultBy .depart q.ref.region q.ref.code).raiseStepFault q.seq).cores = s.cores
      rw [hby, hu]
      exact hcores

/-! ### The RESTORE recovery (R445) -/

theorem restoreRecovery_quiesces (f : RecoveryFinds) {s : State} (hmem : s.memFree = true) (hpost : s.step.post = 5)
    (hstage : s.rec_.stage = .pendingSkip) : ∃ t, exec (.restoreRecovery f) s = .next t ∧
    (∀ (d : Fin 4) (p : Fin 34), t.coreRun d.val p.val = false) ∧ (∀ d : Fin 4, t.ringOn d.val = false) ∧ t.tlrDisabled = true ∧
    t.rings = [] ∧ t.rec_.cores = t.suspectCores ∧ (t.rec_.cores ≠ [] → t.rec_.stage = .imageNeeded) ∧ t.outer = s.outer := by
  have hrun : exec (.restoreRecovery f) s = .next (State.recoverOn
      { (((s.quiesce).replaceBanks).replaceSlow).repairMemory f with
        rec_ := { ((((s.quiesce).replaceBanks).replaceSlow).repairMemory f).rec_ with
          cores := ((((s.quiesce).replaceBanks).replaceSlow).repairMemory f).suspectCores } }) := by
    change execRestoreRecovery s f = _
    unfold execRestoreRecovery
    rw [if_neg (by simp [hmem, hpost]), hstage]
  have houter : ((((s.quiesce).replaceBanks).replaceSlow).repairMemory f).outer = s.outer := by simp
  have hstop : Stopped ((((s.quiesce).replaceBanks).replaceSlow).repairMemory f) := s.quiesce_stopped.of_halts
    (((Halts.replaceBanks _).trans (.replaceSlow _)).trans (.repairMemory _ f))
  generalize (((s.quiesce).replaceBanks).replaceSlow).repairMemory f = u at hrun houter hstop
  refine ⟨_, hrun, hstop.cores, hstop.rings, hstop.tellers, hstop.empty, rfl, fun hcores => ?_, houter⟩
  exact if_pos (by simpa [State.recoverOn] using hcores)

/-- What is left of a recovery that waits for a restore. -/
theorem State.recoverOn_frame (s : State) : s.recoverOn = { s with rec_ := s.recoverOn.rec_ } ∧
    s.recoverOn.rec_.lost = s.rec_.lost.filter (fun a => !s.lineGood a) := ⟨rfl, rfl⟩

theorem restoreRecovery_waits (f : RecoveryFinds) {s : State}
    (h : s.memFree = false ∨ s.step.post ≠ 5 ∨ (s.rec_.stage ≠ .pendingSkip ∧ s.rec_.stage ≠ .restoreNeeded)) :
    exec (.restoreRecovery f) s = .next s := by
  change execRestoreRecovery s f = _
  unfold execRestoreRecovery
  split
  · rfl
  · next hgo =>
    rcases h with h | h | ⟨h, h'⟩
    · simp [h] at hgo
    · simp [h] at hgo
    · split
      · next heq => exact absurd heq h
      · next heq => exact absurd heq h'
      · rfl

/-! ### The fatal stop (R469) -/

theorem Halts.freeLines (n : Nat) : ∀ (s : State) (a : Nat), Halts s (s.freeLines a n) := by
  induction n with
  | zero => exact fun s _ => .refl s
  | succ n ih =>
    intro s a
    have hfree : Halts s { s with free := s.free + 1 } := .of_eq rfl rfl ⟨rfl, rfl⟩ rfl
    exact (hfree.trans (Served.writeLine _ _ _ _ _).halts).trans (ih _ _)

theorem Halts.dumpSection (src : State) (reachable : Nat) (s : State) (id : Nat) : Halts s (State.dumpSection src reachable s id) := by
  unfold State.dumpSection
  extract_lets x
  split
  · split
    · exact .putBytes s _ _ _
    · exact .freeLines _ s _
  · exact .refl s

theorem Halts.furtherFatal (s : State) : Halts s s.furtherFatal := by
  unfold State.furtherFatal
  extract_lets f t
  have hfree : Halts s f.2 := .of_eq rfl rfl ⟨rfl, rfl⟩ rfl
  exact (hfree.trans (Reported.journal f.2 _ _ _ _).served.halts).trans (.of_eq rfl rfl ⟨rfl, rfl⟩ rfl)

theorem Halts.writeDump (s : State) (reachable : Nat) (cut : Option (Fin 11)) (cause : Nat × Nat) :
    Halts s (s.writeDump reachable cut cause) := by
  unfold State.writeDump
  extract_lets mask s1 s2 s3 s4
  have hsections : Halts s s1 := .foldl (fun t id _ => .dumpSection s mask t id) s
  have hcut : Halts s1 s2 := by
    show Halts s1 (if cut.isSome then s1.furtherFatal else s1)
    split
    · exact .furtherFatal s1
    · exact .refl s1
  have hheader : Halts s2 s3 := .putBytes s2 _ _ _
  have hclean : Halts s3 s4 := .foldl (fun t d _ => (Served.cleanWays t d).halts) s3
  have hall := ((hsections.trans hcut).trans hheader).trans hclean
  clear_value s4
  exact hall.trans (.of_eq rfl rfl ⟨rfl, rfl⟩ rfl)

theorem Halts.laterDump (s : State) (cause : Nat × Nat) : Halts s (s.laterDump cause) := by
  unfold State.laterDump
  extract_lets fatal s1
  have hlater : Halts s { s with fatal := { s.fatal with laterSeq := cause.1 } } := .of_eq rfl rfl ⟨rfl, rfl⟩ rfl
  have hfield : Halts { s with fatal := { s.fatal with laterSeq := cause.1 } } s1 := .putBytes _ _ _ _
  exact (hlater.trans hfield).trans (.foldl (fun t d _ => (Served.cleanWays t d).halts) s1)

/-- What a fatal stop writes to memory, where it can. -/
def State.dumpOut (s1 s : State) (reachable : Nat) (cut : Option (Fin 11)) (cause : Nat × Nat) : State :=
  if !s.memUp then { s1 with fatal := { s1.fatal with flushed := false } }
  else if s.fatal.dumpHeld then s1.laterDump cause
  else s1.writeDump reachable cut cause

/-- A stop that stands, with every long operation ended. -/
def State.endFatal (s : State) : State :=
  { s with fatal := { s.fatal with stopped := true, pending := none, selfRefresh := true },
           mbx := { s.mbx with ops := s.mbx.ops.map (fun o => if o.done then o else { o with result := 5, detail := 0, done := true }) } }

theorem State.endFatal_unwritten (s1 : State) {s : State} (h : s1.mem = s.mem) :
    ({ s1 with fatal := { s1.fatal with flushed := false } } : State).endFatal.fatal.flushed = false ∧
    ({ s1 with fatal := { s1.fatal with flushed := false } } : State).endFatal.mem = s.mem := ⟨rfl, h⟩

theorem execFatalDump_stops {r : BitVec 11} {cut : Option (Fin 11)} {s : State} {cause : Nat × Nat} (hon : s.power.phase = .on)
    (hs : s.fatal.stopped = false) (hp : s.fatal.pending = some cause) :
    exec (.fatalDump r cut) s = .next (State.endFatal ((s.sendAll 2 s.tlrStep cause.1).stopDies.dumpOut s r.toNat cut cause)) := by
  change execFatalDump r s cut = _
  unfold execFatalDump
  rw [hp]
  exact if_neg (by simp [hon, hs])

theorem execFatalDump_idle {r : BitVec 11} {cut : Option (Fin 11)} {s : State}
    (h : s.power.phase ≠ .on ∨ s.fatal.stopped = true ∨ s.fatal.pending = none) : exec (.fatalDump r cut) s = .next s := by
  change execFatalDump r s cut = _
  unfold execFatalDump
  split
  · rfl
  · next cause hp =>
    refine if_pos ?_
    rcases h with h | h | h
    · simp [h]
    · simp [h]
    · rw [h] at hp
      exact nomatch hp

theorem Halts.dumpOut (s1 s : State) (reachable : Nat) (cut : Option (Fin 11)) (cause : Nat × Nat) :
    Halts s1 (s1.dumpOut s reachable cut cause) := by
  unfold State.dumpOut
  split
  · exact .of_eq rfl rfl ⟨rfl, rfl⟩ rfl
  split
  · exact .laterDump s1 cause
  · exact .writeDump s1 _ _ _

theorem State.stopDies_stops (s : State) : (∀ (d : Fin 4) (p : Fin 34), s.stopDies.coreRun d.val p.val = false) ∧
    ∀ d : Fin 4, s.stopDies.ringOn d.val = false :=
  State.stopDie_all (g := fun s _ _ => s) (fun _ _ _ => rfl) s

theorem State.stopDies_eq (s : State) : s.stopDies = (List.range 4).foldl (State.stopDie (fun s _ _ => s)) s := rfl

/-- A step for each element that leaves memory leaves it. -/
theorem foldl_mem {α : Type} {f : State → α → State} (hf : ∀ s x, (f s x).mem = s.mem) (l : List α) (s : State) :
    (l.foldl f s).mem = s.mem := by
  induction l generalizing s with
  | nil => rfl
  | cons x l ih => rw [List.foldl_cons, ih, hf]

theorem State.stopDie_mem (s : State) (d : Nat) : (State.stopDie (fun s _ _ => s) s d).mem = s.mem := by
  have hset : ∀ (t : State) (o : Nat), (t.setRf o 0 0 0).mem = t.mem := fun _ _ => rfl
  rw [State.stopDie, hset]
  exact foldl_mem (fun t j => hset t _) _ s

theorem State.stopDies_mem (s : State) : s.stopDies.mem = s.mem := by
  rw [State.stopDies_eq]
  exact foldl_mem State.stopDie_mem _ s

theorem State.dumpOut_off (s1 : State) {s : State} (reachable : Nat) (cut : Option (Fin 11)) (cause : Nat × Nat)
    (h : s.memUp = false) : s1.dumpOut s reachable cut cause = { s1 with fatal := { s1.fatal with flushed := false } } := by
  unfold dumpOut
  rw [h]
  rfl

theorem State.dumpOut_up (s1 : State) {s : State} (reachable : Nat) (cut : Option (Fin 11)) (cause : Nat × Nat)
    (h : s.memUp = true) (h' : s.fatal.dumpHeld = false) : s1.dumpOut s reachable cut cause = s1.writeDump reachable cut cause := by
  unfold dumpOut
  rw [h, h']
  rfl

theorem State.dumpOut_outer (s1 s : State) (reachable : Nat) (cut : Option (Fin 11)) (cause : Nat × Nat) :
    (s1.dumpOut s reachable cut cause).outer = s1.outer := by
  unfold dumpOut
  split
  · rfl
  split
  · exact s1.laterDump_outer cause
  · exact s1.writeDump_outer _ _ _

theorem State.writeDump_fatal (s : State) (reachable : Nat) (cut : Option (Fin 11)) (cause : Nat × Nat) :
    (s.writeDump reachable cut cause).fatal.dumpHeld = true ∧ (s.writeDump reachable cut cause).fatal.complete = cut.isNone ∧
    (s.writeDump reachable cut cause).fatal.flushed = true := by
  unfold writeDump
  extract_lets mask s1 s2 s3 s4
  clear_value s4
  exact ⟨rfl, rfl, rfl⟩

theorem fatalDump_stops (r : BitVec 11) (cut : Option (Fin 11)) {s : State} {cause : Nat × Nat} (hon : s.power.phase = .on)
    (hs : s.fatal.stopped = false) (hp : s.fatal.pending = some cause) :
    ∃ t, exec (.fatalDump r cut) s = .next t ∧ t.fatal.stopped = true ∧ t.fatal.pending = none ∧ t.fatal.selfRefresh = true ∧
      (∀ (d : Fin 4) (p : Fin 34), t.coreRun d.val p.val = false) ∧ (∀ d : Fin 4, t.ringOn d.val = false) ∧
      (∀ o ∈ t.mbx.ops, o.done = true) ∧ (s.memUp = false → t.fatal.flushed = false ∧ t.mem = s.mem) ∧
      (s.memUp = true → s.fatal.dumpHeld = false → t.fatal.dumpHeld = true ∧ t.fatal.complete = cut.isNone ∧ t.fatal.flushed = true) ∧
      t.outer = s.outer := by
  have hmem : (s.sendAll 2 s.tlrStep cause.1).stopDies.mem = s.mem := by
    rw [State.stopDies_mem, (Secured.sendAll s 2 s.tlrStep cause.1).frame]
  have houter : (s.sendAll 2 s.tlrStep cause.1).stopDies.outer = s.outer := by simp
  obtain ⟨hcores, hrings⟩ := (s.sendAll 2 s.tlrStep cause.1).stopDies_stops
  have hrun := execFatalDump_stops (r := r) (cut := cut) hon hs hp
  generalize (s.sendAll 2 s.tlrStep cause.1).stopDies = s1 at hmem houter hcores hrings hrun
  have hout := Halts.dumpOut s1 s r.toNat cut cause
  have houter' := State.dumpOut_outer s1 s r.toNat cut cause
  have hoff := State.dumpOut_off s1 (s := s) r.toNat cut cause
  have hup := State.dumpOut_up s1 (s := s) r.toNat cut cause
  generalize s1.dumpOut s r.toNat cut cause = u at hrun hout houter' hoff hup
  refine ⟨_, hrun, rfl, rfl, rfl, fun d p => (State.coreRun_of_halts hout _ _).trans (hcores d p),
    fun d => (State.ringOn_of_halts hout _).trans (hrings d), fun o ho => ?_, fun h => ?_, fun h h' => ?_, houter'.trans houter⟩
  · obtain ⟨o', -, rfl⟩ := List.mem_map.1 ho
    split
    · assumption
    · rfl
  · rw [hoff h]
    exact s1.endFatal_unwritten hmem
  · obtain ⟨hheld, hcomplete, hflushed⟩ := s1.writeDump_fatal r.toNat cut cause
    rw [← hup h h'] at hheld hcomplete hflushed
    exact ⟨hheld, hcomplete, hflushed⟩

/-! ### The securing read (R453) -/

/-- What sending image lines leaves of the copy: what is being built, its digest, and the image's length. -/
structure Securing (s t : State) : Prop where
  building : t.ldg.building = s.ldg.building
  digest : t.ldg.digest = s.ldg.digest
  read : t.ldg.read = s.ldg.read
  length : t.reg (ldgBase + 0x1C) = s.reg (ldgBase + 0x1C)

theorem Securing.refl (s : State) : Securing s s := ⟨rfl, rfl, rfl, rfl⟩

theorem Securing.trans {s t u : State} (h : Securing s t) (h' : Securing t u) : Securing s u :=
  ⟨h'.building.trans h.building, h'.digest.trans h.digest, h'.read.trans h.read, h'.length.trans h.length⟩

theorem Securing.foldl {α : Type} {f : State → α → State} (hf : ∀ s x, Securing s (f s x)) (l : List α) (s : State) :
    Securing s (l.foldl f s) := by
  induction l generalizing s with
  | nil => exact .refl s
  | cons x l ih => exact (hf s x).trans (ih _)

theorem not_memReg_ldg {o : Nat} (h : 0x10 ≤ o) (h' : o < 0x400000) : ¬ MemReg (ldgBase + o) := by
  rintro (⟨d, p, i, hp, hi, heq⟩ | ⟨d, k, hd, hk, hk', heq⟩ | ⟨d, k, hd, hk, heq⟩ | ⟨n, heq⟩ | heq | heq)
  · simp only [ldgBase, coreBase] at heq
    omega
  · simp only [ldgBase, hbmBase] at heq
    omega
  · simp only [ldgBase, vltBase] at heq
    omega
  · simp only [ldgBase, vlBase] at heq
    omega
  · omega
  · omega

theorem Served.securing {s t : State} (h : Served s t) : Securing s t where
  building := by rw [h.ldg]
  digest := by rw [h.ldg]
  read := by rw [h.ldg]
  length := h.reg _ (not_memReg_ldg (by decide) (by decide))

theorem Served.imageLine (s : State) (n : Nat) : Served s (s.imageLine n).2.2 := by
  unfold State.imageLine
  split
  · exact .readLine s _ _
  · exact .refl s

/-- One image line leaves the copy one line further. -/
theorem State.secureLine_securing (s : State) (n : Nat) : ∃ t, Securing s t ∧
    s.secureLine n = { t with ldg := { t.ldg with read := n + 1 } } := by
  refine ⟨_, ?_, rfl⟩
  have hline := (Served.imageLine s n).securing
  have hwrite := (Served.writeLine (s.imageLine n).2.2 (s.copyBase (1 - s.snapHalf) + 256 * n) (s.imageLine n).1 (s.imageLine n).2.1 .stream).securing
  exact (hline.trans hwrite).trans (.foldl (fun s h => (Secured.sendMsg s _ _).served.securing) _ _)

/-- Image lines are sent in order, until their number or the image ends. -/
theorem State.secureLines_reads (n : Nat) : ∀ s : State, (s.secureLines n).ldg.building = s.ldg.building ∧
    (s.secureLines n).ldg.digest = s.ldg.digest ∧ (s.secureLines n).reg (ldgBase + 0x1C) = s.reg (ldgBase + 0x1C) ∧
    (s.secureLines n).ldg.read = if s.ldg.read < (s.reg (ldgBase + 0x1C)).toNat
      then min (s.ldg.read + n) (s.reg (ldgBase + 0x1C)).toNat else s.ldg.read := by
  induction n with
  | zero =>
    intro s
    refine ⟨rfl, rfl, rfl, ?_⟩
    show s.ldg.read = _
    split <;> omega
  | succ n ih =>
    intro s
    rw [State.secureLines]
    split
    · next hmore =>
      obtain ⟨t, ⟨hbuilding, hdigest, -, hlength⟩, hline⟩ := s.secureLine_securing s.ldg.read
      obtain ⟨hb, hd, hl, hr⟩ := ih (s.secureLine s.ldg.read)
      have hlen : (s.secureLine s.ldg.read).reg (ldgBase + 0x1C) = s.reg (ldgBase + 0x1C) := by
        rw [hline]
        exact hlength
      have hread : (s.secureLine s.ldg.read).ldg.read = s.ldg.read + 1 := by rw [hline]
      refine ⟨hb.trans ?_, hd.trans ?_, hl.trans hlen, ?_⟩
      · rw [hline]
        exact hbuilding
      · rw [hline]
        exact hdigest
      · rw [hr, hlen, hread]
        split <;> omega
    · exact ⟨rfl, rfl, rfl, rfl⟩

theorem State.secureDigest_securing (s : State) (m : Nat) : (s.secureDigest m).ldg.building = s.ldg.building ∧
    (s.secureDigest m).ldg.digest.isSome = true ∧ (s.secureDigest m).ldg.read = s.ldg.read := by
  unfold secureDigest
  extract_lets n lines g rec_ ldg s1
  obtain ⟨hb, hd, hr, -⟩ : Securing s1 (s1.holders.foldl (fun (s : State) (h : Nat × Nat) =>
      let a := Config.freeNat s.free % 2 ^ 40 * 256
      let k := Config.freeNat (s.free + 1) % 2 ^ 48
      ({ s with free := s.free + 2 } : State).sendMsg h.1
        { cls := 3, head := s.headLine 0x19 h.1 s.tlrStep 1 (a + 2 ^ 48 * k), data := [(rec_, false)] }) s1) := by
    refine .foldl (fun s h => ?_) _ s1
    have hfree : Securing s { s with free := s.free + 2 } := ⟨rfl, rfl, rfl, rfl⟩
    exact hfree.trans (Secured.sendMsg _ _ _).served.securing
  refine ⟨hb, ?_, hr⟩
  rw [hd]
  rfl

theorem State.takeBases_securing (s : State) : Securing s s.takeBases := by
  unfold takeBases
  split <;> exact ⟨rfl, rfl, rfl, rfl⟩

theorem execSecuringRead_idle (n : Nat) {s : State}
    (h : s.ldg.building = none ∨ s.memFree = false ∨ s.ldgOn = false ∨ s.ldg.digest ≠ none) : exec (.securingRead n) s = .next s := by
  change execSecuringRead n s = _
  unfold execSecuringRead
  split
  · rfl
  · next m hbuilding =>
    refine if_pos ?_
    rcases h with h | h | h | h
    · rw [h] at hbuilding
      exact nomatch hbuilding
    · simp [h]
    · simp [h]
    · simp [Option.isSome_iff_ne_none.2 h]

theorem execSecuringRead_reads (n : Nat) {s : State} {m : Nat} (hb : s.ldg.building = some m) (hmem : s.memFree = true)
    (hon : s.ldgOn = true) (hd : s.ldg.digest = none) : exec (.securingRead n) s = .next
      (if (s.takeBases.secureLines n).ldg.read = ((s.takeBases.secureLines n).reg (ldgBase + 0x1C)).toNat
        then (s.takeBases.secureLines n).secureDigest m else s.takeBases.secureLines n) := by
  change execSecuringRead n s = _
  unfold execSecuringRead
  rw [hb]
  exact if_neg (by simp [hmem, hon, hd])

theorem securingRead_reads (n : Nat) {m : Nat} {s : State} (hb : s.ldg.building = some m) (hmem : s.memFree = true)
    (hon : s.ldgOn = true) (hd : s.ldg.digest = none) : ∃ t, exec (.securingRead n) s = .next t ∧ t.ldg.building = some m ∧
      t.ldg.read = (if s.ldg.read < (s.reg (ldgBase + 0x1C)).toNat then min (s.ldg.read + n) (s.reg (ldgBase + 0x1C)).toNat else s.ldg.read) ∧
      (t.ldg.digest.isSome = true ↔ t.ldg.read = (s.reg (ldgBase + 0x1C)).toNat) ∧ t.outer = s.outer := by
  have hbases := s.takeBases_securing
  obtain ⟨hbuilding, hdigest, hlength, hread⟩ := s.takeBases.secureLines_reads n
  rw [hbases.building, hb] at hbuilding
  rw [hbases.digest, hd] at hdigest
  rw [hbases.read, hbases.length] at hread
  rw [hbases.length] at hlength
  have houter : (s.takeBases.secureLines n).outer = s.outer := by simp
  refine ⟨_, execSecuringRead_reads n hb hmem hon hd, ?_⟩
  generalize s.takeBases.secureLines n = u at hbuilding hdigest hlength hread houter
  rw [hlength]
  split
  · next hend =>
    obtain ⟨hb', hd', hr'⟩ := u.secureDigest_securing m
    exact ⟨hb'.trans hbuilding, hr'.trans hread, iff_of_true hd' (hr'.trans hend), by simp [houter]⟩
  · next hmore => exact ⟨hbuilding, hread, iff_of_false (by simp [hdigest]) hmore, houter⟩

/-- Settles O50: each command's stages, none of which runs a unit that the quiesce or the fatal stop stopped. -/
theorem recoveryRuns : Obligations.RecoveryRuns := by
  unfold Obligations.RecoveryRuns
  refine ⟨fun s h => execQueuedErrorRun_waits h, fun s u q rest hq hon hnone hu => queuedErrorRun_acts hq hon hnone hu,
    fun f s hmem hpost hstage => restoreRecovery_quiesces f hmem hpost hstage, fun f s hmem hpost hstage => ?_,
    fun f s h => restoreRecovery_waits f h, fun r cut s h => execFatalDump_idle h,
    fun r cut s cause hon hs hp => fatalDump_stops r cut hon hs hp, fun n s h => execSecuringRead_idle n h,
    fun n m s hb hmem hon hd => securingRead_reads n hb hmem hon hd⟩
  refine ⟨s.recoverOn, ?_, s.recoverOn_frame.1, s.recoverOn_frame.2⟩
  change execRestoreRecovery s f = _
  unfold execRestoreRecovery
  rw [if_neg (by simp [hmem, hpost]), hstage]

end Sys2Proof.Machine
end

section
/-! SUPPORT. Lines that were read on their way to a core store or an injection, and requests that no unit performs (R108, R131, R137, R172,
R259). -/

namespace Sys2Proof.Machine

/-! ### Delivery (R108, R172) -/

/-- What the delivery of a line may change: cores, rings, the flag words of the dies’ converters, and Tally. -/
structure Delivered (s t : State) : Prop where
  frame : t = { s with cores := t.cores, rings := t.rings, regs := t.regs, recent := t.recent, tally := t.tally }
  reg : ∀ o, (∀ d < 4, o ≠ vltBase d + 0x10) → t.reg o = s.reg o

theorem Delivered.mem {s t : State} (h : Delivered s t) : t.mem = s.mem := by rw [h.frame]
theorem Delivered.edge {s t : State} (h : Delivered s t) : t.edge = s.edge := by rw [h.frame]
theorem Delivered.dep {s t : State} (h : Delivered s t) : t.dep = s.dep := by rw [h.frame]
theorem Delivered.dies {s t : State} (h : Delivered s t) : t.dies = s.dies := by rw [h.frame]

theorem Delivered.refl (s : State) : Delivered s s := ⟨rfl, fun _ _ => rfl⟩

theorem Delivered.trans {s t u : State} (h : Delivered s t) (h' : Delivered t u) : Delivered s u where
  frame := by rw [h'.frame, h.frame]
  reg o ho := (h'.reg o ho).trans (h.reg o ho)

theorem Delivered.foldl {α : Type} {f : State → α → State} {l : List α} (hf : ∀ s, ∀ x ∈ l, Delivered s (f s x)) (s : State) :
    Delivered s (l.foldl f s) := by
  induction l generalizing s with
  | nil => exact .refl s
  | cons x l ih => exact (hf s x (by simp)).trans (ih (fun s y hy => hf s y (by simp [hy])) _)

theorem Delivered.modStation (s : State) (d j : Nat) (f : Station → Station) : Delivered s (s.modStation d j f) := ⟨rfl, fun _ _ => rfl⟩

theorem Delivered.count (s : State) (b ev unit v : Nat) : Delivered s (s.count b ev unit v) := by
  obtain ⟨x, hx⟩ := s.count_eq b ev unit v
  rw [hx]
  exact ⟨rfl, fun _ _ => rfl⟩

/-- Flags enter the flag word of a die. -/
theorem Delivered.flags (s : State) {d : Nat} (hd : d < 4) (mask : Nat) : Delivered s (s.orReg (vltBase d + 0x10) mask) where
  frame := rfl
  reg o ho := State.reg_setReg_other _ _ (by simpa using ho d hd)

theorem Delivered.toTiles (s : State) (j group index : Nat) (v : Line) (poison : Bool) (due : Nat) :
    Delivered s (s.toTiles j group index v poison due) := by
  unfold State.toTiles
  extract_lets all f s1
  have htiles : Delivered s s1 := .foldl (fun s d _ => .modStation s d j _) s
  split
  · exact htiles
  · next x hx =>
    extract_lets dies flags
    have hdies : ∀ d ∈ dies, d < 4 := fun d hd => by
      obtain ⟨i, -, rfl⟩ := List.mem_map.1 (List.mem_dedup.1 hd)
      exact s.homeDie_lt _
    exact htiles.trans (.foldl (fun t d hd => (Delivered.flags t (hdies d hd) flags).trans (.count _ _ _ _ _)) _)

theorem Delivered.deliver (s : State) (t : Dest) (v : Line) (poison : Bool) (due : Nat) : Delivered s (s.deliver t v poison due) := by
  cases t with
  | none => exact .refl s
  | store d p a op => exact ⟨rfl, fun _ _ => rfl⟩
  | tile d j g i => exact .toTiles s j g i v poison due

/-- A line for a core store is among those that arrive there. -/
theorem arriving_deliver (s : State) (d p a op : Nat) (v : Line) (poison : Bool) (due : Nat) :
    ((s.deliver (.store d p a op) v poison due).core d p).arriving =
      arrive { due := due, addr := a, data := bytesOfNum 256 v.toNat, poison := poison } (s.core d p).arriving := by
  unfold State.deliver State.toStore
  rw [State.core_modCore_same]

/-! ### Requests that no unit performs (R259, R271, R286) -/

/-- A fault of a Vault stands, and memory and the cores stay. -/
theorem State.vltFault_frame (s : State) {d b : Nat} (hb : b < 32) (a : Nat) :
    bit ((s.vltFault d b a).reg (vltBase d + 0xC)).toNat b = true ∧ (s.vltFault d b a).mem = s.mem ∧ (s.vltFault d b a).cores = s.cores ∧
      (s.vltFault d b a).rings = s.rings ∧ (s.vltFault d b a).dies = s.dies ∧ (s.vltFault d b a).outer = s.outer := by
  unfold State.vltFault
  have hreport := Reported.report (s.orReg (vltBase d + 0xC) (2 ^ b)) (Err.of .step (0x400 + b) (domMd d 9) 0 a)
  refine ⟨?_, by rw [hreport.frame]; rfl, by rw [hreport.frame]; rfl, by rw [hreport.frame]; rfl, by rw [hreport.frame]; rfl, by simp⟩
  rw [hreport.reg (fun n h => by unfold vltBase vlBase at h; omega), State.bit_orReg s hb]
  simp

/-- A refused request sets its bit and changes no memory. -/
theorem State.refuse_frame (s : State) (q : LineReq) {b : Nat} (hb : b < 32) :
    bit ((s.refuse q b).reg (vltBase (s.homeDie q.addr) + 0xC)).toNat b = true ∧ (s.refuse q b).mem = s.mem ∧ (s.refuse q b).dies = s.dies ∧
      (s.refuse q b).outer = s.outer := by
  obtain ⟨hbit, hmem, -, -, hdies, houter⟩ := s.vltFault_frame (d := s.homeDie q.addr) hb q.addr
  unfold State.refuse
  extract_lets s1
  split
  · have hread := Delivered.deliver s1 q.dest 0 true (s.hitDue q)
    refine ⟨?_, hread.mem.trans hmem, hread.dies.trans hdies, by rw [State.deliver_outer]; exact houter⟩
    rw [hread.reg _ (fun d _ h => by unfold vltBase at h; omega)]
    exact hbit
  · exact ⟨hbit, hmem, hdies, houter⟩

/-- A line that is written leaves every byte outside it. -/
theorem Mem.byte_setLine_other (m : Mem) {a c : Nat} (v : Line) (h : c < a ∨ a + 256 ≤ c) : Mem.byte (Mem.setLine m a v) c = Mem.byte m c :=
  Mem.byte_setNum_other m a 256 v.toNat h

/-! ### The expansion tier (R285 to R287) -/

/-- The state without a request of its list. -/
def State.withReqs (s : State) (l : List LineReq) : State := { s with mem := { s.mem with reqs := l } }

/-- The state after a request went to its port. -/
def State.issued (s : State) (q : LineReq) (rest : List LineReq) (p : Nat) : State :=
  { s with mem := { s.mem with reqs := rest, xt := s.mem.xt ++ [{ req := q, port := p, order := s.nextId }] }, nextId := s.nextId + 1 }

theorem State.xtRow_taken {s u : State} {r : Requester} {k : LineKind} {q : LineReq} {rest : List LineReq} (hon : s.alive = true)
    (htake : s.takeReq r k true = some (q, rest)) (hu : u = s.at (s.arrival q)) : s.xtRow r k = (u.toPort q rest).getD s := by
  subst hu
  unfold xtRow
  rw [if_neg (by simp [hon]), htake]

theorem State.toPort_issues {s : State} {q : LineReq} {p : Nat} (hport : s.tierPort? (q.addr % 2 ^ 44) = some p)
    (hup : s.mem.xtLost.contains p = false) (hfree : s.mem.xt.any (fun y => y.req.kind == .write && y.req.addr == q.addr) = false)
    (rest : List LineReq) : s.toPort q rest = some (s.issued q rest p) := by
  unfold toPort
  rw [hport]
  exact if_neg (by rw [hup, hfree]; exact Bool.false_ne_true)

theorem State.toPort_waits {s : State} {q : LineReq} {p : Nat} (hport : s.tierPort? (q.addr % 2 ^ 44) = some p)
    (hwait : s.mem.xtLost.contains p = true ∨ s.mem.xt.any (fun y => y.req.kind == .write && y.req.addr == q.addr) = true)
    (rest : List LineReq) : s.toPort q rest = none := by
  unfold toPort
  rw [hport]
  exact if_pos (by rcases hwait with h | h <;> rw [h] <;> simp)

theorem State.toPort_refused {s : State} {q : LineReq} (hport : s.tierPort? (q.addr % 2 ^ 44) = none) (rest : List LineReq) :
    s.toPort q rest = some ((s.withReqs rest).refuse q 5) := by
  unfold toPort
  rw [hport]
  rfl

/-- What the command of a tier request does with one that is taken. -/
theorem State.xtRow_does {s u : State} {r : Requester} {k : LineKind} {q : LineReq} {rest : List LineReq} (hon : s.alive = true)
    (htake : s.takeReq r k true = some (q, rest)) (hu : u = s.at (s.arrival q)) :
    (∀ p, u.tierPort? (q.addr % 2 ^ 44) = some p →
      (u.mem.xtLost.contains p = false → u.mem.xt.any (fun y => y.req.kind == .write && y.req.addr == q.addr) = false →
        s.xtRow r k = u.issued q rest p) ∧
      ((u.mem.xtLost.contains p = true ∨ u.mem.xt.any (fun y => y.req.kind == .write && y.req.addr == q.addr) = true) → s.xtRow r k = s)) ∧
    (u.tierPort? (q.addr % 2 ^ 44) = none → s.xtRow r k = (u.withReqs rest).refuse q 5) := by
  have hrow := State.xtRow_taken hon htake hu
  refine ⟨fun p hp => ⟨fun hup hfree => ?_, fun hwait => ?_⟩, fun hp => ?_⟩
  · rw [hrow, State.toPort_issues hp hup hfree]
    rfl
  · rw [hrow, State.toPort_waits hp hwait]
    rfl
  · rw [hrow, State.toPort_refused hp]
    rfl

/-- A line read at a port counts in Tally. -/
theorem State.cxlTally_eq (s : State) (port n : Nat) (write : Bool) : ∃ x, s.cxlTally port n write = { s with tally := x } := by
  obtain ⟨x, hx⟩ := s.count_eq (blkXd (port / 2)) (if write then 0x21 else 0x20) port n
  unfold cxlTally
  rw [hx]
  exact (State.units_eq _ _ _).imp fun _ h => h

/-- The state whose tier request has left its port. -/
def State.portDone (s : State) (x : XtReq) : State := { s with mem := { s.mem with xt := s.mem.xt.erase x } }

theorem State.contains_tierPut (s : State) (o : Nat) (v : Line) (poison : Bool) :
    (s.tierPut o v poison).mem.tierPoison.contains (o / 256) = poison := by
  unfold tierPut
  cases poison <;> simp

theorem State.contains_tierSpoil (s : State) (o : Nat) : (s.tierSpoil o).mem.tierPoison.contains (o / 256) = true := by
  simp [tierSpoil]

/-- The state of a tier line that is read, which the device may poison. -/
def State.devicePoisons (s : State) (o : Nat) (poison : Bool) : State := if poison then s.tierSpoil o else s

theorem State.devicePoisons_frame (s : State) (o : Nat) (poison : Bool) :
    ∃ l, s.devicePoisons o poison = { s with mem := { s.mem with tierPoison := l } } ∧
      l.contains (o / 256) = (poison || s.mem.tierPoison.contains (o / 256)) := by
  unfold devicePoisons
  cases poison with
  | true => exact ⟨_, rfl, (s.contains_tierSpoil o).trans (by simp)⟩
  | false => exact ⟨s.mem.tierPoison, rfl, (Bool.false_or _).symm⟩

theorem State.xtDone_write (s : State) {x : XtReq} (hx : x.req.kind = .write) (poison : Bool) :
    s.xtDone x poison = ((s.portDone x).cxlTally x.port 1 true).tierPut (x.req.addr % 2 ^ 44) x.req.data x.req.poison := by
  unfold xtDone
  exact if_pos hx

theorem State.xtDone_read (s : State) {x : XtReq} (hx : x.req.kind ≠ .write) (poison : Bool) {o : Nat} (ho : o = x.req.addr % 2 ^ 44)
    {u : State} (hu : u = (s.portDone x).devicePoisons o poison) :
    s.xtDone x poison = (u.cxlTally x.port 1 false).deliver x.req.dest (u.tierLine o).1 (u.tierLine o).2 (s.edge + 2 * s.bridge) := by
  subst ho hu
  unfold xtDone
  exact if_neg hx

/-- The state after a tier request left its port: the tier, the lines of it that are poisoned, and Tally. -/
def State.tierAfter (s : State) (x : XtReq) (tally : Tally) (tier : Mem) (bad : List Nat) : State :=
  { s with tally := tally, mem := { s.mem with xt := s.mem.xt.erase x, tier := tier, tierPoison := bad } }

theorem State.tier_tierAfter (s : State) (x : XtReq) (y : Tally) (m : Mem) (l : List Nat) : (s.tierAfter x y m l).mem.tier = m := rfl

/-- The completion of a tier WRITE. -/
theorem State.xtDone_stores (s : State) {x : XtReq} (hx : x.req.kind = .write) (poison : Bool) {o : Nat} (ho : o = x.req.addr % 2 ^ 44) :
    ∃ y l, s.xtDone x poison = s.tierAfter x y (s.mem.tier.setLine (o / 256 * 256) x.req.data) l ∧ l.contains (o / 256) = x.req.poison := by
  subst ho
  obtain ⟨y, hy⟩ := (s.portDone x).cxlTally_eq x.port 1 true
  refine ⟨y, _, ?_, State.contains_tierPut (s.portDone x) (x.req.addr % 2 ^ 44) x.req.data x.req.poison⟩
  rw [s.xtDone_write hx, hy]
  rfl

/-- The completion of a tier READ. -/
theorem State.xtDone_delivers (s : State) {x : XtReq} (hx : x.req.kind ≠ .write) (poison : Bool) {o : Nat} (ho : o = x.req.addr % 2 ^ 44) :
    ∃ y l, s.xtDone x poison =
      (s.tierAfter x y s.mem.tier l).deliver x.req.dest (s.mem.tier.line (o / 256 * 256)) (poison || s.mem.tierPoison.contains (o / 256)) (s.edge + 2 * s.bridge) := by
  obtain ⟨l, hl, hbad⟩ := (s.portDone x).devicePoisons_frame o poison
  obtain ⟨y, hy⟩ := ((s.portDone x).devicePoisons o poison).cxlTally_eq x.port 1 false
  refine ⟨y, l, ?_⟩
  rw [s.xtDone_read hx poison ho rfl, hy, hl]
  unfold tierLine
  rw [show (poison || s.mem.tierPoison.contains (o / 256)) = l.contains (o / 256) from hbad.symm]
  rfl

theorem execXtCompletion_waits {s : State} {p : Fin 4} {x : XtReq} (hx : s.mem.xt.find? (fun x => x.port == p.val) = some x)
    (hpage : s.behindPage x = true) (poison : Bool) : exec (.xtCompletion p poison) s = .next s := by
  change execXtCompletion p poison s = _
  unfold execXtCompletion
  rw [hx]
  exact if_pos (by simp [hpage])

theorem execXtCompletion_done {s : State} {p : Fin 4} {x : XtReq} (hon : s.alive = true) (hup : s.mem.xtLost.contains p.val = false)
    (hx : s.mem.xt.find? (fun x => x.port == p.val) = some x) (hpage : s.behindPage x = false) (poison : Bool) :
    exec (.xtCompletion p poison) s = .next (s.xtDone x poison) := by
  change execXtCompletion p poison s = _
  unfold execXtCompletion
  rw [hx]
  exact if_neg (by rw [hon, hup, hpage]; exact Bool.false_ne_true)

/-- The state whose tier port is lost. -/
def State.portLost (s : State) (p : Nat) : State := { s with mem := { s.mem with xtLost := s.mem.xtLost ++ [p] } }

theorem execCxlPortLost_lost {s : State} {p : Fin 4} (hon : s.alive = true) (hcap : 0 < s.mem.cxl.getD p.val 0)
    (hup : s.mem.xtLost.contains p.val = false) :
    exec (.cxlPortLost p) s = .next ((s.portLost p.val).report (Err.of .depart 0x423 (cxlDomain p.val) p.val)) := by
  change execCxlPortLost p s = _
  unfold execCxlPortLost
  exact congrArg Host.Outcome.next (if_pos (by rw [hon, hup, decide_eq_true hcap]; rfl))

/-- An error of class DEPART that acts has the package leave the job. -/
theorem State.report_departs {s : State} {e : Err} (hcls : e.cls = .depart) (hact : s.verdict e = .act) :
    (s.report e).rec_.departNeeded = true := by
  unfold State.report
  rw [hcls, hact]
  rfl

/-- Settles O31: each request by where the port of its address stands, each completion by its kind. -/
theorem tierRequests : Obligations.TierRequests := by
  refine ⟨fun r s u q rest hon x hx htake hu => ?_, fun p poison s x hon hup hx => ⟨fun hpage => execXtCompletion_waits hx hpage poison,
    fun hpage => ?_⟩, fun p s hon hcap hup => ?_⟩
  · have hrow : exec x.2 s = .next (s.xtRow r x.1) := by
      rcases List.mem_pair.1 hx with rfl | rfl <;> rfl
    obtain ⟨hport, hnone⟩ := State.xtRow_does hon htake hu
    rw [hrow]
    refine ⟨fun p hp => ⟨fun hup hfree => ?_, fun hwait => ?_⟩, fun hp => ⟨_, rfl, ?_⟩⟩
    · rw [(hport p hp).1 hup hfree]
      rfl
    · rw [(hport p hp).2 hwait]
    · obtain ⟨hbit, hmem, -, houter⟩ := (u.withReqs rest).refuse_frame q (b := 5) (by omega)
      rw [hnone hp]
      refine ⟨hmem, hbit, houter.trans ?_⟩
      rw [hu]
      exact State.at_outer _ _
  · refine ⟨_, execXtCompletion_done hon hup hx hpage poison, ?_⟩
    by_cases hkind : x.req.kind = .write
    · obtain ⟨y, l, hstate, hbad⟩ := s.xtDone_stores hkind poison rfl
      rw [hstate]
      refine ⟨rfl, rfl, rfl, rfl, rfl, rfl, fun _ => ?_, fun h => absurd hkind h⟩
      rw [State.tier_tierAfter]
      refine ⟨rfl, Mem.line_setLine _ _ _, hbad, rfl, fun b hb => ?_⟩
      exact Mem.byte_setLine_other _ _ (by omega)
    · obtain ⟨y, l, hstate⟩ := s.xtDone_delivers hkind poison rfl
      rw [hstate]
      generalize hu : s.tierAfter x y s.mem.tier l = u
      have hcores : ∀ n m, u.core n m = s.core n m := fun n m => by rw [← hu]; rfl
      have hread := Delivered.deliver u x.req.dest (s.mem.tier.line (x.req.addr % 2 ^ 44 / 256 * 256))
        (poison || s.mem.tierPoison.contains (x.req.addr % 2 ^ 44 / 256)) (s.edge + 2 * s.bridge)
      refine ⟨?_, ?_, ?_, ?_, ?_, ?_, fun h => absurd h hkind, fun _ => ⟨?_, fun n m a op hdest => ?_⟩⟩
      · rw [hread.mem, ← hu]
        rfl
      · rw [hread.mem, ← hu]
        rfl
      · rw [hread.mem, ← hu]
        rfl
      · rw [State.deliver_outer, ← hu]
        rfl
      · rw [hread.edge, ← hu]
        rfl
      · rw [hread.dep, ← hu]
        rfl
      · rw [hread.mem, ← hu]
        rfl
      · rw [hdest, arriving_deliver, hcores]
  · refine ⟨_, execCxlPortLost_lost hon hcap hup, ?_, ?_, ?_, fun hact => State.report_departs rfl hact⟩
    · rw [(Reported.report _ _).frame]
      rfl
    · rw [(Reported.report _ _).frame]
      rfl
    · rw [State.report_outer]
      rfl

end Sys2Proof.Machine
end

section
/-! SUPPORT. POSTING and SKIP: the commit of a step, the end of a skip, and the report (R192, R202, R231, R234, R504). -/

namespace Sys2Proof.Machine

/-! ### The end of a decision (R234, R504) -/

/-- The report of a decision is formed, a STOP holds, and the step ends in ENTRY. -/
def State.closeStep (s : State) (outcome n gone : Nat) : State := ((s.formReport outcome n gone).stopAtDecision).setPost 5

theorem State.formReport_frame (s : State) (outcome n gone : Nat) : ∃ (r : Report) (rs : List Report),
    s.formReport outcome n gone = { s with mbx := { s.mbx with reports := rs ++ [r] } } ∧ r.outcome = outcome ∧ r.step = n :=
  ⟨_, _, rfl, rfl, rfl⟩

theorem State.stopAtDecision_frame (s : State) : ∃ x y, s.stopAtDecision = { s with step := { s.step with stopped := x, stopRequested := y } } := by
  unfold stopAtDecision
  split
  · exact ⟨_, _, rfl⟩
  · exact ⟨s.step.stopped, s.step.stopRequested, rfl⟩

/-- The last report is that of the decision; but for the halt of a STOP, the step and the mailbox, all stays. -/
theorem State.closeStep_frame (s : State) (outcome n gone : Nat) : ∃ (r : Report) (rs : List Report) (x y : Bool),
    s.closeStep outcome n gone =
      { s with mbx := { s.mbx with reports := rs ++ [r] }, step := { s.step with stopped := x, stopRequested := y, post := 5 } } ∧
    r.outcome = outcome ∧ r.step = n := by
  obtain ⟨r, rs, hreport, hout, hn⟩ := s.formReport_frame outcome n gone
  obtain ⟨x, y, hstop⟩ := (s.formReport outcome n gone).stopAtDecision_frame
  refine ⟨r, rs, x, y, ?_, hout, hn⟩
  rw [closeStep, hstop, hreport]
  rfl

theorem State.closeStep_outer (s : State) (outcome n gone : Nat) : (s.closeStep outcome n gone).outer = s.outer := by
  unfold closeStep
  simp

/-! ### The loss scale and the snapshot at a decision (R231, R232, R454) -/

/-- TLR_LS takes its value; beside it only the halt of SKIP_LIMIT may change. -/
theorem State.lsDecide_frame (s : State) (outcome : Nat) : ∃ h,
    s.lsDecide outcome = { s.setReg (tlrBase 0 + 0x28) (BitVec.ofNat 32 (s.lsNext outcome)) with rec_ := { s.rec_ with haltedLs := h } } := by
  unfold lsDecide
  dsimp only
  split
  · exact ⟨_, rfl⟩
  · exact ⟨s.rec_.haltedLs, rfl⟩

theorem State.snapshotCurrent_idle {s : State} (h : s.ldg.building = none) : s.snapshotCurrent = s := by
  unfold snapshotCurrent
  rw [h]

/-! ### POSTING (R202, R234) -/

/-- The commit edge: TLR_STEP and TLR_LS advance, and a snapshot that was built is current. -/
def State.commitStep (s : State) : State := ((s.setTlrStep (s.tlrStep + 1)).lsDecide 0).snapshotCurrent

/-- The staged change of a step takes effect. -/
def State.changeMembers (s : State) : Option Staged → State
  | some g => s.applyMembership g
  | none => s

/-- What a Posting does behind the commit edge, up to the frozen copies. -/
def State.postValues (s : State) : State := ((s.schPost 0).schPost 1).frozenCopies

/-- What a Posting does with the job and the Ledger. -/
def State.postTables (s : State) (n : Nat) (change : Option Staged) : State :=
  (((s.changeMembers change).replaceBanks).depPosting).beginSecuring n change.isSome

/-- The change that is staged for a step. -/
def State.stagedFor (s : State) (n : Nat) : Option Staged := s.link.staged.filter (fun g => g.step == n)

/-- What a Posting clears: step faults, and the marks of a skip. -/
def State.clearSkips (s : State) : State :=
  { s with jnl := { s.jnl with stepFaults := 0 }, step := { s.step with lastSkipped := false, abandoned := 0 } }

/-- The package after a Posting, before its report. -/
def State.posted (s : State) : State :=
  (s.commitStep.postValues.postTables s.tlrStep (s.commitStep.postValues.stagedFor s.tlrStep)).clearSkips

theorem execPosting_posts {s : State} (hfree : s.memFree = true) (hpost : s.step.post = 3) :
    exec .posting s = .next (s.posted.closeStep 0 s.tlrStep 0) := by
  change execPosting s = _
  unfold execPosting
  rw [if_neg (by simp [hfree, hpost])]
  rfl

theorem execPosting_idle {s : State} (h : s.memFree = false ∨ s.step.post ≠ 3) : exec .posting s = .next s := by
  change execPosting s = _
  unfold execPosting
  exact if_pos (by rcases h with h | h <;> simp [h])

theorem State.changeMembers_outer (s : State) (g : Option Staged) : (s.changeMembers g).outer = s.outer := by
  cases g with
  | none => rfl
  | some g => exact s.applyMembership_outer g

theorem State.posted_outer (s : State) : s.posted.outer = s.outer := by
  have hcommit : s.commitStep.outer = s.outer := by simp [commitStep]
  have hvalues : s.commitStep.postValues.outer = s.outer := by simpa [postValues] using hcommit
  unfold posted
  generalize s.commitStep.postValues = u at hvalues ⊢
  change ((((u.changeMembers _).replaceBanks).depPosting).beginSecuring _ _).outer = _
  rw [State.beginSecuring_outer, State.depPosting_outer, State.replaceBanks_outer, State.changeMembers_outer, hvalues]

/-! ### A Posting of a package without layers, engines, staged changes, failing banks, cached entries or Ledger -/

/-- A package on which a Posting has no memory to write. -/
structure Bare (s : State) : Prop where
  layers : s.layerRecords = []
  staged : s.link.staged = none
  failing : ∀ d, (s.die d).failing = []
  ledger : s.ldgOn = false
  cache : ∀ k, (s.slice k).cache = []
  building : s.ldg.building = none

theorem State.frozenCopies_bare {s : State} (h : s.layerRecords = []) :
    s.frozenCopies = { s with step := { s.step with frozenRecs := [] } } := by
  unfold frozenCopies
  rw [h]
  rfl

theorem State.schPost_off {s : State} {n : Nat} (h : s.rf (tlrBase n + 0x8004) 0 0 = 0) : s.schPost n = s := by
  unfold schPost
  rw [if_neg (by rw [h]; omega)]

theorem State.depPosting_bare {s : State} (h : ∀ k, (s.slice k).cache = []) : s.depPosting = s := by
  have hone : ∀ k, s.depWriteBack k = s := fun k => by
    unfold depWriteBack
    rw [h k]
    rfl
  unfold depPosting
  rw [show List.range 4 = [0, 1, 2, 3] from rfl]
  simp only [List.foldl_cons, List.foldl_nil, hone]

/-- Banks of a die without a failing one change nothing but the list of failing ones. -/
theorem State.replaceBanks_bare {s : State} (h : ∀ d, (s.die d).failing = []) : ∃ x, s.replaceBanks = { s with dies := x } := by
  have hfold : ∀ (l : List Nat) (u : State), (∀ d, (u.die d).failing = []) → ∃ x, l.foldl (fun s d =>
      let bad := (s.die d).failing
      (bad.foldl (fun s b => s.replaceBank d b) s).modDie d (fun m =>
        { m with failing := [], passing := m.passing.filter (fun r => !bad.contains r) })) u = { u with dies := x } := fun l => by
    induction l with
    | nil => exact fun u _ => ⟨u.dies, rfl⟩
    | cons d l ih =>
      intro u hu
      rw [List.foldl_cons, hu d]
      generalize hf : (fun m : MemDie => { m with failing := [], passing := m.passing.filter (fun r => !([] : List Nat).contains r) }) = f
      obtain ⟨x, hx⟩ := ih (u.modDie d f) (fun k => by
        by_cases hk : k = d
        · rw [hk, State.die_modDie_same, ← hf]
        · rw [State.die_modDie_other (h := hk), hu])
      exact ⟨x, by subst hf; exact hx⟩
  exact hfold _ s h

theorem State.beginSecuring_off {s : State} (h : s.ldgOn = false) (n : Nat) (changed : Bool) : s.beginSecuring n changed = s := by
  unfold beginSecuring
  rw [h]
  rfl

theorem Bare.postTables {s : State} (h : Bare s) (n : Nat) : ∃ x, s.postTables n (s.stagedFor n) = { s with dies := x } := by
  obtain ⟨x, hx⟩ := State.replaceBanks_bare h.failing
  refine ⟨x, ?_⟩
  have hchange : s.stagedFor n = none := by
    unfold State.stagedFor
    rw [h.staged]
    rfl
  unfold State.postTables
  rw [hchange, show s.changeMembers none = s from rfl, hx]
  have hcache : (({ s with dies := x } : State)).depPosting = { s with dies := x } := State.depPosting_bare h.cache
  rw [hcache]
  exact State.beginSecuring_off (s := { s with dies := x }) h.ledger _ _

/-- The registers of a decision: TLR_STEP and TLR_LS. -/
theorem Bare.of_decision {s t : State} (h : Bare s) {x : Tab (BitVec 32)} {r : Recovery} (ht : t = { s with regs := x, rec_ := r })
    (hoff : ∀ o, o ≠ tlrBase 0 + 0x20 → o ≠ tlrBase 0 + 0x28 → t.reg o = s.reg o) : Bare t where
  layers := by rw [ht]; exact h.layers
  staged := by rw [ht]; exact h.staged
  failing := by rw [ht]; exact h.failing
  ledger := by
    rw [State.ldgOn, State.rf_of_reg (hoff _ (by decide) (by decide))]
    exact h.ledger
  cache := by rw [ht]; exact h.cache
  building := by rw [ht]; exact h.building

theorem Bare.commitStep {s : State} (h : Bare s) : ∃ r, s.commitStep =
    { (s.setTlrStep (s.tlrStep + 1)).setReg (tlrBase 0 + 0x28) (BitVec.ofNat 32 ((s.setTlrStep (s.tlrStep + 1)).lsNext 0)) with rec_ := r } := by
  obtain ⟨x, hx⟩ := (s.setTlrStep (s.tlrStep + 1)).lsDecide_frame 0
  refine ⟨{ s.rec_ with haltedLs := x }, ?_⟩
  unfold State.commitStep
  rw [State.snapshotCurrent_idle (by rw [hx]; exact h.building), hx]
  rfl

/-- What a bare Posting leaves in TLR_STEP, TLR_LS and memory. -/
theorem Bare.posted {s : State} (h : Bare s) (h0 : s.rf (tlrBase 0 + 0x8004) 0 0 = 0) (h1 : s.rf (tlrBase 1 + 0x8004) 0 0 = 0) :
    s.posted.reg (tlrBase 0 + 0x20) = BitVec.ofNat 32 (s.tlrStep + 1) ∧
    s.posted.reg (tlrBase 0 + 0x28) = BitVec.ofNat 32 (s.lsNext 0) ∧ s.posted.mem = s.mem := by
  obtain ⟨r, hr⟩ := h.commitStep
  have hls : (s.setTlrStep (s.tlrStep + 1)).lsNext 0 = s.lsNext 0 := by
    unfold State.lsNext State.setTlrStep
    rw [State.reg_setReg_other _ _ (by decide), State.reg_setReg_other _ _ (by decide)]
  rw [hls] at hr
  have hreg : ∀ o, o ≠ tlrBase 0 + 0x20 → o ≠ tlrBase 0 + 0x28 → s.commitStep.reg o = s.reg o := fun o ho ho' => by
    rw [hr]
    change ((s.setTlrStep (s.tlrStep + 1)).setReg _ _).reg o = _
    rw [State.reg_setReg_other _ _ ho', State.setTlrStep, State.reg_setReg_other _ _ ho]
  have hbare := h.of_decision (t := s.commitStep) hr hreg
  have hvalues : s.commitStep.postValues = { s.commitStep with step := { s.commitStep.step with frozenRecs := [] } } := by
    unfold State.postValues
    rw [State.schPost_off (n := 0) (by rw [State.rf_of_reg (hreg _ (by decide) (by decide))]; exact h0),
      State.schPost_off (n := 1) (by rw [State.rf_of_reg (hreg _ (by decide) (by decide))]; exact h1), State.frozenCopies_bare hbare.layers]
  have hbare' : Bare s.commitStep.postValues := by
    rw [hvalues]
    exact ⟨hbare.layers, hbare.staged, hbare.failing, hbare.ledger, hbare.cache, hbare.building⟩
  obtain ⟨x, hx⟩ := hbare'.postTables s.tlrStep
  unfold State.posted
  rw [hx, hvalues]
  change s.commitStep.reg _ = _ ∧ s.commitStep.reg _ = _ ∧ s.commitStep.mem = _
  rw [hr]
  refine ⟨?_, ?_, rfl⟩
  · change ((s.setTlrStep (s.tlrStep + 1)).setReg _ _).reg _ = _
    rw [State.reg_setReg_other _ _ (by decide), State.setTlrStep, State.reg_setReg_same]
  · change ((s.setTlrStep (s.tlrStep + 1)).setReg _ _).reg _ = _
    rw [State.reg_setReg_same]

/-! ### SKIP (R192, R234) -/

/-- The outcome that a skip reports. -/
def State.skipOutcome (s : State) : Nat := if s.step.decFault then 2 else 1

/-- The state whose micro-batches of the next step are marked ABANDONED. -/
def State.abandonNext (s : State) : State := { s with step := s.step.markAbandoned (s.tlrStep + 1) }

/-- The package after a skip, before its step fault counts. -/
def State.skipWork (s : State) (outcome gone : Nat) : State :=
  (((s.abandonNext.skipBatches s.tlrStep gone).lsDecide outcome).snapshotCurrent).skipMark gone

/-- A step fault counts where the skip was for one. -/
def State.countFault (s : State) (outcome : Nat) : State := if outcome = 2 then s.faultLimit else s

/-- The package after a skip, before its report. -/
def State.skipped (s : State) : State := (s.skipWork s.skipOutcome (s.admittedNext s.tlrStep)).countFault s.skipOutcome

theorem execSkip_skips {s : State} (hfree : s.memFree = true) (hpost : s.step.post = 4)
    (hdone : s.stampsOf (s.tlrStep + 1) = [] ∨ s.workEnded = true) :
    exec .skip s = .next (s.skipped.closeStep s.skipOutcome s.tlrStep (s.admittedNext s.tlrStep)) := by
  change execSkip s = _
  unfold execSkip
  rw [if_neg (by simp [hfree, hpost])]
  exact if_neg (by rcases hdone with h | h <;> simp [h])

theorem execSkip_idle {s : State} (h : s.memFree = false ∨ s.step.post ≠ 4) : exec .skip s = .next s := by
  change execSkip s = _
  unfold execSkip
  exact if_pos (by rcases h with h | h <;> simp [h])

theorem execSkip_waits {s : State} (hfree : s.memFree = true) (hpost : s.step.post = 4) (hsome : s.stampsOf (s.tlrStep + 1) ≠ [])
    (hwork : s.workEnded = false) : exec .skip s = .next s.abandonNext := by
  change execSkip s = _
  unfold execSkip
  rw [if_neg (by simp [hfree, hpost])]
  exact if_pos (by simp [hsome, hwork])

/-- One more step fault counts. -/
def State.countSkip (s : State) : State := { s with jnl := { s.jnl with stepFaults := min 255 (s.jnl.stepFaults + 1) } }

/-- Steps halt. -/
def State.haltSteps (s : State) : State := { s with rec_ := { s.rec_ with haltedSteps := true } }

theorem State.faultLimit_frame (s : State) : ∃ j r, s.faultLimit = { s with jnl := j, rec_ := r } := by
  obtain ⟨j, hj⟩ := s.countSkip.haltSteps.notice_eq (Err.aon .notice 0x624)
  unfold faultLimit
  dsimp only
  split
  · exact ⟨j, s.countSkip.haltSteps.rec_, hj⟩
  · exact ⟨s.countSkip.jnl, s.rec_, rfl⟩

theorem State.countFault_frame (s : State) (outcome : Nat) : ∃ j r, s.countFault outcome = { s with jnl := j, rec_ := r } := by
  unfold countFault
  split
  · exact s.faultLimit_frame
  · exact ⟨s.jnl, s.rec_, rfl⟩

theorem State.countFault_outer (s : State) (outcome : Nat) : (s.countFault outcome).outer = s.outer := by
  unfold countFault
  split
  · exact s.faultLimit_outer
  · rfl

theorem State.skipped_outer (s : State) : s.skipped.outer = s.outer := by
  unfold skipped skipWork
  rw [State.countFault_outer, State.skipMark_outer, State.snapshotCurrent_outer, State.lsDecide_outer, State.skipBatches_outer]
  rfl

theorem State.step_skipped (s : State) : s.skipped.step.lastSkipped = true ∧ s.skipped.step.heldRecords = [] := by
  obtain ⟨j, r, h⟩ := (s.skipWork s.skipOutcome (s.admittedNext s.tlrStep)).countFault_frame s.skipOutcome
  unfold skipped
  rw [h]
  exact ⟨rfl, rfl⟩

/-! ### A skip of a package without layers -/

/-- Micro-batches that end leave the job. -/
theorem Step.job_endBatches (x : Step) (es : List Nat) : (x.endBatches es).job = x.job := by
  have hone : ∀ (x : Step) (k : Nat), (x.freeTile k).job = x.job := fun x k => by
    unfold Step.freeTile
    split
    · next pl _ => cases pl <;> rfl
    · rfl
  have hall : ∀ (l : List Nat) (x : Step), (l.foldl Step.freeTile x).job = x.job := fun l => by
    induction l with
    | nil => exact fun _ => rfl
    | cons k l ih => exact fun x => (ih _).trans (hone x k)
  exact hall _ x

theorem State.layerRecords_of_job {s t : State} (h : t.step.job = s.step.job) : t.layerRecords = s.layerRecords := by
  unfold layerRecords
  rw [h]

theorem State.stopTeller_idle {s : State} {n : Nat} (h : s.teller n = {}) : s.stopTeller n = s.setTeller n {} := by
  unfold stopTeller
  rw [h]
  rfl

theorem State.clearGrads_bare {s : State} (h : s.layerRecords = []) (n : Nat) : s.clearGrads n = s := by
  unfold clearGrads
  rw [h]
  rfl

/-- The batches of a bare skip change the step alone. -/
theorem State.skipBatches_bare {s : State} (h : s.layerRecords = []) (h0 : s.teller 0 = {}) (h1 : s.teller 1 = {}) (n gone : Nat) :
    (s.skipBatches n gone).regs = s.regs ∧ (s.skipBatches n gone).mem = s.mem ∧ (s.skipBatches n gone).ldg = s.ldg := by
  have hteller : (s.setTeller 0 {}).teller 1 = {} := by
    exact h1
  have hlayers : ((s.setTeller 0 {}).setTeller 1 {}).layerRecords = [] := h
  unfold skipBatches
  rw [State.stopTeller_idle h0, State.stopTeller_idle hteller, State.clearGrads_bare hlayers]
  extract_lets s1 s2
  have hlayers' : s2.layerRecords = [] := (State.layerRecords_of_job (Step.job_endBatches _ _)).trans h
  split
  · exact ⟨rfl, rfl, rfl⟩
  · rw [State.clearGrads_bare hlayers']
    exact ⟨rfl, rfl, rfl⟩

/-- What a bare skip leaves in TLR_STEP and memory. -/
theorem State.skipped_bare {s : State} (h : s.layerRecords = []) (hb : s.ldg.building = none) (h0 : s.teller 0 = {}) (h1 : s.teller 1 = {}) :
    s.skipped.reg (tlrBase 0 + 0x20) = s.reg (tlrBase 0 + 0x20) ∧ s.skipped.mem = s.mem := by
  obtain ⟨hregs, hmem, hldg⟩ :=
    State.skipBatches_bare (s := s.abandonNext) h h0 h1 s.tlrStep (s.admittedNext s.tlrStep)
  obtain ⟨j, r, hcount⟩ := (s.skipWork s.skipOutcome (s.admittedNext s.tlrStep)).countFault_frame s.skipOutcome
  unfold skipped
  rw [hcount]
  change (s.skipWork s.skipOutcome (s.admittedNext s.tlrStep)).reg _ = _ ∧ (s.skipWork s.skipOutcome (s.admittedNext s.tlrStep)).mem = _
  unfold skipWork
  generalize s.abandonNext.skipBatches s.tlrStep (s.admittedNext s.tlrStep) = u at hregs hmem hldg ⊢
  obtain ⟨x, hx⟩ := u.lsDecide_frame s.skipOutcome
  rw [State.snapshotCurrent_idle (by rw [hx]; exact (congrArg (·.building) hldg).trans hb), hx]
  refine ⟨?_, hmem⟩
  change (u.setReg _ _).reg _ = _
  rw [State.reg_setReg_other _ _ (by decide)]
  exact State.reg_of_regs hregs _

/-- Settles O38: the work of the decision, then its report; without layers, engines and Ledger that work leaves memory. -/
theorem postingAndSkip : Obligations.PostingAndSkip := by
  refine ⟨fun s hfree hpost => ?_, fun s h => execPosting_idle h, fun s h => execSkip_idle h, fun s hfree hpost hdone => ?_,
    fun s hfree hpost hsome hwork => execSkip_waits hfree hpost hsome hwork,
    fun s hfree hlayers hstaged hfailing hldg hcache hbuilding h0 h1 ht0 ht1 => ⟨fun hpost => ?_, fun hpost hdone => ?_⟩⟩
  · obtain ⟨r, rs, x, y, hclose, hout, hn⟩ := s.posted.closeStep_frame 0 s.tlrStep 0
    refine ⟨_, r, rs, execPosting_posts hfree hpost, ?_, ?_, ?_, ?_, hout, hn, (State.closeStep_outer _ _ _ _).trans s.posted_outer⟩
    all_goals rw [hclose]
    · rfl
    · rfl
  · obtain ⟨r, rs, x, y, hclose, hout, hn⟩ := s.skipped.closeStep_frame s.skipOutcome s.tlrStep (s.admittedNext s.tlrStep)
    obtain ⟨hlast, hheld⟩ := s.step_skipped
    refine ⟨_, r, rs, execSkip_skips hfree hpost hdone, ?_, ?_, ?_, ?_, hout, hn, (State.closeStep_outer _ _ _ _).trans s.skipped_outer⟩
    all_goals rw [hclose]
    · exact hlast
    · exact hheld
  · obtain ⟨hstep, hls, hmem⟩ := Bare.posted ⟨hlayers, hstaged, hfailing, hldg, hcache, hbuilding⟩ h0 h1
    obtain ⟨r, rs, x, y, hclose, -⟩ := s.posted.closeStep_frame 0 s.tlrStep 0
    refine ⟨_, execPosting_posts hfree hpost, ?_⟩
    rw [hclose]
    refine ⟨hstep, ?_, hmem⟩
    change (s.posted.reg _).toNat = _
    rw [hls, BitVec.toNat_ofNat]
    rfl
  · obtain ⟨hstep, hmem⟩ := State.skipped_bare hlayers hbuilding ht0 ht1
    obtain ⟨r, rs, x, y, hclose, -⟩ := s.skipped.closeStep_frame s.skipOutcome s.tlrStep (s.admittedNext s.tlrStep)
    refine ⟨_, execSkip_skips hfree hpost hdone, ?_⟩
    rw [hclose]
    exact ⟨hstep, hmem⟩

end Sys2Proof.Machine
end

section
/-! SUPPORT. The MEM instructions: what a head that is taken leaves, and the line requests of a core (R108, R271, R331, R363). -/

namespace Sys2Proof.Machine

/-! ### A head that is taken -/

/-- A state after a head was taken: its core but for the stream, the Journal and Tally. -/
structure Taken (d p : Nat) (s u : State) : Prop where
  frame : u = { s with cores := u.cores, jnl := u.jnl, tally := u.tally }
  cores : sameBut u.cores s.cores [34 * d + p]
  core : ∃ st x, u.core d p = (s.core d p).setStream st x
  seen : ∃ st x, u.seen d p = (s.seen d p).setStream st x

theorem State.took_taken (s : State) (d p : Nat) (st : StreamId) (w : Nat) : Taken d p s (s.took d p st w) := by
  have hseen := s.seen_took d p st w
  obtain ⟨j, t, h⟩ := s.took_eq d p st w
  refine ⟨by rw [h]; rfl, ?_, ⟨st, ((s.core d p).stream st).issued w s.edge, ?_⟩, ⟨_, _, hseen⟩⟩
  · rw [h]
    exact s.cores_setCore d p _
  · rw [h]
    exact s.core_setCore_same d p _

theorem Taken.edge {d p : Nat} {s u : State} (h : Taken d p s u) : u.edge = s.edge := by rw [h.frame]
theorem Taken.mem {d p : Nat} {s u : State} (h : Taken d p s u) : u.mem = s.mem := by rw [h.frame]
theorem Taken.step {d p : Nat} {s u : State} (h : Taken d p s u) : u.step = s.step := by rw [h.frame]
theorem Taken.regs {d p : Nat} {s u : State} (h : Taken d p s u) : u.regs = s.regs := by rw [h.frame]

theorem Taken.memAddr {d p : Nat} {s u : State} (h : Taken d p s u) (x : MemI) : u.memAddr x = s.memAddr x := by
  rw [h.frame]
  rfl

/-- The store, the reads in progress and the request counts of the core stay. -/
theorem Taken.keeps {d p : Nat} {s u : State} (h : Taken d p s u) : (u.core d p).store = (s.core d p).store ∧
    (u.core d p).ops = (s.core d p).ops ∧ (u.core d p).nextId = (s.core d p).nextId ∧ (u.core d p).nextLeave = (s.core d p).nextLeave := by
  obtain ⟨st, x, hcore⟩ := h.core
  rw [hcore]
  cases st <;> exact ⟨rfl, rfl, rfl, rfl⟩

/-- What the store’s read port shows stays. -/
theorem Taken.shows {d p : Nat} {s u : State} (h : Taken d p s u) :
    (u.seen d p).store = (s.seen d p).store ∧ (∀ a n, (u.seen d p).readsUe a n = (s.seen d p).readsUe a n) := by
  obtain ⟨st, x, hseen⟩ := h.seen
  rw [hseen]
  cases st <;> exact ⟨rfl, fun _ _ => rfl⟩

/-! ### Line requests of a core (R271, R331) -/

/-- The edge at which the next request of a core leaves. -/
def State.leaveAt (s : State) (d p : Nat) : Nat := max s.edge (s.core d p).nextLeave

theorem Taken.leaveAt {d p : Nat} {s u : State} (h : Taken d p s u) : u.leaveAt d p = s.leaveAt d p := by
  rw [State.leaveAt, h.edge, h.keeps.2.2.2, State.leaveAt]

theorem leaveFrom_length (e : Nat) (qs : List LineReq) : (leaveFrom e qs).length = qs.length := by
  simp [leaveFrom]

/-- Requests that leave a core change its own count of them and the requests that wait. -/
theorem State.queueLines_eq (s : State) (d p : Nat) (qs : List LineReq) :
    s.queueLines d p qs = (s.modCore d p (fun c => { c with nextLeave := s.leaveAt d p + qs.length })).withReqs
      (s.mem.reqs ++ leaveFrom (s.leaveAt d p) qs) := rfl

/-- Memory with the requests of a core. -/
def State.requested (s : State) (d p : Nat) (qs : List LineReq) : Memories :=
  { s.mem with reqs := s.mem.reqs ++ leaveFrom (s.leaveAt d p) qs }

theorem Taken.requested {d p : Nat} {s u : State} (h : Taken d p s u) (qs : List LineReq) : u.requested d p qs = s.requested d p qs := by
  rw [State.requested, h.leaveAt, h.mem, State.requested]

/-- What requests that leave a core change. -/
structure Requests (d p : Nat) (s t : State) (qs : List LineReq) : Prop where
  frame : t = { s with cores := t.cores, mem := s.requested d p qs }
  cores : sameBut t.cores s.cores [34 * d + p]
  core : t.core d p = { s.core d p with nextLeave := s.leaveAt d p + qs.length }

theorem State.queueLines_requests (s : State) (d p : Nat) (qs : List LineReq) : Requests d p s (s.queueLines d p qs) qs where
  frame := rfl
  cores := by
    rw [State.queueLines_eq]
    exact s.cores_modCore d p (fun c => { c with nextLeave := s.leaveAt d p + qs.length })
  core := by
    rw [State.queueLines_eq]
    exact s.core_modCore_same d p (fun c => { c with nextLeave := s.leaveAt d p + qs.length })

/-- The requests of a read into the core store. -/
def readReqs (d : Fin 4) (p : Fin 34) (k : LineKind) (h : Hint) (a caddr n id : Nat) : List LineReq :=
  (List.range n).map (fun i => coreReq d p k h (a + 256 * i) 0 (.store d.val p.val (caddr + 256 * i) id))

theorem length_readReqs (d : Fin 4) (p : Fin 34) (k : LineKind) (h : Hint) (a caddr n id : Nat) :
    (readReqs d p k h a caddr n id).length = n := by
  simp [readReqs]

/-- The guard of a read into the core store. -/
def readGuard (st : StreamId) (caddr n id : Nat) (release : Option (Nat × EscPlace)) : MemOp :=
  { id := id, stream := st, lo := caddr, hi := caddr + 256 * n, remaining := n, last := 0, release := release, entry := false }

/-- A read of lines into the core store: its requests, its guard, and what stays. -/
theorem Taken.startRead {s u : State} {d : Fin 4} {p : Fin 34} (h : Taken d.val p.val s u) (st : StreamId) (k : LineKind) (hint : Hint)
    (a caddr n : Nat) (release : Option (Nat × EscPlace)) {t : State} (ht : t = u.startRead d p st k hint a caddr n release) :
    t = { s with mem := t.mem, cores := t.cores, jnl := t.jnl, tally := t.tally } ∧ sameBut t.cores s.cores [34 * d.val + p.val] ∧
    t.mem = s.requested d.val p.val (readReqs d p k hint a caddr n (s.core d.val p.val).nextId) ∧
    (t.core d.val p.val).ops = (s.core d.val p.val).ops ++ [readGuard st caddr n (s.core d.val p.val).nextId release] ∧
    (t.core d.val p.val).nextLeave = s.leaveAt d.val p.val + n ∧ (t.core d.val p.val).store = (s.core d.val p.val).store := by
  obtain ⟨hstore, hops, hid, hleave⟩ := h.keeps
  generalize hf : (fun c : Core => { c with ops := c.ops ++ [readGuard st caddr n (u.core d.val p.val).nextId release],
                                            nextId := (u.core d.val p.val).nextId + 1 }) = f
  generalize hv : u.modCore d.val p.val f = v
  have hcore : v.core d.val p.val = f (u.core d.val p.val) := by rw [← hv, State.core_modCore_same]
  have hq := State.queueLines_requests v d.val p.val (readReqs d p k hint a caddr n (u.core d.val p.val).nextId)
  have ht' : t = v.queueLines d.val p.val (readReqs d p k hint a caddr n (u.core d.val p.val).nextId) := by
    rw [ht, ← hv, ← hf]
    rfl
  rw [← ht'] at hq
  have hedge : v.leaveAt d.val p.val = s.leaveAt d.val p.val := by
    rw [← h.leaveAt, State.leaveAt, hcore, ← hf, ← hv]
    rfl
  have hmem : v.mem = s.mem := by rw [← hv]; exact h.mem
  rw [hid] at hq hf
  refine ⟨?_, ?_, ?_, ?_, ?_, ?_⟩
  · have hframe := hq.frame
    rw [← hv] at hframe
    rw [hframe, h.frame]
    rfl
  · refine sameBut_trans hq.cores (sameBut_trans ?_ h.cores)
    rw [← hv]
    exact u.cores_modCore _ _ _
  · rw [hq.frame]
    change v.requested _ _ _ = _
    rw [State.requested, hedge, hmem, State.requested]
  · rw [hq.core, hcore, ← hf]
    exact congrArg (· ++ _) hops
  · rw [hq.core, hedge, length_readReqs]
  · rw [hq.core, hcore, ← hf]
    exact hstore

/-- The requests of lines that are written from the core store: those whose words read as they were written. -/
def writeReqs (d : Fin 4) (p : Fin 34) (c : Core) (k : LineKind) (h : Hint) (a caddr n : Nat) : List LineReq :=
  ((List.range n).filter (fun i => !c.readsUe (caddr + 256 * i) 256)).map (fun i =>
    coreReq d p k h (a + 256 * i) (c.store.line (caddr + 256 * i)) .none)

theorem writeReqs_congr {d : Fin 4} {p : Fin 34} {c c' : Core} (hstore : c'.store = c.store) (hue : ∀ a n, c'.readsUe a n = c.readsUe a n)
    (k : LineKind) (h : Hint) (a caddr n : Nat) : writeReqs d p c' k h a caddr n = writeReqs d p c k h a caddr n := by
  unfold writeReqs
  rw [hstore]
  simp only [hue]

/-- A step fault of a store read reaches nothing of the step but the fault itself. -/
theorem State.storeRead_step (s : State) (d p a n : Nat) : (s.storeRead d p a n).step =
    { s.step with faulted := (s.storeRead d p a n).step.faulted, faultNext := (s.storeRead d p a n).step.faultNext,
                  faultRef := (s.storeRead d p a n).step.faultRef } := by
  have hc := foldl_storeCorrected_corrects d p ((s.seen d p).marked a n false) s
  unfold storeRead
  dsimp only
  split
  · have hstep : ((List.foldl (fun t w => t.storeCorrected d p w) s ((s.seen d p).marked a n false)).halt d p |>.orReg (coreBase d p + 0xC)
        (bitMask [cfUe].dedup)).step = s.step := by
      change (List.foldl (fun t w => t.storeCorrected d p w) s ((s.seen d p).marked a n false)).step = _
      rw [hc.frame]
    have hr := (State.coreFault_reported (List.foldl (fun t w => t.storeCorrected d p w) s ((s.seen d p).marked a n false)) d p [cfUe]).step
    rw [hstep] at hr
    exact hr
  · rw [hc.frame]

/-- What a write of lines from the core store requests, and what it leaves. -/
structure WriteStarted (d : Fin 4) (p : Fin 34) (u t : State) (qs : List LineReq) : Prop where
  frame : t = { u with regs := t.regs, recent := t.recent, cores := t.cores, step := t.step, link := t.link, jnl := t.jnl,
                       fatal := t.fatal, rec_ := t.rec_, mem := t.mem }
  step : t.step = { u.step with faulted := t.step.faulted, faultNext := t.step.faultNext, faultRef := t.step.faultRef }
  mem : t.mem = u.requested d.val p.val qs
  cores : sameBut t.cores u.cores [34 * d.val + p.val]
  ops : (t.core d.val p.val).ops = (u.core d.val p.val).ops
  store : (t.core d.val p.val).store = (u.core d.val p.val).store

theorem State.startWrite_started (u : State) (d : Fin 4) (p : Fin 34) (k : LineKind) (h : Hint) (a caddr n : Nat) :
    WriteStarted d p u (u.startWrite d p k h a caddr n) (writeReqs d p (u.seen d.val p.val) k h a caddr n) := by
  have hread := u.storeRead_storeReads d.val p.val caddr (256 * n)
  have hstep := u.storeRead_step d.val p.val caddr (256 * n)
  obtain ⟨m, k', hcore⟩ := hread.core
  generalize hv : u.storeRead d.val p.val caddr (256 * n) = v at hread hcore hstep
  have hq := State.queueLines_requests v d.val p.val (writeReqs d p (u.seen d.val p.val) k h a caddr n)
  generalize ht : v.queueLines d.val p.val (writeReqs d p (u.seen d.val p.val) k h a caddr n) = t at hq
  have hstart : u.startWrite d p k h a caddr n = t := by
    rw [← ht, ← hv]
    rfl
  have hleave : v.leaveAt d.val p.val = u.leaveAt d.val p.val := by
    rw [State.leaveAt, hcore, show v.edge = u.edge by rw [hread.frame]]
    rfl
  have hmem : v.mem = u.mem := by rw [hread.frame]
  have htstep : t.step = v.step := by rw [hq.frame]
  rw [hstart]
  refine ⟨?_, ?_, ?_, sameBut_trans hq.cores hread.cores, ?_, ?_⟩
  · rw [hq.frame, hread.frame]
  · rw [htstep]
    exact hstep
  · rw [hq.frame]
    change v.requested _ _ _ = _
    rw [State.requested, hleave, hmem, State.requested]
  · rw [hq.core, hcore]
  · rw [hq.core, hcore]

/-- An uncorrectable word that is to be written sets STORE_UE. -/
theorem State.startWrite_ue {u : State} (d : Fin 4) (p : Fin 34) (k : LineKind) (h : Hint) (a : Nat) {caddr n : Nat}
    (hue : (u.seen d.val p.val).readsUe caddr (256 * n) = true) :
    bit ((u.startWrite d p k h a caddr n).reg (coreBase d.val p.val + 0xC)).toNat cfUe = true := by
  have hbit := u.foldl_storeRead_ue d p (l := [(caddr, 256 * n)]) (.inr ⟨_, List.mem_singleton.2 rfl, hue⟩)
  exact hbit

/-- Words that are correctable are corrected, and nothing else changes but the requests. -/
theorem State.startWrite_sound {u : State} (d : Fin 4) (p : Fin 34) (k : LineKind) (h : Hint) (a : Nat) {caddr n : Nat} {t : State}
    (hue : (u.seen d.val p.val).readsUe caddr (256 * n) = false) (ht : t = u.startWrite d p k h a caddr n) :
    sameBut t.regs u.regs [coreBase d.val p.val + 0x3C] ∧
    t = { u with regs := t.regs, recent := t.recent, mem := t.mem, cores := t.cores, jnl := t.jnl } := by
  have hc := State.storeRead_corrects hue
  have hq := State.queueLines_requests (u.storeRead d.val p.val caddr (256 * n)) d.val p.val
    (writeReqs d p (u.seen d.val p.val) k h a caddr n)
  have ht' : t = (u.storeRead d.val p.val caddr (256 * n)).queueLines d.val p.val (writeReqs d p (u.seen d.val p.val) k h a caddr n) := by
    rw [ht]
    rfl
  rw [← ht'] at hq
  refine ⟨?_, ?_⟩
  · rw [show t.regs = (u.storeRead d.val p.val caddr (256 * n)).regs by rw [hq.frame]]
    exact hc.regs
  · rw [hq.frame, hc.frame]

/-! ### MEM (R363) -/

/-- A MEM instruction reads into the core store. -/
theorem execMemRead_reads {d : Fin 4} {p : Fin 34} {st : StreamId} {s : State} {w : Nat} {x : Nat × LineKind × Instr}
    (hx : x ∈ [(0, LineKind.read, Instr.memRead d p st), (3, .readClear, .memReadClear d p st)]) (h : s.mayIssue d.val p.val st 11 x.1 w) :
    exec x.2.2 s = .next ((s.took d.val p.val st w).startRead d p st x.2.1 (if x.2.1 = .read then (decMem w).hintOf else .stream)
      (s.memAddr (decMem w)) (decMem w).caddr (decMem w).lines none) := by
  rw [← (s.took_taken d.val p.val st w).memAddr]
  rcases List.mem_pair.1 hx with rfl | rfl
  · exact congrArg Host.Outcome.next (State.issue_mayIssue h _)
  · exact congrArg Host.Outcome.next (State.issue_mayIssue h _)

/-- A MEM instruction writes, or adds, from the core store. -/
theorem execMemWrite_writes {d : Fin 4} {p : Fin 34} {st : StreamId} {s : State} {w : Nat} {x : Nat × LineKind × Instr}
    (hx : x ∈ [(1, LineKind.write, Instr.memWrite d p st), (2, .add, .memAdd d p st)]) (h : s.mayIssue d.val p.val st 11 x.1 w) :
    exec x.2.2 s = .next ((s.took d.val p.val st w).startWrite d p x.2.1 (decMem w).hintOf (s.memAddr (decMem w)) (decMem w).caddr
      (decMem w).lines) := by
  rw [← (s.took_taken d.val p.val st w).memAddr]
  rcases List.mem_pair.1 hx with rfl | rfl
  · exact congrArg Host.Outcome.next (State.issue_mayIssue h _)
  · exact congrArg Host.Outcome.next (State.issue_mayIssue h _)

/-- The requests of a RELEASE. -/
def releaseReqs (d : Fin 4) (p : Fin 34) (a n : Nat) : List LineReq :=
  (List.range n).map (fun i => coreReq d p .release .stream (a + 256 * i) 0 .none)

theorem execMemRelease_releases {d : Fin 4} {p : Fin 34} {st : StreamId} {s : State} {w : Nat} (h : s.mayIssue d.val p.val st 11 4 w) :
    exec (.memRelease d p st) s = .next ((s.took d.val p.val st w).queueLines d.val p.val
      (releaseReqs d p (s.memAddr (decMem w)) (decMem w).lines)) := by
  rw [← (s.took_taken d.val p.val st w).memAddr]
  exact congrArg Host.Outcome.next (State.issue_mayIssue h _)

/-- Settles O25: the head is taken, and the requests leave the core. -/
theorem memInstructionsRequest : Obligations.MemInstructionsRequest := by
  intro d p st s w e he
  have htaken := s.took_taken d.val p.val st w
  obtain ⟨hstore, hops, -, -⟩ := htaken.keeps
  subst he
  refine ⟨fun x hx h => ⟨_, execMemRead_reads hx h, htaken.startRead _ _ _ _ _ _ _ rfl⟩, fun x hx h => ?_, fun h => ?_⟩
  · refine ⟨_, execMemWrite_writes hx h, ?_⟩
    have hw := State.startWrite_started (s.took d.val p.val st w) d p x.2.1 (decMem w).hintOf (s.memAddr (decMem w)) (decMem w).caddr
      (decMem w).lines
    obtain ⟨hshow, hue⟩ := htaken.shows
    rw [writeReqs_congr hshow hue] at hw
    refine ⟨?_, hw.ops.trans hops, hw.store.trans hstore, sameBut_trans hw.cores htaken.cores, ?_, ?_, ?_, ?_, fun hbad => ?_, fun hgood => ?_⟩
    · rw [hw.mem, htaken.requested]
      rfl
    · rw [hw.frame, htaken.frame]
    · rw [hw.frame, htaken.frame]
    · rw [hw.frame, htaken.frame]
    · rw [show (State.startWrite _ d p _ _ _ _ _).outer = (s.took d.val p.val st w).outer by rw [hw.frame]; rfl]
      exact s.took_outer d.val p.val st w
    · exact State.startWrite_ue d p _ _ _ ((hue _ _).trans hbad)
    · obtain ⟨hregs, hframe⟩ := State.startWrite_sound (u := s.took d.val p.val st w) d p x.2.1 (decMem w).hintOf (s.memAddr (decMem w))
        ((hue _ _).trans hgood) rfl
      rw [htaken.regs] at hregs
      refine ⟨hregs, ?_⟩
      rw [hframe, htaken.frame]
  · have hq := State.queueLines_requests (s.took d.val p.val st w) d.val p.val (releaseReqs d p (s.memAddr (decMem w)) (decMem w).lines)
    refine ⟨_, execMemRelease_releases h, ?_, sameBut_trans hq.cores htaken.cores, ?_, ?_, ?_⟩
    · rw [hq.frame, htaken.frame]
    · rw [hq.frame]
      exact htaken.requested _
    · rw [hq.core]
      exact hops
    · rw [hq.core]
      exact hstore

end Sys2Proof.Machine
end

section
/-! SUPPORT. Escrow: where a tile is saved, and what its saves and reads request (R193 to R197). -/

namespace Sys2Proof.Machine

/-! ### Places (R193, R196) -/

theorem Step.job_freeTile (x : Step) (key : Nat) : (x.freeTile key).job = x.job := by
  unfold Step.freeTile
  split
  · next pl _ => cases pl <;> rfl
  · rfl

theorem Step.escrow_freeTile (x : Step) (key : Nat) : Tab.find? (x.freeTile key).escrow key = none := by
  unfold Step.freeTile
  split
  · exact Tab.find?_del_same _ _
  · assumption

theorem Step.escrow_takePlace (x : Step) (key : Nat) (pl : EscPlace) : Tab.find? (x.takePlace key pl).escrow key = some pl := by
  have hput : Tab.find? (Tab.put x.escrow key pl) key = some pl := Tab.find?_put_same _ _ _
  cases pl <;> exact hput

theorem spillPlace_none {j : Job} {l : List Nat} {n : Nat} (h : j.spill = true → ∀ t, ¬ LowestFree l n t) :
    (if j.spill then firstFree l n else none) = none := by
  split
  · next hspill => exact firstFree_none (mem_of_no_lowestFree (h hspill))
  · rfl

/-- The place of a save is the one that R193 and R196 name. -/
theorem Step.savePlace_of_spot {y : Step} {x : MemI} {pl : EscPlace} (h : EscSpot y x pl) : y.savePlace x.recomp x.lines = some pl := by
  unfold Step.savePlace
  dsimp only
  cases pl with
  | hbm g n =>
    obtain ⟨rfl, hg⟩ := h
    rw [firstFree_of_lowestFree hg]
  | tier t n =>
    obtain ⟨rfl, hnone, hspill, ht⟩ := h
    rw [firstFree_none (mem_of_no_lowestFree hnone)]
    dsimp only
    rw [if_pos hspill, firstFree_of_lowestFree ht]
  | dropped =>
    obtain ⟨hnone, htier, hrecomp⟩ := h
    rw [firstFree_none (mem_of_no_lowestFree hnone)]
    dsimp only
    rw [spillPlace_none htier, hrecomp]
    rfl

/-- With no such place the tile is not saved. -/
theorem Step.savePlace_none {y : Step} {x : MemI} (h : ∀ pl, ¬ EscSpot y x pl) : y.savePlace x.recomp x.lines = none := by
  have hgran : ∀ g, ¬ LowestFree y.granules (y.job.getD {}).escGranules g := fun g hg => h (.hbm g x.lines) ⟨rfl, hg⟩
  have htier : (y.job.getD {}).spill = true → ∀ t, ¬ LowestFree y.tierPlaces (16384 * (y.job.getD {}).xtEsc) t :=
    fun hspill t ht => h (.tier t x.lines) ⟨rfl, hgran, hspill, ht⟩
  have hdrop : x.recomp = false := by
    by_contra hr
    exact h .dropped ⟨hgran, htier, by simpa using hr⟩
  unfold Step.savePlace
  dsimp only
  rw [firstFree_none (mem_of_no_lowestFree hgran)]
  dsimp only
  rw [spillPlace_none htier, hdrop]
  rfl

/-! ### Reads of a tile that a save replaces (R194) -/

/-- A core whose reads of a tile no longer free it. -/
def Core.keepTile (c : Core) (key : Nat) : Core :=
  { c with ops := c.ops.map (fun o => if o.release.any (fun r => r.1 == key) then { o with release := none } else o) }

theorem Core.was_keepTile (c : Core) (key e : Nat) : (c.keepTile key).was e = (c.was e).keepTile key := by
  obtain hb | ⟨⟨e', m, k⟩, hb⟩ := Option.eq_none_or_eq_some c.before
  · simp [was, keepTile, hb]
  · by_cases he : e' = e <;> simp [was, keepTile, hb, he]

theorem Tab.find?_map {α β : Type} (f : α → β) (t : Tab α) (i : Nat) :
    Tab.find? (t.map (fun x => (x.1, f x.2))) i = (Tab.find? t i).map f := by
  induction t with
  | nil => rfl
  | cons x t ih =>
    obtain ⟨k, v⟩ := x
    simp only [List.map_cons, Tab.find?]
    split
    · rfl
    · exact ih

theorem State.core_keepTile (s : State) (key d p : Nat) : (s.keepTile key).core d p = (s.core d p).keepTile key := by
  have h := Tab.find?_map (fun c : Core => c.keepTile key) s.cores (34 * d + p)
  change (Tab.find? (s.cores.map (fun x => (x.1, x.2.keepTile key))) (34 * d + p)).getD {} = _
  rw [h, State.core, Tab.read]
  cases Tab.find? s.cores (34 * d + p) <;> rfl

/-! ### ESAVE (R193 to R197) -/

/-- The tiles whose reads no longer free them, and the step that a save leaves. -/
def State.saving (s : State) (key : Nat) (y : Step) : State := { s.keepTile key with step := y }

/-- What a tile that is saved leaves of a core but the reads of the tile. -/
structure Saving (d p : Nat) (s v : State) (y : Step) : Prop where
  step : v.step = y
  mem : v.mem = s.mem
  rings : v.rings = s.rings
  dies : v.dies = s.dies
  dep : v.dep = s.dep
  outer : v.outer = s.outer
  store : ∀ n q, (v.core n q).store = (s.core n q).store
  shows : (v.seen d p).store = (s.seen d p).store ∧ ∀ a n, (v.seen d p).readsUe a n = (s.seen d p).readsUe a n
  leaves : v.leaveAt d p = s.leaveAt d p

theorem Taken.store_core {d p : Nat} {s u : State} (h : Taken d p s u) (n q : Nat) : (u.core n q).store = (s.core n q).store := by
  by_cases hk : 34 * n + q = 34 * d + p
  · have hsame : ∀ v : State, v.core n q = v.core d p := fun v => by rw [State.core, State.core, hk]
    rw [hsame, hsame, h.keeps.1]
  · rw [State.core, read_of_sameBut h.cores {} (by simpa using hk)]
    rfl

theorem Taken.saving {d p : Nat} {s u : State} (h : Taken d p s u) (key : Nat) (y : Step) : Saving d p s (u.saving key y) y := by
  have hcore : ∀ n q, (u.saving key y).core n q = (u.core n q).keepTile key := fun n q => u.core_keepTile key n q
  have hseen : (u.saving key y).seen d p = (u.seen d p).keepTile key := by
    rw [State.seen, hcore, Core.was_keepTile]
    rfl
  refine ⟨rfl, h.mem, ?_, ?_, ?_, ?_, fun n q => ?_, ?_, ?_⟩
  · change u.rings = _
    rw [h.frame]
  · change u.dies = _
    rw [h.frame]
  · change u.dep = _
    rw [h.frame]
  · change u.outer = _
    rw [h.frame]
    rfl
  · rw [hcore]
    exact h.store_core n q
  · rw [hseen]
    exact h.shows
  · rw [State.leaveAt, hcore]
    exact h.leaveAt

/-- What a save does with the place that it found. -/
def State.savedAt (s : State) (d : Fin 4) (p : Fin 34) (x : MemI) (j : Job) : EscPlace → State
  | .hbm g _ => s.startWrite d p .write x.hintOf (j.granuleAddr g) x.caddr x.lines
  | .tier t _ => (s.count (blkMd 0) 0x20 0x1FF 1).startWrite d p .write x.hintOf (j.placeAddr t) x.caddr x.lines
  | .dropped => s.count (blkMd 0) 0x21 0x1FF 1

/-- What a save does. -/
def State.esaved (s : State) (d : Fin 4) (p : Fin 34) (x : MemI) (key : Nat) (y : Step) : State :=
  match y.savePlace x.recomp x.lines with
  | none => (s.saving key y).escFault x.stamp x.etile
  | some pl => (s.saving key (y.takePlace key pl)).savedAt d p x (y.job.getD {}) pl

theorem execEsave_issues {d : Fin 4} {p : Fin 34} {st : StreamId} {s : State} {w : Nat} (h : s.mayIssue d.val p.val st 11 8 w)
    {x : MemI} {key : Nat} {y : Step} (hx : x = decMem w) (hkey : key = escKey x.stamp x.etile) (hy : y = s.step.freeTile key) :
    exec (.esave d p st) s = .next (if s.step.faulted then s.took d.val p.val st w else
      (s.took d.val p.val st w).esaved d p x key y) := by
  have hstep := (s.took_taken d.val p.val st w).step
  refine (congrArg Host.Outcome.next (State.issue_mayIssue h _)).trans (congrArg Host.Outcome.next ?_)
  subst hx hkey hy
  rw [← hstep]
  generalize s.took d.val p.val st w = u
  unfold State.esaved
  dsimp only
  rw [show (u.keepTile (escKey (decMem w).stamp (decMem w).etile)).step = u.step from rfl]
  split
  · rfl
  · generalize Step.savePlace _ _ _ = sp
    cases sp with
    | none => rfl
    | some pl => cases pl <;> rfl

/-- Lines of a tile that is saved are requested, and the step keeps its place. -/
theorem Saving.startWrite {d : Fin 4} {p : Fin 34} {s v : State} {y : Step} (h : Saving d.val p.val s v y) (hint : Hint) (a caddr n : Nat) :
    ∃ t, v.startWrite d p .write hint a caddr n = t ∧ t.rings = s.rings ∧ t.dies = s.dies ∧ t.dep = s.dep ∧ t.outer = s.outer ∧
      (∀ n q, (t.core n q).store = (s.core n q).store) ∧ t.step.escrow = y.escrow ∧ t.step.granules = y.granules ∧
      t.step.tierPlaces = y.tierPlaces ∧
      t.mem = s.requested d.val p.val (writeReqs d p (s.seen d.val p.val) .write hint a caddr n) := by
  obtain ⟨hshow, hue⟩ := h.shows
  have hw := v.startWrite_started d p .write hint a caddr n
  rw [writeReqs_congr hshow hue] at hw
  refine ⟨_, rfl, ?_, ?_, ?_, ?_, fun m q => ?_, ?_, ?_, ?_, ?_⟩
  · rw [hw.frame]
    exact h.rings
  · rw [hw.frame]
    exact h.dies
  · rw [hw.frame]
    exact h.dep
  · rw [hw.frame]
    exact h.outer
  · by_cases hk : 34 * m + q = 34 * d.val + p.val
    · have hsame : ∀ v : State, v.core m q = v.core d.val p.val := fun v => by rw [State.core, State.core, hk]
      rw [hsame, hsame s, hw.store, h.store]
    · rw [State.core, read_of_sameBut hw.cores {} (by simpa using hk)]
      exact h.store m q
  · rw [hw.step, h.step]
  · rw [hw.step, h.step]
  · rw [hw.step, h.step]
  · rw [hw.mem, State.requested, h.leaves, h.mem, State.requested]

/-- A count of Tally leaves what a save leaves. -/
theorem Saving.count {d p : Nat} {s v : State} {y : Step} (h : Saving d p s v y) (b ev unit n : Nat) : Saving d p s (v.count b ev unit n) y := by
  obtain ⟨x, hx⟩ := v.count_eq b ev unit n
  rw [hx]
  exact ⟨h.step, h.mem, h.rings, h.dies, h.dep, h.outer, h.store, h.shows, h.leaves⟩

/-- The Escrow fault reaches nothing but registers, the Journal and the fault of the step. -/
theorem State.escFault_frame (s : State) (stamp etile : Nat) : (s.escFault stamp etile).rings = s.rings ∧
    (s.escFault stamp etile).dies = s.dies ∧ (s.escFault stamp etile).dep = s.dep ∧ (s.escFault stamp etile).cores = s.cores ∧
    (s.escFault stamp etile).mem = s.mem ∧ (s.escFault stamp etile).step.escrow = s.step.escrow ∧
    (s.escFault stamp etile).outer = s.outer := by
  have h := Reported.report s (Err.of .step 0x620 (domMd 0 9) stamp 0 etile)
  have houter : (s.escFault stamp etile).outer = s.outer := by simp [escFault]
  change Reported s (s.escFault stamp etile) at h
  refine ⟨?_, ?_, ?_, ?_, ?_, by rw [h.step], houter⟩
  all_goals rw [h.frame]

/-- A save of a tile to the place that it finds. -/
theorem Taken.saves {d : Fin 4} {p : Fin 34} {s u : State} (h : Taken d.val p.val s u) {x : MemI} {key : Nat} {y : Step} {pl : EscPlace}
    (hspot : EscSpot y x pl) {base : Nat} (hbase : EscPlaceAt (y.job.getD {}) pl = some base) :
    ∃ t, u.esaved d p x key y = t ∧ t.rings = s.rings ∧ t.dies = s.dies ∧ t.dep = s.dep ∧ t.outer = s.outer ∧
      (∀ n q, (t.core n q).store = (s.core n q).store) ∧ t.step.escrow = (y.takePlace key pl).escrow ∧
      t.step.granules = (y.takePlace key pl).granules ∧ t.step.tierPlaces = (y.takePlace key pl).tierPlaces ∧
      t.mem = s.requested d.val p.val (writeReqs d p (s.seen d.val p.val) .write x.hintOf base x.caddr x.lines) := by
  have hsaving := h.saving key (y.takePlace key pl)
  unfold State.esaved
  rw [Step.savePlace_of_spot hspot]
  cases pl with
  | hbm g n =>
    obtain rfl := Option.some.inj hbase
    exact hsaving.startWrite _ _ _ _
  | tier t n =>
    obtain rfl := Option.some.inj hbase
    exact (hsaving.count _ _ _ _).startWrite _ _ _ _
  | dropped => exact nomatch hbase

/-- A dropped tile, and one that is not saved, request nothing. -/
theorem Taken.drops {d : Fin 4} {p : Fin 34} {s u : State} (h : Taken d.val p.val s u) {x : MemI} {key : Nat} {y : Step}
    (hy : Tab.find? y.escrow key = none) (hspot : EscSpot y x .dropped ∨ ∀ pl, ¬ EscSpot y x pl) :
    ∃ t, u.esaved d p x key y = t ∧ t.rings = s.rings ∧ t.dies = s.dies ∧ t.dep = s.dep ∧ t.outer = s.outer ∧
      (∀ n q, (t.core n q).store = (s.core n q).store) ∧ t.mem = s.mem ∧
      (EscSpot y x .dropped → Tab.find? t.step.escrow key = some .dropped) ∧
      ((∀ pl, ¬ EscSpot y x pl) → Tab.find? t.step.escrow key = none) := by
  unfold State.esaved
  rcases hspot with hdrop | hnone
  · rw [Step.savePlace_of_spot hdrop]
    have hs := (h.saving key (y.takePlace key .dropped)).count (blkMd 0) 0x21 0x1FF 1
    refine ⟨_, rfl, hs.rings, hs.dies, hs.dep, hs.outer, hs.store, hs.mem, fun _ => ?_, fun hnone => absurd hdrop (hnone _)⟩
    change Tab.find? (State.count _ _ _ _ _).step.escrow key = _
    rw [hs.step]
    exact y.escrow_takePlace key .dropped
  · rw [Step.savePlace_none hnone]
    have hs := h.saving key y
    obtain ⟨hrings, hdies, hdep, hcores, hmem, hesc, houter⟩ := (u.saving key y).escFault_frame x.stamp x.etile
    refine ⟨_, rfl, hrings.trans hs.rings, hdies.trans hs.dies, hdep.trans hs.dep, houter.trans hs.outer, fun n q => ?_, hmem.trans hs.mem,
      fun hdrop => absurd hdrop (hnone _), fun _ => ?_⟩
    · rw [State.core, hcores]
      exact hs.store n q
    · change Tab.find? (State.escFault _ _ _).step.escrow key = _
      rw [hesc, hs.step, hy]

/-- Every place, or none, is one of R193 and R196. -/
theorem escSpot_cases (y : Step) (x : MemI) : (∃ pl base, EscSpot y x pl ∧ EscPlaceAt (y.job.getD {}) pl = some base) ∨
    (EscSpot y x .dropped ∨ ∀ pl, ¬ EscSpot y x pl) := by
  by_cases hany : ∃ pl, EscSpot y x pl
  · obtain ⟨pl, hpl⟩ := hany
    cases pl with
    | hbm g n => exact .inl ⟨_, _, hpl, rfl⟩
    | tier t n => exact .inl ⟨_, _, hpl, rfl⟩
    | dropped => exact .inr (.inl hpl)
  · exact .inr (.inr fun pl hpl => hany ⟨pl, hpl⟩)

/-- What every save leaves. -/
theorem Taken.esaved_leaves {d : Fin 4} {p : Fin 34} {s u : State} (h : Taken d.val p.val s u) (x : MemI) {key : Nat} {y : Step}
    (hy : Tab.find? y.escrow key = none) : (u.esaved d p x key y).rings = s.rings ∧ (u.esaved d p x key y).dies = s.dies ∧
      (u.esaved d p x key y).dep = s.dep ∧ (u.esaved d p x key y).outer = s.outer ∧
      ∀ n q, ((u.esaved d p x key y).core n q).store = (s.core n q).store := by
  rcases escSpot_cases y x with ⟨pl, base, hpl, hbase⟩ | hspot
  · obtain ⟨t, ht, hrings, hdies, hdep, houter, hstore, -⟩ := h.saves (key := key) hpl hbase
    rw [ht]
    exact ⟨hrings, hdies, hdep, houter, hstore⟩
  · obtain ⟨t, ht, hrings, hdies, hdep, houter, hstore, -⟩ := h.drops hy hspot
    rw [ht]
    exact ⟨hrings, hdies, hdep, houter, hstore⟩

/-! ### EREAD (R194, R363) -/

/-- What a read of a tile does, by where the tile is. -/
def State.ereads (s : State) (d : Fin 4) (p : Fin 34) (st : StreamId) (x : MemI) (key : Nat) (j : Job) : Option EscPlace → State
  | none => s.escFault x.stamp x.etile
  | some .dropped => s
  | some (.hbm g n) =>
    s.startRead d p st .read x.hintOf (j.granuleAddr g) x.caddr x.lines (if x.erelease then some (key, .hbm g n) else none)
  | some (.tier t n) =>
    s.startRead d p st .read x.hintOf (j.placeAddr t) x.caddr x.lines (if x.erelease then some (key, .tier t n) else none)

theorem execEread_issues {d : Fin 4} {p : Fin 34} {st : StreamId} {s : State} {w : Nat} (h : s.mayIssue d.val p.val st 11 9 w)
    {x : MemI} {key : Nat} {j : Job} (hx : x = decMem w) (hkey : key = escKey x.stamp x.etile) (hj : j = s.step.job.getD {}) :
    exec (.eread d p st) s = .next ((s.took d.val p.val st w).ereads d p st x key j (Tab.find? s.step.escrow key)) := by
  have hstep := (s.took_taken d.val p.val st w).step
  refine (congrArg Host.Outcome.next (State.issue_mayIssue h _)).trans (congrArg Host.Outcome.next ?_)
  subst hx hkey hj
  rw [← hstep]
  generalize s.took d.val p.val st w = u
  dsimp only
  generalize Tab.find? u.step.escrow _ = spot
  cases spot with
  | none => rfl
  | some pl => cases pl <;> rfl

/-- A saved tile is read from its place. -/
theorem State.ereads_saved (s : State) (d : Fin 4) (p : Fin 34) (st : StreamId) (x : MemI) (key : Nat) {j : Job} {pl : EscPlace} {base : Nat}
    (hbase : EscPlaceAt j pl = some base) : s.ereads d p st x key j (some pl) =
      s.startRead d p st .read x.hintOf base x.caddr x.lines (if x.erelease then some (key, pl) else none) := by
  cases pl with
  | hbm g n =>
    obtain rfl := Option.some.inj hbase
    rfl
  | tier t n =>
    obtain rfl := Option.some.inj hbase
    rfl
  | dropped => exact nomatch hbase

/-- What every read of a tile leaves. -/
theorem Taken.ereads_leaves {d : Fin 4} {p : Fin 34} {s u : State} (h : Taken d.val p.val s u) (st : StreamId) (x : MemI) (key : Nat) (j : Job)
    (spot : Option EscPlace) {t : State} (ht : t = u.ereads d p st x key j spot) : t.rings = s.rings ∧ t.dies = s.dies ∧
      t.dep = s.dep ∧ t.outer = s.outer ∧ (t.core d.val p.val).store = (s.core d.val p.val).store ∧
      sameBut t.cores s.cores [34 * d.val + p.val] ∧ t.step.escrow = s.step.escrow := by
  have hread : ∀ (a : Nat) (r : Option (Nat × EscPlace)), t = u.startRead d p st .read x.hintOf a x.caddr x.lines r →
      t.rings = s.rings ∧ t.dies = s.dies ∧ t.dep = s.dep ∧ t.outer = s.outer ∧ (t.core d.val p.val).store = (s.core d.val p.val).store ∧
      sameBut t.cores s.cores [34 * d.val + p.val] ∧ t.step.escrow = s.step.escrow := fun a r hr => by
    obtain ⟨hframe, hcores, -, -, -, hstore⟩ := h.startRead st .read x.hintOf a x.caddr x.lines r hr
    refine ⟨by rw [hframe], by rw [hframe], by rw [hframe], ?_, hstore, hcores, by rw [hframe]⟩
    rw [hframe]
    rfl
  cases spot with
  | none =>
    obtain ⟨hrings, hdies, hdep, hcores, -, hesc, houter⟩ := u.escFault_frame x.stamp x.etile
    change t = u.escFault _ _ at ht
    rw [ht]
    refine ⟨hrings.trans ?_, hdies.trans ?_, hdep.trans ?_, houter.trans ?_, ?_, ?_, ?_⟩
    · rw [h.frame]
    · rw [h.frame]
    · rw [h.frame]
    · rw [h.frame]
      rfl
    · rw [State.core, hcores]
      exact h.keeps.1
    · rw [hcores]
      exact h.cores
    · rw [hesc, h.step]
  | some pl =>
    cases pl with
    | hbm g n => exact hread _ _ ht
    | tier g n => exact hread _ _ ht
    | dropped =>
      change t = u at ht
      rw [ht]
      refine ⟨?_, ?_, ?_, ?_, h.keeps.1, h.cores, by rw [h.step]⟩
      · rw [h.frame]
      · rw [h.frame]
      · rw [h.frame]
      · rw [h.frame]
        rfl

/-- Settles O26: a save by the place that it finds, a read by the place of its tile. -/
theorem escrowSavesReads : Obligations.EscrowSavesReads := by
  intro d p st s w e key x j y he hx hkey hj hy
  have hjob : y.job.getD {} = j := by rw [hy, Step.job_freeTile, hj]
  have hgone : Tab.find? y.escrow key = none := by rw [hy, Step.escrow_freeTile]
  have htaken := s.took_taken d.val p.val st w
  refine ⟨fun h => ?_, fun h => ?_⟩
  · have hexec := execEsave_issues h hx hkey hy
    by_cases hf : s.step.faulted = true
    · rw [if_pos hf] at hexec
      refine ⟨_, hexec, by rw [htaken.frame], by rw [htaken.frame], by rw [htaken.frame], s.took_outer _ _ _ _, htaken.store_core,
        fun _ => ⟨htaken.step, htaken.mem⟩, fun hf' => ?_⟩
      rw [hf] at hf'
      exact nomatch hf'
    · rw [if_neg hf] at hexec
      obtain ⟨hrings, hdies, hdep, houter, hstore⟩ := htaken.esaved_leaves x hgone
      refine ⟨_, hexec, hrings, hdies, hdep, houter, hstore, fun hf' => absurd hf' hf, fun _ => ⟨fun pl base hpl hbase => ?_,
        fun hpl => ?_, fun hnone => ?_⟩⟩
      · obtain ⟨t, ht, -, -, -, -, -, hesc, hgran, htier, hmem⟩ := htaken.saves (key := key) hpl (hjob ▸ hbase)
        rw [ht, hesc, he]
        exact ⟨y.escrow_takePlace key pl, hgran, htier, hmem⟩
      · obtain ⟨t, ht, -, -, -, -, -, hmem, hdrop, -⟩ := htaken.drops hgone (.inl hpl)
        rw [ht]
        exact ⟨hdrop hpl, hmem⟩
      · obtain ⟨t, ht, -, -, -, -, -, hmem, -, hgone'⟩ := htaken.drops hgone (.inr hnone)
        rw [ht]
        exact ⟨hgone' hnone, hmem⟩
  · have hexec := execEread_issues h hx hkey hj
    obtain ⟨hrings, hdies, hdep, houter, hstore, hcores, hesc⟩ := htaken.ereads_leaves st x key j (Tab.find? s.step.escrow key) rfl
    refine ⟨_, hexec, hrings, hdies, hdep, houter, hstore, hcores, hesc, fun hnone => ?_, fun hdrop => ?_, fun pl base hpl hbase => ?_⟩
    · obtain ⟨-, -, -, hc, hmem, -, -⟩ := (s.took d.val p.val st w).escFault_frame x.stamp x.etile
      rw [hnone]
      refine ⟨hmem.trans htaken.mem, ?_⟩
      change (State.core (State.escFault _ _ _) _ _).ops = _
      rw [State.core, hc]
      exact htaken.keeps.2.1
    · rw [hdrop]
      exact ⟨htaken.frame, htaken.keeps.2.1⟩
    · rw [hpl, State.ereads_saved _ _ _ _ _ _ hbase, he]
      obtain ⟨hframe, -, hmem, hops, -⟩ := htaken.startRead st .read x.hintOf base x.caddr x.lines
        (if x.erelease then some (key, pl) else none) rfl
      exact ⟨hframe, hmem, hops⟩

end Sys2Proof.Machine
end

section
/-! SUPPORT. Ports of Vyvan Link: queues of a port, faults of a link, and messages that are forwarded (R387 to R391, R405). -/

namespace Sys2Proof.Machine

/-! ### Faults of a link (R405) -/

/-- A link fault of class NOTICE stands, and enters the Journal. -/
theorem State.vlFault_notice (s : State) (p b info : Nat) :
    ∃ j, s.vlFault p b .notice info = { s.orReg (vlBase (p / 9) + 0xC) (2 ^ b) with jnl := j } :=
  State.journal_eq _ _ _ _ _

/-- What a link fault of class NOTICE leaves. -/
theorem State.vlFault_notice_frame (s : State) (p : Nat) {b : Nat} (hb : b < 32) (info : Nat) {t : State} (ht : t = s.vlFault p b .notice info) :
    t = { s with regs := t.regs, recent := t.recent, jnl := t.jnl } ∧ bit (t.reg (vlBase (p / 9) + 0xC)).toNat b = true := by
  obtain ⟨j, hj⟩ := s.vlFault_notice p b info
  rw [hj] at ht
  subst ht
  refine ⟨rfl, ?_⟩
  change bit ((s.orReg _ _).reg _).toNat b = true
  rw [State.bit_orReg s hb]
  simp

/-! ### Queues of a port (R387, R390) -/

/-- The state in which the first message of a class has left a port, its credits owed. -/
def State.passedOn (s : State) (p c : Nat) (m : Msg) : State := (s.unqueue p c).owe p m

theorem State.passedOn_frame (s : State) (p c : Nat) (m : Msg) : s.passedOn p c m = { s with link := (s.passedOn p c m).link } := rfl

theorem State.inbox_passedOn {s : State} {p c : Nat} {m : Msg} {rest : List Msg} (h : Tab.read [] (s.port p).inbox c = m :: rest) :
    Tab.read [] ((s.passedOn p c m).port p).inbox c = rest := by
  unfold passedOn owe unqueue
  rw [State.port_modPort_same, State.port_modPort_same]
  change Tab.read [] (Tab.write [] _ c _) c = _
  rw [Tab.read_write_same, h]
  rfl

theorem State.egress_passedOn (s : State) (p c : Nat) (m : Msg) (q : Nat) : ((s.passedOn p c m).port q).egress = (s.port q).egress := by
  unfold passedOn owe unqueue
  by_cases hq : q = p
  · rw [hq, State.port_modPort_same, State.port_modPort_same]
  · rw [State.port_modPort_other (h := hq), State.port_modPort_other (h := hq)]

/-- What flits that enter an egress queue leave. -/
theorem State.enqueueFlits_frame (s : State) (q c : Nat) (fs : List LinkFlit) {t : State} (ht : t = s.enqueueFlits q c fs) :
    t = { s with link := t.link, regs := t.regs, recent := t.recent, jnl := t.jnl } ∧
    Tab.read [] (t.port q).egress c = Tab.read [] (s.port q).egress c ++ fs ∧ ∀ p, (t.port p).inbox = (s.port p).inbox := by
  generalize hf : (fun x : Port => { x with egress := Tab.write [] x.egress c (Tab.read [] (s.port q).egress c ++ fs) }) = f
  have hegress : Tab.read [] ((s.modPort q f).port q).egress c = Tab.read [] (s.port q).egress c ++ fs := by
    rw [State.port_modPort_same, ← hf]
    exact Tab.read_write_same _ _ _ _
  have hinbox : ∀ p, ((s.modPort q f).port p).inbox = (s.port p).inbox := fun p => by
    by_cases hp : p = q
    · rw [hp, State.port_modPort_same, ← hf]
    · rw [State.port_modPort_other (h := hp)]
  unfold State.enqueueFlits at ht
  dsimp only at ht
  rw [hf] at ht
  split at ht
  · obtain ⟨j, hj⟩ := ((s.modPort q f).orReg (vlBase (q / 9) + 0xC) 0x40).notice_eq (Err.of .notice 0x0706 (domXd (q / 9) 15) q)
    rw [hj] at ht
    subst ht
    exact ⟨rfl, hegress, hinbox⟩
  · subst ht
    exact ⟨rfl, hegress, hinbox⟩

/-! ### Forwarding (R390, R391) -/

/-- The HEAD of a message that goes on: in class 0 its HOPS is one more. -/
def Msg.onward (m : Msg) (c : Nat) : Msg :=
  { m with head := if c = 0 then BitVec.ofNat 2048 (setBits m.head.toNat 51 48 (bits m.head.toNat 51 48 + 1)) else m.head }

section
variable {p : Fin 18} {c : Fin 4} {s : State} {m : Msg} {rest : List Msg}

theorem execMessageForward_stays (hm : Tab.read [] (s.port p.val).inbox c.val = m :: rest) (hself : msgDst m = s.self) :
    exec (.messageForward p c) s = .next s := by
  change execMessageForward p c s = _
  unfold execMessageForward
  dsimp only
  rw [hm]
  exact if_pos (by simp [hself])

/-- What MESSAGE_FORWARD does with a message for another package. -/
def State.sendsOn (s : State) (p c : Nat) (m : Msg) : Option Nat → State
  | some q => if c = 0 ∧ 256 ≤ (Tab.read [] (s.port q).egress 0).length then s else (s.passedOn p c m).enqueueMsg q (m.onward c)
  | none => (s.passedOn p c m).vlFault p 4 .notice (msgDst m)

theorem execMessageForward_goes (hm : Tab.read [] (s.port p.val).inbox c.val = m :: rest) (hon : s.alive = true) (hself : msgDst m ≠ s.self) :
    exec (.messageForward p c) s = .next (
      if c.val = 0 ∧ s.hopLimit (p.val / 9) < bits m.head.toNat 51 48 + 2 then (s.passedOn p.val c.val m).vlFault p.val 5 .notice (msgDst m)
      else s.sendsOn p.val c.val m (s.egressPort c.val (msgDst m) (Config.sourceCount m.head))) := by
  change execMessageForward p c s = _
  unfold execMessageForward
  dsimp only
  rw [hm]
  dsimp only
  rw [if_neg (by simp [hon, hself])]
  split
  · rfl
  · generalize s.egressPort c.val _ _ = q
    cases q with
    | none => rfl
    | some q =>
      dsimp only [State.sendsOn]
      split <;> rfl

end

/-- The flits of a message: its HEAD, then its DATA. -/
theorem Msg.flits_cons (m : Msg) : ∃ (f : LinkFlit) (fs : List LinkFlit), m.flits = f :: fs ∧ f.type = 1 ∧ f.payload = m.head ∧
    fs.map (fun (g : LinkFlit) => (g.payload, g.poison)) = m.data ∧ ∀ g ∈ fs, g.type = 2 := by
  refine ⟨_, _, rfl, rfl, rfl, ?_, fun g hg => ?_⟩
  · rw [List.map_map]
    exact List.map_id _
  · obtain ⟨d, -, rfl⟩ := List.mem_map.1 hg
    rfl

/-- Settles O42: a message for another package is discarded, waits, or goes on behind those of its class. -/
theorem messagesForwarded : Obligations.MessagesForwarded := by
  intro p c s m rest hm hcls
  refine ⟨execMessageForward_stays hm, fun hon hself => ?_⟩
  have hexec := execMessageForward_goes hm hon hself
  have hinbox := State.inbox_passedOn hm
  have hdiscard : ∀ b < 32, ∀ t, t = (s.passedOn p.val c.val m).vlFault p.val b .notice (msgDst m) →
      Tab.read [] (t.port p.val).inbox c.val = rest ∧ bit (t.reg (vlBase (p.val / 9) + 0xC)).toNat b = true ∧
      t = { s with link := t.link, regs := t.regs, recent := t.recent, jnl := t.jnl } := fun b hb t ht => by
    obtain ⟨hframe, hbit⟩ := State.vlFault_notice_frame _ p.val hb _ ht
    refine ⟨?_, hbit, ?_⟩
    · rw [hframe]
      exact hinbox
    · rw [hframe, State.passedOn_frame]
  refine ⟨fun hc hhops => ?_, fun hhops => ⟨fun hnone => ?_, fun q hq => ⟨fun hc hfull => ?_, fun hroom => ?_⟩⟩⟩
  · rw [if_pos ⟨hc, hhops⟩] at hexec
    obtain ⟨hrest, hbit, hframe⟩ := hdiscard 5 (by omega) _ rfl
    exact ⟨_, hexec, hc ▸ hrest, hbit, hframe⟩
  all_goals rw [if_neg fun h => by have := hhops h.1; omega] at hexec
  · rw [hnone] at hexec
    exact ⟨_, hexec, hdiscard 4 (by omega) _ rfl⟩
  · rw [hq] at hexec
    exact hexec.trans (congrArg Host.Outcome.next (if_pos ⟨hc, hfull⟩))
  · rw [hq] at hexec
    obtain ⟨f, fs, hflits, htype, hpay, hdata, htypes⟩ := (m.onward c.val).flits_cons
    obtain ⟨hframe, hegress, hin⟩ := State.enqueueFlits_frame (s.passedOn p.val c.val m) q c.val (f :: fs) rfl
    have hstate : s.sendsOn p.val c.val m (some q) = (s.passedOn p.val c.val m).enqueueFlits q c.val (f :: fs) := by
      refine (if_neg fun h => ?_).trans ?_
      · have := hroom h.1
        omega
      · rw [State.enqueueMsg, hflits]
        exact congrArg (fun k => State.enqueueFlits _ q k _) hcls
    rw [hstate] at hexec
    refine ⟨_, f, fs, hexec, ?_, ?_, ?_, htype, hpay, hdata, htypes⟩
    · rw [hframe, State.passedOn_frame]
    · rw [hin]
      exact hinbox
    · rw [hegress, State.egress_passedOn]

end Sys2Proof.Machine
end

section
/-! SUPPORT. Ports of Vyvan Link: what reports leave at a port, the loss of a port, and training (R37, R381, R382, R386). -/

namespace Sys2Proof.Machine

/-! ### What reports leave at the ports (R389, R405) -/

/-- Of the ports only egress queues change, and bits of a link’s fault register stay set. -/
structure Told (s t : State) : Prop where
  port : ∀ p, t.port p = { s.port p with egress := (t.port p).egress }
  bits : ∀ n b, b < 32 → bit (s.reg (vlBase n + 0xC)).toNat b = true → bit (t.reg (vlBase n + 0xC)).toNat b = true

theorem Told.of_eq {s t : State} (hports : t.link.ports = s.link.ports) (hregs : t.regs = s.regs) : Told s t where
  port p := by rw [State.port, hports]; rfl
  bits n b _ h := by rwa [State.reg_of_regs hregs]

theorem Told.refl (s : State) : Told s s := .of_eq rfl rfl

theorem Told.trans {s t u : State} (h : Told s t) (h' : Told t u) : Told s u where
  port p := by rw [h'.port, h.port]
  bits n b hb hs := h'.bits n b hb (h.bits n b hb hs)

theorem Told.foldl {α : Type} {f : State → α → State} (hf : ∀ s x, Told s (f s x)) (l : List α) (s : State) : Told s (l.foldl f s) := by
  induction l generalizing s with
  | nil => exact .refl s
  | cons x l ih => exact (hf s x).trans (ih _)

theorem Told.journal (s : State) (e : Err) (a b c : Bool) : Told s (s.journal e a b c) := by
  obtain ⟨j, hj⟩ := s.journal_eq e a b c
  rw [hj]
  exact .of_eq rfl rfl

/-- A bit is set in the fault register of a link. -/
theorem Told.linkFault (s : State) (n mask : Nat) : Told s (s.orReg (vlBase n + 0xC) mask) where
  port p := rfl
  bits m b hb h := by
    by_cases hm : m = n
    · rw [hm] at h ⊢
      rw [State.bit_orReg s hb, h, Bool.true_or]
    · rw [State.reg_orReg_other _ _ (by unfold vlBase; omega)]
      exact h

/-- Flits enter an egress queue. -/
theorem Told.queue (s : State) (p : Nat) {f : Port → Port} (hf : ∀ x, f x = { x with egress := (f x).egress }) : Told s (s.modPort p f) where
  port k := by
    by_cases hk : k = p
    · rw [hk, State.port_modPort_same]
      exact hf _
    · rw [State.port_modPort_other (h := hk)]
  bits n b _ h := h

theorem Told.enqueueFlits (s : State) (p c : Nat) (fs : List LinkFlit) : Told s (s.enqueueFlits p c fs) := by
  unfold State.enqueueFlits
  extract_lets was q s'
  have hq : Told s s' := .queue s p (fun _ => rfl)
  split
  · exact (hq.trans (.linkFault _ _ _)).trans (.journal _ _ _ _ _)
  · exact hq

theorem Told.sendMsg (s : State) (dst : Nat) (m : Msg) : Told s (s.sendMsg dst m) := by
  have hcount : Told s { s with link := { s.link with msgCount := s.link.msgCount + 1 } } := .of_eq rfl rfl
  unfold State.sendMsg
  extract_lets c s'
  split
  · exact hcount.trans (.enqueueFlits _ _ _ _)
  · exact (hcount.trans (.linkFault _ _ _)).trans (.journal _ _ _ _ _)

theorem Told.sendAll (s : State) (transport step fields : Nat) : Told s (s.sendAll transport step fields) :=
  .foldl (fun s _ => .sendMsg s _ _) _ s

theorem Told.raiseStepFault (s : State) (seq : Nat) : Told s (s.raiseStepFault seq) := by
  rw [State.raiseStepFault_eq]
  split
  · exact .of_eq rfl rfl
  split
  · exact .refl s
  · exact Told.trans (t := s.faultAttempt) (.of_eq rfl rfl) (.sendAll _ _ _ _)

theorem Told.act (s : State) (cls : ErrClass) (region code seq addr : Nat) : Told s (s.act cls region code seq addr) := by
  have hfault : Told s (s.faultBy cls region code) := by
    obtain ⟨r, hr⟩ := s.faultBy_frame cls region code
    rw [hr]
    exact .of_eq rfl rfl
  have hraise : Told s ((s.faultBy cls region code).raiseStepFault seq) := hfault.trans (.raiseStepFault _ _)
  unfold State.act
  split
  · exact hraise
  · exact (Told.raiseStepFault s seq).trans (.of_eq rfl rfl)
  · exact hraise.trans (.of_eq rfl rfl)
  · split
    · exact .of_eq rfl rfl
    · exact .of_eq rfl rfl
  · exact .refl s

theorem Told.report (s : State) (e : Err) : Told s (s.report e) := by
  unfold State.report
  extract_lets seq
  split
  · exact .journal _ _ _ _ _
  · exact .journal _ _ _ _ _
  · exact (Told.journal s _ _ _ _).trans (.act _ _ _ _ _ _)
  · split
    · exact (Told.journal s _ _ _ _).trans (.act _ _ _ _ _ _)
    · split
      · exact (Told.journal s _ _ _ _).trans (.act _ _ _ _ _ _)
      · exact .journal _ _ _ _ _
    · exact (Told.journal s _ _ _ _).trans (.of_eq rfl rfl)
    · exact (Told.journal s _ _ _ _).trans (.act _ _ _ _ _ _)

theorem Told.vlFault (s : State) (p b : Nat) (cls : ErrClass) (info : Nat) : Told s (s.vlFault p b cls info) :=
  (Told.linkFault s _ _).trans (.report _ _)

/-- A link fault of any class stands. -/
theorem State.bit_vlFault (s : State) (p : Nat) {b : Nat} (hb : b < 32) (cls : ErrClass) (info : Nat) :
    bit ((s.vlFault p b cls info).reg (vlBase (p / 9) + 0xC)).toNat b = true := by
  refine (Told.report _ _).bits _ b hb ?_
  rw [State.bit_orReg s hb]
  simp

theorem Reported.vlFault (s : State) (p b : Nat) (cls : ErrClass) (info : Nat) : Reported s (s.vlFault p b cls info) :=
  (Reported.linkFault s _ _).trans (.report _ _)

/-! ### A port is lost (R37, R382, R386) -/

theorem Told.rerouteHead (lost : Nat) (s : State) (f : LinkFlit) : Told s (s.rerouteHead lost f) := by
  unfold State.rerouteHead
  dsimp only
  split
  · exact .enqueueFlits _ _ _ _
  · exact .vlFault _ _ _ _ _

theorem Reported.rerouteHead (lost : Nat) (s : State) (f : LinkFlit) : Reported s (s.rerouteHead lost f) := by
  unfold State.rerouteHead
  dsimp only
  split
  · exact .enqueueFlits _ _ _ _
  · exact .vlFault _ _ _ _ _

/-- A port without the flits that it held, for good. -/
def Port.gone (x : Port) : Port :=
  { x with state := .down, lost := true, replay := [], egress := [], resend := none, nakDue := none, partialMsg := [], failing := none }

theorem State.losePort_eq (s : State) (p : Nat) : s.losePort p =
    (((s.port p).replay.filter (fun f => f.cls == 0) ++ Tab.read [] (s.port p).egress 0).foldl (State.rerouteHead p)
      (s.setPort p (s.port p).gone)).vlFault p 0 .depart 0 := rfl

/-- A port that is lost is down for good and holds nothing to be replayed; of the rest only what reports reach changes. -/
theorem State.losePort_frame (s : State) (p : Nat) : ((s.losePort p).port p).state = .down ∧ ((s.losePort p).port p).lost = true ∧
    ((s.losePort p).port p).replay = [] ∧ (s.losePort p).mem = s.mem ∧ (s.losePort p).cores = s.cores := by
  rw [State.losePort_eq]
  generalize (s.port p).replay.filter (fun f => f.cls == 0) ++ Tab.read [] (s.port p).egress 0 = fs
  have htold := (Told.foldl (fun s f => Told.rerouteHead p s f) fs (s.setPort p (s.port p).gone)).trans (.vlFault _ p 0 .depart 0)
  have hrep := (Reported.foldl (fun s f => Reported.rerouteHead p s f) fs (s.setPort p (s.port p).gone)).trans (.vlFault _ p 0 .depart 0)
  have hport := htold.port p
  rw [State.port_setPort_same] at hport
  refine ⟨?_, ?_, ?_, ?_, ?_⟩
  · rw [hport]; rfl
  · rw [hport]; rfl
  · rw [hport]; rfl
  · rw [hrep.frame]; rfl
  · rw [hrep.frame]; rfl

/-! ### Training (R381, R393, R394) -/

/-- A port may train: it is enabled, down or training, and not lost. -/
structure MayTrain (s : State) (p : Nat) : Prop where
  alive : s.alive = true
  on : s.vlOn (p / 9) = true
  enabled : s.rf (portBase p) 0 0 = 1
  kept : (s.port p).lost = false
  state : (s.port p).state = .down ∨ (s.port p).state = .training

/-- The peer of a port serves its link version, its classes and its message length. -/
def peerServes (f : Training) : Prop := bit f.linkVersions.toNat 1 = true ∧ f.classes.toNat % 16 = 15 ∧ 256 ≤ f.maxData.toNat

/-- The lanes that pass. -/
def passing (f : Training) : List Nat := bitList f.lanes.toNat 9

section
variable {p : Fin 18} {f : Training} {s : State} (h : MayTrain s p.val)
include h

theorem MayTrain.passes : ¬ ((!s.alive || !s.vlOn (p.val / 9) || s.rf (portBase p.val) 0 0 == 0 || (s.port p.val).lost ||
    !((s.port p.val).state == .down || (s.port p.val).state == .training)) = true) := by
  have hstate : ((s.port p.val).state == .down || (s.port p.val).state == .training) = true := by
    rcases h.state with hs | hs <;> rw [hs] <;> rfl
  rw [h.alive, h.on, h.enabled, h.kept, hstate]
  decide

theorem execPortTraining_narrow (hlanes : (passing f).length < 8) :
    exec (.portTraining p f) s = .next ((s.setPort p.val { s.port p.val with state := .down, lost := true }).vlFault p.val 0 .depart 0) := by
  change execPortTraining p f s = _
  unfold execPortTraining
  dsimp only
  rw [if_neg h.passes]
  exact congrArg Host.Outcome.next (if_pos hlanes)

theorem execPortTraining_refused (hlanes : 8 ≤ (passing f).length) (hpeer : ¬ peerServes f) :
    exec (.portTraining p f) s =
      .next (((s.sendCap p.val (passing f)).modPort p.val (fun x => { x with state := .down })).vlFault p.val 1 .notice 0) := by
  have hbad : (!bit f.linkVersions.toNat 1 || f.classes.toNat % 16 != 15 || decide (f.maxData.toNat < 256)) = true := by
    by_contra hgood
    refine hpeer ?_
    simp only [Bool.or_eq_true, not_or, Bool.not_eq_true, Bool.not_eq_eq_eq_not, bne_eq_false_iff_eq,
      decide_eq_false_iff_not, Nat.not_lt] at hgood
    exact ⟨by simpa using hgood.1.1, hgood.1.2, hgood.2⟩
  change execPortTraining p f s = _
  unfold execPortTraining
  dsimp only
  rw [if_neg h.passes, if_neg (by exact Nat.not_lt.2 hlanes)]
  exact congrArg Host.Outcome.next (if_pos hbad)

theorem execPortTraining_up (hlanes : 8 ≤ (passing f).length) (hpeer : peerServes f) :
    exec (.portTraining p f) s = .next ((s.sendCap p.val (passing f)).modPort p.val (fun x => x.comeUp (passing f) f (s.rf 4 15 8))) := by
  obtain ⟨hversion, hclasses, hdata⟩ := hpeer
  change execPortTraining p f s = _
  unfold execPortTraining
  dsimp only
  rw [if_neg h.passes, if_neg (by exact Nat.not_lt.2 hlanes)]
  refine congrArg Host.Outcome.next (if_neg ?_)
  rw [hversion, hclasses, decide_eq_false (Nat.not_lt.2 hdata)]
  decide

end

/-! ### Retraining (R382) -/

/-- A port whose spare has replaced a lane. -/
def Port.spared (x : Port) (lane : Nat) : Port :=
  let spare := ((List.range 9).find? (fun l => !x.lanes.contains l)).getD 8
  { x with state := .up, lanes := (List.range 9).filter (fun l => l == spare || (x.lanes.contains l && l != lane)),
           spareInUse := true, spareFor := lane, failing := none, flitsIn := 0, laneErrs := [], resend := x.replay.head?.map (·.seq) }

theorem State.retrain_spared {s : State} {p : Nat} (lane : Nat) (hfree : (s.port p).spareInUse = false) :
    s.retrain p lane true = (s.setPort p ((s.port p).spared lane)).notice (Err.of .notice 0x721 (domXd (p / 9) 15) p 0 lane) := by
  unfold retrain
  dsimp only
  rw [hfree]
  exact if_neg (by decide)

theorem State.retrain_lost {s : State} {p : Nat} (lane : Nat) {ok : Bool} (h : (s.port p).spareInUse = true ∨ ok = false) :
    s.retrain p lane ok = s.losePort p := by
  unfold retrain
  exact if_pos (by rcases h with h | h <;> simp [h])

theorem execPortRetrain_retrains {s : State} {p : Fin 18} {lane : Fin 9} (hon : s.alive = true)
    (h : (s.port p.val).retrainsFor lane.val = true) (ok : Bool) :
    exec (.portRetrain p lane ok) s = .next (s.retrain p.val lane.val ok) :=
  congrArg Host.Outcome.next (if_pos (by rw [hon, h]; rfl))

theorem execPortRetrain_idle {s : State} {p : Fin 18} {lane : Fin 9} (h : (s.port p.val).retrainsFor lane.val = false) (ok : Bool) :
    exec (.portRetrain p lane ok) s = .next s :=
  congrArg Host.Outcome.next (if_neg (by rw [h]; simp))

theorem State.power_of_alive {s : State} (h : s.alive = true) : s.power.phase = .on := by
  unfold alive at h
  simp only [Bool.and_eq_true, beq_iff_eq] at h
  exact h.1

theorem execVlRetrain_idle {s : State} {p : Fin 18} {lane : Fin 9} (h : (s.port p.val).retrainsFor lane.val = false) (ok : Bool) :
    exec (.vlRetrain .firmware p lane ok) s = .next s := by
  refine congrArg Host.Outcome.next ?_
  by_cases hon : s.power.phase = .on
  · rw [State.gate_firmware hon]
    exact if_neg (by rw [h]; decide)
  · exact if_pos (by simpa using hon)

theorem execVlRetrain_eq {s : State} (p : Fin 18) (lane : Fin 9) (ok : Bool) (hon : s.alive = true) :
    exec (.vlRetrain .firmware p lane ok) s = exec (.portRetrain p lane ok) s := by
  refine congrArg Host.Outcome.next ?_
  rw [State.gate_firmware (State.power_of_alive hon), hon, Bool.true_and]

/-! ### Routes (R391, R402, R408) -/

/-- A register of the route table holds 0 at reset. -/
theorem regReset_route {e : Nat} (he : e < 4096) : regReset (vlBase 0 + 0x10000 + 4 * e) = 0 := by
  have hblock : (vlBase 0 + 0x10000 + 4 * e) / 0x1000000 = 0x30 := by unfold vlBase; omega
  have hoff : (vlBase 0 + 0x10000 + 4 * e) % 0x1000000 = 0x10000 + 4 * e := by unfold vlBase; omega
  have hfields : vlFields 0 (0x10000 + 4 * e) = some [fAct 31 31, fAct 27 24, fAct 17 0] := by
    unfold vlFields
    rw [if_neg (by omega), if_pos (by omega), if_pos rfl]
  have hreg : regFields (vlBase 0 + 0x10000 + 4 * e) = vlFields 0 (0x10000 + 4 * e) := by
    unfold regFields
    dsimp only
    rw [hblock, hoff]
    rw [if_neg (by decide), if_neg (by decide), if_neg (by decide), if_neg (by decide), if_neg (by decide), if_neg (by decide),
      if_neg (by omega), if_pos (by decide), if_pos (by omega)]
  rw [regReset, hreg, hfields]
  decide

/-- Whether an offset lies in the route table. -/
def inRoutes (o : Nat) : Bool := decide (vlBase 0 + 0x10000 ≤ o) && decide (o < vlBase 0 + 0x10000 + 0x4000)

/-- The route table takes a list of route words. -/
def State.setRoutes (s : State) (l : Tab Word) : State := l.foldl (fun s r => s.setReg (vlBase 0 + 0x10000 + 4 * r.1) r.2) s

theorem State.setRoutes_frame (s : State) (l : Tab Word) : s.setRoutes l = { s with regs := (s.setRoutes l).regs } := by
  unfold setRoutes
  induction l generalizing s with
  | nil => rfl
  | cons r l ih => rw [List.foldl_cons, ih]; rfl

theorem State.reg_setRoutes_other (s : State) (l : Tab Word) {o : Nat} (h : ∀ r ∈ l, o ≠ vlBase 0 + 0x10000 + 4 * r.1) :
    (s.setRoutes l).reg o = s.reg o := by
  unfold setRoutes
  induction l generalizing s with
  | nil => rfl
  | cons r l ih =>
    rw [List.foldl_cons, ih _ (fun x hx => h x (by simp [hx])), State.reg_setReg_other _ _ (h r (by simp))]

/-- Each entry reads as the route word that is listed for it. -/
theorem State.reg_setRoutes (s : State) {l : Tab Word} (hl : (l.map (fun (y : Nat × Word) => y.1)).Nodup) (e : Nat) :
    (s.setRoutes l).reg (vlBase 0 + 0x10000 + 4 * e) = (Tab.find? l e).getD (s.reg (vlBase 0 + 0x10000 + 4 * e)) := by
  induction l generalizing s with
  | nil => rfl
  | cons r l ih =>
    obtain ⟨k, v⟩ := r
    obtain ⟨hk, hl'⟩ := List.nodup_cons.1 hl
    by_cases he : e = k
    · subst he
      change ((s.setReg _ v).setRoutes l).reg _ = _
      rw [State.reg_setRoutes_other _ _ (fun x hx hxe => hk (List.mem_map.2 ⟨x, hx, show x.1 = e by omega⟩)), State.reg_setReg_same]
      simp [Tab.find?]
    · change ((s.setReg _ v).setRoutes l).reg _ = _
      rw [ih _ hl', State.reg_setReg_other _ _ (by omega)]
      simp [Tab.find?, he]

/-- The state whose route table is empty. -/
def State.noRoutes (s : State) : State := { s with regs := s.regs.filter (fun r => !inRoutes r.1) }

theorem State.reg_noRoutes (s : State) (o : Nat) : s.noRoutes.reg o = if inRoutes o then regReset o else s.reg o := by
  change Tab.read (regReset o) (s.regs.filter (fun r => !inRoutes r.1)) o = _
  rw [Tab.read_filter (regReset o) s.regs (fun k => !inRoutes k) o]
  cases inRoutes o <;> rfl

theorem inRoutes_iff (o : Nat) : inRoutes o = true ↔ vlBase 0 + 0x10000 ≤ o ∧ o < vlBase 0 + 0x10000 + 0x4000 :=
  Bool.and_eq_true_iff.trans (and_congr decide_eq_true_iff decide_eq_true_iff)

/-- The state with other members of the job. -/
def State.withMembers (s : State) (l : List Nat) : State := { s with link := { s.link with members := l } }

/-- The route table takes the shadow bank, and the membership what it reaches. -/
theorem State.applyRoutes_eq (s : State) : ∃ l, s.applyRoutes = (s.noRoutes.setRoutes s.link.shadow).withMembers l := by
  exact ⟨_, rfl⟩

theorem State.reg_applyRoutes (s : State) (o : Nat) : s.applyRoutes.reg o = (s.noRoutes.setRoutes s.link.shadow).reg o := by
  obtain ⟨l, hl⟩ := s.applyRoutes_eq
  rw [hl]
  rfl

/-- Routes that apply change the registers and the membership alone. -/
theorem State.applyRoutes_frame (s : State) : ∃ r l, s.applyRoutes = { s with regs := r, link := { s.link with members := l } } := by
  obtain ⟨l, hl⟩ := s.applyRoutes_eq
  refine ⟨(s.noRoutes.setRoutes s.link.shadow).regs, l, ?_⟩
  rw [hl, State.setRoutes_frame]
  rfl

theorem State.route_applyRoutes {s : State} (hl : (s.link.shadow.map (fun (y : Nat × Word) => y.1)).Nodup) {e : Nat} (he : e < 4096) :
    s.applyRoutes.reg (vlBase 0 + 0x10000 + 4 * e) = Tab.read 0 s.link.shadow e := by
  have hin : inRoutes (vlBase 0 + 0x10000 + 4 * e) = true := (inRoutes_iff _).2 (by omega)
  rw [State.reg_applyRoutes, State.reg_setRoutes _ hl, State.reg_noRoutes, if_pos hin, regReset_route he]
  rfl

theorem State.reg_applyRoutes_other {s : State} (hl : ∀ r ∈ s.link.shadow, r.1 < 4096) {o : Nat} (ho : inRoutes o = false) :
    s.applyRoutes.reg o = s.reg o := by
  rw [State.reg_applyRoutes, State.reg_setRoutes_other, State.reg_noRoutes, if_neg (by rw [ho]; decide)]
  intro r hr heq
  have hr' := hl r hr
  have hin : inRoutes o = true := (inRoutes_iff _).2 (by omega)
  rw [hin] at ho
  exact nomatch ho

end Sys2Proof.Machine
end

section
/-! SUPPORT. The control registers of the link: enable, error counts and routes, and how ports train (R402, R404, R407, R408). -/

namespace Sys2Proof.Machine

/-! ### Ports that begin to train (R404) -/

/-- An enabled port that is down, and not lost, begins to train. -/
def State.trainPort (s : State) (p : Nat) : State :=
  if s.rf (portBase p) 0 0 = 1 ∧ (s.port p).state = .down ∧ (s.port p).lost = false then s.modPort p (fun x => { x with state := .training })
  else s

theorem State.trainPort_frame (s : State) (p : Nat) : ∃ l, s.trainPort p = { s with link := l } := by
  unfold trainPort
  split
  · exact ⟨_, rfl⟩
  · exact ⟨s.link, rfl⟩

theorem State.foldl_trainPort_frame (l : List Nat) (s : State) : ∃ x, l.foldl State.trainPort s = { s with link := x } := by
  induction l generalizing s with
  | nil => exact ⟨s.link, rfl⟩
  | cons p l ih =>
    obtain ⟨x, hx⟩ := s.trainPort_frame p
    obtain ⟨y, hy⟩ := ih (s.trainPort p)
    refine ⟨y, ?_⟩
    rw [List.foldl_cons, hy, hx]

theorem State.port_trainPort_other {s : State} {p q : Nat} (h : q ≠ p) : (s.trainPort p).port q = s.port q := by
  unfold trainPort
  split
  · exact s.port_modPort_other _ h
  · rfl

/-- A port that trains goes on training. -/
theorem State.trainPort_training {s : State} {p : Nat} (q : Nat) (h : (s.port p).state = .training) : ((s.trainPort q).port p).state = .training := by
  by_cases hq : p = q
  · subst hq
    unfold trainPort
    rw [if_neg (by rw [h]; simp)]
    exact h
  · rw [State.port_trainPort_other hq]
    exact h

theorem State.foldl_trainPort_training {s : State} {p : Nat} (l : List Nat) (h : (s.port p).state = .training) :
    ((l.foldl State.trainPort s).port p).state = .training := by
  induction l generalizing s with
  | nil => exact h
  | cons q l ih => exact ih (State.trainPort_training q h)

/-- Each enabled port of a list that is down, and not lost, begins to train. -/
theorem State.foldl_trainPort {s : State} {p : Nat} {l : List Nat} (hp : p ∈ l) (hon : s.rf (portBase p) 0 0 = 1)
    (hdown : (s.port p).state = .down) (hkept : (s.port p).lost = false) : ((l.foldl State.trainPort s).port p).state = .training := by
  induction l generalizing s with
  | nil => exact nomatch hp
  | cons q l ih =>
    rw [List.foldl_cons]
    by_cases hq : p = q
    · subst hq
      refine State.foldl_trainPort_training l ?_
      unfold trainPort
      rw [if_pos ⟨hon, hdown, hkept⟩, State.port_modPort_same]
    · have hport := State.port_trainPort_other (s := s) hq
      refine ih ((List.mem_cons.1 hp).resolve_left hq) ?_ (by rw [hport, hdown]) (by rw [hport, hkept])
      obtain ⟨x, hx⟩ := s.trainPort_frame q
      rw [hx]
      exact hon

/-! ### VL_CTL.ENABLE (R404) -/

theorem State.vlStart_eq (s : State) (io : Nat) :
    s.vlStart io = (upFrom (9 * io) 9).foldl State.trainPort ((s.setRf (vlBase io + 4) 0 0 1).applyRoutes) := rfl

theorem State.reg_vlStart (s : State) (io o : Nat) : (s.vlStart io).reg o = ((s.setRf (vlBase io + 4) 0 0 1).applyRoutes).reg o := by
  obtain ⟨x, hx⟩ := State.foldl_trainPort_frame (upFrom (9 * io) 9) ((s.setRf (vlBase io + 4) 0 0 1).applyRoutes)
  rw [State.vlStart_eq, hx]
  rfl

theorem State.vlStart_frame (s : State) (io : Nat) : s.vlStart io = { s with regs := (s.vlStart io).regs, link := (s.vlStart io).link } := by
  obtain ⟨x, hx⟩ := State.foldl_trainPort_frame (upFrom (9 * io) 9) ((s.setRf (vlBase io + 4) 0 0 1).applyRoutes)
  obtain ⟨r, l, hr⟩ := (s.setRf (vlBase io + 4) 0 0 1).applyRoutes_frame
  rw [State.vlStart_eq, hx, hr]
  rfl

/-- The control registers of a link and of its ports lie outside the route table. -/
theorem inRoutes_control (io : Fin 2) : inRoutes (vlBase io.val + 4) = false := by
  rw [← Bool.not_eq_true, inRoutes_iff]
  unfold vlBase
  omega

theorem inRoutes_port (p : Fin 18) : inRoutes (portBase p.val) = false := by
  rw [← Bool.not_eq_true, inRoutes_iff]
  unfold portBase vlBase
  omega

section
variable {s : State} {io : Fin 2} (hshadow : ∀ r ∈ s.link.shadow, r.1 < 4096)
include hshadow

theorem State.vlOn_vlStart : (s.vlStart io.val).vlOn io.val = true := by
  have hreg : (s.vlStart io.val).reg (vlBase io.val + 4) = (s.setRf (vlBase io.val + 4) 0 0 1).reg (vlBase io.val + 4) := by
    rw [State.reg_vlStart]
    exact State.reg_applyRoutes_other (s := s.setRf (vlBase io.val + 4) 0 0 1) hshadow (inRoutes_control io)
  rw [State.vlOn, State.rf_of_reg hreg, State.rf_setRf_same (hi := 0) s _ 1 0 (by omega)]
  rfl

/-- Each enabled port of the die that is down, and not lost, trains. -/
theorem State.port_vlStart {p : Fin 18} (hp : p.val / 9 = io.val) (hon : s.rf (portBase p.val) 0 0 = 1)
    (hdown : (s.port p.val).state = .down) (hkept : (s.port p.val).lost = false) : ((s.vlStart io.val).port p.val).state = .training := by
  have hreg : ((s.setRf (vlBase io.val + 4) 0 0 1).applyRoutes).reg (portBase p.val) = s.reg (portBase p.val) := by
    rw [State.reg_applyRoutes_other (s := s.setRf (vlBase io.val + 4) 0 0 1) hshadow (inRoutes_port p)]
    exact State.reg_setRf_other _ _ _ _ (by unfold portBase vlBase; omega)
  obtain ⟨r, l, hr⟩ := (s.setRf (vlBase io.val + 4) 0 0 1).applyRoutes_frame
  have hport : ((s.setRf (vlBase io.val + 4) 0 0 1).applyRoutes).port p.val = s.port p.val := by
    rw [hr]
    rfl
  rw [State.vlStart_eq]
  refine State.foldl_trainPort (mem_upFrom.2 (by omega)) ?_ (by rw [hport, hdown]) (by rw [hport, hkept])
  rw [State.rf_of_reg hreg, hon]

end

theorem execVlEnable_on {s : State} {io : Fin 2} (h : s.vlOn io.val = true) (by_ : Writer) : exec (.vlEnable by_ io) s = .next s :=
  congrArg Host.Outcome.next (if_pos h)

theorem execVlEnable_starts {s : State} {io : Fin 2} (hon : s.power.phase = .on) (h : s.vlOn io.val = false) :
    exec (.vlEnable .firmware io) s = .next (s.vlStart io.val) := by
  refine congrArg Host.Outcome.next ((if_neg ?_).trans (State.gate_firmware hon _ _ _))
  rw [h]
  decide

/-! ### Error counts and routes (R407, R408) -/

/-- The error counts of a port take 1 where they were raised in the same edge, and 0 otherwise. -/
def State.clearErrs (s : State) (p : Nat) : State := (s.clearRf (portBase p + 8) 31 24).clearRf (portBase p + 8) 15 0

theorem State.clearErrs_frame (s : State) (p : Nat) : s.clearErrs p = { s with regs := (s.clearErrs p).regs } ∧
    sameBut (s.clearErrs p).regs s.regs [portBase p + 8] ∧
    (s.clearErrs p).rf (portBase p + 8) 31 24 = (if bit (s.freshBits (portBase p + 8)) 24 then 1 else 0) ∧
    (s.clearErrs p).rf (portBase p + 8) 15 0 = (if bit (s.freshBits (portBase p + 8)) 0 then 1 else 0) := by
  have hfresh : ∀ b : Nat, (if bit b 24 then 1 else 0) < 2 ^ (31 + 1 - 24) := fun b => by split <;> decide
  have hfresh' : ∀ b : Nat, (if bit b 0 then 1 else 0) < 2 ^ (15 + 1 - 0) := fun b => by split <;> decide
  have hsame : (s.clearRf (portBase p + 8) 31 24).freshBits (portBase p + 8) = s.freshBits (portBase p + 8) := rfl
  refine ⟨rfl, sameBut_trans (sameBut_write _ _ _ _ (by simp)) (sameBut_write _ _ _ _ (by simp)), ?_, ?_⟩
  · unfold clearErrs
    rw [State.clearRf, State.rf_setRf_disjoint _ _ _ (by omega) (by omega), State.clearRf, State.rf_setRf_same _ _ _ _ (by omega),
      Nat.mod_eq_of_lt (hfresh _)]
  · unfold clearErrs
    rw [State.clearRf, State.rf_setRf_same _ _ _ _ (by omega), Nat.mod_eq_of_lt (hfresh' _), hsame]

theorem execVlPerrClr_clears {s : State} (hon : s.power.phase = .on) (by_ : Writer) (p : Fin 18) :
    exec (.vlPerrClr by_ p) s = .next (s.clearErrs p.val) :=
  congrArg Host.Outcome.next (State.gate_open hon _ _ by_)

theorem read_startCredits (c : Fin 4) : Tab.read 0 startCredits c.val = classBuffer c.val := by
  revert c
  decide

/-- Settles O40: training by lanes and peer, a retrain by the spare, the enable by the shadow bank. -/
theorem portsTrain : Obligations.PortsTrain := by
  refine ⟨fun p f s hon hlink hport hkept hstate => ?_, fun p lane ok s hon hfor => ⟨fun hfree hok => ?_, fun hlost => ?_⟩,
    fun p lane ok s h => ⟨execPortRetrain_idle h ok, execVlRetrain_idle h ok⟩, fun p lane ok s hon => execVlRetrain_eq p lane ok hon,
    fun by_ io s h => execVlEnable_on h by_, fun io s hon h hshadow hnodup => ?_, fun by_ p s hon => ?_, fun dest v s hon => ?_⟩
  · have hmay : MayTrain s p.val := ⟨hon, hlink, hport, hkept, hstate⟩
    refine ⟨fun hlanes => ?_, fun hlanes h1 h2 h3 => ?_, fun hlanes hpeer => ?_⟩
    · generalize hv : s.setPort p.val { s.port p.val with state := .down, lost := true } = v
      have htold := (Told.vlFault v p.val 0 .depart 0).port p.val
      have hrep := (Reported.vlFault v p.val 0 .depart 0).frame
      have hvp : v.port p.val = { s.port p.val with state := .down, lost := true } := by rw [← hv, State.port_setPort_same]
      have hexec := execPortTraining_narrow hmay hlanes
      rw [hv] at hexec
      refine ⟨_, hexec, ?_, ?_, State.bit_vlFault _ _ (by omega) _ _, ?_, ?_, ?_⟩
      · rw [htold, hvp]
      · rw [htold, hvp]
      · rw [hrep, ← hv]; rfl
      · rw [hrep, ← hv]; rfl
      · rw [State.vlFault_outer, ← hv]; rfl
    · refine ⟨_, execPortTraining_up hmay hlanes ⟨h1, h2, h3⟩, rfl, fun q hq => ?_, ?_⟩
      · rw [State.port_modPort_other (h := hq)]
        exact s.port_modPort_other _ hq
      · rw [State.port_modPort_same, State.sendCap, State.port_modPort_same]
        exact ⟨rfl, rfl, rfl, rfl, rfl, rfl, rfl, read_startCredits⟩
    · generalize hv : (s.sendCap p.val (passing f)).modPort p.val (fun x => { x with state := .down }) = v
      obtain ⟨hframe, hbit⟩ := State.vlFault_notice_frame v p.val (b := 1) (by omega) 0 rfl
      have hexec := execPortTraining_refused hmay hlanes hpeer
      rw [hv] at hexec
      have hports : (v.vlFault p.val 1 .notice 0).port p.val = v.port p.val := by rw [hframe]; rfl
      have hvp : (v.port p.val).state = .down ∧ (v.port p.val).lost = (s.port p.val).lost := by
        rw [← hv, State.port_modPort_same, State.sendCap, State.port_modPort_same]
        exact ⟨rfl, rfl⟩
      refine ⟨_, hexec, ?_, ?_, ?_, hbit⟩
      · rw [hframe, ← hv]; rfl
      · rw [hports, hvp.1]
      · rw [hports, hvp.2, hkept]
  · subst hok
    obtain ⟨j, hj⟩ := (s.setPort p.val ((s.port p.val).spared lane.val)).notice_eq (Err.of .notice 0x721 (domXd (p.val / 9) 15) p.val 0 lane.val)
    have hexec := execPortRetrain_retrains hon hfor true
    rw [State.retrain_spared _ hfree, hj] at hexec
    refine ⟨_, hexec, rfl, fun q hq => s.port_setPort_other _ hq, ?_⟩
    change ((s.setPort _ _).port _).spareInUse = _ ∧ ((s.setPort _ _).port _).spareFor = _ ∧ ((s.setPort _ _).port _).state = _ ∧
      (∀ k, _ → ((s.setPort _ _).port _).lanes = _) ∧ ((s.setPort _ _).port _).replay = _ ∧ ((s.setPort _ _).port _).resend = _
    rw [State.port_setPort_same]
    refine ⟨rfl, rfl, rfl, fun k hk => ?_, rfl, rfl⟩
    unfold Port.spared
    rw [hk]
    rfl
  · obtain ⟨hstate, hgone, hreplay, hmem, hcores⟩ := s.losePort_frame p.val
    have hexec := execPortRetrain_retrains hon hfor ok
    rw [State.retrain_lost _ hlost] at hexec
    exact ⟨_, hexec, hstate, hgone, hreplay, hmem, hcores, by simp⟩
  · refine ⟨_, execVlEnable_starts hon h, s.vlStart_frame io.val, State.vlOn_vlStart hshadow, fun e he => ?_,
      fun p hp hport hdown hkept => State.port_vlStart hshadow hp hport hdown hkept⟩
    rw [State.reg_vlStart]
    exact State.route_applyRoutes (s := s.setRf (vlBase io.val + 4) 0 0 1) hnodup he
  · obtain ⟨hframe, hregs, hsent, hreceived⟩ := s.clearErrs_frame p.val
    exact ⟨_, execVlPerrClr_clears hon by_ p, hframe, hregs, hsent, hreceived⟩
  · refine ⟨_, congrArg Host.Outcome.next (State.gate_firmware hon _ _ _), rfl, Tab.read_write_same _ _ _ _,
      sameBut_write _ _ _ _ (by simp)⟩

end Sys2Proof.Machine
end

section
/-! SUPPORT. What edges that pass leave of a core: all but its arrays, the bytes of its store, what arrives there, and whether it is
stopping (R89, R103, R116). -/

namespace Sys2Proof.Machine

/-- A core after edges have passed. -/
structure Aged (c b : Core) : Prop where
  frame : b = { c with array0 := b.array0, array1 := b.array1, array2 := b.array2, array3 := b.array3, store := b.store, marks := b.marks,
                       arriving := b.arriving, stopping := b.stopping }

theorem Aged.refl (c : Core) : Aged c c := ⟨rfl⟩

theorem Aged.trans {a b c : Core} (h : Aged a b) (h' : Aged b c) : Aged a c := ⟨by rw [h'.frame, h.frame]⟩

theorem Aged.foldl {α : Type} {f : Core → α → Core} (hf : ∀ c x, Aged c (f c x)) (l : List α) (c : Core) : Aged c (l.foldl f c) := by
  induction l generalizing c with
  | nil => exact .refl c
  | cons x l ih => exact (hf c x).trans (ih _)

/-- The streams of a core stay as edges pass. -/
theorem Aged.stream {c b : Core} (h : Aged c b) (st : StreamId) : b.stream st = c.stream st := by
  rw [h.frame]
  cases st <;> rfl

theorem Aged.slots {c b : Core} (h : Aged c b) : b.slots = c.slots := by rw [h.frame]

theorem Aged.setArray (c : Core) (i : Nat) (a : Array) : Aged c (c.setArray i a) := by
  unfold Core.setArray
  split_ifs <;> exact ⟨rfl⟩

theorem Aged.writeMarked (c : Core) (a : Nat) (bs : List Byte) (poison : Bool) : Aged c (c.writeMarked a bs poison) := by
  unfold Core.writeMarked
  dsimp only
  split
  · exact ⟨rfl⟩
  · exact ⟨rfl⟩

theorem Aged.land (c : Core) (edge : Nat) : Aged c (c.land edge) :=
  Aged.trans (b := { c with arriving := c.arriving.filter (fun x => decide (edge ≤ x.due)) }) ⟨rfl⟩
    (.foldl (fun c (x : Arrival) => .writeMarked c x.addr x.data x.poison) _ _)

/-- The cores of a state after edges have passed. -/
structure CoresAged (s t : State) : Prop where
  core : ∀ d p, Aged (s.core d p) (t.core d p)

theorem CoresAged.of_cores {s t : State} (h : t.cores = s.cores) : CoresAged s t := ⟨fun d p => by
  have hcore : t.core d p = s.core d p := congrArg (fun c => Tab.read ({} : Core) c (34 * d + p)) h
  rw [hcore]
  exact .refl _⟩

theorem CoresAged.trans {s t u : State} (h : CoresAged s t) (h' : CoresAged t u) : CoresAged s u :=
  ⟨fun d p => (h.core d p).trans (h'.core d p)⟩

theorem CoresAged.foldl {α : Type} {f : State → α → State} (hf : ∀ s x, CoresAged s (f s x)) (l : List α) (s : State) :
    CoresAged s (l.foldl f s) := by
  induction l generalizing s with
  | nil => exact .of_cores rfl
  | cons x l ih => exact (hf s x).trans (ih _)

theorem State.core_of_key {d p n q : Nat} (h : 34 * n + q = 34 * d + p) (s : State) : s.core n q = s.core d p := by
  rw [State.core, State.core, h]

theorem CoresAged.modCore (s : State) (d p : Nat) {f : Core → Core} (hf : Aged (s.core d p) (f (s.core d p))) :
    CoresAged s (s.modCore d p f) := ⟨fun n q => by
  by_cases h : 34 * n + q = 34 * d + p
  · rw [State.core_of_key h, State.core_of_key h, State.core_modCore_same]
    exact hf
  · rw [State.core_modCore_other (h := h)]
    exact .refl _⟩

theorem CoresAged.count (s : State) (b ev unit v : Nat) : CoresAged s (s.count b ev unit v) := .of_cores (by simp)

theorem CoresAged.advanceArray (s : State) (d p edge i : Nat) : CoresAged s (s.advanceArray d p edge i) := by
  unfold State.advanceArray
  extract_lets a x s1 s2
  have h1 : CoresAged s s1 := .modCore s d p (.setArray _ i x.1)
  have h2 : CoresAged s1 s2 := by
    change CoresAged s1 (if x.2 = 0 then s1 else s1.orReg (coreBase d p + 0x14 + 4 * i) x.2)
    split
    · exact .of_cores rfl
    · exact .of_cores rfl
  split
  · exact .of_cores rfl
  · refine (h1.trans h2).trans (.foldl (fun t e => ?_) _ _)
    dsimp only
    split
    · exact (CoresAged.count t _ _ _ _).trans (.count _ _ _ _ _)
    · exact .count t _ _ _ _

theorem CoresAged.settleStop (s : State) (d p : Nat) : CoresAged s (s.settleStop d p) := by
  unfold State.settleStop
  split
  · exact .modCore s d p ⟨rfl⟩
  · exact .of_cores rfl

theorem CoresAged.advanceCores (s : State) (edge : Nat) : CoresAged s (s.advanceCores edge) := by
  unfold State.advanceCores
  refine .foldl (fun t k => ?_) _ s
  dsimp only
  split
  · exact .of_cores rfl
  · have harrays := CoresAged.foldl (fun (t : State) i => .advanceArray t (k / 34) (k % 34) edge i) (List.range 4) t
    exact (harrays.trans (.modCore _ _ _ (.land _ _))).trans (.settleStop _ _ _)

theorem CoresAged.restOver (s : State) (n : Nat) : CoresAged s (s.restOver n) := by
  unfold State.restOver
  refine .foldl (fun t i => ?_) _ s
  split
  · exact .of_cores rfl
  · exact .of_cores rfl

theorem CoresAged.pass (s : State) (n : Nat) : CoresAged s (s.pass n) := by
  have hrest : CoresAged s { s.restOver n with tally := s.levels n } := (CoresAged.restOver s n).trans (.of_cores rfl)
  unfold State.pass
  dsimp only
  split
  · exact (hrest.trans (.advanceCores _ _)).trans (.of_cores rfl)
  · exact hrest.trans (.of_cores rfl)

/-- What edges that pass leave of every core. -/
theorem CoresAged.at (s : State) (e : Nat) : CoresAged s (s.at e) := by
  unfold State.at
  split
  · exact .of_cores rfl
  · exact .pass s _

end Sys2Proof.Machine
end

section
/-! SUPPORT. The layer barrier of a die, its time limit, and the control register of a ring (R130, R139, R149, R151, R159). -/

namespace Sys2Proof.Machine

/-! ### Credit counts take INIT (R139, R149) -/

/-- One credit count takes INIT at an edge. -/
def Ring.refill (r : Ring) (k edge new : Nat) : Ring :=
  if Tab.read 0 r.counts k < new then r.gain k edge (new - Tab.read 0 r.counts k) else { r with counts := Tab.write 0 r.counts k new }

theorem Ring.counts_refill (r : Ring) (k edge new : Nat) : Tab.read 0 (r.refill k edge new).counts k = new := by
  unfold Ring.refill
  split
  · next h =>
    unfold Ring.gain
    rw [Tab.read_write_same]
    omega
  · exact Tab.read_write_same _ _ _ _

theorem Ring.counts_refill_other (r : Ring) {k j : Nat} (h : j ≠ k) (edge new : Nat) :
    Tab.read 0 (r.refill k edge new).counts j = Tab.read 0 r.counts j := by
  unfold Ring.refill
  split
  · exact Tab.read_write_other _ _ _ _ h
  · exact Tab.read_write_other _ _ _ _ h

/-- INIT of an enabled credit stream, and 0 of another. -/
def State.creditStart (s : State) (d k : Nat) : Nat := if s.creditOn d k then s.creditInit d k else 0

/-- The rings of two states are the same but for one die, and all else is the same. -/
structure RingOnly (d : Nat) (s t : State) : Prop where
  frame : t = { s with rings := t.rings }
  rings : sameBut t.rings s.rings [d]

theorem RingOnly.modRing (s : State) (d : Nat) (f : Ring → Ring) : RingOnly d s (s.modRing d f) := ⟨rfl, sameBut_write _ _ _ _ (by simp)⟩

theorem RingOnly.trans {d : Nat} {s t u : State} (h : RingOnly d s t) (h' : RingOnly d t u) : RingOnly d s u :=
  ⟨by rw [h'.frame, h.frame], sameBut_trans h'.rings h.rings⟩

theorem RingOnly.refl (d : Nat) (s : State) : RingOnly d s s := ⟨rfl, sameBut_refl _ _⟩

/-- One credit count of a die takes INIT. -/
def State.refillCredit (s : State) (d edge k : Nat) : State :=
  s.modRing d (fun r =>
    if Tab.read 0 (s.ring d).counts k < s.creditStart d k then r.gain k edge (s.creditStart d k - Tab.read 0 (s.ring d).counts k)
    else { r with counts := Tab.write 0 r.counts k (s.creditStart d k) })

theorem State.refillCredits_eq (s : State) (d edge : Nat) :
    s.refillCredits d edge = (List.range 4).foldl (fun s k => s.refillCredit d edge k) s := rfl

theorem State.ring_refillCredit (s : State) (d edge k : Nat) :
    (s.refillCredit d edge k).ring d = (s.ring d).refill k edge (s.creditStart d k) := State.ring_modRing_same _ _ _

theorem State.foldl_refillCredit (d edge : Nat) (l : List Nat) (s : State) :
    RingOnly d s (l.foldl (fun s k => s.refillCredit d edge k) s) ∧
    ∀ k, Tab.read 0 ((l.foldl (fun s k => s.refillCredit d edge k) s).ring d).counts k =
      if k ∈ l then s.creditStart d k else Tab.read 0 (s.ring d).counts k := by
  induction l generalizing s with
  | nil => exact ⟨.refl d s, fun k => rfl⟩
  | cons k l ih =>
    have honly : RingOnly d s (s.refillCredit d edge k) := .modRing s d _
    obtain ⟨h1, h2⟩ := ih (s.refillCredit d edge k)
    refine ⟨honly.trans h1, fun j => ?_⟩
    rw [List.foldl_cons, h2 j, State.ring_refillCredit, show (s.refillCredit d edge k).creditStart d j = s.creditStart d j from rfl]
    by_cases hj : j = k
    · subst hj
      rw [Ring.counts_refill]
      simp
    · rw [Ring.counts_refill_other _ hj]
      simp [hj]

/-- Each credit count of a die takes INIT, where its stream is enabled; nothing but the ring of the die changes. -/
theorem State.refillCredits_refills (s : State) (d edge : Nat) : RingOnly d s (s.refillCredits d edge) ∧
    ∀ k < 4, Tab.read 0 ((s.refillCredits d edge).ring d).counts k = s.creditStart d k := by
  obtain ⟨h1, h2⟩ := State.foldl_refillCredit d edge (List.range 4) s
  rw [State.refillCredits_eq]
  exact ⟨h1, fun k hk => (h2 k).trans (if_pos (List.mem_range.2 hk))⟩

/-! ### The barrier edge on one die (R149, R197) -/

/-- The streams of a core whose work of the step is abandoned have ended. -/
def Core.abandon (c : Core) : Core := { c with fwd := { c.fwd with ended := true, buf := [] }, bwd := { c.bwd with ended := true, buf := [] } }

/-- A function on the cores of a die. -/
def State.onDie (s : State) (d : Nat) (f : Core → Core) : State :=
  { s with cores := s.cores.map (fun (c : Nat × Core) => if c.1 / 34 = d then (c.1, f c.2) else c) }

theorem Tab.find?_mapIf {α : Type} (p : Nat → Prop) [DecidablePred p] (f : α → α) (t : Tab α) (i : Nat) :
    Tab.find? (t.map (fun c => if p c.1 then (c.1, f c.2) else c)) i = (Tab.find? t i).map (fun v => if p i then f v else v) := by
  induction t with
  | nil => rfl
  | cons x t ih =>
    obtain ⟨k, v⟩ := x
    by_cases hk : i = k
    · subst hk
      by_cases hp : p i <;> simp [Tab.find?, hp]
    · by_cases hp : p k <;> simp [Tab.find?, hk, hp, ih]

/-- A core that is listed, and of the die, is the function of what it was; the cores of other dies stay. -/
theorem State.find?_onDie (s : State) (d : Nat) (f : Core → Core) (i : Nat) :
    Tab.find? (s.onDie d f).cores i = (Tab.find? s.cores i).map (fun c => if i / 34 = d then f c else c) :=
  Tab.find?_mapIf (fun k => k / 34 = d) f s.cores i

theorem State.core_onDie {s : State} {d p : Nat} (hp : p < 34) {c : Core} (hc : Tab.find? s.cores (34 * d + p) = some c) (f : Core → Core) :
    Tab.find? (s.onDie d f).cores (34 * d + p) = some (f c) := by
  rw [State.find?_onDie, hc, Option.map_some, if_pos (by omega)]

theorem State.core_onDie_other {s : State} {d n p : Nat} (hp : p < 34) (hn : n ≠ d) (f : Core → Core) :
    (s.onDie d f).core n p = s.core n p := by
  unfold State.core Tab.read
  rw [State.find?_onDie]
  cases Tab.find? s.cores (34 * n + p) with
  | none => rfl
  | some c => rw [Option.map_some, if_neg (by omega)]

/-- The steps of a barrier on one die, each a state of its own. -/
def State.barrierCount (s : State) (d : Nat) : State := s.setReg (ringBase d + 0x18) (s.reg (ringBase d + 0x18) + 1)

/-- Injections of the next layer may start. -/
def Ring.opened (r : Ring) (edge : Nat) : Ring :=
  { r with lastBarrier := edge, stations := r.stations.map (fun t =>
      (t.1, { t.2 with injQ := t.2.injQ.map (fun i => { i with nextWindow := false }) })) }

def State.barrierCredits (s : State) (edge d : Nat) : State := ((s.barrierCount d).refillCredits d edge).modRing d (fun r => r.opened edge)

/-- The marks of windows that close. -/
def State.closingMarks (s : State) (d : Nat) : List Nat :=
  (s.cores.filter (fun (c : Nat × Core) => c.1 / 34 == d)).flatMap (fun (c : Nat × Core) =>
    (if c.2.fwd.barrier then c.2.fwd.waited else []) ++ (if c.2.bwd.barrier then c.2.bwd.waited else []))

/-- Active cores of a die wake. -/
def State.wakeActive (s : State) (d : Nat) : State := (List.range 34).foldl (fun s j => if s.active d j then s.wakeSeen (domCore d j) else s) s

/-- The work of the step is abandoned on a die. -/
def State.abandonDie (s : State) (d : Nat) : State :=
  { s.onDie d Core.abandon with step := { s.step with abandonedDies := s.step.abandonedDies ++ [d] } }

theorem State.barrierOn_eq (s : State) (edge d : Nat) : s.barrierOn edge d =
    (if s.abandoning then ((((s.barrierCredits edge d).onDie d (fun c => c.reopen edge)).clearMarks (s.closingMarks d)).wakeActive d).abandonDie d
     else ((((s.barrierCredits edge d).onDie d (fun c => c.reopen edge)).clearMarks (s.closingMarks d)).wakeActive d)).count
      (blkCd d) 0x25 0x1FF 1 := by
  unfold barrierOn
  extract_lets closing s1 s2 reopened s3 s4 s5 ended stop stopped st6 s6
  have h2 : s2 = s.barrierCredits edge d := rfl
  have h3 : s3 = (s.barrierCredits edge d).onDie d (fun c => c.reopen edge) := rfl
  have hc : closing = s.closingMarks d := rfl
  have h4 : s4 = s3.clearMarks closing := rfl
  have h5 : s5 = s4.wakeActive d := rfl
  clear_value s5
  have h6 : s6 = if s.abandoning then s5.abandonDie d else s5 := rfl
  rw [h6, h5, h4, h3, hc]

theorem State.wakeActive_frame (s : State) (d : Nat) : s.wakeActive d = { s with domains := (s.wakeActive d).domains } := by
  unfold wakeActive
  induction List.range 34 generalizing s with
  | nil => rfl
  | cons j l ih =>
    rw [List.foldl_cons, ih]
    split
    · rw [(State.wakeSeen_frame s (domCore d j)).1]
    · rfl

/-- What barrier edges on some dies leave. -/
structure BarrierLeaves (l : List Nat) (s t : State) : Prop where
  edge : t.edge = s.edge
  mem : t.mem = s.mem
  dies : t.dies = s.dies
  dep : t.dep = s.dep
  outer : t.outer = s.outer
  regs : ∀ o, (∀ n ∈ l, o ≠ ringBase n + 0x18) → t.reg o = s.reg o
  rings : sameBut t.rings s.rings l
  cores : ∀ n ∉ l, ∀ p < 34, t.core n p = s.core n p
  abandoning : t.abandoning = s.abandoning

theorem BarrierLeaves.refl (s : State) : BarrierLeaves [] s s :=
  ⟨rfl, rfl, rfl, rfl, rfl, fun _ _ => rfl, sameBut_refl _ _, fun _ _ _ _ => rfl, rfl⟩

theorem BarrierLeaves.trans {l l' : List Nat} {s t u : State} (h : BarrierLeaves l s t) (h' : BarrierLeaves l' t u) :
    BarrierLeaves (l ++ l') s u where
  edge := h'.edge.trans h.edge
  mem := h'.mem.trans h.mem
  dies := h'.dies.trans h.dies
  dep := h'.dep.trans h.dep
  outer := h'.outer.trans h.outer
  regs o ho := (h'.regs o fun n hn => ho n (List.mem_append_right _ hn)).trans (h.regs o fun n hn => ho n (List.mem_append_left _ hn))
  rings := sameBut_trans (sameBut_mono h'.rings (List.subset_append_right l l')) (sameBut_mono h.rings (List.subset_append_left l l'))
  cores n hn p hp := (h'.cores n (fun hmem => hn (List.mem_append_right _ hmem)) p hp).trans
    (h.cores n (fun hmem => hn (List.mem_append_left _ hmem)) p hp)
  abandoning := h'.abandoning.trans h.abandoning

/-- A ring's offset for LAYER_COUNT is not that of TLR_STEP. -/
theorem ringBase_ne_tlrStep (d : Nat) : tlrBase 0 + 0x20 ≠ ringBase d + 0x18 := by
  simp only [tlrBase, ringBase]
  omega

theorem State.abandoning_of {s t : State} (hfaulted : t.step.faulted = s.step.faulted) (hpost : t.step.post = s.step.post)
    (hstamps : t.step.stamps = s.step.stamps) (hreg : t.reg (tlrBase 0 + 0x20) = s.reg (tlrBase 0 + 0x20)) :
    t.abandoning = s.abandoning := by
  simp only [State.abandoning, State.tlrStep, hfaulted, hpost, hstamps, hreg]

/-- The state before a barrier is counted (R149, R197). -/
def State.barrierOpen (s : State) (edge d : Nat) : State :=
  ((((s.barrierCredits edge d).onDie d (fun c => c.reopen edge)).clearMarks (s.closingMarks d)).wakeActive d)

theorem State.barrierOn_open (s : State) (edge d : Nat) : s.barrierOn edge d =
    (if s.abandoning then (s.barrierOpen edge d).abandonDie d else s.barrierOpen edge d).count (blkCd d) 0x25 0x1FF 1 :=
  State.barrierOn_eq s edge d

/-- What stays as a barrier is opened: all but the ring, the registers, the cores, the marks of messages and the domains. -/
theorem State.barrierOpen_frame (s : State) (edge d : Nat) : s.barrierOpen edge d =
    { s with regs := (s.barrierCredits edge d).regs, rings := (s.barrierCredits edge d).rings,
             cores := ((s.barrierCredits edge d).onDie d (fun c => c.reopen edge)).cores,
             link := (s.barrierOpen edge d).link, domains := (s.barrierOpen edge d).domains } := by
  have hcredits : s.barrierCredits edge d = { s with regs := (s.barrierCredits edge d).regs, rings := (s.barrierCredits edge d).rings } := by
    have hfill := ((s.barrierCount d).refillCredits_refills d edge).1.frame
    rw [State.barrierCredits, hfill]
    rfl
  generalize hu : s.barrierCredits edge d = u at hcredits
  have hwake := State.wakeActive_frame ((u.onDie d (fun c => c.reopen edge)).clearMarks (s.closingMarks d)) d
  have hopen : s.barrierOpen edge d = ((u.onDie d (fun c => c.reopen edge)).clearMarks (s.closingMarks d)).wakeActive d := by
    rw [State.barrierOpen, hu]
  rw [hopen, hwake]
  generalize State.domains _ = x
  rw [hcredits]
  rfl

theorem State.barrierCredits_regs (s : State) (edge d : Nat) :
    (s.barrierCredits edge d).regs = (s.barrierCount d).regs := by
  rw [State.barrierCredits, ((s.barrierCount d).refillCredits_refills d edge).1.frame]
  rfl

theorem State.barrierCredits_rings (s : State) (edge d : Nat) : sameBut (s.barrierCredits edge d).rings s.rings [d] :=
  sameBut_trans (RingOnly.modRing _ d _).rings ((s.barrierCount d).refillCredits_refills d edge).1.rings

theorem State.core_of_cores {s t : State} (h : t.cores = s.cores) (d p : Nat) : t.core d p = s.core d p :=
  congrArg (fun c => Tab.read ({} : Core) c (34 * d + p)) h

theorem State.barrierOpen_leaves (s : State) (edge d : Nat) : BarrierLeaves [d] s (s.barrierOpen edge d) := by
  have hframe := s.barrierOpen_frame edge d
  have hregs : ∀ o, (∀ n ∈ [d], o ≠ ringBase n + 0x18) → (s.barrierOpen edge d).reg o = s.reg o := fun o ho => by
    have h1 : (s.barrierOpen edge d).regs = (s.barrierCount d).regs := by
      rw [hframe]
      exact s.barrierCredits_regs edge d
    rw [State.reg_of_regs h1 o]
    exact State.reg_setReg_other s _ (ho d (List.mem_singleton_self d))
  have hstep : (s.barrierOpen edge d).step = s.step := by rw [hframe]
  refine ⟨by rw [hframe], by rw [hframe], by rw [hframe], by rw [hframe], by rw [hframe]; rfl, hregs, ?_, fun n hn p hp => ?_,
    State.abandoning_of (by rw [hstep]) (by rw [hstep]) (by rw [hstep]) (hregs _ fun n _ => ringBase_ne_tlrStep n)⟩
  · rw [hframe]
    exact s.barrierCredits_rings edge d
  · have h1 : (s.barrierOpen edge d).cores = ((s.barrierCredits edge d).onDie d (fun c => c.reopen edge)).cores := by rw [hframe]
    have h2 : (s.barrierCredits edge d).cores = s.cores := by
      rw [State.barrierCredits, ((s.barrierCount d).refillCredits_refills d edge).1.frame]
      rfl
    rw [State.core_of_cores h1, State.core_onDie_other hp (by simpa using hn), State.core_of_cores h2]

/-- Everything but its own die is left by the barrier edge on a die. -/
theorem State.barrierOn_leaves (s : State) (edge d : Nat) : BarrierLeaves [d] s (s.barrierOn edge d) := by
  have hopen := s.barrierOpen_leaves edge d
  rw [State.barrierOn_open]
  generalize s.barrierOpen edge d = u at hopen
  have hcount : ∀ v : State, BarrierLeaves [] v (v.count (blkCd d) 0x25 0x1FF 1) := fun v =>
    ⟨by simp, by simp, by simp, by simp, by simp, fun o _ => State.reg_of_regs (by simp) o, by rw [State.count_rings]; exact sameBut_refl _ _,
      fun n _ p _ => State.core_of_cores (by simp) n p, State.abandoning_of (by simp) (by simp) (by simp) (State.reg_of_regs (by simp) _)⟩
  have habandon : BarrierLeaves [d] u (u.abandonDie d) :=
    ⟨rfl, rfl, rfl, rfl, rfl, fun o _ => rfl, sameBut_refl _ _, fun n hn p hp => State.core_onDie_other hp (by simpa using hn) _, rfl⟩
  have hall : BarrierLeaves [d] s (if s.abandoning then u.abandonDie d else u) := by
    split
    · exact ⟨habandon.edge.trans hopen.edge, habandon.mem.trans hopen.mem, habandon.dies.trans hopen.dies, habandon.dep.trans hopen.dep,
        habandon.outer.trans hopen.outer, fun o ho => (habandon.regs o ho).trans (hopen.regs o ho), sameBut_trans habandon.rings hopen.rings,
        fun n hn p hp => (habandon.cores n hn p hp).trans (hopen.cores n hn p hp), habandon.abandoning.trans hopen.abandoning⟩
    · exact hopen
  have := hall.trans (hcount _)
  simpa using this

theorem BarrierLeaves.foldl (edge : Nat) (l : List Nat) (s : State) : BarrierLeaves l s (l.foldl (fun t n => t.barrierOn edge n) s) := by
  induction l generalizing s with
  | nil => exact .refl s
  | cons d l ih => exact (s.barrierOn_leaves edge d).trans (ih _)

theorem BarrierLeaves.creditStart {l : List Nat} {s t : State} (h : BarrierLeaves l s t) {n k : Nat} (hk : k < 4) :
    t.creditStart n k = s.creditStart n k := by
  have hreg : t.reg (creditCfg n k) = s.reg (creditCfg n k) := h.regs _ fun m _ => by
    simp only [creditCfg, ringBase]
    omega
  have hrf : ∀ hi lo, t.rf (creditCfg n k) hi lo = s.rf (creditCfg n k) hi lo := fun hi lo => by rw [State.rf, State.rf, hreg]
  have hon : t.creditOn n k = s.creditOn n k := by rw [State.creditOn, State.creditOn, hrf, hrf]
  rw [State.creditStart, State.creditStart, hon, State.creditInit, State.creditInit, hrf]

/-- What the barrier edge does on a die of the ring. -/
structure BarrierTaken (s t : State) (edge n : Nat) : Prop where
  layers : t.reg (ringBase n + 0x18) = s.reg (ringBase n + 0x18) + 1
  counts : ∀ k < 4, Tab.read 0 (t.ring n).counts k = s.creditStart n k
  opened : s.abandoning = false → ∀ (p : Fin 34) (st : StreamId), ((s.core n p.val).stream st).barrier = true →
    (t.core n p.val).stream st = { (s.core n p.val).stream st with barrier := false, window := edge, slipped := false, waited := [] }
  ended : s.abandoning = true → ∀ (p : Fin 34) (st : StreamId), ((s.core n p.val).stream st).barrier = true →
    ((t.core n p.val).stream st).ended = true ∧ ((t.core n p.val).stream st).buf = []

/-- A core with a stream at its barrier is listed. -/
theorem State.listed_of_barrier {s : State} {n p : Nat} {st : StreamId} (h : ((s.core n p).stream st).barrier = true) :
    Tab.find? s.cores (34 * n + p) = some (s.core n p) := by
  unfold State.core Tab.read at *
  cases hc : Tab.find? s.cores (34 * n + p) with
  | none =>
    rw [hc] at h
    cases st <;> exact absurd h (by decide)
  | some c => rfl

theorem State.core_of_find {s : State} {n p : Nat} {c : Core} (h : Tab.find? s.cores (34 * n + p) = some c) : s.core n p = c := by
  rw [State.core, Tab.read, h]
  rfl

theorem Core.stream_reopen (c : Core) (edge : Nat) (st : StreamId) : (c.reopen edge).stream st = (c.stream st).reopen edge := by
  cases st <;> rfl

theorem Core.stream_abandon (c : Core) (st : StreamId) : c.abandon.stream st = { c.stream st with ended := true, buf := [] } := by
  cases st <;> rfl

theorem State.ring_of_rings {s t : State} (h : t.rings = s.rings) (d : Nat) : t.ring d = s.ring d :=
  congrArg (fun r => Tab.read ({} : Ring) r d) h

theorem State.barrierOn_taken (s : State) (edge n : Nat) : BarrierTaken s (s.barrierOn edge n) edge n := by
  have hframe := s.barrierOpen_frame edge n
  have hlisted : ∀ (p : Fin 34) (st : StreamId), ((s.core n p.val).stream st).barrier = true →
      Tab.find? (s.barrierOpen edge n).cores (34 * n + p.val) = some ((s.core n p.val).reopen edge) := fun p st hb => by
    have h1 : (s.barrierOpen edge n).cores = ((s.barrierCredits edge n).onDie n (fun c => c.reopen edge)).cores := by rw [hframe]
    have h2 : (s.barrierCredits edge n).cores = s.cores := by
      rw [State.barrierCredits, ((s.barrierCount n).refillCredits_refills n edge).1.frame]
      rfl
    rw [h1]
    exact State.core_onDie p.isLt (by rw [h2]; exact State.listed_of_barrier hb) _
  have hreg : (s.barrierOpen edge n).reg (ringBase n + 0x18) = s.reg (ringBase n + 0x18) + 1 := by
    have h1 : (s.barrierOpen edge n).regs = (s.barrierCount n).regs := by
      rw [hframe]
      exact s.barrierCredits_regs edge n
    rw [State.reg_of_regs h1, State.barrierCount, State.reg_setReg_same]
  have hcounts : ∀ k < 4, Tab.read 0 ((s.barrierOpen edge n).ring n).counts k = s.creditStart n k := fun k hk => by
    have h1 : (s.barrierOpen edge n).rings = (s.barrierCredits edge n).rings := by rw [hframe]
    have h2 : ((s.barrierCredits edge n).ring n).counts = (((s.barrierCount n).refillCredits n edge).ring n).counts := by
      rw [State.barrierCredits, State.ring_modRing_same]
      rfl
    rw [State.ring_of_rings h1, h2, ((s.barrierCount n).refillCredits_refills n edge).2 k hk]
    have hsame : BarrierLeaves [n] s (s.barrierCount n) :=
      ⟨rfl, rfl, rfl, rfl, rfl, fun o ho => State.reg_setReg_other s _ (ho n (List.mem_singleton_self n)), sameBut_refl _ _,
        fun _ _ _ _ => rfl, State.abandoning_of rfl rfl rfl (State.reg_setReg_other s _ (ringBase_ne_tlrStep n))⟩
    exact hsame.creditStart hk
  rw [State.barrierOn_open]
  generalize s.barrierOpen edge n = u at hlisted hreg hcounts
  by_cases ha : s.abandoning = true
  · rw [if_pos ha]
    refine ⟨(State.reg_of_regs (State.count_regs _ _ _ _ _) _).trans hreg, fun k hk => ?_, fun h => absurd (ha.symm.trans h) (by decide), fun _ p st hb => ?_⟩
    · rw [State.ring_of_rings (State.count_rings _ _ _ _ _)]
      exact hcounts k hk
    · have hcore := State.core_onDie p.isLt (hlisted p st hb) Core.abandon
      rw [State.core_of_cores (State.count_cores _ _ _ _ _),
        show (u.abandonDie n).core n p.val = ((s.core n p.val).reopen edge).abandon from State.core_of_find hcore, Core.stream_abandon]
      exact ⟨rfl, rfl⟩
  · rw [if_neg ha]
    refine ⟨(State.reg_of_regs (State.count_regs _ _ _ _ _) _).trans hreg, fun k hk => ?_, fun _ p st hb => ?_, fun h => absurd h ha⟩
    · rw [State.ring_of_rings (State.count_rings _ _ _ _ _)]
      exact hcounts k hk
    · rw [State.core_of_cores (State.count_cores _ _ _ _ _), State.core_of_find (hlisted p st hb), Core.stream_reopen, Stream.reopen,
        if_pos hb]

/-- On each die of a list without repetition, the barrier edge is taken once. -/
theorem BarrierTaken.foldl (edge : Nat) {l : List Nat} (hl : l.Nodup) {n : Nat} (hn : n ∈ l) (s : State) :
    BarrierTaken s (l.foldl (fun t n => t.barrierOn edge n) s) edge n := by
  obtain ⟨a, b, rfl⟩ := List.append_of_mem hn
  obtain ⟨_, hcons, hdisj⟩ := List.nodup_append.1 hl
  have hna : n ∉ a := fun h => hdisj n h n (List.mem_cons_self ..) rfl
  have hnb : n ∉ b := (List.nodup_cons.1 hcons).1
  rw [List.foldl_append, List.foldl_cons]
  have ha := BarrierLeaves.foldl edge a s
  generalize a.foldl _ s = u at ha
  have ht := u.barrierOn_taken edge n
  generalize u.barrierOn edge n = v at ht
  have hb := BarrierLeaves.foldl edge b v
  generalize b.foldl _ v = w at hb
  have hoff : ∀ {l : List Nat}, n ∉ l → ∀ m ∈ l, ringBase n + 0x18 ≠ ringBase m + 0x18 := fun hnl m hm h => by
    have : n = m := by simp only [ringBase] at h; omega
    exact hnl (this ▸ hm)
  have hcoreA : ∀ p : Fin 34, u.core n p.val = s.core n p.val := fun p => ha.cores n hna p p.isLt
  have hcoreB : ∀ p : Fin 34, w.core n p.val = v.core n p.val := fun p => hb.cores n hnb p p.isLt
  have hring : w.ring n = v.ring n := read_of_sameBut hb.rings _ hnb
  refine ⟨?_, fun k hk => ?_, fun hnot p st hbar => ?_, fun hab p st hbar => ?_⟩
  · rw [hb.regs _ (hoff hnb), ht.layers, ha.regs _ (hoff hna)]
  · rw [hring, ht.counts k hk, ha.creditStart hk]
  · rw [hcoreB, ← hcoreA, ht.opened (ha.abandoning.trans hnot) p st (by rw [hcoreA]; exact hbar)]
  · rw [hcoreB]
    exact ht.ended (ha.abandoning.trans hab) p st (by rw [hcoreA]; exact hbar)

/-! ### The barrier edge (R149), and its time limit (R151) -/

theorem State.ringDies_nodup (s : State) (d : Nat) : (s.ringDies d).Nodup := by
  unfold ringDies
  split
  · decide
  · simp

/-- Edges that pass leave the registers of a ring. -/
theorem Passed.reg_ring {s t : State} (h : Passed s t) (d : Nat) {o : Nat} (ho : o < 0x10000) :
    t.reg (ringBase d + o) = s.reg (ringBase d + o) :=
  h.regs _ fun n p i hp hi => by
    simp only [ringBase, coreBase]
    omega

theorem Passed.creditStart {s t : State} (h : Passed s t) (n : Nat) {k : Nat} (hk : k < 4) : t.creditStart n k = s.creditStart n k := by
  have hreg : t.reg (creditCfg n k) = s.reg (creditCfg n k) := by
    have := h.reg_ring n (o := 0x20 + 8 * k) (by omega)
    rwa [← Nat.add_assoc] at this
  have hrf : ∀ hi lo, t.rf (creditCfg n k) hi lo = s.rf (creditCfg n k) hi lo := fun hi lo => by rw [State.rf, State.rf, hreg]
  have hon : t.creditOn n k = s.creditOn n k := by rw [State.creditOn, State.creditOn, hrf, hrf]
  rw [State.creditStart, State.creditStart, hon, State.creditInit, State.creditInit, hrf]

theorem State.at_abandoning (s : State) (e : Nat) : (s.at e).abandoning = s.abandoning :=
  State.abandoning_of (by simp) (by simp) (by simp) ((s.at_passed e).regs _ fun d p i _ _ => by simp only [tlrBase, coreBase]; omega)

theorem execBarrierEdge_taken (d : Fin 4) (ends : List PassEnd) {s : State} (halive : s.alive = true) (hruns : s.ringRuns d.val = true)
    (hdrained : ∀ n ∈ s.ringDies d.val, s.drained n = true) {u : State}
    (hu : u = (s.ringDies d.val).foldl (fun t n => t.barrierOn (s.barrierEdge d.val) n) (s.at (s.barrierEdge d.val))) :
    execBarrierEdge d s ends = .next { u with step := ends.foldl Step.passEnd u.step } := by
  subst hu
  unfold execBarrierEdge
  rw [if_pos (by rw [halive, hruns, List.all_eq_true.2 hdrained]; rfl)]

/-- The barrier edge. -/
theorem exec_barrierEdge_falls (d : Fin 4) (ends : List PassEnd) (s : State) (e : Nat) (halive : s.alive = true)
    (hruns : s.ringRuns d.val = true) (hdrained : ∀ n ∈ s.ringDies d.val, s.drained n = true) (he : e = s.barrierEdge d.val) :
    ∃ t, exec (.barrierEdge d ends) s = .next t ∧ t.edge = max s.edge e ∧ t.mem = s.mem ∧ t.dies = s.dies ∧ t.dep = s.dep ∧
      t.outer = s.outer ∧
      ∀ n ∈ s.ringDies d.val, t.reg (ringBase n + 0x18) = s.reg (ringBase n + 0x18) + 1 ∧
        (∀ k : Fin 4, s.creditOn n k.val = true → Tab.read 0 (t.ring n).counts k.val = s.creditInit n k.val) ∧
        ∀ (p : Fin 34) (st : StreamId), ((s.core n p.val).stream st).barrier = true →
          (s.abandoning = false → (t.core n p.val).stream st = { (s.core n p.val).stream st with
            barrier := false, window := e, slipped := false, waited := [] }) ∧
          (s.abandoning = true → ((t.core n p.val).stream st).ended = true ∧ ((t.core n p.val).stream st).buf = []) := by
  subst he
  have hleaves := BarrierLeaves.foldl (s.barrierEdge d.val) (s.ringDies d.val) (s.at (s.barrierEdge d.val))
  have htaken := fun n hn => BarrierTaken.foldl (s.barrierEdge d.val) (s.ringDies_nodup d.val) (n := n) hn (s.at (s.barrierEdge d.val))
  have hexec := execBarrierEdge_taken d ends halive hruns hdrained rfl
  generalize List.foldl _ (s.at (s.barrierEdge d.val)) (s.ringDies d.val) = u at hleaves htaken hexec
  have hpassed := s.at_passed (s.barrierEdge d.val)
  have haged := CoresAged.at s (s.barrierEdge d.val)
  have hstream : ∀ n p st, ((s.at (s.barrierEdge d.val)).core n p).stream st = (s.core n p).stream st := fun n p st => (haged.core n p).stream st
  refine ⟨_, hexec, hleaves.edge.trans (s.edge_at _), hleaves.mem.trans (by simp), hleaves.dies.trans (by simp), hleaves.dep.trans (by simp),
    hleaves.outer.trans (by simp), fun n hn => ?_⟩
  have ht := htaken n hn
  refine ⟨ht.layers.trans (by rw [hpassed.reg_ring n (by decide)]), fun k hon => ?_, fun p st hbar => ⟨fun hab => ?_, fun hab => ?_⟩⟩
  · refine (ht.counts k.val k.isLt).trans ((hpassed.creditStart n k.isLt).trans ?_)
    rw [State.creditStart, if_pos hon]
  · rw [← hstream]
    exact ht.opened ((s.at_abandoning _).trans hab) p st (by rw [hstream]; exact hbar)
  · exact ht.ended ((s.at_abandoning _).trans hab) p st (by rw [hstream]; exact hbar)

/-- While a die of the ring is not drained the barrier edge does not fall. -/
theorem exec_barrierEdge_held (d : Fin 4) (ends : List PassEnd) {s : State} (h : ∃ n ∈ s.ringDies d.val, s.drained n = false) :
    exec (.barrierEdge d ends) s = .next s := by
  obtain ⟨n, hn, hd⟩ := h
  have hall : (s.ringDies d.val).all (fun n => s.drained n) = false := List.all_eq_false.2 ⟨n, hn, by rw [hd]; decide⟩
  change execBarrierEdge d s ends = _
  unfold execBarrierEdge
  rw [if_neg (by rw [hall, Bool.and_false]; decide)]

end Sys2Proof.Machine
end

section
/-! SUPPORT. The time limit of the layer barrier, and RING_CTL (R130, R139, R151, R159, R166). -/

namespace Sys2Proof.Machine

/-- Ring faults leave all but the fault registers of rings and links, and what reports reach. -/
structure Flagged (s t : State) : Prop where
  frame : t = { s with regs := t.regs, recent := t.recent, step := t.step, link := t.link, jnl := t.jnl, fatal := t.fatal, rec_ := t.rec_ }
  regs : ∀ o, (∀ n, o ≠ ringBase n + 0xC) → (∀ n, o ≠ vlBase n + 0xC) → t.reg o = s.reg o
  outer : t.outer = s.outer

theorem Flagged.refl (s : State) : Flagged s s := ⟨rfl, fun _ _ _ => rfl, rfl⟩

theorem Flagged.trans {s t u : State} (h : Flagged s t) (h' : Flagged t u) : Flagged s u :=
  ⟨by rw [h'.frame, h.frame], fun o h1 h2 => (h'.regs o h1 h2).trans (h.regs o h1 h2), h'.outer.trans h.outer⟩

theorem Flagged.ringFault (s : State) (d j : Nat) (bs : List Nat) : Flagged s (s.ringFault d j bs) :=
  ⟨s.ringFault_frame d j bs, fun _ h1 h2 => s.reg_ringFault_other j bs (h1 d) h2, by simp⟩

theorem Flagged.foldl (l : List Nat) (bs : List Nat) (s : State) : Flagged s (l.foldl (fun s n => s.ringFault n 0 bs) s) := by
  induction l generalizing s with
  | nil => exact .refl s
  | cons n l ih => exact (Flagged.ringFault s n 0 bs).trans (ih _)

/-- A new ring fault stands, whether it stood before or not. -/
theorem State.ringFaultNew_raises (s : State) (d : Fin 4) (j : Nat) {b : Nat} (hb : b < 32) :
    Flagged s (s.ringFaultNew d.val j b) ∧ bit ((s.ringFaultNew d.val j b).reg (ringBase d.val + 0xC)).toNat b = true := by
  unfold ringFaultNew
  split
  · next h =>
    refine ⟨.refl s, ?_⟩
    simpa [State.rf, bits, bit] using h
  · exact ⟨.ringFault s _ j _, State.bit_ringFault s d j hb (List.mem_singleton_self b)⟩

theorem exec_barrierTimeout_over (d : Fin 4) {s : State} (halive : s.alive = true) (hon : s.ringOn d.val = true)
    (hlimit : s.rf (ringBase d.val + 4) 19 4 ≠ 0) (hdrained : s.drained d.val = false) :
    exec (.barrierTimeout d) s =
      .next ((s.at ((s.ring d.val).lastBarrier + 65536 * s.rf (ringBase d.val + 4) 19 4 + 1)).ringFaultNew d.val 0 rfBarrier) := by
  change execBarrierTimeout d s = _
  unfold execBarrierTimeout
  rw [if_pos (by simp [halive, hon, hlimit, hdrained])]

/-- BARRIER_TIMEOUT. -/
theorem exec_barrierTimeout (d : Fin 4) (s : State) (halive : s.alive = true) (hon : s.ringOn d.val = true)
    (hlimit : s.rf (ringBase d.val + 4) 19 4 ≠ 0) (hdrained : s.drained d.val = false) :
    ∃ t, exec (.barrierTimeout d) s = .next t ∧ bit (t.reg (ringBase d.val + 0xC)).toNat rfBarrier = true ∧
      (s.ring d.val).lastBarrier + 65536 * s.rf (ringBase d.val + 4) 19 4 < t.edge ∧ t.mem = s.mem ∧ t.rings = s.rings ∧
      t.dies = s.dies ∧ t.dep = s.dep ∧ t.outer = s.outer := by
  have hexec := exec_barrierTimeout_over d halive hon hlimit hdrained
  generalize hdue : (s.ring d.val).lastBarrier + 65536 * s.rf (ringBase d.val + 4) 19 4 = due at hexec ⊢
  obtain ⟨hflag, hbit⟩ := (s.at (due + 1)).ringFaultNew_raises d 0 (show rfBarrier < 32 by decide)
  generalize State.ringFaultNew _ _ _ _ = t at hexec hflag hbit
  refine ⟨t, hexec, hbit, ?_, ?_, ?_, ?_, ?_, hflag.outer.trans (by simp)⟩
  · rw [hflag.frame]
    change due < (s.at (due + 1)).edge
    rw [State.edge_at]
    omega
  · rw [hflag.frame]; exact State.at_mem _ _
  · rw [hflag.frame]; exact State.at_rings _ _
  · rw [hflag.frame]; exact State.at_dies _ _
  · rw [hflag.frame]; exact State.at_dep _ _

/-! ### RING_CTL (R130, R139, R159) -/

/-- The rings and registers as a ring starts, before its settings are checked. -/
def State.ringLoaded (s : State) (d : Nat) : State :=
  ((((s.setRf (ringBase d + 4) 0 0 1).setReg (ringBase d + 0x18) 0).refillCredits d s.edge).modRing d
    (fun r => { r with lastBarrier := s.edge, eventAt := max r.eventAt s.edge }))

/-- The checks of a ring that starts set fault bits and do no more. -/
theorem State.ringStart_flagged (s : State) (d : Nat) : Flagged (s.ringLoaded d) (s.ringStart d) := by
  unfold ringStart
  extract_lets s1 s2 s3 s4 others
  have h3 : s3 = s.ringLoaded d := rfl
  have h4 : Flagged s3 s4 := by
    change Flagged s3 (if _ then s3.ringFault d 0 [rfCreditRange] else s3)
    split
    · exact .ringFault _ _ _ _
    · exact .refl _
  rw [← h3]
  split
  · exact h4
  · exact h4.trans (.foldl _ _ _)

theorem State.ringLoaded_frame (s : State) (d : Nat) :
    s.ringLoaded d = { s with regs := (s.ringLoaded d).regs, rings := (s.ringLoaded d).rings } ∧
    (s.ringLoaded d).regs = ((s.setRf (ringBase d + 4) 0 0 1).setReg (ringBase d + 0x18) 0).regs ∧
    sameBut (s.ringLoaded d).rings s.rings [d] ∧
    ∀ k < 4, Tab.read 0 ((s.ringLoaded d).ring d).counts k =
      ((s.setRf (ringBase d + 4) 0 0 1).setReg (ringBase d + 0x18) 0).creditStart d k := by
  obtain ⟨hfill, hcounts⟩ := ((s.setRf (ringBase d + 4) 0 0 1).setReg (ringBase d + 0x18) 0).refillCredits_refills d s.edge
  have hring : ((s.ringLoaded d).ring d).counts =
      ((((s.setRf (ringBase d + 4) 0 0 1).setReg (ringBase d + 0x18) 0).refillCredits d s.edge).ring d).counts := by
    rw [State.ringLoaded, State.ring_modRing_same]
  have hload : RingOnly d ((s.setRf (ringBase d + 4) 0 0 1).setReg (ringBase d + 0x18) 0) (s.ringLoaded d) :=
    hfill.trans (RingOnly.modRing _ d _)
  generalize s.ringLoaded d = t at hring hload
  refine ⟨?_, ?_, hload.rings, fun k hk => ?_⟩
  · rw [hload.frame]
    rfl
  · rw [hload.frame]
  · rw [hring]
    exact hcounts k hk

/-- RING_ENABLE of a ring that is off. -/
theorem exec_ringEnable (d : Fin 4) (s : State) (hon : s.power.phase = .on) (hoff : s.ringOn d.val = false) :
    ∃ t, exec (.ringEnable .firmware d) s = .next t ∧ t.ringOn d.val = true ∧ t.reg (ringBase d.val + 0x18) = 0 ∧
      (∀ k : Fin 4, s.creditOn d.val k.val = true → Tab.read 0 (t.ring d.val).counts k.val = s.creditInit d.val k.val) ∧
      sameBut t.rings s.rings [d.val] ∧ t.mem = s.mem ∧ t.cores = s.cores ∧ t.dies = s.dies ∧ t.dep = s.dep ∧ t.edge = s.edge ∧
      t.outer = s.outer := by
  have hexec : exec (.ringEnable .firmware d) s = .next (s.ringStart d.val) :=
    congrArg Host.Outcome.next ((if_neg (by simp [hoff])).trans (State.gate_firmware hon _ _ _))
  have hflag := s.ringStart_flagged d.val
  obtain ⟨hframe, hregs, hrings, hcounts⟩ := s.ringLoaded_frame d.val
  generalize s.ringStart d.val = t at hexec hflag
  generalize s.ringLoaded d.val = u at hflag hframe hregs hrings hcounts
  have hreg : ∀ o < 0x10000, o ≠ 0xC → t.reg (ringBase d.val + o) = u.reg (ringBase d.val + o) := fun o ho hne =>
    hflag.regs _ (fun n => by simp only [ringBase]; omega) (fun n => by simp only [ringBase, vlBase]; omega)
  have hringt : t.rings = u.rings := by rw [hflag.frame]
  have hen : u.rf (ringBase d.val + 4) 0 0 = 1 := by
    rw [State.rf_of_regs hregs, State.rf, State.reg_setReg_other _ _ (by omega), ← State.rf, State.rf_setRf_same _ _ _ _ (by omega)]
    rfl
  refine ⟨t, hexec, ?_, ?_, fun k hk => ?_, ?_, ?_, ?_, ?_, ?_, ?_, ?_⟩
  · rw [State.ringOn, State.rf, hreg 4 (by omega) (by omega), ← State.rf, hen]
    rfl
  · rw [hreg 0x18 (by omega) (by omega), State.reg_of_regs hregs, State.reg_setReg_same]
  · rw [State.ring_of_rings hringt, hcounts k.val k.isLt]
    have hcfg : ∀ hi lo, ((s.setRf (ringBase d.val + 4) 0 0 1).setReg (ringBase d.val + 0x18) 0).rf (creditCfg d.val k.val) hi lo =
        s.rf (creditCfg d.val k.val) hi lo := fun hi lo => by
      rw [State.rf, State.rf, State.reg_setReg_other _ _ (by simp only [creditCfg]; omega),
        State.reg_setRf_other _ _ _ _ (by simp only [creditCfg]; omega)]
    have hkept : ((s.setRf (ringBase d.val + 4) 0 0 1).setReg (ringBase d.val + 0x18) 0).creditOn d.val k.val = true := by
      rw [← hk, State.creditOn, State.creditOn, hcfg, hcfg]
    rw [State.creditStart, if_pos hkept, State.creditInit, State.creditInit, hcfg]
  · rw [hringt]; exact hrings
  · rw [hflag.frame, hframe]
  · rw [hflag.frame, hframe]
  · rw [hflag.frame, hframe]
  · rw [hflag.frame, hframe]
  · rw [hflag.frame, hframe]
  · rw [hflag.outer, hframe]
    rfl

/-- SPAN takes the value written. -/
theorem State.package_setSpan (s : State) (d : Nat) (package : Bool) :
    (s.setRf (ringBase d + 4) 1 1 (b2n package)).package d = package := by
  rw [State.package, State.rf_setRf_same _ _ _ _ (by omega)]
  cases package <;> rfl

/-- RING_SPAN_WRITE. -/
theorem exec_ringSpanWrite (d : Fin 4) (package : Bool) (s : State) (hon : s.power.phase = .on) :
    (s.ringOn d.val = false → s.drained d.val = true → ∃ t, exec (.ringSpanWrite .firmware d package) s = .next t ∧
      t.package d.val = package ∧ t = { s with regs := t.regs } ∧ sameBut t.regs s.regs [ringBase d.val + 4]) ∧
    (s.ringOn d.val = true ∨ s.drained d.val = false → exec (.ringSpanWrite .firmware d package) s =
      .next (s.notice (Err.aon .notice 0x0A21 0 0 (ringBase d.val + 4)))) := by
  refine ⟨fun hoff hdrained => ?_, fun h => ?_⟩
  · refine ⟨s.setRf (ringBase d.val + 4) 1 1 (b2n package), ?_, s.package_setSpan d.val package, rfl, sameBut_write _ _ _ _ (by simp)⟩
    exact congrArg Host.Outcome.next ((State.gate_firmware hon _ _ _).trans (if_pos (by simp [hoff, hdrained])))
  · refine congrArg Host.Outcome.next ((State.gate_firmware hon _ _ _).trans (if_neg ?_))
    rcases h with h | h <;> simp [h]

/-- Settles O22: the barrier folds over the dies of the ring, and each leaves the others. -/
theorem barrierAndRingControl : Obligations.BarrierAndRingControl := by
  refine ⟨⟨exec_barrierEdge_falls, fun d ends s h => exec_barrierEdge_held d ends h, exec_barrierTimeout⟩, exec_ringEnable,
    fun by_ d s hon => congrArg Host.Outcome.next (if_pos hon), fun d s hon hring => ?_, exec_ringSpanWrite, fun by_ d s hon => ?_⟩
  · refine ⟨s.setRf (ringBase d.val + 4) 0 0 0, congrArg Host.Outcome.next ((if_pos hring).trans (State.gate_firmware hon _ _ _)), ?_, rfl,
      sameBut_write _ _ _ _ (by simp), State.rf_setRf_disjoint _ _ _ (by omega) (by omega)⟩
    rw [State.ringOn, State.rf_setRf_same _ _ _ _ (by omega)]
    rfl
  · refine ⟨s.clearRf (ringBase d.val + 0x40) 15 0, congrArg Host.Outcome.next (State.gate_open hon _ _ by_), rfl,
      sameBut_write _ _ _ _ (by simp), ?_⟩
    rw [State.clearRf, State.rf_setRf_same _ _ _ _ (by omega)]
    split <;> rfl

end Sys2Proof.Machine
end

section
/-! SUPPORT. Stations and hops of the rings: what a change of one leaves of the others, and what a flit does that is sent (R125 to R129). -/

namespace Sys2Proof.Machine

/-! ### Stations and hops -/

theorem State.station_modStation_same (s : State) (d j : Nat) (f : Station → Station) :
    (s.modStation d j f).station d j = f (s.station d j) := by
  rw [State.station, State.modStation, State.ring_modRing_same]
  exact Tab.read_write_same _ _ _ _

theorem State.station_modStation_other (s : State) {d j n i : Nat} (f : Station → Station) (h : n ≠ d ∨ i ≠ j) :
    (s.modStation d j f).station n i = s.station n i := by
  by_cases hn : n = d
  · subst hn
    rw [State.station, State.modStation, State.ring_modRing_same]
    exact Tab.read_write_other _ _ _ _ (h.resolve_left (by simp))
  · rw [State.station, State.modStation, State.ring_modRing_other _ _ hn, State.station]

/-- A station's field stays where a change of a station keeps it. -/
theorem State.station_modStation_field {α : Type} (s : State) (d j n i : Nat) {f : Station → Station} (g : Station → α)
    (hg : ∀ x, g (f x) = g x) : g ((s.modStation d j f).station n i) = g (s.station n i) := by
  by_cases h : n ≠ d ∨ i ≠ j
  · rw [State.station_modStation_other s f h]
  · obtain ⟨rfl, rfl⟩ : n = d ∧ i = j := by
      rw [not_or, not_not, not_not] at h
      exact h
    rw [State.station_modStation_same, hg]

/-- A part of a ring stays where a change of a ring keeps it. -/
theorem State.ring_modRing_field {α : Type} (s : State) (d n : Nat) {f : Ring → Ring} (g : Ring → α) (hg : ∀ r, g (f r) = g r) :
    g ((s.modRing d f).ring n) = g (s.ring n) := by
  by_cases h : n = d
  · subst h
    rw [State.ring_modRing_same, hg]
  · rw [State.ring_modRing_other _ _ h]

theorem State.hop_of_rings {s t : State} (h : ∀ n, (t.ring n).hops = (s.ring n).hops) (n i : Nat) (l : Lane) : t.hop n i l = s.hop n i l := by
  rw [State.hop, State.hop, h n]

theorem State.station_of_ring {s t : State} {n : Nat} (h : (t.ring n).stations = (s.ring n).stations) (i : Nat) :
    t.station n i = s.station n i := by rw [State.station, State.station, Ring.station, Ring.station, h]

theorem State.hop_modRing (s : State) (d : Nat) {f : Ring → Ring} (hf : ∀ r, (f r).hops = r.hops) (n i : Nat) (lane : Lane) :
    (s.modRing d f).hop n i lane = s.hop n i lane := State.hop_of_rings (fun m => s.ring_modRing_field d m Ring.hops hf) n i lane

theorem State.station_modRing (s : State) (d : Nat) {f : Ring → Ring} (hf : ∀ r, (f r).stations = r.stations) (n i : Nat) :
    (s.modRing d f).station n i = s.station n i := State.station_of_ring (s.ring_modRing_field d n Ring.stations hf) i

theorem State.hop_setHop_same (s : State) (d j : Nat) (lane : Lane) (l : List RingFlit) : (s.setHop d j lane l).hop d j lane = l := by
  rw [State.hop, State.setHop, State.ring_modRing_same]
  exact Tab.read_write_same _ _ _ _

theorem State.hop_setHop_other (s : State) {d j n i : Nat} (lane : Lane) (l : List RingFlit) (h : n ≠ d ∨ i ≠ j) :
    (s.setHop d j lane l).hop n i lane = s.hop n i lane := by
  by_cases hn : n = d
  · subst hn
    rw [State.hop, State.setHop, State.ring_modRing_same]
    refine Tab.read_write_other _ _ _ _ fun hk => h.resolve_left (by simp) ?_
    simp only [hopKey] at hk
    omega
  · rw [State.hop, State.setHop, State.ring_modRing_other _ _ hn, State.hop]

theorem State.station_setHop (s : State) (d j n i : Nat) (lane : Lane) (l : List RingFlit) :
    (s.setHop d j lane l).station n i = s.station n i := by
  unfold setHop
  refine s.station_modRing d ?_ n i
  exact fun _ => rfl

theorem State.hop_modStation (s : State) (d j n i : Nat) (lane : Lane) (f : Station → Station) :
    (s.modStation d j f).hop n i lane = s.hop n i lane := by
  unfold modStation
  refine s.hop_modRing d ?_ n i lane
  exact fun _ => rfl

theorem State.hop_ringEvent (s : State) (d e n i : Nat) (lane : Lane) : (s.ringEvent d e).hop n i lane = s.hop n i lane := by
  unfold ringEvent
  refine s.hop_modRing d ?_ n i lane
  exact fun _ => rfl

theorem State.station_ringEvent (s : State) (d e n i : Nat) : (s.ringEvent d e).station n i = s.station n i := by
  unfold ringEvent
  refine s.station_modRing d ?_ n i
  exact fun _ => rfl

theorem State.hop_at (s : State) (e n i : Nat) (lane : Lane) : (s.at e).hop n i lane = s.hop n i lane :=
  State.hop_of_rings (fun m => congrArg Ring.hops (State.ring_of_rings (State.at_rings s e) m)) n i lane

theorem State.station_at (s : State) (e n i : Nat) : (s.at e).station n i = s.station n i :=
  State.station_of_ring (congrArg Ring.stations (State.ring_of_rings (State.at_rings s e) n)) i

/-! ### The next station (R125, R128) -/

/-- The next station on a lane is another one. -/
theorem State.nextHop_other (s : State) (d : Fin 4) (j : Fin 34) (lane : Lane) :
    d.val ≠ (s.nextHop d.val j.val lane).1 ∨ j.val ≠ (s.nextHop d.val j.val lane).2.1 := by
  cases lane
  · simp only [State.nextHop]
    split
    · exact .inr (by simp)
    · split <;> dsimp only <;> omega
  · simp only [State.nextHop]
    split
    · exact .inr (by dsimp only; omega)
    · split <;> dsimp only <;> omega

/-- What the way of a flit depends on: holds and spans. -/
structure SameWays (s t : State) : Prop where
  holds : t.step.holds = s.step.holds
  spans : ∀ n, t.reg (ringBase n + 4) = s.reg (ringBase n + 4)

theorem SameWays.refl (s : State) : SameWays s s := ⟨rfl, fun _ => rfl⟩

theorem SameWays.trans {s t u : State} (h : SameWays s t) (h' : SameWays t u) : SameWays s u :=
  ⟨h'.holds.trans h.holds, fun n => (h'.spans n).trans (h.spans n)⟩

theorem SameWays.package {s t : State} (h : SameWays s t) (n : Nat) : t.package n = s.package n := by
  rw [State.package, State.package, State.rf, State.rf, h.spans]

theorem SameWays.nextHop {s t : State} (h : SameWays s t) (d j : Nat) (lane : Lane) : t.nextHop d j lane = s.nextHop d j lane := by
  have hhold : ∀ i, t.hold i = s.hold i := fun i => by rw [State.hold, State.hold, h.holds]
  simp only [State.nextHop, hhold, h.package]

theorem SameWays.origin {s t : State} (h : SameWays s t) (d j : Nat) : t.origin d j = s.origin d j := by
  rw [State.origin, State.origin, h.package]

theorem SameWays.of_parts {s t : State} (hs : t.step = s.step) (hr : t.regs = s.regs) : SameWays s t :=
  ⟨by rw [hs], fun _ => State.reg_of_regs hr _⟩

theorem SameWays.at (s : State) (e : Nat) : SameWays s (s.at e) :=
  ⟨by simp, fun n => (s.at_passed e).reg_ring n (by decide)⟩

theorem SameWays.reported {s t : State} (h : Reported s t) : SameWays s t :=
  ⟨by rw [h.step], fun n => h.reg fun m => by simp only [ringBase, vlBase]; omega⟩

/-! ### A flit that is sent (R125, R127) -/

/-- A flit stands last on the hop to the next station, and but for the station's lane and Tally nothing else has changed. -/
structure Sent (d j : Nat) (lane : Lane) (f : RingFlit) (e : Nat) (s t : State) : Prop where
  frame : t = { s with rings := t.rings, tally := t.tally }
  next : t.hop (s.nextHop d j lane).1 (s.nextHop d j lane).2.1 lane =
    s.hop (s.nextHop d j lane).1 (s.nextHop d j lane).2.1 lane ++ [{ f with due := e + (s.nextHop d j lane).2.2 }]
  others : ∀ n i, n ≠ (s.nextHop d j lane).1 ∨ i ≠ (s.nextHop d j lane).2.1 → t.hop n i lane = s.hop n i lane
  station : ∀ n i, ∃ a b, t.station n i = { s.station n i with laneCw := a, laneCcw := b }

theorem Sent.ways {d j : Nat} {lane : Lane} {f : RingFlit} {e : Nat} {s t : State} (h : Sent d j lane f e s t) : SameWays s t :=
  .of_parts (by rw [h.frame]) (by rw [h.frame])

theorem Station.useLane_eq (t : Station) (lane : Lane) (e : Nat) : ∃ a b, t.useLane lane e = { t with laneCw := a, laneCcw := b } := by
  cases lane
  · exact ⟨_, t.laneCcw, rfl⟩
  · exact ⟨t.laneCw, _, rfl⟩

/-- The flit on its hop, before Tally counts it. -/
def State.onHop (s : State) (d j : Nat) (lane : Lane) (f : RingFlit) (e : Nat) : State :=
  (s.modStation d j (fun t => t.useLane lane e)).setHop (s.nextHop d j lane).1 (s.nextHop d j lane).2.1 lane
    (s.hop (s.nextHop d j lane).1 (s.nextHop d j lane).2.1 lane ++ [{ f with due := e + (s.nextHop d j lane).2.2 }])

theorem State.sendFlit_tally (s : State) (d j : Nat) (lane : Lane) (f : RingFlit) (e : Nat) :
    ∃ x, s.sendFlit d j lane f e = { s.onHop d j lane f e with tally := x } := by
  have h1 : (s.modStation d j (fun t => t.useLane lane e)).setHop (s.nextHop d j lane).1 (s.nextHop d j lane).2.1 lane
      ((s.modStation d j (fun t => t.useLane lane e)).hop (s.nextHop d j lane).1 (s.nextHop d j lane).2.1 lane ++
        [{ f with due := e + (s.nextHop d j lane).2.2 }]) = s.onHop d j lane f e := by
    rw [State.onHop, State.hop_modStation]
  unfold sendFlit
  dsimp only
  rw [h1]
  obtain ⟨x, hx⟩ := State.count_eq (s.onHop d j lane f e) (blkCd d) 0x20 (j + 64 * laneNum lane) 1
  rw [hx]
  split
  · obtain ⟨y, hy⟩ := State.units_eq ({ s.onHop d j lane f e with tally := x } : State) (tlyBase + 0x1300 + 4 * (2 * d + laneNum lane)) 1
    exact ⟨y, hy⟩
  · exact ⟨x, rfl⟩

theorem State.sendFlit_sent (s : State) (d j : Nat) (lane : Lane) (f : RingFlit) (e : Nat) : Sent d j lane f e s (s.sendFlit d j lane f e) := by
  obtain ⟨x, hx⟩ := s.sendFlit_tally d j lane f e
  rw [hx]
  refine ⟨rfl, State.hop_setHop_same _ _ _ _ _, fun n i h => ?_, fun n i => ?_⟩
  · exact (State.hop_setHop_other (s.modStation d j (fun t => t.useLane lane e)) lane _ h).trans (State.hop_modStation _ _ _ _ _ _ _)
  · change ∃ a b, (s.onHop d j lane f e).station n i = _
    rw [State.onHop, State.station_setHop]
    by_cases h : n ≠ d ∨ i ≠ j
    · exact ⟨_, _, State.station_modStation_other s _ h⟩
    · obtain ⟨rfl, rfl⟩ : n = d ∧ i = j := by
        rw [not_or, not_not, not_not] at h
        exact h
      obtain ⟨a, b, hl⟩ := (s.station n i).useLane_eq lane e
      exact ⟨a, b, (State.station_modStation_same _ _ _ _).trans hl⟩

end Sys2Proof.Machine
end

section
/-! SUPPORT. Injections: reads, the copies of a multicast, and lines that leave (R131, R137, R139). -/

namespace Sys2Proof.Machine

/-! ### Copies of a multicast (R137) -/

/-- The copy of a multicast at the bridge of one die. -/
def State.copyTo (s : State) (d j : Nat) (x : Inj) (n : Nat) : State :=
  ((if (s.creditDies d x).contains n then ({ s with nextId := s.nextId + 1 } : State).modRing n (fun r => r.takeCredits x s.nextId (34 * n + j))
    else ({ s with nextId := s.nextId + 1 } : State)).modStation n j
      (fun t => { t with mcast := t.mcast ++ [{ x with id := s.nextId, issued := true, lead := false, nextWindow := false }] }))

theorem State.multicast_eq (s : State) (d j : Nat) (x : Inj) :
    s.multicast d j x = (x.mask.filter (fun n => n != d)).foldl (fun u n => u.copyTo d j x n) s := rfl

/-- What copies at bridges leave: all but rings and the next id, the ring of other dies, and the copies that wait already. -/
structure Copied (l : List Nat) (j : Nat) (x : Inj) (s t : State) : Prop where
  frame : t = { s with rings := t.rings, nextId := t.nextId }
  rings : sameBut t.rings s.rings l
  keeps : ∀ n i, ∀ y ∈ (s.station n i).mcast, y ∈ (t.station n i).mcast
  copies : ∀ n ∈ l, ∃ y ∈ (t.station n j).mcast, y.group = x.group ∧ y.lead = false ∧ y.addr = x.addr

theorem State.copyTo_copied (s : State) (d j : Nat) (x : Inj) (n : Nat) : Copied [n] j x s (s.copyTo d j x n) := by
  have hstations : ∀ m i, (if (s.creditDies d x).contains n then
      ({ s with nextId := s.nextId + 1 } : State).modRing n (fun r => r.takeCredits x s.nextId (34 * n + j))
      else ({ s with nextId := s.nextId + 1 } : State)).station m i = s.station m i := fun m i => by
    split
    · refine (State.station_modRing _ n ?_ m i).trans rfl
      exact fun _ => rfl
    · rfl
  have honly : RingOnly n ({ s with nextId := s.nextId + 1 } : State) (s.copyTo d j x n) := by
    unfold copyTo
    split
    · exact (RingOnly.modRing _ n _).trans (RingOnly.modRing _ n _)
    · exact RingOnly.modRing _ n _
  refine ⟨by rw [honly.frame], honly.rings, fun m i y hy => ?_, fun m hm => ?_⟩
  · unfold copyTo
    by_cases h : m ≠ n ∨ i ≠ j
    · rw [State.station_modStation_other _ _ h, hstations]
      exact hy
    · obtain ⟨rfl, rfl⟩ : m = n ∧ i = j := by
        rw [not_or, not_not, not_not] at h
        exact h
      rw [State.station_modStation_same, hstations]
      exact List.mem_append_left _ hy
  · obtain rfl := List.mem_singleton.1 hm
    unfold copyTo
    rw [State.station_modStation_same]
    exact ⟨_, List.mem_append_right _ (List.mem_singleton_self _), rfl, rfl, rfl⟩

theorem Copied.trans {l l' : List Nat} {j : Nat} {x : Inj} {s t u : State} (h : Copied l j x s t) (h' : Copied l' j x t u) :
    Copied (l ++ l') j x s u where
  frame := by rw [h'.frame, h.frame]
  rings := sameBut_trans (sameBut_mono h'.rings (List.subset_append_right l l')) (sameBut_mono h.rings (List.subset_append_left l l'))
  keeps n i y hy := h'.keeps n i y (h.keeps n i y hy)
  copies n hn := by
    rcases List.mem_append.1 hn with hn | hn
    · obtain ⟨y, hy, hcopy⟩ := h.copies n hn
      exact ⟨y, h'.keeps n j y hy, hcopy⟩
    · exact h'.copies n hn

theorem State.foldl_copyTo (d : Nat) (l : List Nat) (j : Nat) (x : Inj) (s : State) :
    Copied l j x s (l.foldl (fun u n => u.copyTo d j x n) s) := by
  induction l generalizing s with
  | nil => exact ⟨rfl, sameBut_refl _ _, fun _ _ _ hy => hy, fun _ hn => absurd hn (List.not_mem_nil)⟩
  | cons n l ih => exact (s.copyTo_copied d j x n).trans (ih _)

theorem State.multicast_copied (s : State) (d j : Nat) (x : Inj) :
    Copied (x.mask.filter (fun n => n != d)) j x s (s.multicast d j x) := by
  rw [State.multicast_eq]
  exact State.foldl_copyTo _ _ j x s

/-! ### INJECT_READ_ISSUE (R131, R139, R141) -/

/-- An injection whose reads leave. -/
def State.issueInj (s : State) (d j : Nat) (x : Inj) : State :=
  (s.modStation d j (fun t => { t with injQ := t.injQ.map (fun y => if y.id = x.id then { y with issued := true } else y) })).modRing d
    (fun r => r.takeCredits x x.id (34 * d + j))

theorem State.counts_issueInj (s : State) (d j : Nat) (x : Inj) :
    Tab.read 0 ((s.issueInj d j x).ring d).counts x.cstream = Tab.read 0 (s.ring d).counts x.cstream - x.credits := by
  rw [State.issueInj, State.ring_modRing_same]
  refine (Tab.read_write_same _ _ _ _).trans ?_
  rw [State.modStation, State.ring_modRing_same]
  rfl

/-- Reads join the requests. -/
def State.readsLeave (s : State) (die : Fin 4) (station : Fin 34) (x : Inj) : State :=
  { s with mem := { s.mem with reqs := s.mem.reqs ++ x.reads (die, station) (die, station) x.group s.edge } }

theorem execInjectReadIssue_issues {d : Fin 4} {j : Fin 34} {s : State} {x : Inj} {e : Nat} (halive : s.alive = true)
    (hruns : s.ringRuns d.val = true)
    (hx : (s.station d.val j.val).injQ.find? (fun y => y.fromMem && !y.issued) = some x) (hwin : x.nextWindow = false)
    (he : s.creditEdge d.val x = some e) :
    execInjectReadIssue d j s = .next ((((s.at e).issueInj d.val j.val x).readsLeave d j x).multicast d.val j.val x) := by
  unfold execInjectReadIssue
  dsimp only
  rw [hx]
  dsimp only
  rw [if_pos (by simp [halive, hruns, hwin]), he]
  rfl

theorem exec_injectReadIssue (d : Fin 4) (j : Fin 34) (s : State) (x : Inj) (e : Nat) (halive : s.alive = true)
    (hruns : s.ringRuns d.val = true)
    (hx : (s.station d.val j.val).injQ.find? (fun y => y.fromMem && !y.issued) = some x) (hwin : x.nextWindow = false)
    (he : s.creditEdge d.val x = some e) :
    ∃ t, exec (.injectReadIssue d j) s = .next t ∧
      t.mem = { s.mem with reqs := s.mem.reqs ++ x.reads (d, j) (d, j) x.group (max s.edge e) } ∧
      Tab.read 0 (t.ring d.val).counts x.cstream = Tab.read 0 (s.ring d.val).counts x.cstream - x.credits ∧
      (∀ n ∈ x.mask, n ≠ d.val → ∃ y ∈ (t.station n j.val).mcast, y.group = x.group ∧ y.lead = false ∧ y.addr = x.addr) ∧
      t.edge = max s.edge e ∧ t = { s.at e with rings := t.rings, mem := t.mem, nextId := t.nextId } := by
  have hexec : exec (.injectReadIssue d j) s = _ := execInjectReadIssue_issues halive hruns hx hwin he
  have hcounts := (s.at e).counts_issueInj d.val j.val x
  have hissue : (s.at e).issueInj d.val j.val x = { s.at e with rings := ((s.at e).issueInj d.val j.val x).rings } := rfl
  generalize (s.at e).issueInj d.val j.val x = u at hexec hcounts hissue
  have hcopied := (u.readsLeave d j x).multicast_copied d.val j.val x
  have hown : ((u.readsLeave d j x).multicast d.val j.val x).ring d.val = u.ring d.val := read_of_sameBut hcopied.rings _ (by simp)
  have hreads : (u.readsLeave d j x).mem = { s.mem with reqs := s.mem.reqs ++ x.reads (d, j) (d, j) x.group (max s.edge e) } := by
    have hmem : u.mem = s.mem := by rw [hissue]; exact State.at_mem s e
    have hedge : u.edge = max s.edge e := by rw [hissue]; exact s.edge_at e
    rw [State.readsLeave, hmem, hedge]
  have hleave : u.readsLeave d j x = { u with mem := (u.readsLeave d j x).mem } := rfl
  generalize u.readsLeave d j x = v at hexec hcopied hown hreads hleave
  generalize v.multicast d.val j.val x = t at hexec hcopied hown
  have hframe : t = { s.at e with rings := t.rings, mem := t.mem, nextId := t.nextId } := by
    rw [hcopied.frame, hleave, hissue]
  refine ⟨t, hexec, ?_, ?_, fun n hn hne => hcopied.copies n (List.mem_filter.2 ⟨hn, by simpa using hne⟩), ?_, hframe⟩
  · rw [← hreads, hcopied.frame]
  · rw [hown, hcounts, State.ring_of_rings (State.at_rings s e)]
  · rw [hframe]
    exact s.edge_at e

/-! ### MULTICAST_DELIVERY (R137) -/

theorem State.wakeRing_frame (s : State) (d : Nat) : s.wakeRing d = { s with domains := (s.wakeRing d).domains } := by
  unfold wakeRing
  have hinner : ∀ (n : Nat) (l : List Nat) (s : State), ∃ x, l.foldl (fun s i => s.wakeSeen (domSegment n i)) s = { s with domains := x } :=
    fun n l => by
      induction l with
      | nil => exact fun s => ⟨s.domains, rfl⟩
      | cons i l ih =>
        intro s
        obtain ⟨x, hx⟩ := State.wakeSeen_eq s (domSegment n i)
        obtain ⟨y, hy⟩ := ih (s.wakeSeen (domSegment n i))
        exact ⟨y, by rw [List.foldl_cons, hy, hx]⟩
  generalize hl : s.ringDies d = l
  clear hl
  induction l generalizing s with
  | nil => rfl
  | cons n l ih =>
    obtain ⟨x, hx⟩ := hinner n (List.range 4) s
    rw [List.foldl_cons, ih, hx]

theorem exec_multicastDelivery (d : Fin 4) (j : Fin 34) (s : State) (x : Inj) (rest : List Inj) (halive : s.alive = true)
    (hx : (s.station d.val j.val).mcast = x :: rest) (hroom : (s.station d.val j.val).injQ.length < 8) :
    ∃ t, exec (.multicastDelivery d j) s = .next t ∧ (t.station d.val j.val).mcast = rest ∧
      (t.station d.val j.val).injQ = (s.station d.val j.val).injQ ++ [{ x with nextWindow := s.barrierIssued d.val j.val }] ∧
      sameBut t.rings s.rings [d.val] ∧ t = { s with rings := t.rings, domains := t.domains } := by
  have hexec : exec (.multicastDelivery d j) s = .next ((s.modStation d.val j.val (fun t =>
      { t with mcast := rest, injQ := t.injQ ++ [{ x with nextWindow := s.barrierIssued d.val j.val }] })).wakeRing d.val) := by
    change execMulticastDelivery d j s = _
    unfold execMulticastDelivery
    dsimp only
    rw [hx]
    dsimp only
    rw [if_pos (by simp [halive, hroom])]
  have hstation := s.station_modStation_same d.val j.val (fun t =>
    { t with mcast := rest, injQ := t.injQ ++ [{ x with nextWindow := s.barrierIssued d.val j.val }] })
  have honly : RingOnly d.val s (s.modStation d.val j.val (fun t =>
      { t with mcast := rest, injQ := t.injQ ++ [{ x with nextWindow := s.barrierIssued d.val j.val }] })) := .modRing s d.val _
  generalize s.modStation d.val j.val _ = u at hexec hstation honly
  have hwake := u.wakeRing_frame d.val
  generalize u.wakeRing d.val = t at hexec hwake
  have hsame : t.station d.val j.val = u.station d.val j.val := State.station_of_ring (congrArg Ring.stations
    (State.ring_of_rings (by rw [hwake]) d.val)) j.val
  refine ⟨t, hexec, by rw [hsame, hstation], by rw [hsame, hstation], ?_, ?_⟩
  · rw [hwake]
    exact honly.rings
  · rw [hwake, honly.frame]

/-! ### Taking a flit (R134, R135, R140) -/

/-- What taking a flit leaves: hops, injection queues, holds and spans, and all outside cores, rings and what reports reach. -/
structure Handled (s t : State) : Prop where
  frame : t = { s with regs := t.regs, recent := t.recent, cores := t.cores, rings := t.rings, step := t.step, link := t.link,
                       jnl := t.jnl, fatal := t.fatal, rec_ := t.rec_ }
  ways : SameWays s t
  hops : ∀ n i l, t.hop n i l = s.hop n i l
  queues : ∀ n i, (t.station n i).injQ = (s.station n i).injQ

theorem Handled.refl (s : State) : Handled s s := ⟨rfl, .refl s, fun _ _ _ => rfl, fun _ _ => rfl⟩

theorem Handled.trans {s t u : State} (h : Handled s t) (h' : Handled t u) : Handled s u :=
  ⟨by rw [h'.frame, h.frame], h.ways.trans h'.ways, fun n i l => (h'.hops n i l).trans (h.hops n i l),
    fun n i => (h'.queues n i).trans (h.queues n i)⟩

theorem Handled.setCore (s : State) (d p : Nat) (c : Core) : Handled s (s.setCore d p c) :=
  ⟨rfl, .of_parts rfl rfl, fun _ _ _ => rfl, fun _ _ => rfl⟩

theorem Handled.modStation (s : State) (d j : Nat) {f : Station → Station} (hf : ∀ x, (f x).injQ = x.injQ) :
    Handled s (s.modStation d j f) :=
  ⟨rfl, .of_parts rfl rfl, fun n i l => s.hop_modStation d j n i l f, fun n i => s.station_modStation_field d j n i Station.injQ hf⟩

/-- Reports, after a change of cores and registers that leaves spans. -/
theorem Handled.reported {s t u : State} (ht : t = { s with regs := t.regs, recent := t.recent, cores := t.cores })
    (hspans : ∀ n, t.reg (ringBase n + 4) = s.reg (ringBase n + 4)) (h : Reported t u) : Handled s u := by
  have hrings : u.rings = s.rings := by rw [h.frame, ht]
  have hstep : t.step = s.step := by rw [ht]
  refine ⟨by rw [h.frame, ht], SameWays.trans (t := t) ⟨by rw [hstep], hspans⟩ (.reported h),
    fun n i l => State.hop_of_rings (fun m => congrArg Ring.hops (State.ring_of_rings hrings m)) n i l,
    fun n i => congrArg Station.injQ (State.station_of_ring (congrArg Ring.stations (State.ring_of_rings hrings n)) i)⟩

theorem Handled.coreFault (s : State) (d p : Nat) (bs : List Nat) : Handled s (s.coreFault d p bs) :=
  .reported (t := (s.halt d p).orReg (coreBase d p + 0xC) (bitMask bs.dedup)) rfl
    (fun n => State.reg_orReg_other (s.halt d p) _ (by simp only [ringBase, coreBase]; omega)) (s.coreFault_reported d p bs)

theorem Handled.ringFault (s : State) (d j : Nat) (bs : List Nat) : Handled s (s.ringFault d j bs) :=
  .reported (t := s.orReg (ringBase d + 0xC) (bitMask bs.dedup)) rfl
    (fun n => State.reg_orReg_other s _ (by simp only [ringBase]; omega)) (s.ringFault_reported d j bs)

theorem Handled.ringFaultNew (s : State) (d j b : Nat) : Handled s (s.ringFaultNew d j b) := by
  unfold State.ringFaultNew
  split
  · exact .refl s
  · exact .ringFault s d j [b]

theorem Handled.tileReleased (s : State) (id rel : Nat) : Handled s (s.tileReleased id rel) := by
  unfold State.tileReleased
  induction List.range 4 generalizing s with
  | nil => exact .refl s
  | cons d l ih =>
    refine Handled.trans (t := s.modRing d (fun r => r.released id (s.package d) d rel s.edge))
      ⟨rfl, .of_parts rfl rfl, fun n i lane => ?_, fun n i => congrArg Station.injQ ?_⟩ (ih _)
    · refine s.hop_modRing d ?_ n i lane
      exact fun _ => rfl
    · refine s.station_modRing d ?_ n i
      exact fun _ => rfl

theorem Handled.lose (s : State) (d j tile lines n : Nat) : Handled s (s.lose d j tile lines n) := by
  unfold State.lose
  dsimp only
  split
  · refine (Handled.modStation s d j ?_).trans (.tileReleased _ _ _)
    exact fun _ => rfl
  · refine (Handled.modStation s d j ?_).trans (.modStation _ _ _ ?_)
    · exact fun _ => rfl
    · exact fun _ => rfl

theorem Handled.leaveBad (s : State) (d j i lines : Nat) : Handled s (s.leaveBad d j i lines) := by
  unfold State.leaveBad
  dsimp only
  split
  · exact (Handled.setCore s d j _).trans (.tileReleased _ _ _)
  · exact .refl s

theorem Station.injQ_setTake (t : Station) (lane : Lane) (l : List RingFlit) : (t.setTake lane l).injQ = t.injQ := by cases lane <;> rfl

theorem Handled.takeFlit (s : State) (d j : Nat) (lane : Lane) (f : RingFlit) : Handled s (s.takeFlit d j lane f) := by
  unfold State.takeFlit
  dsimp only
  split
  · exact .lose s _ _ _ _ _
  · split
    · exact (Handled.coreFault s d j _).trans (.lose _ _ _ _ _ _)
    · refine Handled.trans ?_ (.leaveBad _ _ _ _ _)
      generalize (s.core d j).setSlot _ _ = c
      refine (Handled.setCore s d j c).trans ?_
      split
      · exact .ringFaultNew _ _ _ _
      · exact .modStation _ _ _ fun x => x.injQ_setTake _ _

theorem Corrects.handled {d p : Nat} {s t : State} (h : Corrects d p s t) : Handled s t := by
  have hrings : t.rings = s.rings := by rw [h.frame]
  have hstep : t.step = s.step := by rw [h.frame]
  refine ⟨by rw [h.frame], ⟨by rw [hstep], fun n => ?_⟩,
    fun n i l => State.hop_of_rings (fun m => congrArg Ring.hops (State.ring_of_rings hrings m)) n i l,
    fun n i => congrArg Station.injQ (State.station_of_ring (congrArg Ring.stations (State.ring_of_rings hrings n)) i)⟩
  exact read_of_sameBut h.regs _ (by simp only [ringBase, coreBase, List.mem_singleton]; omega)

/-! ### INJECT_FLIT_SEND (R127, R131) -/

/-- The queue once a line of a tile has been sent. -/
def Inj.leaving (x : Inj) (i : Nat) (q : List Inj) : List Inj :=
  if x.lines ≤ (x.sent ++ [i]).length then q.filter (fun z => z.id != x.id)
  else q.map (fun z => if z.id = x.id then { x with sent := x.sent ++ [i] } else z)

theorem Inj.leaving_done {x : Inj} (i : Nat) (q : List Inj) (h : x.lines ≤ x.sent.length + 1) : ∀ y ∈ x.leaving i q, y.id ≠ x.id := by
  rw [Inj.leaving, if_pos (by simpa using h)]
  intro y hy
  simpa using (List.mem_filter.1 hy).2

theorem Inj.leaving_more {x : Inj} (i : Nat) (q : List Inj) (h : x.sent.length + 1 < x.lines) :
    ∀ y ∈ x.leaving i q, y.id = x.id → y = { x with sent := x.sent ++ [i] } := by
  rw [Inj.leaving, if_neg (by simp; omega)]
  intro y hy hid
  obtain ⟨z, _, rfl⟩ := List.mem_map.1 hy
  by_cases hz : z.id = x.id
  · rw [if_pos hz]
  · rw [if_neg hz] at hid
    exact absurd hid hz

/-- The state once a line has left its queue. -/
def State.lineLeaves (s : State) (d j : Nat) (x : Inj) (i e : Nat) : State :=
  ((if x.fromMem then s else s.storeRead d j (x.addr + 256 * i) 256).modStation d j
    (fun t => { t with injQ := x.leaving i t.injQ })).ringEvent d e

/-- The flit that carries a line of a tile. -/
def Inj.flit (x : Inj) (origin : Nat) (ln : Nat × Line × Bool) (e : Nat) : RingFlit :=
  { kind := .tile, stream := x.cstream, slot := x.slot, index := ln.1, count := x.count, origin := origin,
    payload := ln.2.1, poison := ln.2.2, tile := x.id, lines := x.lines, addr := x.slotAddr, due := e }

theorem State.sendTile_eq (s : State) (d j : Nat) (lane : Lane) (x : Inj) (ln : Nat × Line × Bool) (e : Nat) :
    s.sendTile d j lane x ln e =
      if s.active d j then ((s.lineLeaves d j x ln.1 e).takeFlit d j lane (x.flit (s.origin d j) ln e)).passFlit d j lane
        (x.flit (s.origin d j) ln e) (x.count - 1) e
      else (s.lineLeaves d j x ln.1 e).passFlit d j lane (x.flit (s.origin d j) ln e) x.count e := rfl

/-- What a line that leaves its queue does. -/
structure LineLeft (d j : Nat) (x : Inj) (i : Nat) (s t : State) : Prop where
  frame : t = { s with regs := t.regs, recent := t.recent, cores := t.cores, rings := t.rings, step := t.step, link := t.link,
                       jnl := t.jnl, fatal := t.fatal, rec_ := t.rec_ }
  ways : SameWays s t
  hops : ∀ n i' l, t.hop n i' l = s.hop n i' l
  queue : (t.station d j).injQ = x.leaving i (s.station d j).injQ

theorem State.lineLeaves_left (s : State) (d j : Nat) (x : Inj) (i e : Nat)
    (hread : x.fromMem = true ∨ (s.seen d j).readsUe (x.addr + 256 * i) 256 = false) : LineLeft d j x i s (s.lineLeaves d j x i e) := by
  have hhandled : Handled s (if x.fromMem then s else s.storeRead d j (x.addr + 256 * i) 256) := by
    rcases hread with h | h
    · rw [if_pos h]
      exact .refl s
    · split
      · exact .refl s
      · exact (State.storeRead_corrects h).handled
  unfold lineLeaves
  generalize (if x.fromMem then s else s.storeRead d j (x.addr + 256 * i) 256) = u at hhandled
  refine ⟨?_, hhandled.ways.trans (.of_parts rfl rfl), fun n i' l => ?_, ?_⟩
  · exact (congrArg (fun v : State => (v.modStation d j (fun t => { t with injQ := x.leaving i t.injQ })).ringEvent d e) hhandled.frame)
  · rw [State.hop_ringEvent, State.hop_modStation, hhandled.hops]
  · rw [State.station_ringEvent, State.station_modStation_same, hhandled.queues]

/-- A flit that goes on with takers left is on the next hop; retired or not, all else stays but lanes and Tally. -/
theorem State.passFlit_passes (s : State) (d j : Nat) (lane : Lane) (f : RingFlit) (count e : Nat) :
    s.passFlit d j lane f count e = { s with rings := (s.passFlit d j lane f count e).rings, tally := (s.passFlit d j lane f count e).tally } ∧
    (∀ n i, ((s.passFlit d j lane f count e).station n i).injQ = (s.station n i).injQ) ∧
    (0 < count → Sent d j lane { f with count := count } e s (s.passFlit d j lane f count e)) := by
  unfold passFlit
  split
  · next h => exact ⟨rfl, fun _ _ => rfl, fun hc => absurd h (by omega)⟩
  · have hsent := s.sendFlit_sent d j lane { f with count := count } e
    refine ⟨hsent.frame, fun n i => ?_, fun _ => hsent⟩
    obtain ⟨a, b, hab⟩ := hsent.station n i
    rw [hab]

/-- What sending a line leaves of the state: all outside cores, rings, Tally and what reports reach. -/
structure LineSent (d j : Nat) (lane : Lane) (x : Inj) (ln : Nat × Line × Bool) (e count : Nat) (s t : State) : Prop where
  edge : t.edge = s.edge
  mem : t.mem = s.mem
  dies : t.dies = s.dies
  dep : t.dep = s.dep
  mint : t.mint = s.mint
  queue : (t.station d j).injQ = x.leaving ln.1 (s.station d j).injQ
  next : 0 < count → t.hop (s.nextHop d j lane).1 (s.nextHop d j lane).2.1 lane =
    s.hop (s.nextHop d j lane).1 (s.nextHop d j lane).2.1 lane ++
      [{ x.flit (s.origin d j) ln e with count := count, due := e + (s.nextHop d j lane).2.2 }]

theorem State.sendTile_sent (s : State) (d j : Nat) (lane : Lane) (x : Inj) (ln : Nat × Line × Bool) (e : Nat)
    (hread : x.fromMem = true ∨ (s.seen d j).readsUe (x.addr + 256 * ln.1) 256 = false) :
    LineSent d j lane x ln e (if s.active d j then x.count - 1 else x.count) s (s.sendTile d j lane x ln e) := by
  obtain ⟨hframe, hways, hhops, hqueue⟩ := s.lineLeaves_left d j x ln.1 e hread
  rw [State.sendTile_eq]
  generalize s.lineLeaves d j x ln.1 e = u at hframe hways hhops hqueue
  generalize hf : x.flit (s.origin d j) ln e = f
  have hstep : ∀ (v : State) (count : Nat), Handled u v → LineSent d j lane x ln e count s (v.passFlit d j lane f count e) := fun v count hv => by
    obtain ⟨hpass, hkeep, hsent⟩ := v.passFlit_passes d j lane f count e
    generalize v.passFlit d j lane f count e = t at hpass hkeep hsent
    have hnext : v.nextHop d j lane = s.nextHop d j lane := (hways.trans hv.ways).nextHop d j lane
    refine ⟨by rw [hpass, hv.frame, hframe], by rw [hpass, hv.frame, hframe], by rw [hpass, hv.frame, hframe],
      by rw [hpass, hv.frame, hframe], by rw [hpass, hv.frame, hframe], ?_, fun hc => ?_⟩
    · rw [hkeep, hv.queues, hqueue]
    · have h := (hsent hc).next
      rw [hnext, hv.hops, hhops] at h
      rw [h, hf]
  split
  · exact hstep _ _ (.takeFlit u d j lane f)
  · exact hstep _ _ (.refl u)

theorem State.active_at (s : State) (e d j : Nat) : (s.at e).active d j = s.active d j := by
  rw [State.active, State.active, ((CoresAged.at s e).core d j).frame]

/-- Settles O18: reads against credits, copies at the bridges, and lines on the lane. -/
theorem injectionsMove : Obligations.InjectionsMove := by
  refine ⟨exec_injectReadIssue, exec_multicastDelivery, fun d j lane s x e i n v poison hx hsend he hline hread hn => ?_⟩
  have hexec : exec (.injectFlitSend d j lane) s = .next ((s.at e).sendTile d.val j.val lane x (i, v, poison) e) := by
    change execInjectFlitSend d j lane s = _
    unfold execInjectFlitSend
    dsimp only
    rw [hx]
    dsimp only
    rw [if_pos hsend, he]
    dsimp only
    rw [hline]
    dsimp only
    rw [if_neg (by rcases hread with h | h <;> simp [h])]
  have hsent := (s.at e).sendTile_sent d.val j.val lane x (i, v, poison) e hread
  have houter : ((s.at e).sendTile d.val j.val lane x (i, v, poison) e).outer = s.outer := by simp
  rw [State.active_at, ← hn] at hsent
  generalize (s.at e).sendTile d.val j.val lane x (i, v, poison) e = t at hexec hsent houter
  refine ⟨t, hexec, hsent.edge.trans (s.edge_at e), fun h => ?_, fun h => ?_, fun hpos => ?_, hsent.mem.trans (State.at_mem s e),
    hsent.dies.trans (State.at_dies s e), hsent.dep.trans (State.at_dep s e), hsent.mint.trans (by simp), houter⟩
  · rw [hsent.queue]
    exact Inj.leaving_done i _ h
  · rw [hsent.queue]
    exact Inj.leaving_more i _ h
  · have hnext := hsent.next hpos
    rw [(SameWays.at s e).nextHop, State.hop_at] at hnext
    exact ⟨_, hnext, rfl, rfl, rfl, rfl, rfl, rfl, rfl⟩

end Sys2Proof.Machine
end

section
/-! SUPPORT. Tiles on the ring: forwarding, taking and writing (R105 to R107, R126, R132 to R135). -/

namespace Sys2Proof.Machine

/-! ### RING_FLIT_ARRIVAL (R126, R132, R133) -/

/-- A flit has left a hop at an edge. -/
def State.offHop (s : State) (d j : Nat) (lane : Lane) (rest : List RingFlit) (e : Nat) : State :=
  ((s.at e).setHop d j lane rest).ringEvent d e

theorem State.hop_offHop_same (s : State) (d j : Nat) (lane : Lane) (rest : List RingFlit) (e : Nat) :
    (s.offHop d j lane rest e).hop d j lane = rest := by
  rw [State.offHop, State.hop_ringEvent, State.hop_setHop_same]

theorem State.hop_offHop_other (s : State) {d j n i : Nat} (lane : Lane) (rest : List RingFlit) (e : Nat) (h : n ≠ d ∨ i ≠ j) :
    (s.offHop d j lane rest e).hop n i lane = s.hop n i lane := by
  rw [State.offHop, State.hop_ringEvent, State.hop_setHop_other _ _ _ h, State.hop_at]

theorem State.station_offHop (s : State) (d j n i : Nat) (lane : Lane) (rest : List RingFlit) (e : Nat) :
    (s.offHop d j lane rest e).station n i = s.station n i := by
  rw [State.offHop, State.station_ringEvent, State.station_setHop, State.station_at]

theorem State.offHop_frame (s : State) (d j : Nat) (lane : Lane) (rest : List RingFlit) (e : Nat) :
    s.offHop d j lane rest e = { s.at e with rings := (s.offHop d j lane rest e).rings } := rfl

theorem State.offHop_ways (s : State) (d j : Nat) (lane : Lane) (rest : List RingFlit) (e : Nat) : SameWays s (s.offHop d j lane rest e) :=
  (SameWays.at s e).trans (.of_parts rfl rfl)

/-- What the arrival of a sound flit comes to. -/
theorem exec_ringFlitArrival_awake {d : Fin 4} {j : Fin 34} {lane : Lane} {s : State} {f : RingFlit} {rest : List RingFlit} {e : Nat}
    (halive : s.alive = true) (hawake : s.segmentsAwake d.val = true) (hpick : pickFlit .tile (s.hop d.val j.val lane) = some (f, rest))
    (he : e = s.forwardEdge d.val j.val lane f) :
    exec (.ringFlitArrival d j lane []) s =
      if f.origin = s.origin d.val j.val then
        .next (((s.offHop d.val j.val lane rest e).ringFaultNew d.val j.val rfCirc).modRing d.val (fun r => r.comeBack f.tile f.count e))
      else if s.active d.val j.val then
        .next (((s.offHop d.val j.val lane rest e).takeFlit d.val j.val lane { f with due := e }).passFlit d.val j.val lane
          { f with due := e } (f.count - 1) e)
      else .next ((s.offHop d.val j.val lane rest e).passFlit d.val j.val lane { f with due := e } f.count e) := by
  subst he
  change execRingFlitArrival d j lane [] s = _
  unfold execRingFlitArrival
  dsimp only
  rw [hpick]
  dsimp only
  rw [if_neg (by simp [halive]), if_neg (by simp [hawake])]
  rfl

/-- A flit that goes on leaves its hop, and stands on the next with its new count. -/
theorem Sent.onward {d : Fin 4} {j : Fin 34} {lane : Lane} {f : RingFlit} {e : Nat} {s u t : State}
    (h : Sent d.val j.val lane f e u t) (hways : SameWays s u)
    (hother : ∀ n i, n ≠ d.val ∨ i ≠ j.val → u.hop n i lane = s.hop n i lane) :
    t.hop d.val j.val lane = u.hop d.val j.val lane ∧
    t.hop (s.nextHop d.val j.val lane).1 (s.nextHop d.val j.val lane).2.1 lane =
      s.hop (s.nextHop d.val j.val lane).1 (s.nextHop d.val j.val lane).2.1 lane ++
        [{ f with due := e + (s.nextHop d.val j.val lane).2.2 }] := by
  have hnext := hways.nextHop d.val j.val lane
  have hne := s.nextHop_other d j lane
  refine ⟨h.others _ _ (by rw [hnext]; exact hne), ?_⟩
  rw [← hnext, h.next, hnext, hother _ _ (by rcases hne with hn | hn <;> [exact .inl hn.symm; exact .inr hn.symm])]

/-- A tile's flit passes an inactive station unchanged (R132). -/
theorem exec_ringFlitArrival_forwarded {d : Fin 4} {j : Fin 34} {lane : Lane} {s : State} {f : RingFlit} {rest : List RingFlit} {e : Nat}
    (halive : s.alive = true) (hawake : s.segmentsAwake d.val = true) (hpick : pickFlit .tile (s.hop d.val j.val lane) = some (f, rest))
    (he : e = s.forwardEdge d.val j.val lane f) (hact : s.active d.val j.val = false) (horigin : f.origin ≠ s.origin d.val j.val)
    (hcount : 0 < f.count) :
    ∃ t, exec (.ringFlitArrival d j lane []) s = .next t ∧ t.hop d.val j.val lane = rest ∧
      t.hop (s.nextHop d.val j.val lane).1 (s.nextHop d.val j.val lane).2.1 lane =
        s.hop (s.nextHop d.val j.val lane).1 (s.nextHop d.val j.val lane).2.1 lane ++
          [{ f with due := e + (s.nextHop d.val j.val lane).2.2 }] ∧ t.edge = max s.edge e ∧
      t = { s.at e with rings := t.rings, tally := t.tally } := by
  have hexec := exec_ringFlitArrival_awake halive hawake hpick he
  rw [if_neg horigin, if_neg (by simp [hact])] at hexec
  have hsame := s.hop_offHop_same d.val j.val lane rest e
  have hother := fun n i h => s.hop_offHop_other (d := d.val) (j := j.val) (n := n) (i := i) lane rest e h
  have hways := s.offHop_ways d.val j.val lane rest e
  have hframe := s.offHop_frame d.val j.val lane rest e
  generalize s.offHop d.val j.val lane rest e = u at hexec hsame hother hways hframe
  have hsent := (u.passFlit_passes d.val j.val lane { f with due := e } f.count e).2.2 hcount
  generalize u.passFlit d.val j.val lane { f with due := e } f.count e = t at hexec hsent
  obtain ⟨hown, hnext⟩ := hsent.onward hways hother
  have ht : t = { s.at e with rings := t.rings, tally := t.tally } := by rw [hsent.frame, hframe]
  refine ⟨t, hexec, hown.trans hsame, hnext, ?_, ht⟩
  rw [ht]
  exact s.edge_at e

/-- A flit that is back at its origin is retired (R133). -/
theorem exec_ringFlitArrival_circled {d : Fin 4} {j : Fin 34} {lane : Lane} {s : State} {f : RingFlit} {rest : List RingFlit} {e : Nat}
    (halive : s.alive = true) (hawake : s.segmentsAwake d.val = true) (hpick : pickFlit .tile (s.hop d.val j.val lane) = some (f, rest))
    (he : e = s.forwardEdge d.val j.val lane f) (horigin : f.origin = s.origin d.val j.val) :
    ∃ t, exec (.ringFlitArrival d j lane []) s = .next t ∧ t.hop d.val j.val lane = rest ∧
      bit (t.reg (ringBase d.val + 0xC)).toNat rfCirc = true ∧ t.mem = s.mem ∧ t.dies = s.dies ∧ t.dep = s.dep ∧ t.outer = s.outer := by
  have hexec := exec_ringFlitArrival_awake halive hawake hpick he
  rw [if_pos horigin] at hexec
  have hsame := s.hop_offHop_same d.val j.val lane rest e
  have hframe := s.offHop_frame d.val j.val lane rest e
  have houter : (s.offHop d.val j.val lane rest e).outer = s.outer := (by rfl : _ = (s.at e).outer).trans (by simp)
  generalize s.offHop d.val j.val lane rest e = u at hexec hsame hframe houter
  obtain ⟨hflag, hbit⟩ := u.ringFaultNew_raises d j.val (show rfCirc < 32 by decide)
  generalize u.ringFaultNew d.val j.val rfCirc = v at hexec hflag hbit
  have hrings : v.rings = u.rings := by rw [hflag.frame]
  refine ⟨_, hexec, ?_, hbit, ?_, ?_, ?_, hflag.outer.trans houter⟩
  · refine Eq.trans ?_ hsame
    refine (v.hop_modRing d.val ?_ _ _ _).trans (State.hop_of_rings (fun m => congrArg Ring.hops (State.ring_of_rings hrings m)) _ _ _)
    exact fun _ => rfl
  · change v.mem = s.mem
    rw [hflag.frame, hframe]
    exact State.at_mem s e
  · change v.dies = s.dies
    rw [hflag.frame, hframe]
    exact State.at_dies s e
  · change v.dep = s.dep
    rw [hflag.frame, hframe]
    exact State.at_dep s e

/-- A slot counts a flit that has arrived. -/
def Core.takes (c : Core) (i : Nat) : Core := c.setSlot i { c.slot i with arrived := (c.slot i).arrived + 1 }

/-- A flit enters the take buffer of a station whose slot takes its tile. -/
def State.taken (s : State) (d j : Nat) (lane : Lane) (f : RingFlit) : State :=
  (s.modCore d j (fun c => c.takes f.slot)).modStation d j
    (fun t => t.setTake lane (t.take lane ++ [f]))

theorem Core.slot_setSlot (c : Core) (i : Nat) (x : Slot) : (c.setSlot i x).slot i = x := Tab.read_write_same _ _ _ _

theorem Station.take_setTake (t : Station) (lane : Lane) (l : List RingFlit) : (t.setTake lane l).take lane = l := by cases lane <;> rfl

theorem Slot.taken_eq {x : Slot} {poison : Bool} (hbad : x.bad = false) (hp : poison = false) :
    ({ x with arrived := x.arrived + 1, bad := x.bad || poison || false } : Slot) = { x with arrived := x.arrived + 1 } := by
  rw [hp, hbad, ← hbad]
  simp [hbad]

theorem State.leaveBad_sound {s : State} {d j i lines : Nat} (h : ((s.core d j).slot i).bad = false) : s.leaveBad d j i lines = s := by
  unfold leaveBad
  dsimp only
  rw [if_neg (by simp [h])]

theorem State.takeFlit_taken {s : State} {d j : Nat} {lane : Lane} {f : RingFlit} (hpoison : f.poison = false)
    (hlost : (s.station d j).lost.find? (fun x => x.1 == f.tile) = none) (hdel : ((s.core d j).slot f.slot).delivering = true)
    (htile : ((s.core d j).slot f.slot).tile = f.tile) (hbad : ((s.core d j).slot f.slot).bad = false)
    (hroom : ((s.station d j).take lane).length < 64) : s.takeFlit d j lane f = s.taken d j lane f := by
  have hcore : (s.taken d j lane f).core d j = (s.core d j).takes f.slot := State.core_modCore_same s d j (fun c => c.takes f.slot)
  have hfull : decide (64 ≤ ((s.station d j).take lane).length) = false := decide_eq_false (by omega)
  have hmine : (((s.core d j).slot f.slot).delivering && ((s.core d j).slot f.slot).tile == f.tile) = true := by
    rw [hdel, htile]
    simp
  unfold takeFlit
  dsimp only
  rw [hlost]
  dsimp only
  rw [if_neg (by simp [hmine]), if_pos hmine, hfull, if_neg (by decide), Slot.taken_eq hbad hpoison]
  refine Eq.trans (b := (s.taken d j lane f).leaveBad d j f.slot f.lines) rfl (State.leaveBad_sound ?_)
  rw [hcore, Core.takes, Core.slot_setSlot]
  exact hbad

theorem State.hop_taken (s : State) (d j n i : Nat) (lane l : Lane) (f : RingFlit) : (s.taken d j lane f).hop n i l = s.hop n i l :=
  (State.hop_modStation _ _ _ _ _ _ _).trans rfl

theorem State.take_taken (s : State) (d j : Nat) (lane : Lane) (f : RingFlit) :
    ((s.taken d j lane f).station d j).take lane = (s.station d j).take lane ++ [f] := by
  rw [State.taken, State.station_modStation_same, Station.take_setTake]
  rfl

theorem Station.take_lanes (t : Station) (a b : Nat) (lane : Lane) : ({ t with laneCw := a, laneCcw := b } : Station).take lane = t.take lane := by
  cases lane <;> rfl

/-- A flit that is passed on, or retired, keeps the take buffers. -/
theorem State.take_passFlit (s : State) (d j n i : Nat) (lane l : Lane) (f : RingFlit) (count e : Nat) :
    ((s.passFlit d j lane f count e).station n i).take l = (s.station n i).take l := by
  unfold passFlit
  split
  · rfl
  · obtain ⟨a, b, hab⟩ := (s.sendFlit_sent d j lane { f with count := count } e).station n i
    rw [hab, Station.take_lanes]

/-- An active station whose slot can take it takes a flit, and passes it on while takers remain (R132, R134). -/
theorem exec_ringFlitArrival_taken {d : Fin 4} {j : Fin 34} {lane : Lane} {s : State} {f : RingFlit} {rest : List RingFlit} {e : Nat}
    (halive : s.alive = true) (hawake : s.segmentsAwake d.val = true) (hpick : pickFlit .tile (s.hop d.val j.val lane) = some (f, rest))
    (he : e = s.forwardEdge d.val j.val lane f) (hact : s.active d.val j.val = true) (horigin : f.origin ≠ s.origin d.val j.val)
    (hpoison : f.poison = false) (hlost : (s.station d.val j.val).lost.find? (fun x => x.1 == f.tile) = none)
    (hdel : ((s.core d.val j.val).slot f.slot).delivering = true) (htile : ((s.core d.val j.val).slot f.slot).tile = f.tile)
    (hbad : ((s.core d.val j.val).slot f.slot).bad = false) (hroom : ((s.station d.val j.val).take lane).length < 64) :
    ∃ t, exec (.ringFlitArrival d j lane []) s = .next t ∧ t.hop d.val j.val lane = rest ∧
      (t.station d.val j.val).take lane = (s.station d.val j.val).take lane ++ [{ f with due := e }] ∧
      (1 < f.count → t.hop (s.nextHop d.val j.val lane).1 (s.nextHop d.val j.val lane).2.1 lane =
        s.hop (s.nextHop d.val j.val lane).1 (s.nextHop d.val j.val lane).2.1 lane ++
          [{ f with count := f.count - 1, due := e + (s.nextHop d.val j.val lane).2.2 }]) ∧
      (t.core d.val j.val).store = ((s.at e).core d.val j.val).store ∧ sameBut t.cores (s.at e).cores [34 * d.val + j.val] ∧
      t = { s.at e with cores := t.cores, rings := t.rings, tally := t.tally } := by
  have hexec := exec_ringFlitArrival_awake halive hawake hpick he
  rw [if_neg horigin, if_pos hact] at hexec
  have hsame := s.hop_offHop_same d.val j.val lane rest e
  have hother := fun n i h => s.hop_offHop_other (d := d.val) (j := j.val) (n := n) (i := i) lane rest e h
  have hways := s.offHop_ways d.val j.val lane rest e
  have hframe := s.offHop_frame d.val j.val lane rest e
  have hstation := s.station_offHop d.val j.val d.val j.val lane rest e
  have hslots : ((s.offHop d.val j.val lane rest e).core d.val j.val).slots = (s.core d.val j.val).slots :=
    ((CoresAged.at s e).core d.val j.val).slots
  generalize s.offHop d.val j.val lane rest e = u at hexec hsame hother hways hframe hstation hslots
  have hslot : (u.core d.val j.val).slot f.slot = (s.core d.val j.val).slot f.slot := by rw [Core.slot, Core.slot, hslots]
  generalize hg : ({ f with due := e } : RingFlit) = g at hexec ⊢
  have htake : u.takeFlit d.val j.val lane g = u.taken d.val j.val lane g :=
    State.takeFlit_taken (by rw [← hg]; exact hpoison) (by rw [hstation, ← hg]; exact hlost) (by rw [← hg]; exact (congrArg _ hslot).trans hdel)
      (by rw [← hg]; exact (congrArg _ hslot).trans htile) (by rw [← hg]; exact (congrArg _ hslot).trans hbad) (by rw [hstation]; exact hroom)
  rw [htake] at hexec
  have hv : u.taken d.val j.val lane g = { u with cores := (u.taken d.val j.val lane g).cores, rings := (u.taken d.val j.val lane g).rings } := rfl
  have hcores : sameBut (u.taken d.val j.val lane g).cores u.cores [34 * d.val + j.val] := sameBut_write _ _ _ _ (by simp)
  have hstore : ((u.taken d.val j.val lane g).core d.val j.val).store = (u.core d.val j.val).store :=
    Eq.trans (b := ((u.core d.val j.val).takes g.slot).store)
      (congrArg Core.store (State.core_modCore_same u d.val j.val (fun c => c.takes g.slot))) rfl
  have hhops := fun n i l => u.hop_taken d.val j.val n i lane l g
  have hbuf := u.take_taken d.val j.val lane g
  have hwaysV : SameWays u (u.taken d.val j.val lane g) := .of_parts rfl rfl
  generalize u.taken d.val j.val lane g = v at hexec hv hcores hstore hhops hbuf hwaysV
  obtain ⟨hpass, -, hsent⟩ := v.passFlit_passes d.val j.val lane g (f.count - 1) e
  have hbuf' := v.take_passFlit d.val j.val d.val j.val lane lane g (f.count - 1) e
  have hgone : (v.passFlit d.val j.val lane g (f.count - 1) e).hop d.val j.val lane = rest := by
    rcases Nat.eq_zero_or_pos (f.count - 1) with hz | hpos
    · rw [hz, State.passFlit, if_pos rfl, hhops, hsame]
    · rw [((hsent hpos).onward (hways.trans hwaysV) fun n i h => (hhops n i lane).trans (hother n i h)).1, hhops, hsame]
  generalize v.passFlit d.val j.val lane g (f.count - 1) e = t at hexec hpass hsent hbuf' hgone
  have htcores : t.cores = v.cores := by rw [hpass]
  have hucores : u.cores = (s.at e).cores := by rw [hframe]
  refine ⟨t, hexec, hgone, by rw [hbuf', hbuf, hstation], fun hc => ?_, ?_, ?_, by rw [hpass, hv, hframe]⟩
  · rw [((hsent (by omega)).onward (hways.trans hwaysV) fun n i h => (hhops n i lane).trans (hother n i h)).2, ← hg]
  · rw [State.core_of_cores htcores, hstore, State.core_of_cores hucores]
  · rw [htcores, ← hucores]
    exact hcores

/-! ### TAKE_WRITE (R105 to R107, R134) -/

theorem Mem.setBytes_bytesOfNum (m : Mem) (a n v : Nat) : Mem.setBytes m a (bytesOfNum n v) = Mem.setNum m a n v := by
  induction n generalizing m a v with
  | zero => rfl
  | succ n ih => exact ih _ _ _

/-- A line that is written to a store stands there; slots and inbox stay. -/
theorem Core.writeLine_eq (c : Core) (a : Nat) (v : Line) (poison : Bool) :
    ∃ m, c.writeLine a v poison = { c with store := c.store.setLine a v, marks := m } := by
  have hstore : c.store.setBytes a (bytesOfNum 256 v.toNat) = c.store.setLine a v := Mem.setBytes_bytesOfNum _ _ _ _
  unfold Core.writeLine Core.writeMarked
  dsimp only
  split
  · exact ⟨_, by rw [Core.write, hstore]⟩
  · exact ⟨_, by rw [Core.write, hstore]⟩

theorem Core.note_eq (c : Core) (edge : Nat) : ∃ b, c.note edge = { c with before := b } := by
  unfold Core.note
  split
  · exact ⟨_, rfl⟩
  · exact ⟨_, rfl⟩

/-- The oldest flit has left a take buffer at an edge, and the write port is taken. -/
def State.offBuffer (s : State) (d j : Nat) (lane : Lane) (rest : List RingFlit) (e late : Nat) : State :=
  ((((s.at e).count (blkCd d) 0x18 j late).modStation d j (fun t => t.setTake lane rest)).ringEvent d e).modCore d j
    (fun c => { c with takeFree := e + 1 })

/-- The last line of a sound tile has been written: its slot becomes valid. -/
def Core.tileWritten (c : Core) (x : Slot) (f : RingFlit) : Core :=
  { c.setSlot f.slot { x with written := x.written ++ [f.index], delivering := false } with
    inbox := c.inbox ||| BitVec.ofNat 16 (2 ^ f.slot) }

/-- The slot after a line has been written. -/
def Core.lineWritten (c : Core) (x : Slot) (f : RingFlit) : Core :=
  if f.lines ≤ (x.written ++ [f.index]).length ∧ x.bad = false then c.tileWritten x f
  else c.setSlot f.slot { x with written := x.written ++ [f.index] }

theorem Core.lineWritten_store (c : Core) (x : Slot) (f : RingFlit) : (c.lineWritten x f).store = c.store := by
  unfold Core.lineWritten
  split <;> rfl

/-- A slot becomes valid with the last line of a tile with no bad flit. -/
theorem Core.slotValid_lineWritten (c : Core) (x : Slot) {f : RingFlit} (h : f.slot < 16) :
    (c.lineWritten x f).slotValid f.slot =
      (c.slotValid f.slot || (decide (f.lines ≤ x.written.length + 1) && !x.bad)) := by
  unfold Core.lineWritten
  rw [List.length_append, List.length_singleton]
  split
  · next hall =>
    have hbit : (BitVec.ofNat 16 (2 ^ f.slot)).toNat.testBit f.slot = true := by
      rw [BitVec.toNat_ofNat, Nat.testBit_mod_two_pow, Nat.testBit_two_pow]
      simp [h]
    change bit (c.inbox ||| BitVec.ofNat 16 (2 ^ f.slot)).toNat f.slot = _
    rw [bit_eq_testBit, BitVec.toNat_or, Nat.testBit_or, hbit]
    simp [hall.1, hall.2]
  · next hall =>
    have hnot : (decide (f.lines ≤ x.written.length + 1) && !x.bad) = false := by
      rw [Bool.eq_false_iff]
      intro h
      exact hall (by simpa using h)
    rw [hnot, Bool.or_false]
    rfl

theorem State.storeAllowed_of_regs {s t : State} (h : t.regs = s.regs) (d p : Nat) (w i : Bool) (x : Nat × Nat) :
    t.storeAllowed d p w i x = s.storeAllowed d p w i x := by
  have hreg : ∀ k, t.rf (coreBase d p + 0x40 + 4 * k) 31 0 = s.rf (coreBase d p + 0x40 + 4 * k) 31 0 := fun k => State.rf_of_regs h _ _ _
  simp only [State.storeAllowed, hreg]

/-- What is left once the oldest flit has left a take buffer. -/
structure OffBuffer (d j : Nat) (lane : Lane) (rest : List RingFlit) (u v : State) : Prop where
  frame : v = { u with cores := v.cores, rings := v.rings, tally := v.tally }
  cores : sameBut v.cores u.cores [34 * d + j]
  rings : sameBut v.rings u.rings [d]
  core : ∃ n, v.core d j = { u.core d j with takeFree := n }
  buffer : (v.station d j).take lane = rest

theorem State.offBuffer_off (s : State) (d j : Nat) (lane : Lane) (rest : List RingFlit) (e late : Nat) :
    OffBuffer d j lane rest (s.at e) (s.offBuffer d j lane rest e late) := by
  obtain ⟨x, hx⟩ := State.count_eq (s.at e) (blkCd d) 0x18 j late
  unfold offBuffer
  rw [hx]
  refine ⟨rfl, sameBut_write _ _ _ _ (by simp), ?_, ⟨e + 1, State.core_modCore_same _ d j (fun c => { c with takeFree := e + 1 })⟩, ?_⟩
  · exact sameBut_trans (sameBut_write _ _ _ _ (by simp)) (sameBut_write _ _ _ _ (by simp))
  · have hstation : ∀ v : State, (v.modCore d j (fun c => { c with takeFree := e + 1 })).station d j = v.station d j := fun _ => rfl
    rw [hstation, State.station_ringEvent, State.station_modStation_same, Station.take_setTake]

/-- A line is written to its place, and its slot knows. -/
def State.lineStored (s : State) (d j : Nat) (f : RingFlit) (x : Slot) : State :=
  (s.modStore d j (fun c => c.writeLine (f.addr + 256 * f.index) f.payload f.poison)).modCore d j (fun c => c.lineWritten x f)

/-- The write of a flit that has left a take buffer. -/
def State.writeTaken (s : State) (d j : Nat) (f : RingFlit) : State :=
  let x := (s.core d j).slot f.slot
  let mine := x.delivering && x.tile == f.tile
  if !s.storeAllowed d j true false (f.addr + 256 * f.index, 256) then
    if mine then ((s.coreFault d j [cfRange]).modCore d j (fun c => c.setSlot f.slot { x with bad := true })).leaveBad d j f.slot f.lines
    else s.coreFault d j [cfRange]
  else if !mine then s.modStore d j (fun c => c.writeLine (f.addr + 256 * f.index) f.payload f.poison)
  else if f.lines ≤ (x.written ++ [f.index]).length ∧ x.bad = false then
    (s.modStore d j (fun c => c.writeLine (f.addr + 256 * f.index) f.payload f.poison)).modCore d j (fun c => c.tileWritten x f)
  else (s.modStore d j (fun c => c.writeLine (f.addr + 256 * f.index) f.payload f.poison)).modCore d j
    (fun c => c.setSlot f.slot { x with written := x.written ++ [f.index] })

theorem exec_takeWrite_awake {d : Fin 4} {j : Fin 34} {lane : Lane} {s : State} {f : RingFlit} {rest : List RingFlit} {e : Nat}
    (halive : s.alive = true) (hbuf : (s.station d.val j.val).take lane = f :: rest) (hawake : (s.domain (domCore d.val j.val)).awake = true)
    (he : e = (s.core d.val j.val).takeEdge (f.due + 1)) :
    exec (.takeWrite d j lane) s = .next ((s.offBuffer d.val j.val lane rest e (e - (f.due + 1))).writeTaken d.val j.val f) := by
  subst he
  change execTakeWrite d j lane s = _
  unfold execTakeWrite
  dsimp only
  rw [hbuf]
  dsimp only
  rw [if_neg (by simp [halive]), if_neg (by simp [hawake])]
  unfold State.writeTaken State.offBuffer
  dsimp only
  split
  · rfl
  · split
    · rfl
    · split <;> rfl

theorem State.writeTaken_stored {s : State} {d j : Nat} {f : RingFlit}
    (hmine : (((s.core d j).slot f.slot).delivering && ((s.core d j).slot f.slot).tile == f.tile) = true)
    (hallowed : s.storeAllowed d j true false (f.addr + 256 * f.index, 256) = true) :
    s.writeTaken d j f = s.lineStored d j f ((s.core d j).slot f.slot) := by
  unfold State.writeTaken
  dsimp only
  rw [if_neg (by simp [hallowed]), if_neg (by simp [hmine])]
  unfold State.lineStored
  generalize (s.core d j).slot f.slot = x
  by_cases hlast : f.lines ≤ (x.written ++ [f.index]).length ∧ x.bad = false
  · have hfun : (fun c : Core => c.lineWritten x f) = fun c => c.tileWritten x f := funext fun _ => if_pos hlast
    rw [if_pos hlast, hfun]
  · have hfun : (fun c : Core => c.lineWritten x f) = fun c => c.setSlot f.slot { x with written := x.written ++ [f.index] } :=
      funext fun _ => if_neg hlast
    rw [if_neg hlast, hfun]

/-- The core once a line has been stored. -/
theorem State.core_lineStored (s : State) (d j : Nat) (f : RingFlit) (x : Slot) : ∃ b m, (s.lineStored d j f x).core d j =
    ({ s.core d j with before := b, store := (s.core d j).store.setLine (f.addr + 256 * f.index) f.payload, marks := m } : Core).lineWritten x f := by
  obtain ⟨b, hb⟩ := (s.core d j).note_eq s.edge
  obtain ⟨m, hm⟩ := ({ s.core d j with before := b } : Core).writeLine_eq (f.addr + 256 * f.index) f.payload f.poison
  refine ⟨b, m, ?_⟩
  rw [State.lineStored, State.core_modCore_same, State.modStore, State.core_modCore_same, hb, hm]

theorem State.lineStored_frame (s : State) (d j : Nat) (f : RingFlit) (x : Slot) :
    s.lineStored d j f x = { s with cores := (s.lineStored d j f x).cores } ∧
    sameBut (s.lineStored d j f x).cores s.cores [34 * d + j] :=
  ⟨rfl, sameBut_trans (sameBut_write _ _ _ _ (by simp)) (sameBut_write _ _ _ _ (by simp))⟩

/-- Settles O19: forwarded, retired or taken, and written from the take buffer. -/
theorem tilesDelivered : Obligations.TilesDelivered := by
  refine ⟨fun d j lane s f rest e halive hawake hpick he => ⟨exec_ringFlitArrival_forwarded halive hawake hpick he,
    exec_ringFlitArrival_circled halive hawake hpick he, exec_ringFlitArrival_taken halive hawake hpick he⟩,
    fun d j lane s u f rest halive hbuf => ⟨fun hasleep => ?_, fun hawake hslot hu hdel htile hallowed => ?_⟩⟩
  · change execTakeWrite d j lane s = _
    unfold execTakeWrite
    dsimp only
    rw [hbuf]
    dsimp only
    rw [if_neg (by simp [halive]), if_pos (by simp [hasleep])]
  · subst hu
    generalize he : (s.core d.val j.val).takeEdge (f.due + 1) = e at *
    have hexec := exec_takeWrite_awake halive hbuf hawake he.symm
    have hoff := s.offBuffer_off d.val j.val lane rest e (e - (f.due + 1))
    generalize s.offBuffer d.val j.val lane rest e (e - (f.due + 1)) = v at hexec hoff
    generalize s.at e = u at *
    obtain ⟨n, hcore⟩ := hoff.core
    have hregs : v.regs = u.regs := by rw [hoff.frame]
    have hslots : (v.core d.val j.val).slot f.slot = (u.core d.val j.val).slot f.slot := by rw [hcore]; rfl
    rw [State.writeTaken_stored (by rw [hslots, hdel, htile]; simp) (by rw [State.storeAllowed_of_regs hregs]; exact hallowed), hslots] at hexec
    obtain ⟨b, m, hc⟩ := v.core_lineStored d.val j.val f ((u.core d.val j.val).slot f.slot)
    obtain ⟨hframe, hcores⟩ := v.lineStored_frame d.val j.val f ((u.core d.val j.val).slot f.slot)
    generalize v.lineStored d.val j.val f ((u.core d.val j.val).slot f.slot) = t at hexec hc hframe hcores
    have htake : t.station d.val j.val = v.station d.val j.val := State.station_of_ring (congrArg Ring.stations
      (State.ring_of_rings (by rw [hframe]) d.val)) j.val
    have hstore : (t.core d.val j.val).store = (u.core d.val j.val).store.setLine (f.addr + 256 * f.index) f.payload := by
      have hkept : (v.core d.val j.val).store = (u.core d.val j.val).store := (congrArg Core.store hcore).trans rfl
      rw [hc, Core.lineWritten_store, ← hkept]
    refine ⟨t, hexec, by rw [hframe, hoff.frame], ?_, fun a ha => ?_, ?_, by rw [htake, hoff.buffer], sameBut_trans hcores hoff.cores, ?_, ?_⟩
    · exact (congrArg (fun m => Mem.line m (f.addr + 256 * f.index)) hstore).trans (Mem.line_setLine _ _ _)
    · exact (congrArg (fun m => Mem.byte m a) hstore).trans (Mem.byte_setLine_other _ _ ha)
    · rw [hc, Core.slotValid_lineWritten _ _ hslot, hcore]
      rfl
    · rw [hframe]
      exact hoff.rings
    · rw [hframe, hoff.frame]

end Sys2Proof.Machine
end

section
/-! SUPPORT. Ring accumulate: the flit that arrives, the addition, and the station's own stream (R143 to R147). -/

namespace Sys2Proof.Machine

/-! ### What an event of ring accumulate leaves -/

/-- An event at a station leaves the other hops of its lane, the exits of streams, and all outside cores and rings. -/
structure AccKept (d j : Nat) (lane : Lane) (s t : State) : Prop where
  frame : t = { s with cores := t.cores, rings := t.rings }
  others : ∀ n i, n ≠ d ∨ i ≠ j → t.hop n i lane = s.hop n i lane
  exits : ∀ n, (t.ring n).exits = (s.ring n).exits

theorem AccKept.refl (d j : Nat) (lane : Lane) (s : State) : AccKept d j lane s s := ⟨rfl, fun _ _ _ => rfl, fun _ => rfl⟩

theorem AccKept.trans {d j : Nat} {lane : Lane} {s t u : State} (h : AccKept d j lane s t) (h' : AccKept d j lane t u) :
    AccKept d j lane s u :=
  ⟨by rw [h'.frame, h.frame], fun n i hn => (h'.others n i hn).trans (h.others n i hn), fun n => (h'.exits n).trans (h.exits n)⟩

theorem AccKept.ways {d j : Nat} {lane : Lane} {s t : State} (h : AccKept d j lane s t) : SameWays s t :=
  .of_parts (by rw [h.frame]) (by rw [h.frame])

theorem AccKept.modStation (s : State) (d j : Nat) (lane : Lane) (f : Station → Station) : AccKept d j lane s (s.modStation d j f) := by
  refine ⟨rfl, fun n i _ => s.hop_modStation d j n i lane f, fun n => ?_⟩
  unfold State.modStation
  refine s.ring_modRing_field d n Ring.exits ?_
  exact fun _ => rfl

theorem AccKept.ringEvent (s : State) (d j e : Nat) (lane : Lane) : AccKept d j lane s (s.ringEvent d e) := by
  refine ⟨rfl, fun n i _ => s.hop_ringEvent d e n i lane, fun n => ?_⟩
  unfold State.ringEvent
  refine s.ring_modRing_field d n Ring.exits ?_
  exact fun _ => rfl

theorem AccKept.setHop (s : State) (d j : Nat) (lane : Lane) (l : List RingFlit) : AccKept d j lane s (s.setHop d j lane l) := by
  refine ⟨rfl, fun n i h => s.hop_setHop_other lane l h, fun n => ?_⟩
  unfold State.setHop
  refine s.ring_modRing_field d n Ring.exits ?_
  exact fun _ => rfl

theorem AccKept.modCore (s : State) (d j : Nat) (lane : Lane) (f : Core → Core) : AccKept d j lane s (s.modCore d j f) :=
  ⟨rfl, fun _ _ _ => rfl, fun _ => rfl⟩

theorem AccKept.accTake (s : State) (d j : Nat) (lane : Lane) (f : RingFlit) : AccKept d j lane s (s.accTake d j lane f) := by
  unfold State.accTake
  split
  · exact .modStation s d j lane _
  · exact .setHop s d j lane _

theorem AccKept.contributed (s : State) (d j : Nat) (lane : Lane) (x : Contrib) (i flits : Nat) :
    AccKept d j lane s (s.contributed d j x i flits) := by
  unfold State.contributed
  dsimp only
  refine AccKept.trans ?_ (.modStation _ d j lane _)
  split
  · exact .modCore s d j lane _
  · exact .refl d j lane s

/-- A flit is off its hop or out of the accumulate buffer at an edge. -/
def State.accLeft (s : State) (d j : Nat) (lane : Lane) (f : RingFlit) (e : Nat) : State := ((s.at e).accTake d j lane f).ringEvent d e

theorem State.accLeft_kept (s : State) (d j : Nat) (lane : Lane) (f : RingFlit) (e : Nat) :
    AccKept d j lane (s.at e) (s.accLeft d j lane f e) := (AccKept.accTake _ d j lane f).trans (.ringEvent _ d j e lane)

theorem State.accTake_cores (s : State) (d j : Nat) (lane : Lane) (f : RingFlit) : (s.accTake d j lane f).cores = s.cores := by
  unfold accTake
  split <;> rfl

/-- The flit of a station with more contributors to come is on the next hop. -/
theorem Sent.accOn {d : Fin 4} {j : Fin 34} {lane : Lane} {f : RingFlit} {e : Nat} {s v t : State} (hkept : AccKept d.val j.val lane (s.at e) v)
    (h : Sent d.val j.val lane f e v t) :
    t.hop (s.nextHop d.val j.val lane).1 (s.nextHop d.val j.val lane).2.1 lane =
      s.hop (s.nextHop d.val j.val lane).1 (s.nextHop d.val j.val lane).2.1 lane ++
        [{ f with due := e + (s.nextHop d.val j.val lane).2.2 }] :=
  (h.onward ((SameWays.at s e).trans hkept.ways) fun n i hn => (hkept.others n i hn).trans (s.hop_at e n i lane)).2

/-! ### A flit that arrives (R133, R146) -/

theorem execAccFlitAdd_quiet {d : Fin 4} {j : Fin 34} {lane : Lane} {words : List (Fin 32 × Bool)} {s u : State}
    (halive : s.alive = true) (hawake : s.segmentsAwake d.val = true) (hu : u = s.checkContribs d.val j.val lane)
    (hown : (u.accLocal d.val j.val lane).1 = none) :
    (pickFlit .acc (u.hop d.val j.val lane) = none → exec (.accFlitAdd d j lane words) s = .next u) ∧
    ∀ f rest, pickFlit .acc (u.hop d.val j.val lane) = some (f, rest) →
      exec (.accFlitAdd d j lane words) s = .next (u.accArrive d.val j.val lane f words) := by
  subst hu
  obtain ⟨k, hlocal⟩ : ∃ k, (s.checkContribs d.val j.val lane).accLocal d.val j.val lane = (none, k) := ⟨_, Prod.ext hown rfl⟩
  refine ⟨fun hpick => ?_, fun f rest hpick => ?_⟩
  · change execAccFlitAdd d j lane words s = _
    unfold execAccFlitAdd
    dsimp only
    rw [if_neg (by simp [halive]), if_neg (by simp [hawake]), hlocal, hpick]
  · change execAccFlitAdd d j lane words s = _
    unfold execAccFlitAdd
    dsimp only
    rw [if_neg (by simp [halive]), if_neg (by simp [hawake]), hlocal, hpick]

/-- With a sound flit that is not at its origin. -/
theorem State.accArrive_eq {s : State} {d j : Nat} {lane : Lane} {f : RingFlit} (h : f.origin ≠ s.origin d j) :
    s.accArrive d j lane f [] =
      if !s.active d j then (s.accLeft d j lane f (s.forwardEdge d j lane f)).sendFlit d j lane f (s.forwardEdge d j lane f)
      else if 256 ≤ ((s.station d j).accBuf lane).length then s
      else (s.accLeft d j lane f (s.forwardEdge d j lane f)).modStation d j (fun t => t.setAccBuf lane (t.accBuf lane ++ [f])) := by
  unfold accArrive
  dsimp only
  rw [if_neg h]
  rfl

theorem State.accArrive_forwards {s : State} {d : Fin 4} {j : Fin 34} {lane : Lane} {f : RingFlit} {e : Nat}
    (h : f.origin ≠ s.origin d.val j.val) (he : e = s.forwardEdge d.val j.val lane f) (hact : s.active d.val j.val = false) {t : State}
    (ht : t = s.accArrive d.val j.val lane f []) :
    t.edge = max s.edge e ∧
      t.hop (s.nextHop d.val j.val lane).1 (s.nextHop d.val j.val lane).2.1 lane =
        s.hop (s.nextHop d.val j.val lane).1 (s.nextHop d.val j.val lane).2.1 lane ++
          [{ f with due := e + (s.nextHop d.val j.val lane).2.2 }] ∧ t = { s.at e with rings := t.rings, tally := t.tally } := by
  rw [State.accArrive_eq h, if_pos (by simp [hact]), ← he] at ht
  have hkept := s.accLeft_kept d.val j.val lane f e
  have hcores : (s.accLeft d.val j.val lane f e).cores = (s.at e).cores := State.accTake_cores _ _ _ _ _
  have hsent := (s.accLeft d.val j.val lane f e).sendFlit_sent d.val j.val lane f e
  rw [← ht] at hsent
  have hframe : t = { s.at e with rings := t.rings, tally := t.tally } := by
    generalize s.accLeft d.val j.val lane f e = v at hkept hcores hsent
    rw [hsent.frame, hkept.frame, hcores]
  refine ⟨?_, hsent.accOn hkept, hframe⟩
  rw [hframe]
  exact s.edge_at e

theorem Station.accBuf_setAccBuf (t : Station) (lane : Lane) (l : List RingFlit) : (t.setAccBuf lane l).accBuf lane = l := by cases lane <;> rfl

theorem State.accArrive_holds {s : State} {d : Fin 4} {j : Fin 34} {lane : Lane} {f : RingFlit} {e : Nat}
    (h : f.origin ≠ s.origin d.val j.val) (he : e = s.forwardEdge d.val j.val lane f) (hact : s.active d.val j.val = true)
    (hnew : ((s.station d.val j.val).accBuf lane).contains f = false) (hroom : ((s.station d.val j.val).accBuf lane).length < 256)
    {t : State} (ht : t = s.accArrive d.val j.val lane f []) :
    t.edge = max s.edge e ∧ (t.station d.val j.val).accBuf lane = (s.station d.val j.val).accBuf lane ++ [f] ∧
      t = { s.at e with rings := t.rings } := by
  rw [State.accArrive_eq h, if_neg (by simp [hact]), if_neg (by omega), ← he] at ht
  have hkept := s.accLeft_kept d.val j.val lane f e
  have hcores : (s.accLeft d.val j.val lane f e).cores = (s.at e).cores := State.accTake_cores _ _ _ _ _
  have hstation : (s.accLeft d.val j.val lane f e).station d.val j.val = s.station d.val j.val := by
    rw [State.accLeft, State.station_ringEvent, State.accTake, if_neg (by rw [State.station_at]; simp only [hnew]; decide), State.station_setHop,
      State.station_at]
  generalize s.accLeft d.val j.val lane f e = v at hkept hcores hstation ht
  have hframe : t = { s.at e with rings := t.rings } := by
    rw [ht]
    change ({ v with rings := _ } : State) = _
    rw [hkept.frame, hcores]
    rfl
  refine ⟨?_, ?_, hframe⟩
  · rw [hframe]
    exact s.edge_at e
  · rw [ht, State.station_modStation_same, Station.accBuf_setAccBuf, hstation]

end Sys2Proof.Machine
end

section
/-! SUPPORT. Ring accumulate: what a station adds, sends on, delivers and originates (R143 to R147). -/

namespace Sys2Proof.Machine

/-! ### The addition that a station makes (R144) -/

/-- The flit that an addition leaves. -/
def RingFlit.added (f : RingFlit) (c : List Nat) : RingFlit :=
  { f with payload := lineOf ((addLines (lineWords f.payload) c).map (fun (y : Nat × Nat) => y.1)), count := f.count - 1 }

/-- The station once it has added: the contribution is used, and the flags are in the flag word. -/
def State.accSummed (s : State) (d j : Nat) (lane : Lane) (f : RingFlit) (x : Contrib) (e : Nat) : State :=
  ((s.accLeft d j lane f e).contributed d j x f.index f.lines).orReg (coreBase d j + 0x10)
    (orFlags (addLines (lineWords f.payload) ((s.core d j).contribution x f.index)))

theorem State.accAdd_eq (s : State) (d : Fin 4) (j : Fin 34) (lane : Lane) (f : RingFlit) (x : Contrib) (e : Nat) :
    s.accAdd d j lane f x [] e =
      (s.accSummed d.val j.val lane f x e).accPass d j lane (f.added ((s.core d.val j.val).contribution x f.index)) e := by
  unfold accAdd
  dsimp only
  rw [ite_self]
  rfl

/-- What an event of ring accumulate leaves where its flags are noted. -/
structure AccSummed (d j : Nat) (lane : Lane) (flags : Nat) (s t : State) : Prop where
  frame : t = { s with regs := t.regs, recent := t.recent, cores := t.cores, rings := t.rings }
  ways : SameWays s t
  others : ∀ n i, n ≠ d ∨ i ≠ j → t.hop n i lane = s.hop n i lane
  exits : ∀ n, (t.ring n).exits = (s.ring n).exits
  flags : t.reg (coreBase d j + 0x10) = s.reg (coreBase d j + 0x10) ||| BitVec.ofNat 32 flags

theorem State.accSummed_summed (s : State) (d j : Nat) (lane : Lane) (f : RingFlit) (x : Contrib) (e : Nat) :
    AccSummed d j lane (orFlags (addLines (lineWords f.payload) ((s.core d j).contribution x f.index))) (s.at e)
      (s.accSummed d j lane f x e) := by
  have hkept := (s.accLeft_kept d j lane f e).trans (.contributed _ d j lane x f.index f.lines)
  unfold accSummed
  generalize State.contributed _ d j x f.index f.lines = v at hkept
  have hregs : v.regs = (s.at e).regs := by rw [hkept.frame]
  refine ⟨?_, hkept.ways.trans ⟨rfl, fun n => State.reg_orReg_other v _ (by simp only [ringBase, coreBase]; omega)⟩, hkept.others, hkept.exits, ?_⟩
  · change ({ v with regs := _, recent := _ } : State) = _
    rw [hkept.frame]
    rfl
  · rw [State.reg_orReg_same, State.reg_of_regs hregs]

theorem State.accExit_of_exits {s t : State} (h : ∀ n, (t.ring n).exits = (s.ring n).exits) (id : Nat) : t.accExit? id = s.accExit? id := by
  simp only [State.accExit?, h]

/-! ### The exit of a stream (R147) -/

theorem State.dropExit_frame (s : State) (id : Nat) : s.dropExit id = { s with rings := (s.dropExit id).rings } := by
  unfold dropExit
  induction List.range 4 generalizing s with
  | nil => rfl
  | cons n l ih =>
    rw [List.foldl_cons, ih]
    rfl

theorem State.modExit_frame (s : State) (id : Nat) (f : AccExit → AccExit) : s.modExit id f = { s with rings := (s.modExit id f).rings } := by
  unfold modExit
  induction List.range 4 generalizing s with
  | nil => rfl
  | cons n l ih =>
    rw [List.foldl_cons, ih]
    rfl

/-- A stream's exit goes with its last flit. -/
def State.exitDone (s : State) (f : RingFlit) : State := if f.lines ≤ f.index + 1 then s.dropExit f.tile else s

theorem State.exitDone_frame (s : State) (f : RingFlit) : s.exitDone f = { s with rings := (s.exitDone f).rings } := by
  unfold exitDone
  split
  · exact s.dropExit_frame f.tile
  · rfl

theorem State.reg_exitDone (s : State) (f : RingFlit) (o : Nat) : (s.exitDone f).reg o = s.reg o :=
  State.reg_of_regs (by rw [s.exitDone_frame f]) o

/-- The request that a result at a memory exit makes. -/
def AccExit.req (o : AccExit) (die : Fin 4) (station : Fin 34) (f : RingFlit) (leave : Nat) : LineReq :=
  { src := .station die station, kind := if o.add then .add else .write, addr := o.exit + 256 * f.index, hint := .stream,
    data := f.payload, poison := false, dest := .none, leave := leave }

/-- Each way in which a result leaves. -/
theorem State.accDeliver_cases (s : State) (die : Fin 4) (station : Fin 34) (f : RingFlit) :
    s.accDeliver die station f =
      match s.accExit? f.tile with
      | none => s
      | some e =>
        if f.poison || e.poisoned then (s.modExit f.tile (fun e => { e with poisoned := true })).exitDone f
        else if e.toCore then
          if s.storeAllowed die.val station.val true false (e.exit + 256 * f.index, 256) then
            (s.modStore die.val station.val (fun c => c.writeLine (e.exit + 256 * f.index) f.payload false)).exitDone f
          else (s.coreFault die.val station.val [cfRange]).exitDone f
        else ({ s with mem := { s.mem with reqs := s.mem.reqs ++ [e.req die station f s.edge] } } : State).exitDone f := rfl

theorem State.reg_coreFault_flags (s : State) (d p : Nat) (bs : List Nat) (n q : Nat) :
    (s.coreFault d p bs).reg (coreBase n q + 0x10) = s.reg (coreBase n q + 0x10) :=
  State.reg_coreFault_other s bs (by simp only [coreBase]; omega) (fun m => by simp only [coreBase, vlBase]; omega)

/-- A result that leaves keeps the flag words of cores. -/
theorem State.reg_accDeliver_flags (s : State) (die : Fin 4) (station : Fin 34) (f : RingFlit) (n q : Nat) :
    (s.accDeliver die station f).reg (coreBase n q + 0x10) = s.reg (coreBase n q + 0x10) := by
  rw [State.accDeliver_cases]
  split
  · rfl
  · split
    · rw [State.reg_exitDone]
      exact State.reg_of_regs (by rw [State.modExit_frame]) _
    · split
      · split
        · exact State.reg_exitDone _ _ _
        · exact (State.reg_exitDone _ _ _).trans (State.reg_coreFault_flags s _ _ _ _ _)
      · exact State.reg_exitDone _ _ _

theorem State.accDeliver_request {s : State} {die : Fin 4} {station : Fin 34} {f : RingFlit} {o : AccExit} (ho : s.accExit? f.tile = some o)
    (hpoison : f.poison = false) (hsound : o.poisoned = false) (hmem : o.toCore = false) :
    (s.accDeliver die station f).mem = { s.mem with reqs := s.mem.reqs ++ [o.req die station f s.edge] } := by
  rw [State.accDeliver_cases, ho]
  dsimp only
  rw [if_neg (by simp [hpoison, hsound]), if_neg (by simp [hmem]), State.exitDone_frame]

theorem State.reg_accPass_flags (s : State) (die : Fin 4) (station : Fin 34) (lane : Lane) (f : RingFlit) (e n q : Nat) :
    (s.accPass die station lane f e).reg (coreBase n q + 0x10) = s.reg (coreBase n q + 0x10) := by
  unfold accPass
  split
  · exact s.reg_accDeliver_flags die station f n q
  · exact State.reg_of_regs (by rw [(s.sendFlit_sent die.val station.val lane f e).frame]) _

/-! ### The events of a station (R144, R147) -/

/-- An addition or an origination that comes before the flit of the hop takes place. -/
theorem exec_accFlitAdd_local {d : Fin 4} {j : Fin 34} {lane : Lane} {words : List (Fin 32 × Bool)} {s u : State} {e : Nat}
    (halive : s.alive = true) (hawake : s.segmentsAwake d.val = true) (hu : u = s.checkContribs d.val j.val lane) :
    (∀ f x, u.accLocal d.val j.val lane = (some (.inl (f, x)), e) →
      (∀ g rest, pickFlit .acc (u.hop d.val j.val lane) = some (g, rest) → g = f ∨ e < u.forwardEdge d.val j.val lane g) →
      exec (.accFlitAdd d j lane words) s = .next (u.accAdd d j lane f x words e)) ∧
    ∀ a x, u.accLocal d.val j.val lane = (some (.inr (a, x)), e) →
      (∀ g rest, pickFlit .acc (u.hop d.val j.val lane) = some (g, rest) → e < u.forwardEdge d.val j.val lane g) →
      exec (.accFlitAdd d j lane words) s = .next (u.accOriginate d j lane a x e) := by
  subst hu
  refine ⟨fun f x hlocal hfirst => ?_, fun a x hlocal hfirst => ?_⟩
  · change execAccFlitAdd d j lane words s = _
    unfold execAccFlitAdd
    dsimp only
    rw [if_neg (by simp [halive]), if_neg (by simp [hawake]), hlocal]
    cases hpick : pickFlit .acc ((s.checkContribs d.val j.val lane).hop d.val j.val lane) with
    | none => rfl
    | some y =>
      have hcond : f = y.1 ∨ e < (s.checkContribs d.val j.val lane).forwardEdge d.val j.val lane y.1 :=
        (hfirst y.1 y.2 hpick).imp_left Eq.symm
      exact if_pos (by simpa using hcond)
  · change execAccFlitAdd d j lane words s = _
    unfold execAccFlitAdd
    dsimp only
    rw [if_neg (by simp [halive]), if_neg (by simp [hawake]), hlocal]
    cases hpick : pickFlit .acc ((s.checkContribs d.val j.val lane).hop d.val j.val lane) with
    | none => rfl
    | some y => exact if_pos (by simpa using hfirst y.1 y.2 hpick)

/-- What an addition does. -/
theorem State.accAdd_adds {s : State} {d : Fin 4} {j : Fin 34} {lane : Lane} {f : RingFlit} {x : Contrib} {e : Nat} {t : State} {g : RingFlit}
    (hg : g = f.added ((s.core d.val j.val).contribution x f.index)) (ht : t = s.accAdd d j lane f x [] e) :
    t.reg (coreBase d.val j.val + 0x10) = (s.at e).reg (coreBase d.val j.val + 0x10) |||
      BitVec.ofNat 32 (orFlags (addLines (lineWords f.payload) ((s.core d.val j.val).contribution x f.index))) ∧
    (1 < f.count → t.hop (s.nextHop d.val j.val lane).1 (s.nextHop d.val j.val lane).2.1 lane =
        s.hop (s.nextHop d.val j.val lane).1 (s.nextHop d.val j.val lane).2.1 lane ++
          [{ g with due := e + (s.nextHop d.val j.val lane).2.2 }] ∧
      t = { s.at e with regs := t.regs, recent := t.recent, cores := t.cores, rings := t.rings, tally := t.tally }) ∧
    (∀ o, f.count = 1 → s.accExit? f.tile = some o → f.poison = false → o.poisoned = false → o.toCore = false →
      t.mem = { s.mem with reqs := s.mem.reqs ++ [o.req d j g (max s.edge e)] }) := by
  have hsum := s.accSummed_summed d.val j.val lane f x e
  rw [State.accAdd_eq, ← hg] at ht
  generalize s.accSummed d.val j.val lane f x e = v at hsum ht
  have hcount : g.count = f.count - 1 := by rw [hg]; rfl
  refine ⟨?_, fun hmore => ?_, fun o hlast ho hpoison hsound hmem => ?_⟩
  · rw [ht, State.reg_accPass_flags, hsum.flags]
  · have hsent := v.sendFlit_sent d.val j.val lane g e
    have hpass : t = v.sendFlit d.val j.val lane g e := ht.trans (if_neg (by omega))
    rw [← hpass] at hsent
    refine ⟨(hsent.onward ((SameWays.at s e).trans hsum.ways) fun n i hn => (hsum.others n i hn).trans (s.hop_at e n i lane)).2, ?_⟩
    rw [hsent.frame, hsum.frame]
  · have hpass : t = v.accDeliver d j g := ht.trans (if_pos (by omega))
    have hexit : v.accExit? g.tile = some o := by
      have hat : ∀ n, (v.ring n).exits = (s.ring n).exits := fun n =>
        (hsum.exits n).trans (congrArg Ring.exits (State.ring_of_rings (State.at_rings s e) n))
      rw [State.accExit_of_exits hat, hg]
      exact ho
    have hvmem : v.mem = s.mem := by rw [hsum.frame]; exact State.at_mem s e
    have hvedge : v.edge = max s.edge e := by rw [hsum.frame]; exact s.edge_at e
    rw [hpass, State.accDeliver_request hexit (by rw [hg]; exact hpoison) hsound hmem, hvmem, hvedge]

/-- The flit of a station's own stream. -/
def AccStream.flit (a : AccStream) (origin : Nat) (payload : Line) (e : Nat) : RingFlit :=
  { kind := .acc, stream := 0, slot := 0, index := a.sent, count := a.k - 1, origin := origin, payload := payload, poison := false,
    tile := a.id, lines := a.flits, addr := a.exit, due := e }

/-- The station once its stream's contribution has been read. -/
def State.accOpened (s : State) (d j : Nat) (a : AccStream) (x : Contrib) (e : Nat) : State :=
  (((s.at e).modStation d j (fun t =>
    { t with accs := if a.flits ≤ a.sent + 1 then t.accs.erase a
                     else t.accs.map (fun z => if z = a then { a with sent := a.sent + 1 } else z) })).ringEvent d e).contributed d j x
    a.sent a.flits

theorem State.accOriginate_eq (s : State) (d : Fin 4) (j : Fin 34) (lane : Lane) (a : AccStream) (x : Contrib) (e : Nat) :
    s.accOriginate d j lane a x e = (s.accOpened d.val j.val a x e).accPass d j lane
      (a.flit (s.origin d.val j.val) (lineOf ((s.core d.val j.val).contribution x a.sent)) e) e := rfl

theorem State.accOpened_kept (s : State) (d j : Nat) (lane : Lane) (a : AccStream) (x : Contrib) (e : Nat) :
    AccKept d j lane (s.at e) (s.accOpened d j a x e) :=
  ((AccKept.modStation _ d j lane _).trans (.ringEvent _ d j e lane)).trans (.contributed _ d j lane x a.sent a.flits)

/-- Settles O20: the flit that arrives, the addition, or the station's own stream. -/
theorem accumulationOrder : Obligations.AccumulationOrder := by
  refine ⟨fun d j lane words s u halive hawake hu => ⟨fun hown hpick => (execAccFlitAdd_quiet halive hawake hu hown).1 hpick,
    fun f rest e hown hpick he horigin hwords => ?_, fun f x e hlocal hwords hfirst => ?_, fun a x e hlocal hk hfirst => ?_⟩,
    fun a b => rfl⟩
  · subst hwords
    have hexec := (execAccFlitAdd_quiet halive hawake hu hown (words := [])).2 f rest hpick
    exact ⟨fun hact => ⟨_, hexec, State.accArrive_forwards horigin he hact rfl⟩,
      fun hact hnew hroom => ⟨_, hexec, State.accArrive_holds horigin he hact hnew hroom rfl⟩⟩
  · subst hwords
    have hexec := (exec_accFlitAdd_local halive hawake hu (words := [])).1 f x hlocal hfirst
    exact ⟨_, _, hexec, rfl, State.accAdd_adds rfl rfl⟩
  · have hexec := (exec_accFlitAdd_local halive hawake hu (words := words)).2 a x hlocal hfirst
    rw [State.accOriginate_eq] at hexec
    have hkept := u.accOpened_kept d.val j.val lane a x e
    generalize u.accOpened d.val j.val a x e = v at hexec hkept
    generalize hf : a.flit (u.origin d.val j.val) (lineOf ((u.core d.val j.val).contribution x a.sent)) e = f at hexec
    have hsent := v.sendFlit_sent d.val j.val lane f e
    have hpass : v.accPass d j lane f e = v.sendFlit d.val j.val lane f e := if_neg (by rw [← hf]; change ¬ a.k - 1 = 0; omega)
    rw [hpass] at hexec
    refine ⟨_, _, hexec, hsent.accOn hkept, ?_⟩
    subst hf
    exact ⟨rfl, rfl, rfl, rfl, rfl, rfl, rfl, by rw [hsent.frame, hkept.frame]⟩

end Sys2Proof.Machine
end

section
/-! SUPPORT. HBM_CTL and VLT_CTL: what their writes do (R262, R277, R282 to R284, R289, R291, R294, R548). -/

namespace Sys2Proof.Machine

/-! ### HBM_CTL (R262, R289, R291) -/

theorem foldl_eq_of_fixed {α β : Type} {f : β → α → β} {l : List α} {b : β} (h : ∀ x ∈ l, f b x = b) : l.foldl f b = b := by
  induction l with
  | nil => rfl
  | cons x l ih =>
    rw [List.foldl_cons, h x (List.mem_cons_self ..)]
    exact ih fun y hy => h y (List.mem_cons_of_mem _ hy)

/-- With no write and no work that waits for the controllers, nothing goes on. -/
theorem State.memResume_idle {s : State} (hdies : ∀ d : Fin 4, (s.die d.val).enabling = false ∧ (s.die d.val).disabling = false)
    (htellers : ∀ n : Fin 2, (s.teller n.val).flushing = false ∧ (s.teller n.val).computing = false) : s.memResume = s := by
  have hvaults : s.vaultResume = s := by
    unfold State.vaultResume
    refine foldl_eq_of_fixed fun d hd => ?_
    obtain ⟨hen, hdis⟩ := hdies ⟨d, List.mem_range.1 hd⟩
    dsimp only at hen hdis ⊢
    rw [hen]
    exact if_neg (by rw [if_neg (by decide), hdis]; decide)
  unfold State.memResume
  rw [hvaults]
  refine foldl_eq_of_fixed fun n hn => ?_
  have hn2 : n < 2 := by
    rcases List.mem_cons.1 hn with rfl | hn
    · decide
    · rw [List.mem_singleton.1 hn]
      decide
  obtain ⟨hflush, hcomp⟩ := htellers ⟨n, hn2⟩
  dsimp only at hflush hcomp ⊢
  rw [hflush]
  exact if_neg (by rw [if_neg (by decide), hcomp]; decide)

theorem State.hbmOn_setOn (s : State) (d : Nat) : (s.setRf (hbmBase d + 4) 0 0 1).hbmOn d = true := by
  rw [State.hbmOn, State.rf_setRf_same _ _ _ _ (by omega)]
  rfl

/-- A fault bit that is set with a notice stands. -/
theorem State.bit_orNotice (s : State) (off : Nat) {b : Nat} (e : Err) (hb : b < 32) :
    bit (((s.orReg off (2 ^ b)).notice e).reg off).toNat b = true := by
  obtain ⟨j, hj⟩ := State.notice_eq (s.orReg off (2 ^ b)) e
  rw [hj]
  change bit ((s.orReg off (2 ^ b)).reg off).toNat b = true
  rw [State.bit_orReg s hb, Nat.testBit_two_pow_self, Bool.or_true]

/-- What a fault bit with a notice leaves. -/
theorem State.orNotice_frame (s : State) (off mask : Nat) (e : Err) :
    (s.orReg off mask).notice e = { s with regs := ((s.orReg off mask).notice e).regs, recent := ((s.orReg off mask).notice e).recent,
                                           jnl := ((s.orReg off mask).notice e).jnl } ∧
    sameBut ((s.orReg off mask).notice e).regs s.regs [off] ∧ ((s.orReg off mask).notice e).outer = s.outer := by
  obtain ⟨j, hj⟩ := State.notice_eq (s.orReg off mask) e
  rw [hj]
  exact ⟨rfl, sameBut_write _ _ _ _ (by simp), rfl⟩

/-- The first controller with its ranges. -/
def State.rangesTaken (s : State) : State := { s.setRf (hbmBase 0 + 4) 0 0 1 with mem := { s.mem with qranges := s.qrangeRegs } }

theorem exec_hbmEnable (s : State) (hon : s.power.phase = .on) (hoff : s.hbmOn 0 = false) :
    ∃ t, exec (.hbmEnable .firmware) s = .next t ∧ t.outer = s.outer ∧
      (qrangesBad s.qrangeRegs = true → t.hbmOn 0 = false ∧ bit (t.reg (hbmBase 0 + 0xC)).toNat 1 = true ∧ t.mem = s.mem ∧
        t.dies = s.dies ∧ sameBut t.regs s.regs [hbmBase 0 + 0xC]) ∧
      (qrangesBad s.qrangeRegs = false →
        t = ({ s.setRf (hbmBase 0 + 4) 0 0 1 with mem := { s.mem with qranges := s.qrangeRegs } } : State).memResume ∧
        ((∀ d : Fin 4, (s.die d.val).enabling = false ∧ (s.die d.val).disabling = false) →
          (∀ n : Fin 2, (s.teller n.val).flushing = false ∧ (s.teller n.val).computing = false) → t.hbmOn 0 = true ∧
          t = { s with regs := t.regs, mem := { s.mem with qranges := s.qrangeRegs } } ∧ sameBut t.regs s.regs [hbmBase 0 + 4])) := by
  have hexec : exec (.hbmEnable .firmware) s = .next (if qrangesBad s.qrangeRegs then
      (s.orReg (hbmBase 0 + 0xC) (2 ^ 1)).notice (Err.of .notice 0x301 (domMd 0 9)) else s.rangesTaken.memResume) :=
    congrArg Host.Outcome.next ((if_neg (by simp [hoff])).trans (State.gate_firmware hon _ _ _))
  by_cases hbad : qrangesBad s.qrangeRegs = true
  · rw [if_pos hbad] at hexec
    have hbit := s.bit_orNotice (hbmBase 0 + 0xC) (b := 1) (Err.of .notice 0x301 (domMd 0 9)) (by decide)
    obtain ⟨hframe, hregs, houter⟩ := s.orNotice_frame (hbmBase 0 + 0xC) (2 ^ 1) (Err.of .notice 0x301 (domMd 0 9))
    generalize State.notice _ _ = t at hexec hbit hframe hregs houter
    refine ⟨t, hexec, houter, fun _ => ⟨?_, hbit, by rw [hframe], by rw [hframe], hregs⟩, fun h => absurd (hbad.symm.trans h) (by decide)⟩
    rw [← hoff, State.hbmOn, State.hbmOn, State.rf, State.rf, State.reg, State.reg, read_of_sameBut hregs _ (by simp [hbmBase])]
  · rw [if_neg hbad] at hexec
    refine ⟨_, hexec, by rw [State.memResume_outer]; rfl, fun h => absurd h hbad, fun _ => ⟨rfl, fun hdies htellers => ?_⟩⟩
    have hidle : s.rangesTaken.memResume = s.rangesTaken := State.memResume_idle hdies htellers
    rw [hidle]
    exact ⟨s.hbmOn_setOn 0, rfl, sameBut_write _ _ _ _ (by simp)⟩

theorem exec_hbmEnableMember (m : Fin 3) (s : State) (hon : s.power.phase = .on) (hoff : s.hbmOn (m.val + 1) = false) :
    (s.hbmOn 0 = false → exec (.hbmEnableMember .firmware m) s =
      .next (s.notice (Err.aon .notice 0x0A21 0 0 (hbmBase (m.val + 1) + 4)))) ∧
    (s.hbmOn 0 = true → ∃ t, exec (.hbmEnableMember .firmware m) s = .next t ∧
      t = (s.setRf (hbmBase (m.val + 1) + 4) 0 0 1).memResume ∧
      ((∀ d : Fin 4, (s.die d.val).enabling = false ∧ (s.die d.val).disabling = false) →
          (∀ n : Fin 2, (s.teller n.val).flushing = false ∧ (s.teller n.val).computing = false) → t.hbmOn (m.val + 1) = true ∧
        t = { s with regs := t.regs } ∧ sameBut t.regs s.regs [hbmBase (m.val + 1) + 4])) := by
  have hexec : exec (.hbmEnableMember .firmware m) s = .next (if s.hbmOn 0 then (s.setRf (hbmBase (m.val + 1) + 4) 0 0 1).memResume
      else s.ignored (hbmBase (m.val + 1) + 4)) :=
    congrArg Host.Outcome.next ((if_neg (by simp [hoff])).trans (State.gate_firmware hon _ _ _))
  refine ⟨fun h0 => ?_, fun h0 => ⟨_, ?_, rfl, fun hdies htellers => ?_⟩⟩
  · rw [hexec, if_neg (by simp [h0])]
    rfl
  · rw [hexec, if_pos h0]
  · have hidle : (s.setRf (hbmBase (m.val + 1) + 4) 0 0 1).memResume = s.setRf (hbmBase (m.val + 1) + 4) 0 0 1 :=
      State.memResume_idle hdies htellers
    rw [hidle]
    exact ⟨s.hbmOn_setOn _, rfl, sameBut_write _ _ _ _ (by simp)⟩

theorem exec_hbmCeClr (by_ : Writer) (d : Fin 4) (which : MemCount) (s : State) (hon : s.power.phase = .on) :
    ∃ t, exec (.hbmCeClr by_ d which) s = .next t ∧ t = { s with regs := t.regs } ∧ sameBut t.regs s.regs [MemCount.reg d.val which] ∧
      t.rf (MemCount.reg d.val which) 15 0 = (if bit (s.freshBits (MemCount.reg d.val which)) 0 then 1 else 0) := by
  refine ⟨s.clearRf (MemCount.reg d.val which) 15 0, congrArg Host.Outcome.next (State.gate_open hon _ _ by_), rfl,
    sameBut_write _ _ _ _ (by simp), ?_⟩
  rw [State.clearRf, State.rf_setRf_same _ _ _ _ (by omega)]
  split <;> rfl

/-! ### VLT_CTL.ENABLE (R282 to R284, R294) -/

/-- The die's request to enable is no longer waiting. -/
def State.notEnabling (s : State) (d : Nat) : State := s.modDie d (fun m => { m with enabling := false })

/-- A check of the Vault that fails. -/
def State.vaultFail (s : State) (d b id : Nat) : State :=
  (s.orReg (vltBase d + 0xC) (2 ^ b)).notice (Err.of .notice (0x400 + b) (domMd d 9) 0 0 id)

/-- The records of a table that a die checks. -/
def State.ownRecords (s : State) (d : Nat) : List PartRecord :=
  (s.partTable d).1.filter (fun x => x.die == d || x.version != 1 || decide (3 < x.die))

/-- The partitions that records name. -/
def partitionsOf (l : List PartRecord) : List Partition := l.map (fun x => { first := x.first, count := x.count, id := x.id })

/-- The Vault starts with the partitions of its table, or a check fails. -/
def State.vaultParts (s : State) (d : Nat) : State :=
  let range := firstBad (s.ownRecords d) (s.die d)
  let twice := firstMeeting ((s.ownRecords d).filter (fun x => x.version == 1 && x.die == d))
  let s1 := match range with
    | some id => (s.partTable d).2.vaultFail d 0 id
    | none => (s.partTable d).2
  let s2 := match twice with
    | some id => s1.vaultFail d 1 id
    | none => s1
  if range.isSome || twice.isSome then s2 else s2.vaultStart d (partitionsOf (s.ownRecords d))

theorem State.vaultTry_eq (s : State) (d : Nat) :
    s.vaultTry d =
      if !(List.range 4).all (fun n => (s.notEnabling d).modeCompat n == (s.notEnabling d).modeCompat d) then (s.notEnabling d).vaultFail d 6 0
      else if (s.notEnabling d).modeCompat d then (s.notEnabling d).vaultStart d []
      else if (s.notEnabling d).rf (vltBase d + 0x14) 6 0 = 0 then (s.notEnabling d).vaultStart d []
      else if !(s.notEnabling d).memFree then (s.notEnabling d).modDie d (fun m => { m with enabling := true })
      else (s.notEnabling d).vaultParts d := rfl

theorem State.vltOn_vaultStart (s : State) (d : Nat) (ps : List Partition) : (s.vaultStart d ps).vltOn d = true := by
  have hrf : (s.vaultStart d ps).rf (vltBase d + 4) 0 0 = (s.setRf (vltBase d + 4) 0 0 1).rf (vltBase d + 4) 0 0 := rfl
  rw [State.vltOn, hrf, State.rf_setRf_same _ _ _ _ (by omega)]
  rfl

/-- A Vault that starts is empty. -/
theorem State.vaultStart_frame (s : State) (d : Nat) (ps : List Partition) :
    s.vaultStart d ps = { s with regs := (s.vaultStart d ps).regs, dies := (s.vaultStart d ps).dies } ∧
    sameBut (s.vaultStart d ps).regs s.regs [vltBase d + 4] ∧ sameBut (s.vaultStart d ps).dies s.dies [d] ∧
    ((s.vaultStart d ps).die d).ways = [] ∧ ((s.vaultStart d ps).die d).parts = ps := by
  have hdie := State.die_modDie_same (s.setRf (vltBase d + 4) 0 0 1) d
    (fun m => { m with parts := ps, ways := [], scratch := [], scratchMarks := [], scratchPoison := [] })
  refine ⟨rfl, sameBut_write _ _ _ _ (by simp), sameBut_write _ _ _ _ (by simp), congrArg MemDie.ways hdie, congrArg MemDie.parts hdie⟩

/-- What stands of registers as a request to enable is taken. -/
theorem State.notEnabling_frame (s : State) (d : Nat) :
    s.notEnabling d = { s with dies := (s.notEnabling d).dies } ∧ sameBut (s.notEnabling d).dies s.dies [d] :=
  ⟨rfl, sameBut_write _ _ _ _ (by simp)⟩

theorem State.vltOn_vaultFail (s : State) (d b id : Nat) : (s.vaultFail d b id).vltOn d = s.vltOn d := by
  have hregs := (s.orNotice_frame (vltBase d + 0xC) (2 ^ b) (Err.of .notice (0x400 + b) (domMd d 9) 0 0 id)).2.1
  rw [State.vltOn, State.vltOn, State.rf, State.rf, State.reg, State.reg, State.vaultFail, read_of_sameBut hregs _ (by simp)]

/-- Records that pass the checks are the die's own. -/
theorem sound_records {m : MemDie} {d : Nat} {l : List PartRecord}
    (hl : ∀ x ∈ l, (x.die == d || x.version != 1 || decide (3 < x.die)) = true) (hbad : ∀ x ∈ l, x.bad m = false) :
    firstBad l m = none ∧ l.filter (fun x => x.version == 1 && x.die == d) = l := by
  have hsound : ∀ x ∈ l, x.version = 1 ∧ ¬ 3 < x.die := fun x hx => by
    have h := hbad x hx
    simp only [PartRecord.bad, Bool.or_eq_false_iff] at h
    obtain ⟨⟨⟨⟨hv, hd⟩, -⟩, -⟩, -⟩ := h
    exact ⟨by simpa using hv, by simpa using hd⟩
  refine ⟨?_, List.filter_eq_self.2 fun x hx => ?_⟩
  · rw [firstBad, List.find?_eq_none.2 fun x hx => by simp [hbad x hx]]
    rfl
  · obtain ⟨hv, hd⟩ := hsound x hx
    have := hl x hx
    simp only [hv, bne_self_eq_false, Bool.or_false, decide_eq_false hd] at this
    simpa [hv] using this

/-- A die's own records are checked. -/
theorem State.vaultParts_starts {s : State} {d : Nat} (hbad : ∀ x ∈ s.ownRecords d, x.bad (s.die d) = false)
    (hmeet : firstMeeting (s.ownRecords d) = none) :
    s.vaultParts d = (s.partTable d).2.vaultStart d (partitionsOf (s.ownRecords d)) := by
  obtain ⟨hfirst, hfilter⟩ := sound_records (d := d) (l := s.ownRecords d) (fun x hx => (List.mem_filter.1 hx).2) hbad
  unfold vaultParts
  rw [hfirst, hfilter, hmeet]
  rfl

theorem State.vaultParts_fails {s : State} {d : Fin 4} (hbad : ∃ x ∈ s.ownRecords d.val, x.bad (s.die d.val) = true) :
    bit ((s.vaultParts d.val).reg (vltBase d.val + 0xC)).toNat 0 = true := by
  obtain ⟨id, hid⟩ : ∃ id, firstBad (s.ownRecords d.val) (s.die d.val) = some id := by
    obtain ⟨x, hx, hb⟩ := hbad
    cases hf : (s.ownRecords d.val).find? (fun x => x.bad (s.die d.val)) with
    | none => exact absurd hb (List.find?_eq_none.1 hf x hx)
    | some y => exact ⟨y.id, by rw [firstBad, hf]; rfl⟩
  unfold vaultParts
  rw [hid]
  have hzero := (s.partTable d.val).2.bit_orNotice (vltBase d.val + 0xC) (b := 0) (Err.of .notice (0x400 + 0) (domMd d.val 9) 0 0 id) (by decide)
  have hfail : bit (((s.partTable d.val).2.vaultFail d.val 0 id).reg (vltBase d.val + 0xC)).toNat 0 = true := hzero
  cases firstMeeting ((s.ownRecords d.val).filter (fun x => x.version == 1 && x.die == d.val)) with
  | none => exact hfail
  | some id' =>
    change bit ((((s.partTable d.val).2.vaultFail d.val 0 id).vaultFail d.val 1 id').reg (vltBase d.val + 0xC)).toNat 0 = true
    generalize (s.partTable d.val).2.vaultFail d.val 0 id = u at hfail
    obtain ⟨j, hj⟩ := State.notice_eq (u.orReg (vltBase d.val + 0xC) (2 ^ 1)) (Err.of .notice (0x400 + 1) (domMd d.val 9) 0 0 id')
    rw [State.vaultFail, hj]
    change bit ((u.orReg (vltBase d.val + 0xC) (2 ^ 1)).reg (vltBase d.val + 0xC)).toNat 0 = true
    rw [State.bit_orReg u (by decide), hfail, Bool.true_or]

theorem State.memFree_notEnabling (s : State) (d : Nat) : (s.notEnabling d).memFree = s.memFree := rfl

theorem exec_vaultEnable_eq (d : Fin 4) {s : State} (hon : s.power.phase = .on) (hoff : s.vltOn d.val = false) :
    exec (.vaultEnable .firmware d) s = .next (s.vaultTry d.val) :=
  congrArg Host.Outcome.next ((if_neg (by simp [hoff])).trans (State.gate_firmware hon _ _ _))

/-- The modes of the four Vaults are one. -/
theorem State.modes_all {s : State} {d : Nat} (h : ∀ i : Fin 4, s.modeCompat i.val = s.modeCompat d) :
    (List.range 4).all (fun n => s.modeCompat n == s.modeCompat d) = true :=
  List.all_eq_true.2 fun n hn => by rw [h ⟨n, List.mem_range.1 hn⟩]; exact beq_self_eq_true _

theorem exec_vaultEnable_modes (d : Fin 4) (s : State) (hoff : s.vltOn d.val = false)
    (hmode : ∃ i : Fin 4, s.modeCompat i.val ≠ s.modeCompat d.val) :
    (s.vaultTry d.val).vltOn d.val = false ∧ bit ((s.vaultTry d.val).reg (vltBase d.val + 0xC)).toNat 6 = true ∧
      (s.vaultTry d.val).mem = s.mem := by
  obtain ⟨i, hi⟩ := hmode
  have hall : (List.range 4).all (fun n => (s.notEnabling d.val).modeCompat n == (s.notEnabling d.val).modeCompat d.val) = false :=
    List.all_eq_false.2 ⟨i.val, List.mem_range.2 i.isLt, fun h => hi (beq_iff_eq.1 h)⟩
  rw [State.vaultTry_eq, if_pos (by rw [hall]; rfl)]
  refine ⟨(State.vltOn_vaultFail _ _ _ _).trans hoff, State.bit_orNotice _ _ _ (by decide), ?_⟩
  have hframe := ((s.notEnabling d.val).orNotice_frame (vltBase d.val + 0xC) (2 ^ 6) (Err.of .notice (0x400 + 6) (domMd d.val 9) 0 0 0)).1
  rw [State.vaultFail, hframe]
  rfl

theorem exec_vaultEnable_empty (d : Fin 4) (s : State) (hmode : ∀ i : Fin 4, s.modeCompat i.val = s.modeCompat d.val)
    (hnone : s.modeCompat d.val = true ∨ s.rf (vltBase d.val + 0x14) 6 0 = 0) : s.vaultTry d.val = (s.notEnabling d.val).vaultStart d.val [] := by
  have hall := State.modes_all (s := s.notEnabling d.val) (d := d.val) hmode
  rw [State.vaultTry_eq, if_neg (by rw [hall]; decide)]
  by_cases hc : s.modeCompat d.val = true
  · exact if_pos hc
  · exact (if_neg hc).trans (if_pos (hnone.resolve_left hc))

theorem exec_vaultEnable_table (d : Fin 4) (s : State) (hmode : ∀ i : Fin 4, s.modeCompat i.val = s.modeCompat d.val)
    (hcompat : s.modeCompat d.val = false) (htable : s.rf (vltBase d.val + 0x14) 6 0 ≠ 0) :
    (s.memFree = false → s.vaultTry d.val = (s.notEnabling d.val).modDie d.val (fun m => { m with enabling := true })) ∧
    (s.memFree = true → s.vaultTry d.val = (s.notEnabling d.val).vaultParts d.val) := by
  have hall := State.modes_all (s := s.notEnabling d.val) (d := d.val) hmode
  have hskip : s.vaultTry d.val = if !s.memFree then (s.notEnabling d.val).modDie d.val (fun m => { m with enabling := true })
      else (s.notEnabling d.val).vaultParts d.val := by
    rw [State.vaultTry_eq, if_neg (by rw [hall]; decide)]
    exact (if_neg (by rw [show (s.notEnabling d.val).modeCompat d.val = s.modeCompat d.val from rfl, hcompat]; decide)).trans (if_neg htable)
  exact ⟨fun h => hskip.trans (if_pos (by rw [h]; rfl)), fun h => hskip.trans (if_neg (by rw [h]; decide))⟩

theorem exec_vaultEnable (d : Fin 4) (s : State) (hon : s.power.phase = .on) (hoff : s.vltOn d.val = false) :
    ∃ t, exec (.vaultEnable .firmware d) s = .next t ∧ t.outer = s.outer ∧
      ((∃ i : Fin 4, s.modeCompat i.val ≠ s.modeCompat d.val) → t.vltOn d.val = false ∧
        bit (t.reg (vltBase d.val + 0xC)).toNat 6 = true ∧ t.mem = s.mem) ∧
      ((∀ i : Fin 4, s.modeCompat i.val = s.modeCompat d.val) →
        (s.modeCompat d.val = true ∨ s.rf (vltBase d.val + 0x14) 6 0 = 0 →
          t.vltOn d.val = true ∧ t = { s with regs := t.regs, dies := t.dies } ∧ sameBut t.regs s.regs [vltBase d.val + 4] ∧
          sameBut t.dies s.dies [d.val] ∧ (t.die d.val).ways = [] ∧ (t.die d.val).parts = []) ∧
        (s.modeCompat d.val = false → s.rf (vltBase d.val + 0x14) 6 0 ≠ 0 → s.memFree = false →
          t.vltOn d.val = false ∧ (t.die d.val).enabling = true ∧ t = { s with dies := t.dies }) ∧
        (∀ u tb mine, s.modeCompat d.val = false → s.rf (vltBase d.val + 0x14) 6 0 ≠ 0 → s.memFree = true →
          u = s.modDie d.val (fun m => { m with enabling := false }) → tb = u.partTable d.val →
          mine = tb.1.filter (fun x => x.die == d.val || x.version != 1 || decide (3 < x.die)) →
          ((∀ x ∈ mine, x.bad (u.die d.val) = false) → firstMeeting mine = none →
            t = tb.2.vaultStart d.val (mine.map (fun x => { first := x.first, count := x.count, id := x.id })) ∧ t.vltOn d.val = true) ∧
          ((∃ x ∈ mine, x.bad (u.die d.val) = true) → bit (t.reg (vltBase d.val + 0xC)).toNat 0 = true))) := by
  refine ⟨_, exec_vaultEnable_eq d hon hoff, State.vaultTry_outer s d.val, exec_vaultEnable_modes d s hoff,
    fun hmode => ⟨fun hnone => ?_, fun hcompat htable hfree => ?_, fun u tb mine hcompat htable hfree hu htb hmine => ?_⟩⟩
  · rw [exec_vaultEnable_empty d s hmode hnone]
    obtain ⟨hframe, hregs, hdies, hways, hparts⟩ := (s.notEnabling d.val).vaultStart_frame d.val []
    have hon' := (s.notEnabling d.val).vltOn_vaultStart d.val []
    generalize (s.notEnabling d.val).vaultStart d.val [] = t at *
    exact ⟨hon', by rw [hframe]; rfl, hregs, sameBut_trans hdies (s.notEnabling_frame d.val).2, hways, hparts⟩
  · rw [(exec_vaultEnable_table d s hmode hcompat htable).1 hfree]
    exact ⟨hoff, congrArg MemDie.enabling (State.die_modDie_same _ _ (fun m : MemDie => { m with enabling := true })), rfl⟩
  · rw [(exec_vaultEnable_table d s hmode hcompat htable).2 hfree]
    subst hu htb hmine
    exact ⟨fun hbad hmeet => ⟨State.vaultParts_starts hbad hmeet, (congrArg (fun t => State.vltOn t d.val)
      (State.vaultParts_starts (s := s.notEnabling d.val) hbad hmeet)).trans (State.vltOn_vaultStart _ _ _)⟩,
      fun hbad => State.vaultParts_fails hbad⟩

/-! ### Disable, flush and UNKEEP_ALL (R277, R294) -/

theorem State.writeBack_frame (s : State) (d : Nat) (w : VLine) :
    s.writeBack d w = { s with tally := (s.writeBack d w).tally,
                               mem := s.mem.putLine (s.steering w.line) w.line w.data (w.poison || w.marks.any (·.2)) } := by
  obtain ⟨x, hx⟩ := State.count_eq s (blkMd d) 0x12 0x1FF 1
  have htally : ∀ (u : State) (li : Nat), ∃ y, u.hbmTally li true = { u with tally := y } := fun u li => by
    obtain ⟨y, hy⟩ := State.count_eq u (blkMd (lineDie li)) 0x19 (lineChan li) 1
    obtain ⟨z, hz⟩ := State.units_eq ({ u with tally := y } : State) (tlyBase + 0x1100 + 8 * lineStack li + 4 * b2n true) 1
    exact ⟨z, by rw [State.hbmTally, if_pos rfl, hy, hz]⟩
  obtain ⟨y, hy⟩ := htally ({ s with tally := x } : State) w.line
  rw [State.writeBack, hx, State.hbmWrite, hy]
  rfl

theorem State.foldl_writeBack_frame (d : Nat) (l : List (Nat × VLine)) (s : State) :
    l.foldl (fun s w => s.writeBack d w.2) s =
      { s with tally := (l.foldl (fun s w => s.writeBack d w.2) s).tally, mem := (l.foldl (fun s w => s.writeBack d w.2) s).mem } := by
  induction l generalizing s with
  | nil => rfl
  | cons w l ih =>
    rw [List.foldl_cons, ih, s.writeBack_frame d w.2]

/-- The lines of a Vault that are clean. -/
theorem State.cleanWays_frame (s : State) (d : Nat) :
    s.cleanWays d = { s with tally := (s.cleanWays d).tally, mem := (s.cleanWays d).mem, dies := (s.cleanWays d).dies } ∧
    ((s.cleanWays d).die d).ways = (s.die d).ways.map (fun w => (w.1, { w.2 with dirty := false })) ∧
    (s.cleanWays d).mem = (((s.die d).ways.filter (fun w => w.2.dirty)).foldl (fun s w => s.writeBack d w.2) s).mem := by
  have hfold := State.foldl_writeBack_frame d ((s.die d).ways.filter (fun w => w.2.dirty)) s
  unfold cleanWays
  dsimp only
  generalize List.foldl _ s ((s.die d).ways.filter _) = u at hfold
  have hdie : u.die d = s.die d := by rw [hfold]; rfl
  refine ⟨?_, ?_, rfl⟩
  · rw [hfold]
    rfl
  · rw [State.die_modDie_same, hdie]

/-- A Vault that has stopped service: without lines, its flush over. -/
theorem State.vaultOff_off (s : State) (d : Nat) : (s.vaultOff d).vltOn d = false ∧ ((s.vaultOff d).die d).ways = [] ∧
    (s.vaultOff d).rf (vltBase d + 8) 1 1 = 0 := by
  unfold vaultOff
  generalize (s.finishReads d).cleanWays d = u
  have hdie := State.die_modDie_same u d (fun m => { m with ways := [], disabling := false })
  refine ⟨?_, congrArg MemDie.ways hdie, ?_⟩
  · rw [State.vltOn, State.rf_setRf_same _ _ _ _ (by omega)]
    rfl
  · rw [State.rf, State.reg_setRf_other _ _ _ _ (by omega), ← State.rf, State.rf_setRf_same _ _ _ _ (by omega)]
    rfl

theorem exec_vaultDisable (d : Fin 4) (s : State) (hon : s.power.phase = .on) (hvlt : s.vltOn d.val = true) :
    ∃ t, exec (.vaultDisable .firmware d) s = .next t ∧ t.outer = s.outer ∧
      (s.hbmOn d.val = true ∨ ((∀ w ∈ (s.die d.val).ways, w.2.dirty = false) ∧ (s.die d.val).queue = []) →
        t.vltOn d.val = false ∧ (t.die d.val).ways = [] ∧ t.rf (vltBase d.val + 8) 1 1 = 0) ∧
      (s.hbmOn d.val = false → ((∃ w ∈ (s.die d.val).ways, w.2.dirty = true) ∨ (s.die d.val).queue ≠ []) →
        t.vltOn d.val = true ∧ (t.die d.val).disabling = true ∧ t = { s with dies := t.dies }) := by
  have hexec : exec (.vaultDisable .firmware d) s = .next (s.vaultClear d.val) :=
    congrArg Host.Outcome.next ((if_neg (by simp [hvlt])).trans ((State.gate_firmware hon _ _ _).trans (if_pos hvlt)))
  refine ⟨_, hexec, State.vaultClear_outer s d.val, fun hready => ?_, fun hhbm hwork => ?_⟩
  · have hoff : s.vaultClear d.val = s.vaultOff d.val := by
      unfold State.vaultClear
      refine if_neg ?_
      rcases hready with h | ⟨hclean, hqueue⟩
      · simp [h]
      · have hany : (s.die d.val).ways.any (fun w => w.2.dirty) = false := List.any_eq_false.2 fun w hw => by simp [hclean w hw]
        simp [hany, hqueue]
    rw [hoff]
    exact s.vaultOff_off d.val
  · have hwait : s.vaultClear d.val = s.modDie d.val (fun m => { m with disabling := true }) := by
      unfold State.vaultClear
      refine if_pos ?_
      rcases hwork with ⟨w, hw, hdirty⟩ | hqueue
      · have hany : (s.die d.val).ways.any (fun w => w.2.dirty) = true := List.any_eq_true.2 ⟨w, hw, hdirty⟩
        simp [hhbm, hany]
      · have hne : (s.die d.val).queue.isEmpty = false := by simpa using hqueue
        simp [hhbm, hne]
    rw [hwait]
    exact ⟨hvlt, congrArg MemDie.disabling (State.die_modDie_same s d.val (fun m => { m with disabling := true })), rfl⟩

theorem exec_vaultFlushComplete (d : Fin 4) (s : State) (halive : s.alive = true) (hhbm : s.hbmOn d.val = true)
    (hflush : s.rf (vltBase d.val + 8) 1 1 = 1) :
    ∃ t, exec (.vaultFlushComplete d) s = .next t ∧ t.rf (vltBase d.val + 8) 1 1 = 0 ∧
      (t.die d.val).ways = (s.die d.val).ways.map (fun w => (w.1, { w.2 with dirty := false })) ∧ t.cores = s.cores ∧
      t.rings = s.rings ∧ t.outer = s.outer ∧
      (∀ k v, (s.die d.val).ways = [(k, v)] → v.dirty = true →
        t.mem = s.mem.putLine (s.steering v.line) v.line v.data (v.poison || v.marks.any (·.2))) := by
  have hexec : exec (.vaultFlushComplete d) s = .next ((s.cleanWays d.val).setRf (vltBase d.val + 8) 1 1 0) :=
    congrArg Host.Outcome.next (if_pos (by simp [halive, hhbm, hflush]))
  obtain ⟨hframe, hways, hmem⟩ := s.cleanWays_frame d.val
  have houter := State.cleanWays_outer s d.val
  generalize s.cleanWays d.val = u at hexec hframe hways hmem houter
  refine ⟨_, hexec, ?_, hways, ?_, ?_, houter, fun k v hone hdirty => ?_⟩
  · rw [State.rf_setRf_same _ _ _ _ (by omega)]
    rfl
  · change u.cores = s.cores
    rw [hframe]
  · change u.rings = s.rings
    rw [hframe]
  · change u.mem = _
    rw [hmem, hone, List.filter_cons_of_pos (by exact hdirty), List.filter_nil, List.foldl_cons, List.foldl_nil, State.writeBack_frame]

/-- Settles O30: controllers and Vaults start, wait, stop and flush. -/
theorem memoryControl : Obligations.MemoryControl := by
  refine ⟨exec_hbmEnable, fun by_ s h0 => congrArg Host.Outcome.next (if_pos h0), exec_hbmEnableMember, exec_hbmCeClr, exec_vaultEnable,
    exec_vaultDisable, fun d s hon => ⟨fun hvlt => ?_, fun hvlt => ?_⟩, exec_vaultFlushComplete, fun d s hon => ?_⟩
  · refine ⟨s.setRf (vltBase d.val + 8) 1 1 1, congrArg Host.Outcome.next ((State.gate_firmware hon _ _ _).trans (if_pos hvlt)), ?_, rfl,
      sameBut_write _ _ _ _ (by simp)⟩
    rw [State.rf_setRf_same _ _ _ _ (by omega)]
    rfl
  · exact congrArg Host.Outcome.next ((State.gate_firmware hon _ _ _).trans (if_neg (by simp [hvlt])))
  · exact ⟨_, congrArg Host.Outcome.next (State.gate_firmware hon _ _ _), rfl, sameBut_write _ _ _ _ (by simp),
      State.die_modDie_same s d.val (fun m => { m with ways := m.ways.map (fun w => (w.1, { w.2 with keep := false })) })⟩

end Sys2Proof.Machine
end

section
/-! SUPPORT. What rebuilding the state of a package keeps: what the fatal stop holds, the staged change, the stage of the Posting, the
halts and TLR_STEP (R445, R446, R448, R455). -/

namespace Sys2Proof.Machine

/-- The fatal stop and the staged change stand. -/
structure Rebuilds (s t : State) : Prop where
  stopped : t.fatal.stopped = s.fatal.stopped
  refresh : t.fatal.selfRefresh = s.fatal.selfRefresh
  staged : t.link.staged = s.link.staged

/-- The stage of the Posting and the halts stand, too. -/
structure Stands (s t : State) : Prop where
  post : t.step.post = s.step.post
  haltedLs : t.rec_.haltedLs = s.rec_.haltedLs
  haltedSteps : t.rec_.haltedSteps = s.rec_.haltedSteps

theorem Rebuilds.refl (s : State) : Rebuilds s s := ⟨rfl, rfl, rfl⟩

theorem Rebuilds.trans {s t u : State} (h : Rebuilds s t) (h' : Rebuilds t u) : Rebuilds s u :=
  ⟨h'.stopped.trans h.stopped, h'.refresh.trans h.refresh, h'.staged.trans h.staged⟩

theorem Rebuilds.foldl {α : Type} {f : State → α → State} (hf : ∀ s x, Rebuilds s (f s x)) (l : List α) (s : State) :
    Rebuilds s (l.foldl f s) := by
  induction l generalizing s with
  | nil => exact .refl s
  | cons x l ih => exact (hf s x).trans (ih _)

theorem Moved.rebuilds {s t : State} (h : Moved s t) : Rebuilds s t :=
  ⟨by rw [h.fatal], by rw [h.fatal], by rw [h.link]⟩

theorem Stands.refl (s : State) : Stands s s := ⟨rfl, rfl, rfl⟩

theorem Stands.trans {s t u : State} (h : Stands s t) (h' : Stands t u) : Stands s u :=
  ⟨h'.post.trans h.post, h'.haltedLs.trans h.haltedLs, h'.haltedSteps.trans h.haltedSteps⟩

theorem Stands.foldl {α : Type} {f : State → α → State} (hf : ∀ s x, Stands s (f s x))
    (l : List α) (s : State) : Stands s (l.foldl f s) := by
  induction l generalizing s with
  | nil => exact .refl s
  | cons x l ih => exact (hf s x).trans (ih _)

theorem Moved.stands {s t : State} (h : Moved s t) : Stands s t :=
  ⟨by rw [h.step], by rw [h.rec_], by rw [h.rec_]⟩

/-! ### The quiesce (R445 step 2, R448) -/

theorem Rebuilds.clearGrads (s : State) (n : Nat) : Rebuilds s (s.clearGrads n) := by
  unfold State.clearGrads
  refine .foldl (fun s r => ?_) _ s
  split
  · exact .refl s
  · exact (Served.zeroLines _ s _).toMoved.rebuilds

theorem Rebuilds.depCloseAll (s : State) : Rebuilds s s.depCloseAll := by
  unfold State.depCloseAll
  dsimp only
  refine Rebuilds.trans (.foldl (f := fun (s : State) (x : Nat × BitVec 512) => s.tableAbsent x.2.toNat)
    (fun s x => (Served.putBytes s _ _ _).toMoved.rebuilds) s.dep.streams s) ⟨rfl, rfl, rfl⟩

theorem Rebuilds.postStatus (s : State) (n layer status : Nat) : Rebuilds s (s.postStatus n layer status) := by
  obtain ⟨x, hx⟩ := s.postStatus_frame n layer status
  rw [hx]
  exact ⟨rfl, rfl, rfl⟩

theorem Rebuilds.stopTeller (s : State) (n : Nat) : Rebuilds s (s.stopTeller n) := by
  unfold State.stopTeller
  dsimp only
  generalize (_ : List Nat) = layers
  exact Rebuilds.trans (t := s.setTeller n {}) ⟨rfl, rfl, rfl⟩ (.foldl (fun s l => .postStatus s n l _) _ _)

theorem Rebuilds.setRf (s : State) (off hi lo v : Nat) : Rebuilds s (s.setRf off hi lo v) := ⟨rfl, rfl, rfl⟩

theorem Rebuilds.quiesce (s : State) : Rebuilds s s.quiesce := by
  unfold State.quiesce
  extract_lets s1 s2 s3 s4 mem s5 n step s6 s7
  have h1 : Rebuilds s s1 := .foldl (fun s d => Rebuilds.trans (.foldl
    (f := fun (s : State) j => (s.setRf (coreBase d j + 4) 0 0 0).modCore d j Core.discard) (fun s j => ⟨rfl, rfl, rfl⟩) (List.range 34) s)
    (.setRf _ _ _ _ _)) _ s
  clear_value s1
  have h2 : Rebuilds s1 s2 := (Rebuilds.stopTeller s1 0).trans (.stopTeller _ 1)
  clear_value s2
  have h3 : Rebuilds s2 s3 := ⟨rfl, rfl, rfl⟩
  have h4 : Rebuilds s3 s4 := .foldl (f := fun (s : State) d => s.modDie d (fun m => { m with queue := [] })) (fun s d => ⟨rfl, rfl, rfl⟩) _ s3
  clear_value s4
  have h6 : Rebuilds s4 s6 := ⟨rfl, rfl, rfl⟩
  have h7 : Rebuilds s6 s7 := (Rebuilds.clearGrads s6 n).trans (.clearGrads _ _)
  have hall : Rebuilds s s7 := ((((h1.trans h2).trans h3).trans h4).trans h6).trans h7
  split
  · exact hall.trans (.depCloseAll s7)
  · exact hall

/-! ### TLR_STEP of a job that stands before a step (R455) -/

/-- TLR_STEP and the staged change stand. -/
structure StepKept (s t : State) : Prop where
  reg : t.reg (tlrBase 0 + 0x20) = s.reg (tlrBase 0 + 0x20)
  staged : t.link.staged = s.link.staged

theorem StepKept.refl (s : State) : StepKept s s := ⟨rfl, rfl⟩

theorem StepKept.trans {s t u : State} (h : StepKept s t) (h' : StepKept t u) : StepKept s u := ⟨h'.reg.trans h.reg, h'.staged.trans h.staged⟩

theorem StepKept.foldl {α : Type} {f : State → α → State} {l : List α} (hf : ∀ s, ∀ x ∈ l, StepKept s (f s x)) (s : State) :
    StepKept s (l.foldl f s) := by
  induction l generalizing s with
  | nil => exact .refl s
  | cons x l ih => exact (hf s x (List.mem_cons_self ..)).trans (ih (fun s y hy => hf s y (List.mem_cons_of_mem _ hy)) _)

theorem not_memReg_tlrStep : ¬ MemReg (tlrBase 0 + 0x20) := by
  rintro (⟨d, p, i, hp, hi, h⟩ | ⟨d, k, hd, hk, hk', h⟩ | ⟨d, k, hd, hk, h⟩ | ⟨n, h⟩ | h | h)
  · simp only [coreBase, tlrBase] at h
    omega
  · simp only [hbmBase, tlrBase] at h
    omega
  · simp only [vltBase, tlrBase] at h
    omega
  · simp only [vlBase, tlrBase] at h
    omega
  · simp only [ldgBase, tlrBase] at h
    omega
  · simp only [ldgBase, tlrBase] at h
    omega

theorem Moved.stepKept {s t : State} (h : Moved s t) : StepKept s t := ⟨h.reg _ not_memReg_tlrStep, by rw [h.link]⟩

theorem StepKept.setReg (s : State) {o : Nat} (v : Word) (ho : tlrBase 0 + 0x20 ≠ o) : StepKept s (s.setReg o v) :=
  ⟨State.reg_setReg_other s v ho, rfl⟩

theorem StepKept.setRf (s : State) {o : Nat} (hi lo v : Nat) (ho : tlrBase 0 + 0x20 ≠ o) : StepKept s (s.setRf o hi lo v) := .setReg s _ ho

/-- The schedule engines compute, and TLR_STEP stands. -/
theorem StepKept.schCompute (s : State) (n t : Nat) : StepKept s (s.schCompute n t) := by
  unfold State.schCompute
  dsimp only
  refine (StepKept.setRf s 1 1 0 (by simp only [tlrBase]; omega)).trans (.foldl (fun s g hg => ?_) _)
  have hg := List.mem_range.1 hg
  generalize 2 ^ 32 * _ + _ = a
  have hread := (Served.readBytes s (a + 64 * g) 64).toMoved.stepKept
  generalize s.readBytes (a + 64 * g) 64 = r at hread
  split
  · exact hread.trans (.setRf _ 1 1 1 (by simp only [tlrBase]; omega))
  · exact (hread.trans (.setReg _ _ (by simp only [tlrBase]; omega))).trans (.setReg _ _ (by simp only [tlrBase]; omega))

theorem StepKept.depCloseAll (s : State) : StepKept s s.depCloseAll := by
  unfold State.depCloseAll
  dsimp only
  exact StepKept.trans (.foldl (f := fun (s : State) (x : Nat × BitVec 512) => s.tableAbsent x.2.toNat) (l := s.dep.streams)
    (fun s x _ => (Served.putBytes s _ _ _).toMoved.stepKept) s) ⟨rfl, rfl⟩

/-- A job that stands before a step: ENTRY, TLR_STEP, and the staged change. -/
theorem State.rewind_stands (s : State) (m : Nat) (ls : Word) : (s.rewind m ls).step.post = 5 ∧
    (s.rewind m ls).tlrStep = m % 2 ^ 32 ∧ (s.rewind m ls).link.staged = s.link.staged := by
  have hq := (Rebuilds.quiesce s).staged
  unfold rewind
  generalize s.quiesce = q at hq ⊢
  extract_lets s1 s2 s3
  have h1 : StepKept (q.setTlrStep m) s1 := (StepKept.setReg _ ls (by decide)).trans (.depCloseAll _)
  clear_value s1
  have h2 : StepKept s1 s2 := StepKept.trans (t := (s1.clearAllMarks).setReg (vlBase 0 + 0x1C) 0)
    (StepKept.trans (t := s1.clearAllMarks) ⟨rfl, rfl⟩ (.setReg _ 0 (by decide))) ⟨rfl, rfl⟩
  clear_value s2
  have h3 : StepKept s2 s3 := StepKept.trans (StepKept.trans (t := s2.clearCounters (m + 1)) ⟨rfl, rfl⟩ (.schCompute _ _ m))
    (.schCompute _ _ m)
  have hall := (h1.trans h2).trans h3
  refine ⟨rfl, ?_, hall.staged.trans hq⟩
  have hreg : s3.reg (tlrBase 0 + 0x20) = BitVec.ofNat 32 m := hall.reg.trans (State.reg_setReg_same _ _ _)
  change (s3.reg (tlrBase 0 + 0x20)).toNat = _
  rw [hreg, BitVec.toNat_ofNat]

/-! ### A joiner's READY (R401) -/

theorem Reported.stands {s t : State} (h : Reported s t) : Stands s t := h.served.toMoved.stands

theorem Stands.sendMember (s : State) (dst op accept level epoch : Nat) : Stands s (s.sendMember dst op accept level epoch) :=
  (Reported.sendMsg s dst _).stands

theorem Stands.handOver (s : State) (members : List Nat) : Stands s (s.handOver members) := by
  unfold State.handOver
  refine .foldl (fun s r => ?_) _ s
  split
  · next d _ =>
    dsimp only
    have hread : Stands { s with free := s.free + 1 }
        (State.readMarked { s with free := s.free + 1 } (s.activeAddr r.state) (256 * r.stateLines)).2 :=
      (Served.readLines .stream _ _ _).toMoved.stands
    generalize State.readMarked { s with free := s.free + 1 } (s.activeAddr r.state) (256 * r.stateLines) = x at hread
    refine Stands.trans (t := { s with free := s.free + 1 }) ⟨rfl, rfl, rfl⟩ (hread.trans ?_)
    unfold State.putAway
    dsimp only
    exact Stands.trans (t := { x.2 with free := x.2.free + 2 }) ⟨rfl, rfl, rfl⟩ (.foldl (fun s t => (Reported.sendMsg s d _).stands) _ _)
  · exact .refl s

theorem Stands.rewriteOwner (s : State) (o : Nat × Nat × Nat) : Stands s (s.rewriteOwner o) := by
  unfold State.rewriteOwner
  dsimp only
  exact (Served.readBytes s _ 128).toMoved.stands.trans (Served.putBytes _ _ _ _).toMoved.stands

theorem Stands.applyMembership (s : State) (g : Staged) : Stands s (s.applyMembership g) := by
  unfold State.applyMembership
  extract_lets was leaves s0 s1 s2 s3 s4 link rec s5
  have h0 : Stands s s0 := by
    change Stands s (if leaves then s.handOver g.members else s)
    split
    · exact .handOver s g.members
    · exact .refl s
  have h2 : Stands s0 s2 := by
    obtain ⟨r, l, hl⟩ := State.applyRoutes_frame (s1.setReg (vlBase 0 + 0x18) (BitVec.ofNat 32 g.group))
    have hs2 : s2 = _ := hl
    rw [hs2]
    exact ⟨rfl, rfl, rfl⟩
  have h3 : Stands s2 s3 := .foldl (f := fun (s : State) (x : Word × Nat) => s.setReg (ldgBase + x.2) x.1) (fun s x => ⟨rfl, rfl, rfl⟩) _ s2
  have h4 : Stands s3 s4 := Stands.trans (t := s3.setRf (ldgBase + 8) 1 1 0) ⟨rfl, rfl, rfl⟩ (.foldl (fun s o => .rewriteOwner s o) _ _)
  clear_value s0 s2 s3 s4
  have h5 : Stands s s5 := (((h0.trans h2).trans h3).trans h4).trans ⟨rfl, rfl, rfl⟩
  split
  · exact Stands.trans (t := { s5 with step := { s5.step with stopped := true } }) (h5.trans ⟨rfl, rfl, rfl⟩)
      (.foldl (fun s d => .sendMember s d 4 0 0 g.epoch) was _)
  · exact h5

theorem Stands.joinReady (s : State) : Stands s s.joinReady := by
  unfold State.joinReady
  split
  · next g _ =>
    split
    · exact (Stands.applyMembership s g).trans (.foldl (fun s d => .sendMember s d 3 0 0 g.epoch) _ _)
    · exact .refl s
  · exact .refl s

theorem State.joinReady_alone {s : State} (h : s.link.staged = none) : s.joinReady = s := by
  unfold joinReady
  rw [h]

end Sys2Proof.Machine
end

section
/-! SUPPORT. Long requests that are accepted (R485 to R503). -/

namespace Sys2Proof.Machine

/-! ### Acceptance (R501) -/

/-- A long request that is not turned away is performed and answered. -/
theorem State.longRequest_taken {s : State} {op w : Nat} {room : Nat → Option Reply} {f : State → Nat → State × Reply}
    (h : s.asksLong op room w) : s.longRequest op room none f = .next ((f s w).1.answerWith w (f s w).2) := by
  obtain ⟨⟨hon, hframe, hver, hop, hforbid⟩, hops, hroom, hfree⟩ := h
  have hbusy : s.mbx.ops.any (fun o => !o.done && sameResource w o.frame.toNat) = false := by
    refine List.any_eq_false.2 fun o ho => ?_
    cases hd : o.done with
    | true => simp
    | false => simp [hfree o ho hd]
  unfold State.longRequest
  rw [State.request_taken hframe hon hver hop hforbid, if_neg (by omega), hroom, hbusy]
  rfl

/-- A long request whose performance is an acceptance, or an answer. -/
theorem State.longRequest_accepts {s t : State} {op w r x : Nat} {room : Nat → Option Reply} {f : State → Nat → State × Reply}
    (h : s.asksLong op room w) (hf : f s w = t.accept w none r x) : s.longRequest op room none f = .next (t.accepted w r x) := by
  rw [State.longRequest_taken h, hf]
  rfl

theorem State.longRequest_answers {s : State} {op w : Nat} {room : Nat → Option Reply} {f : State → Nat → State × Reply} {r : Reply}
    (h : s.asksLong op room w) (hf : f s w = (s, r)) : s.longRequest op room none f = .next (s.answerWith w r) := by
  rw [State.longRequest_taken h, hf]

/-- The operation of a request. -/
def State.opOf (s : State) (w r x : Nat) : LongOp :=
  { id := s.mbx.nextOp, frame := BitVec.ofNat 512 w, hostFault := none, result := r, detail := x, done := false }

theorem State.accept_frame (s : State) (w r x : Nat) : ∃ y, (s.accept w none r x).1 =
    { s with tally := y, mbx := { s.mbx with ops := s.mbx.ops ++ [s.opOf w r x], nextOp := s.mbx.nextOp % 65535 + 1 } } := by
  obtain ⟨y, hy⟩ := State.count_eq s (blkXd 0) 0x22 0x1FF ((readsBuffer w + 255) / 256)
  refine ⟨y, ?_⟩
  have hdma : s.dma (readsBuffer w) = { s with tally := y } := hy
  unfold State.accept
  dsimp only
  simp only [Option.isNone_none, ↓reduceIte, hdma]
  rfl

/-- An answer reaches the reply slots and the count of replies alone. -/
theorem State.reg_putSlot_above {o off : Nat} (s : State) (n v : Nat) (h : off + 4 * n ≤ o) : (s.putSlot off n v).reg o = s.reg o := by
  induction n generalizing s off v with
  | zero => rfl
  | succ n ih => rw [putSlot, ih _ _ (by omega), s.reg_setReg_other _ (by omega)]

theorem State.reg_answerSlot_other (s : State) (w : Nat) (r : Reply) {o : Nat} (h : o < 0x2000 ∧ o ≠ 0x104 ∨ 0x2800 ≤ o) :
    (s.putSlot (0x2000 + 64 * (s.mbx.taken % 32)) 16 (s.replyFrame w r)).reg o = s.reg o := by
  rcases h with h | h
  · exact s.reg_putSlot_other _ _ (by omega)
  · exact s.reg_putSlot_above _ _ (by omega)

theorem State.reg_answered {s : State} {w : Nat} {r : Reply} {o : Nat} (h : o < 0x2000 ∧ o ≠ 0x104 ∨ 0x2800 ≤ o)
    (hslot : (s.putSlot (0x2000 + 64 * (s.mbx.taken % 32)) 16 (s.replyFrame w r)).reg o = s.reg o) :
    (s.answerWith w r).reg o = s.reg o := by
  obtain ⟨x, hx⟩ := s.answerWith_eq w r
  generalize s.putSlot (0x2000 + 64 * (s.mbx.taken % 32)) 16 (s.replyFrame w r) = u at hx hslot
  have hregs : (s.answerWith w r).regs = (u.setRf 0x104 15 0 (u.rf 0x104 15 0 + 1)).regs := by rw [hx]
  rw [State.reg_of_regs hregs, State.reg_setRf_other _ _ _ _ (by omega), hslot]

theorem State.reg_answerWith_other (s : State) (w : Nat) (r : Reply) {o : Nat} (h : o < 0x2000 ∧ o ≠ 0x104 ∨ 0x2800 ≤ o) :
    (s.answerWith w r).reg o = s.reg o := State.reg_answered h (s.reg_answerSlot_other w r h)

/-- What an acceptance leaves. -/
structure Accepted (w r x : Nat) (s t : State) : Prop where
  frame : t = { s with regs := t.regs, tally := t.tally, mbx := t.mbx }
  ops : t.mbx.ops = s.mbx.ops ++ [s.opOf w r x]
  reg : ∀ o, (o < 0x2000 ∧ o ≠ 0x104 ∨ 0x2800 ≤ o) → t.reg o = s.reg o
  restoreFailed : t.mbx.restoreFailed = s.mbx.restoreFailed

theorem State.accepted_of_accept {s u : State} {w r x : Nat} {z : Tally} (y : Reply)
    (h : u = { s with tally := z, mbx := { s.mbx with ops := s.mbx.ops ++ [s.opOf w r x], nextOp := s.mbx.nextOp % 65535 + 1 } }) :
    Accepted w r x s (u.answerWith w y) := by
  obtain ⟨z', hz⟩ := u.answerWith_eq w y
  have hframe := (u.answerWith_leaves w y).1
  have hmbx : (u.answerWith w y).mbx = { u.mbx with taken := (u.mbx.taken + 1) % 65536, firstRequest := (u.answerWith w y).mbx.firstRequest } := by
    rw [hz]
  have hreg := fun o => u.reg_answerWith_other w y (o := o)
  generalize u.answerWith w y = t at hframe hmbx hreg
  have huregs : u.regs = s.regs := by rw [h]
  exact ⟨by rw [hframe, h], by rw [hmbx, h], fun o ho => (hreg o ho).trans (State.reg_of_regs huregs o), by rw [hmbx, h]⟩

theorem State.accepted_accepted (s : State) (w r x : Nat) : Accepted w r x s (s.accepted w r x) := by
  obtain ⟨y, hy⟩ := s.accept_frame w r x
  exact State.accepted_of_accept _ hy

theorem Accepted.rf {w r x : Nat} {s t : State} (h : Accepted w r x s t) {o : Nat} (ho : o < 0x2000 ∧ o ≠ 0x104 ∨ 0x2800 ≤ o) (hi lo : Nat) :
    t.rf o hi lo = s.rf o hi lo := State.rf_of_reg (h.reg o ho) hi lo

/-! ### LOAD (R493) -/

theorem exec_load {ok : Bool} {x : Image} {s s1 : State} {w : Nat} (h : s.asksLong 0x10 (needs 0x100) w)
    (hs : s1 = { s with far := { s.far with firstLoad := true } }) (hx : x = imageAt s.hostMem (frAddr w) (frLen w))
    (hload : s.loadRefusal x ok = none) :
    (frArg w 0 1 ≠ 1 → s.mayLoad = true → exec (.load none ok) s =
      .next ((s1.placeImage x).accepted w 0 (x.holds s.fuses.stepMajor).length)) ∧
    (frArg w 0 1 = 1 → s.rec_.stage = .imageNeeded → exec (.load none ok) s = .next ((s1.placeRecovery x).accepted w 0 0)) := by
  subst hs hx
  change (_ → _ → execLoad none ok s = _) ∧ (_ → _ → execLoad none ok s = _)
  unfold execLoad
  refine ⟨fun hfirst hmay => State.longRequest_accepts h ?_, fun hagain hstage => State.longRequest_accepts h ?_⟩
  · have hnot : (frArg w 0 1 == 1) = false := by simpa using hfirst
    dsimp only
    rw [hnot, if_neg (by simp [hmay]), hload]
    rfl
  · have hyes : (frArg w 0 1 == 1) = true := by simpa using hagain
    dsimp only
    rw [hyes, if_neg (by simp [hstage]), hload]
    rfl

/-! ### CHECKPOINT and STAGE (R459, R499) -/

theorem exec_checkpoint {s : State} {w : Nat} (h : s.asksLong 0x14 (needsOnHostPath 12) w) :
    (s.step.job ≠ none → s.tlrStep ≤ frArg w 0 4 ∨ (frArg w 0 4 + 1 = s.tlrStep ∧ (s.step.post < 2 ∨ 5 ≤ s.step.post)) →
      exec .checkpoint s = .next (s.accepted w 0 0)) ∧
    (s.step.job ≠ none → frArg w 0 4 + 1 < s.tlrStep ∨ (frArg w 0 4 + 1 = s.tlrStep ∧ 2 ≤ s.step.post ∧ s.step.post < 5) →
      exec .checkpoint s = .next (s.answerWith w { result := 0x11, detail := 24 })) ∧
    (s.step.job = none → exec .checkpoint s = .next (s.answerWith w { result := 0x12, detail := s.attn })) := by
  change (_ → _ → execCheckpoint s = _) ∧ (_ → _ → execCheckpoint s = _) ∧ (_ → execCheckpoint s = _)
  unfold execCheckpoint
  refine ⟨fun hjob hn => State.longRequest_accepts h ?_, fun hjob hn => State.longRequest_answers h ?_,
    fun hjob => State.longRequest_answers h ?_⟩
  · exact (if_neg (by simpa using hjob)).trans (if_neg (by omega))
  · exact (if_neg (by simpa using hjob)).trans (if_pos hn)
  · exact if_pos (by rw [hjob]; rfl)

theorem exec_stage {s : State} {w : Nat} (h : s.asksLong 0x18 (needs 0) w) :
    (frArg w 8 1 ≤ 1 → frLen w = 0 ∨ (s.where_ (frArg w 0 8) ≠ .unmapped ∧ s.where_ (frArg w 0 8 + frLen w - 1) ≠ .unmapped) →
      exec (.stage none) s = .next (s.accepted w 0 0)) ∧
    (1 < frArg w 8 1 → exec (.stage none) s = .next (s.answerWith w { result := 0x11, detail := 32 })) := by
  change (_ → _ → execStage none s = _) ∧ (_ → execStage none s = _)
  unfold execStage
  refine ⟨fun hto hwhere => State.longRequest_accepts h ?_, fun hto => State.longRequest_answers h (if_pos hto)⟩
  refine (if_neg (by omega)).trans (if_neg ?_)
  rcases hwhere with h0 | ⟨ha, hb⟩
  · simp [h0]
  · simp [ha, hb]

/-! ### Identity and NVM (R485 to R488, R492) -/

end Sys2Proof.Machine
end

section
/-! SUPPORT. Long requests about identity, NVM and membership (R401, R485 to R492, R503). -/

namespace Sys2Proof.Machine

/-- A long request whose performance is the acceptance of a state of which something holds. -/
theorem State.longRequest_accepts_some {s : State} {op w r x : Nat} {room : Nat → Option Reply} {f : State → Nat → State × Reply}
    {P : State → Prop} (h : s.asksLong op room w) (hf : ∃ t, f s w = t.accept w none r x ∧ P t) :
    ∃ u t, s.longRequest op room none f = .next u ∧ Accepted w r x t u ∧ P t := by
  obtain ⟨t, ht, hP⟩ := hf
  exact ⟨_, t, State.longRequest_accepts h ht, State.accepted_accepted t w r x, hP⟩

/-! ### Identity (R485 to R488) -/

theorem exec_attest {s : State} {w : Nat} {k : BitVec 256} (hk : s.attestKey = some k) (h : s.asksLong 7 (needs 5632) w) :
    exec (.attest none) s = .next ((s.toHostMem (frAddr w) (s.attestation k (frArg w 0 32))).accepted w 0 0) := by
  change execAttest none s = _
  unfold execAttest
  refine State.longRequest_accepts h ?_
  rw [hk]

theorem exec_getCerts {s : State} {w : Nat} {k : BitVec 256} (hk : s.attestKey = some k) (h : s.asksLong 8 (needs 11264) w) :
    exec (.getCerts none) s = .next ((s.toHostMem (frAddr w) (s.nvm.bytes 0x3800000 5632 ++ s.akCert k)).accepted w 0 0) := by
  change execGetCerts none s = _
  unfold execGetCerts
  refine State.longRequest_accepts h ?_
  rw [hk]

/-- The state that a token has unlocked. -/
def State.unlock (s : State) : State := { s.setRf 0x10 2 2 1 with far := { s.far with keySeed := none, unlocked := true } }

theorem State.unlock_frame (s : State) : s.unlock.rf 0x10 2 2 = 1 ∧ s.unlock.far = { s.far with keySeed := none, unlocked := true } ∧
    s.unlock = { s with regs := s.unlock.regs, far := s.unlock.far } :=
  ⟨State.rf_setRf_same s 0x10 1 2 (by omega), rfl, rfl⟩

/-- A token that names the digest of the DevID key and the last nonce. -/
theorem exec_debugUnlock_named {s : State} {w : Nat} {g : BitVec 256} (h : s.asksLong 0x1B (needs 64) w) (hg : s.far.nonce = some g)
    (hdevid : s.hostMem.num (frAddr w) 32 = s.far.devidDigest.toNat) (hnonce : s.hostMem.num (frAddr w + 32) 32 = g.toNat) :
    exec (.debugUnlock none true) s = .next (s.unlock.accepted w 0 0) ∧ exec (.debugUnlock none false) s = .next (s.accepted w 0x41 0) := by
  change execDebugUnlock none true s = _ ∧ execDebugUnlock none false s = _
  unfold execDebugUnlock
  refine ⟨State.longRequest_accepts h ?_, State.longRequest_accepts h ?_⟩
  · dsimp only
    rw [if_pos (by simp [hg, hdevid, hnonce])]
    rfl
  · dsimp only
    rw [if_neg (by simp)]

/-- A token that names another. -/
theorem exec_debugUnlock_other {s : State} {w : Nat} (h : s.asksLong 0x1B (needs 64) w)
    (hother : ∀ g, s.far.nonce = some g → s.hostMem.num (frAddr w) 32 ≠ s.far.devidDigest.toNat ∨
      s.hostMem.num (frAddr w + 32) 32 ≠ g.toNat) (ok : Bool) : exec (.debugUnlock none ok) s = .next (s.accepted w 0x41 0) := by
  change execDebugUnlock none ok s = _
  unfold execDebugUnlock
  refine State.longRequest_accepts h ?_
  dsimp only
  rw [if_neg]
  simp only [Bool.and_eq_true, beq_iff_eq, Option.any_eq_true]
  rintro ⟨-, hdevid, g, hg, hnonce⟩
  rcases hother g hg with hne | hne
  · exact hne hdevid
  · exact hne hnonce

/-! ### NVM (R492) -/

/-- The state whose fused SVN is that of the running bank, where that is larger. -/
def State.commitSvn (s : State) : State := { s with fuses := { s.fuses with svn := max s.fuses.svn (s.rf 0xC 15 8) } }

theorem exec_svnCommit {s : State} {w : Nat} (h : s.asksLong 0x1A needsNone w) :
    (headerValid s.nvm (bankBase (!(s.far.bank.getD false))) = true →
      s.nvm.num (bankBase (!(s.far.bank.getD false)) + 0xC) 4 < s.rf 0xC 15 8 → frArg w 0 1 ≠ 1 →
      exec .svnCommit s = .next (s.accepted w 0x42 0)) ∧
    ((headerValid s.nvm (bankBase (!(s.far.bank.getD false))) = false ∨
        s.rf 0xC 15 8 ≤ s.nvm.num (bankBase (!(s.far.bank.getD false)) + 0xC) 4 ∨ frArg w 0 1 = 1) →
      exec .svnCommit s = .next (s.commitSvn.accepted w 0 0)) := by
  change (_ → _ → _ → execSvnCommit s = _) ∧ (_ → execSvnCommit s = _)
  unfold execSvnCommit
  refine ⟨fun hvalid hlow hforce => State.longRequest_accepts h ?_, fun hmay => State.longRequest_accepts h ?_⟩
  · dsimp only
    rw [if_pos (by simp [hvalid, hlow, hforce])]
  · dsimp only
    rw [if_neg]
    · rfl
    · simp only [Bool.and_eq_true, decide_eq_true_eq, bne_iff_ne]
      rintro ⟨⟨hvalid, hlow⟩, hforce⟩
      rcases hmay with hmay | hmay | hmay
      · rw [hmay] at hvalid
        exact absurd hvalid (by simp)
      · omega
      · exact hforce hmay

theorem Mem.length_bytes (m : Mem) (a n : Nat) : (Mem.bytes m a n).length = n := by
  induction n generalizing a with
  | zero => rfl
  | succ n ih => exact congrArg Nat.succ (ih _)

/-- The pages of a bank after its header, written. -/
def Mem.bankPages (m : Mem) (base : Nat) (host : Mem) (a n : Nat) : Mem :=
  (m.setBytes base (List.replicate 8192 0xFF)).setBytes (base + 8192) (host.bytes (a + 8192) (n - 8192))

/-- The header of a bank, written with a new SEQ. -/
def Mem.bankHeader (m : Mem) (base : Nat) (host : Mem) (a seq : Nat) : Mem :=
  (m.setBytes base (host.bytes a 8192)).setNum (base + 8) 4 seq

/-- The state whose other bank an update has written, and whose pages read back. -/
def State.updated (s : State) (m : Mem) : State := { s.setRf 0x10 5 5 1 with nvm := m }

theorem Mem.byte_bankPages (m host : Mem) {base a n c : Nat} (hn : n ≤ bankSize) (hc : c < base ∨ base + bankSize ≤ c) :
    (m.bankPages base host a n).byte c = m.byte c := by
  have hsize : (8192 : Nat) ≤ bankSize := by decide
  unfold bankPages
  rw [Mem.byte_setBytes_other _ _ _ (by rw [Mem.length_bytes]; omega), Mem.byte_setBytes_other _ _ _ (by rw [List.length_replicate]; omega)]

theorem Mem.byte_bankHeader (m host : Mem) {base a seq c : Nat} (hc : c < base ∨ base + bankSize ≤ c) :
    (m.bankHeader base host a seq).byte c = m.byte c := by
  have hsize : (8192 : Nat) ≤ bankSize := by decide
  unfold bankHeader
  rw [Mem.byte_setNum_other _ _ _ _ (by omega), Mem.byte_setBytes_other _ _ _ (by rw [Mem.length_bytes]; omega)]

theorem exec_nvmUpdate_refused {s : State} {w : Nat} {v : BankVerdict} {ok : Bool} (h : s.asksLong 0x1C (needs 8192) w) :
    (bankSize < frLen w → exec (.nvmUpdate none v ok) s = .next (s.answerWith w { result := 0x11, detail := 16 })) ∧
    (frLen w ≤ bankSize → bankReason s.hostMem (frAddr w) s.fuses v ≠ 0 → exec (.nvmUpdate none v ok) s =
      .next (s.accepted w 0x40 (bankReason s.hostMem (frAddr w) s.fuses v))) := by
  change (_ → execNvmUpdate none v ok s = _) ∧ (_ → _ → execNvmUpdate none v ok s = _)
  unfold execNvmUpdate
  refine ⟨fun hlong => State.longRequest_answers h ?_, fun hfits hbad => State.longRequest_accepts h ?_⟩
  · dsimp only
    rw [if_pos hlong]
    rfl
  · dsimp only
    rw [if_neg (by omega), if_pos hbad]

/-- What an update that is sound leaves: the other bank is written; read back, it sets UPDATE. -/
structure Updates (ok : Bool) (s t : State) : Prop where
  frame : t = { s with regs := t.regs, nvm := t.nvm }
  update : ok = true → t.rf 0x10 5 5 = 1
  others : ∀ a, (a < bankBase s.idleBank ∨ bankBase s.idleBank + bankSize ≤ a) → t.nvm.byte a = s.nvm.byte a

/-- The state whose other bank an update has written, which does not read back. -/
def State.paged (s : State) (m : Mem) : State := { s with nvm := m }

theorem Updates.paged {s : State} {m : Mem}
    (h : ∀ a, (a < bankBase s.idleBank ∨ bankBase s.idleBank + bankSize ≤ a) → m.byte a = s.nvm.byte a) :
    Updates false s (s.paged m) := ⟨rfl, fun h => absurd h (by simp), h⟩

theorem Updates.updated {s : State} {m : Mem}
    (h : ∀ a, (a < bankBase s.idleBank ∨ bankBase s.idleBank + bankSize ≤ a) → m.byte a = s.nvm.byte a) :
    Updates true s (s.updated m) where
  frame := rfl
  update _ := by
    have hregs : (s.updated m).regs = (s.setRf 0x10 5 5 1).regs := rfl
    rw [State.rf_of_regs hregs]
    exact State.rf_setRf_same s 0x10 1 5 (by omega)
  others := h

theorem exec_nvmUpdate_writes {s : State} {w : Nat} {v : BankVerdict} {ok : Bool} (h : s.asksLong 0x1C (needs 8192) w)
    (hlen : frLen w ≤ bankSize) (hreason : bankReason s.hostMem (frAddr w) s.fuses v = 0) :
    ∃ u t, exec (.nvmUpdate none v ok) s = .next u ∧ Accepted w (if ok then 0 else 0x40) (if ok then 0 else 0xFF) t u ∧ Updates ok s t := by
  change ∃ u t, execNvmUpdate none v ok s = .next u ∧ _
  unfold execNvmUpdate
  have hpages := fun a ha => Mem.byte_bankPages s.nvm s.hostMem (base := bankBase s.idleBank) (a := frAddr w) (c := a) hlen ha
  cases ok with
  | false =>
    refine State.longRequest_accepts_some h ⟨s.paged (s.nvm.bankPages _ s.hostMem (frAddr w) (frLen w)), ?_, .paged hpages⟩
    dsimp only
    rw [if_neg (by omega), if_neg (by simp [hreason]), if_pos (by simp)]
    rfl
  | true =>
    have hheader := fun a ha => (Mem.byte_bankHeader (s.nvm.bankPages (bankBase s.idleBank) s.hostMem (frAddr w) (frLen w)) s.hostMem
      (a := frAddr w) (seq := s.nvm.num (bankBase (!s.idleBank) + 8) 4 + 1) (c := a) ha).trans (hpages a ha)
    refine State.longRequest_accepts_some h ⟨s.updated _, ?_, .updated hheader⟩
    dsimp only
    rw [if_neg (by omega), if_neg (by simp [hreason]), if_neg (by simp)]
    rfl

/-! ### MEMBERSHIP (R401, R503) -/

theorem exec_membership_refused {s : State} {w : Nat} (h : s.asksLong 0x17 (needs 32) w)
    (hlen : frLen w < 32 + 8 * s.hostMem.num (frAddr w + 28) 2 + 4 * s.hostMem.num (frAddr w + 30) 2) :
    exec (.membership none) s = .next (s.answerWith w { result := 0x11, detail := 16 }) := by
  change execMembership none s = _
  unfold execMembership
  refine State.longRequest_answers h ?_
  dsimp only
  rw [if_pos hlen]
  rfl

theorem Secured.foldl {α : Type} {f : State → α → State}
    (hf : ∀ s x, Secured s (f s x)) (l : List α) (s : State) : Secured s (l.foldl f s) := by
  induction l generalizing s with
  | nil => exact .refl s
  | cons x l ih => exact (hf s x).trans (ih _)

theorem Secured.ite_foldl {α : Type} {f : State → α → State}
    (hf : ∀ s x, Secured s (f s x)) (c : Prop) [Decidable c] (l : List α) (s : State) :
    Secured s (if c then l.foldl f s else s) := by
  split
  · exact .foldl hf l s
  · exact .refl s

/-- A record that is long enough is staged; a joiner has sent its requests besides. -/
theorem exec_membership_stages {s : State} {w : Nat} (h : s.asksLong 0x17 (needs 32) w)
    (hlen : 32 + 8 * s.hostMem.num (frAddr w + 28) 2 + 4 * s.hostMem.num (frAddr w + 30) 2 ≤ frLen w) :
    ∃ u t, exec (.membership none) s = .next u ∧ Accepted w 0 0 t u ∧ ∃ (s1 : State) (shadow : Tab Word) (g : Staged),
      s1 = { s with link := { s.link with shadow := shadow, staged := some g } } ∧ Secured s1 t ∧
      g.step = s.hostMem.num (frAddr w) 4 ∧ g.epoch = s.hostMem.num (frAddr w + 4) 4 := by
  change ∃ u t, execMembership none s = .next u ∧ _
  unfold execMembership
  refine State.longRequest_accepts_some h ?_
  extract_lets a word r o routes shadow selfLeaves others members joining g link s1 level s2
  rw [if_neg (show ¬ frLen w < 32 + 8 * r + 4 * o from not_lt.2 hlen)]
  exact ⟨s2, rfl, s1, shadow, g, rfl, .ite_foldl (fun s d => Secured.sendMsg s d _) _ _ _, rfl, rfl⟩

end Sys2Proof.Machine
end

section
/-! SUPPORT. Long requests that restore and restart (R446, R455, R461), and what each long request does once it is accepted. -/

namespace Sys2Proof.Machine

/-! ### RESTORE (R461, R499) -/

/-- A restored job stands before its step, its halts lifted. -/
def State.restored (s : State) (n : Nat) (ls : Word) : State :=
  let u := ({ s with free := s.free + 1 } : State).rewind (n + 1) ls
  { u with rec_ := { u.rec_ with haltedLs := false, haltedSteps := false } }

theorem State.restored_stands (s : State) (n : Nat) (ls : Word) : (s.restored n ls).joinReady.step.post = 5 ∧
    (s.restored n ls).joinReady.rec_.haltedLs = false ∧ (s.restored n ls).joinReady.rec_.haltedSteps = false ∧
    (s.link.staged = none → (s.restored n ls).joinReady.tlrStep = (n + 1) % 2 ^ 32) := by
  obtain ⟨hpost, hstep, hstaged⟩ := State.rewind_stands { s with free := s.free + 1 } (n + 1) ls
  have hjoin := Stands.joinReady (s.restored n ls)
  have halone : (s.restored n ls).link.staged = none → (s.restored n ls).joinReady = s.restored n ls := State.joinReady_alone
  refine ⟨hjoin.post.trans hpost, hjoin.haltedLs.trans rfl, hjoin.haltedSteps.trans rfl, fun h => ?_⟩
  rw [halone (hstaged.trans h)]
  exact hstep

theorem exec_restore_refused {s : State} {w : Nat} {rs : List Replica} (ok : Bool) (h : s.asksLong 0x15 (needsOnHostPath 4) w) :
    (s.step.job = none → exec (.restore ok rs) s = .next (s.answerWith w { result := 0x12, detail := s.attn })) ∧
    (s.step.job ≠ none → s.memFree = false → exec (.restore ok rs) s = .next (s.answerWith w { result := 2 })) := by
  change (_ → execRestore ok s rs = _) ∧ (_ → _ → execRestore ok s rs = _)
  unfold execRestore
  refine ⟨fun hjob => State.longRequest_answers h ?_, fun hjob hmem => State.longRequest_answers h ?_⟩
  · dsimp only
    rw [if_pos (by rw [hjob]; rfl)]
    rfl
  · dsimp only
    rw [if_neg (by simpa using hjob), if_pos (by simp [hmem])]

/-- The state that has failed to be restored. -/
def State.failRestore (s : State) : State :=
  State.markFresh { s with mbx := { s.mbx with restoreFailed := true } } 0x110 (2 ^ 13)

theorem exec_restore_store {s : State} {w : Nat} {rs : List Replica} (h : s.asksLong 0x15 (needsOnHostPath 4) w)
    (hjob : s.step.job ≠ none) (hmem : s.memFree = true) (hstore : frArg w 4 2 ≠ 0xFFFF) :
    exec (.restore true rs) s = .next ((s.restored (frArg w 0 4) (Config.freeWord s.free)).joinReady.accepted w 0 0) ∧
    exec (.restore false rs) s = .next (s.failRestore.accepted w 0x30 (frArg w 0 4)) := by
  have hhost : (frArg w 4 2 == 0xFFFF) = false := by simpa using hstore
  change execRestore true s rs = _ ∧ execRestore false s rs = _
  unfold execRestore
  refine ⟨State.longRequest_accepts h ?_, State.longRequest_accepts h ?_⟩
  · dsimp only
    rw [if_neg (by simpa using hjob), if_neg (by simp [hmem]), hhost, if_neg (by simp)]
    rfl
  · dsimp only
    rw [if_neg (by simpa using hjob), if_neg (by simp [hmem]), hhost, if_pos (by simp)]
    rfl

theorem Accepted.of_exec {i : Instr} {s u : State} {w r x : Nat} (h : exec i s = .next (u.accepted w r x)) :
    ∃ t, exec i s = .next t ∧ Accepted w r x u t := ⟨_, h, State.accepted_accepted u w r x⟩

theorem State.failRestore_frame (s : State) :
    s.failRestore = { s with recent := s.failRestore.recent, mbx := { s.mbx with restoreFailed := true } } := rfl

theorem Accepted.failRestore {s t : State} {w r x : Nat} (h : Accepted w r x s.failRestore t) :
    t = { s with regs := t.regs, recent := t.recent, tally := t.tally, mbx := t.mbx } ∧ t.mbx.restoreFailed = true := by
  have hframe := s.failRestore_frame
  generalize s.failRestore = u at h hframe
  have hall := h.frame
  refine ⟨?_, h.restoreFailed.trans (by rw [hframe])⟩
  rw [hall, hframe]

/-- A restore from a store of a state that passes, and of one that does not. -/
theorem exec_restore {s : State} {w : Nat} {rs : List Replica} (h : s.asksLong 0x15 (needsOnHostPath 4) w)
    (hjob : s.step.job ≠ none) (hmem : s.memFree = true) (hstore : frArg w 4 2 ≠ 0xFFFF) :
    (∃ t, exec (.restore true rs) s = .next t ∧ t.step.post = 5 ∧ t.rec_.haltedLs = false ∧ t.rec_.haltedSteps = false ∧
      (s.link.staged = none → t.tlrStep = (frArg w 0 4 + 1) % 2 ^ 32)) ∧
    ∃ t, exec (.restore false rs) s = .next t ∧ t = { s with regs := t.regs, recent := t.recent, tally := t.tally, mbx := t.mbx } ∧
      t.mbx.restoreFailed = true := by
  obtain ⟨hpass, hfail⟩ := exec_restore_store (rs := rs) h hjob hmem hstore
  obtain ⟨t, ht, hu⟩ := Accepted.of_exec hpass
  obtain ⟨t', ht', hv⟩ := Accepted.of_exec hfail
  obtain ⟨hpost, hls, hsteps, htlr⟩ := s.restored_stands (frArg w 0 4) (Config.freeWord s.free)
  have hreg : t.tlrStep = _ := congrArg BitVec.toNat (hu.reg (tlrBase 0 + 0x20) (.inr (by decide)))
  refine ⟨⟨t, ht, ?_, ?_, ?_, fun hn => hreg.trans (htlr hn)⟩, ⟨t', ht', hv.failRestore⟩⟩
  · rw [hu.frame]
    exact hpost
  · rw [hu.frame]
    exact hls
  · rw [hu.frame]
    exact hsteps

/-! ### LEDGER_RESTORE (R455) and RESTART (R446) -/

theorem exec_ledgerRestore {s : State} {w : Nat} (h : s.asksLong 0x16 (needs 4) w) :
    (s.step.job ≠ none → s.ldgOn = true → exec (.ledgerRestore none) s =
      .next ((s.notice (Err.aon .notice 0x923 0 0 (s.hostMem.num (frAddr w) 4))).accepted w 0 0)) ∧
    (s.step.job = none ∨ s.ldgOn = false → exec (.ledgerRestore none) s =
      .next (s.answerWith w { result := 0x12, detail := s.attn })) := by
  change (_ → _ → execLedgerRestore none s = _) ∧ (_ → execLedgerRestore none s = _)
  unfold execLedgerRestore
  refine ⟨fun hjob hon => State.longRequest_accepts h ?_, fun hnot => State.longRequest_answers h ?_⟩
  · rw [if_neg (by simp [hjob, hon])]
  · rw [if_pos (by rcases hnot with h | h <;> simp [h])]
    rfl

theorem exec_restart {s : State} {w : Nat} (h : s.asksLong 0x1D needsNone w) :
    (s.fatal.stopped = true ∧ s.fatal.flushed = true ∧ s.inputHeld = true →
      exec .restart s = .next (s.restartModule.accepted w 0 0)) ∧
    (¬ (s.fatal.stopped = true ∧ s.fatal.flushed = true ∧ s.inputHeld = true) →
      exec .restart s = .next (s.answerWith w { result := 0x12, detail := s.attn })) := by
  change (_ → execRestart s = _) ∧ (_ → execRestart s = _)
  unfold execRestart
  refine ⟨fun hmay => State.longRequest_accepts h (if_pos ?_), fun hnot => State.longRequest_answers h (if_neg ?_)⟩
  · simpa [and_assoc] using hmay
  · simpa [and_assoc] using hnot

/-- A restart ends the fatal stop, and memory leaves self-refresh. -/
theorem State.restartModule_runs (s : State) : s.restartModule.fatal.stopped = false ∧ s.restartModule.fatal.selfRefresh = false := by
  have hkept := (Rebuilds.quiesce { s with fatal := { s.fatal with stopped := false, pending := none, selfRefresh := false } }).trans
    (.depCloseAll _)
  have hstopped := hkept.stopped
  have hrefresh := hkept.refresh
  unfold restartModule
  generalize State.depCloseAll _ = u at hstopped hrefresh ⊢
  extract_lets lost
  split
  · exact ⟨hstopped, hrefresh⟩
  · exact ⟨hstopped, hrefresh⟩

/-! ### What the acceptances leave -/

theorem Accepted.fatal {w r x : Nat} {s t : State} (h : Accepted w r x s t) : t.fatal = s.fatal := by rw [h.frame]

theorem Accepted.exists_op {w r x : Nat} {s t : State} (h : Accepted w r x s t) : ∃ o : LongOp, o.id = s.mbx.nextOp ∧
    o.frame = BitVec.ofNat 512 w ∧ o.result = r ∧ o.detail = x ∧ o.done = false ∧ t.mbx.ops = s.mbx.ops ++ [o] ∧
    t = { s with regs := t.regs, tally := t.tally, mbx := t.mbx } :=
  ⟨s.opOf w r x, rfl, rfl, rfl, rfl, rfl, h.ops, h.frame⟩

theorem State.commitSvn_frame (s : State) : s.commitSvn.fuses = { s.fuses with svn := max s.fuses.svn (s.rf 0xC 15 8) } ∧
    s.commitSvn = { s with fuses := s.commitSvn.fuses } := ⟨rfl, rfl⟩

theorem Accepted.commitSvn {s t : State} {w : Nat} (h : Accepted w 0 0 s.commitSvn t) :
    t.fuses = { s.fuses with svn := max s.fuses.svn (s.rf 0xC 15 8) } ∧
    t = { s with regs := t.regs, tally := t.tally, mbx := t.mbx, fuses := t.fuses } := by
  obtain ⟨hfuses, hframe⟩ := s.commitSvn_frame
  generalize s.commitSvn = u at h hfuses hframe
  have hall := h.frame
  refine ⟨by rw [hall]; exact hfuses, ?_⟩
  rw [hall, hframe]

theorem Accepted.unlock {s t : State} {w : Nat} (h : Accepted w 0 0 s.unlock t) :
    t.far = { s.far with keySeed := none, unlocked := true } ∧ t.rf 0x10 2 2 = 1 ∧
    t = { s with regs := t.regs, tally := t.tally, mbx := t.mbx, far := t.far } := by
  obtain ⟨hrf, hfar, hframe⟩ := s.unlock_frame
  generalize s.unlock = u at h hrf hfar hframe
  have hall := h.frame
  refine ⟨by rw [hall]; exact hfar, (h.rf (.inl (by omega)) 2 2).trans hrf, ?_⟩
  rw [hall, hframe]

theorem nvmUpdate_writes {s : State} {w : Nat} {v : BankVerdict} {ok : Bool} (h : s.asksLong 0x1C (needs 8192) w)
    (hlen : frLen w ≤ bankSize) (hreason : bankReason s.hostMem (frAddr w) s.fuses v = 0) : ∃ t, exec (.nvmUpdate none v ok) s = .next t ∧
    t = { s with regs := t.regs, tally := t.tally, mbx := t.mbx, nvm := t.nvm } ∧ (ok = true → t.rf 0x10 5 5 = 1) ∧
    ∀ a, (a < bankBase s.idleBank ∨ bankBase s.idleBank + bankSize ≤ a) → t.nvm.byte a = s.nvm.byte a := by
  obtain ⟨t, u, hexec, ht, hu⟩ := exec_nvmUpdate_writes (ok := ok) h hlen hreason
  have hall := ht.frame
  refine ⟨t, hexec, ?_, fun hok => (ht.rf (.inl (by omega)) 5 5).trans (hu.update hok), fun a ha => ?_⟩
  · rw [hall, hu.frame]
  · rw [hall]
    exact hu.others a ha

theorem membership_stages {s : State} {w : Nat} (h : s.asksLong 0x17 (needs 32) w)
    (hlen : 32 + 8 * s.hostMem.num (frAddr w + 28) 2 + 4 * s.hostMem.num (frAddr w + 30) 2 ≤ frLen w) :
    ∃ t g, exec (.membership none) s = .next t ∧ t.link.staged = some g ∧ g.step = s.hostMem.num (frAddr w) 4 ∧
      g.epoch = s.hostMem.num (frAddr w + 4) 4 ∧ t.epoch = s.epoch ∧ t.step = s.step ∧ t.mem = s.mem ∧ t.cores = s.cores := by
  obtain ⟨t, u, hexec, ht, s1, shadow, g, hs1, hu, hstep, hepoch⟩ := exec_membership_stages h hlen
  have hkept := hu.frame
  have hall := ht.frame
  have hvl : ∀ n, vlBase 0 + 0x14 ≠ vlBase n + 0xC := fun n => by
    unfold vlBase
    omega
  refine ⟨t, g, hexec, ?_, hstep, hepoch, ?_, ?_, ?_, ?_⟩
  · rw [hall]
    exact (congrArg Link.staged hu.link).trans (by rw [hs1])
  · refine (ht.rf (.inr (by decide)) 31 0).trans ((hu.rf hvl 31 0).trans ?_)
    rw [hs1]
    rfl
  · rw [hall, hkept, hs1]
  · rw [hall, hkept, hs1]
  · rw [hall, hkept, hs1]

/-- Settles O56: each long request taken by its own law. -/
theorem longRequestsAccepted : Obligations.LongRequestsAccepted := by
  unfold Obligations.LongRequestsAccepted
  refine ⟨fun s w r x => (State.accepted_accepted s w r x).exists_op, fun s w =>
    ⟨fun k hk => ⟨exec_attest hk, exec_getCerts hk⟩, fun ok x s1 h hs1 hx hok => exec_load h hs1 hx hok, exec_checkpoint,
      fun h => (exec_stage h).1, fun h => (exec_stage h).2, fun rs h => ⟨fun ok => (exec_restore_refused ok h).1,
        fun ok => (exec_restore_refused ok h).2, exec_restore h⟩, fun h => (exec_ledgerRestore h).1, fun h => (exec_ledgerRestore h).2,
      exec_membership_refused, membership_stages, fun h => ⟨(exec_svnCommit h).1, fun hmay => ?_⟩,
      fun h g hg hdevid hnonce => ⟨?_, (exec_debugUnlock_named h hg hdevid hnonce).2⟩, exec_debugUnlock_other,
      fun v ok h => ⟨(exec_nvmUpdate_refused h).1, fun hlen => ⟨(exec_nvmUpdate_refused h).2 hlen, nvmUpdate_writes h hlen⟩⟩,
      fun h => ⟨fun hmay => ?_, (exec_restart h).2⟩⟩⟩
  · obtain ⟨t, hexec, ht⟩ := Accepted.of_exec ((exec_svnCommit h).2 hmay)
    exact ⟨t, hexec, ht.commitSvn⟩
  · obtain ⟨t, hexec, ht⟩ := Accepted.of_exec (exec_debugUnlock_named h hg hdevid hnonce).1
    exact ⟨t, hexec, ht.unlock⟩
  · obtain ⟨t, hexec, ht⟩ := Accepted.of_exec ((exec_restart h).1 hmay)
    exact ⟨t, hexec, (congrArg Fatal.stopped ht.fatal).trans s.restartModule_runs.1,
      (congrArg Fatal.selfRefresh ht.fatal).trans s.restartModule_runs.2⟩

end Sys2Proof.Machine
end

section
/-! SUPPORT. Flits that arrive at a port: acknowledgement, sequence, messages, and the check of the lanes (R382 to R387). -/

namespace Sys2Proof.Machine

/-! ### What flit traffic leaves -/

/-- Memory, cores, rings and what lies outside the package stand. -/
structure Carries (s t : State) : Prop where
  mem : t.mem = s.mem
  cores : t.cores = s.cores
  rings : t.rings = s.rings
  outer : t.outer = s.outer

theorem Carries.refl (s : State) : Carries s s := ⟨rfl, rfl, rfl, rfl⟩

theorem Carries.trans {s t u : State} (h : Carries s t) (h' : Carries t u) : Carries s u :=
  ⟨h'.mem.trans h.mem, h'.cores.trans h.cores, h'.rings.trans h.rings, h'.outer.trans h.outer⟩

theorem Carries.setPort (s : State) (p : Nat) (x : Port) : Carries s (s.setPort p x) := ⟨rfl, rfl, rfl, rfl⟩

theorem Reported.carries {s t : State} (h : Reported s t) : Carries s t := by
  have hall := h.frame
  refine ⟨?_, ?_, ?_, ?_⟩
  · rw [hall]
  · rw [hall]
  · rw [hall]
  · rw [hall]
    rfl

/-- A flit is counted in Tally. -/
theorem State.flitCounted (s : State) (b ev unit off : Nat) : ∃ x, (s.count b ev unit 1).units off 1 = { s with tally := x } := by
  obtain ⟨x, hx⟩ := s.count_eq b ev unit 1
  obtain ⟨y, hy⟩ := (s.count b ev unit 1).units_eq off 1
  exact ⟨y, by rw [hy, hx]⟩

theorem State.port_of_link {s t : State} (h : s.link = t.link) (p : Nat) : s.port p = t.port p := by
  unfold port
  rw [h]

/-! ### A flit at its port (R383 to R387) -/

/-- The port that a flit has acknowledged and whose credits it has returned. -/
def Port.heard (x : Port) (h : Nat) (v : Line) : Port :=
  let z := (x.ack (bits h 25 16)).credit (bits h 27 26) (bits h 31 28)
  if bits h 2 0 = 3 then (List.range 4).foldl (fun (z : Port) c => z.credit c (Config.ctrlCredits v c % 4096)) z else z

theorem Port.foldl_credit (x : Port) (g : Nat → Nat) (l : List Nat) :
    ∃ c, l.foldl (fun (z : Port) k => z.credit k (g k)) x = { x with credits := c } := by
  induction l generalizing x with
  | nil => exact ⟨_, rfl⟩
  | cons k l ih =>
    obtain ⟨c, hc⟩ := ih (x.credit k (g k))
    exact ⟨c, hc⟩

theorem Port.heard_eq (x : Port) (h : Nat) (v : Line) : ∃ c, x.heard h v = { x.ack (bits h 25 16) with credits := c } := by
  unfold heard
  dsimp only
  split
  · obtain ⟨c, hc⟩ := Port.foldl_credit ((x.ack (bits h 25 16)).credit (bits h 27 26) (bits h 31 28)) (fun c => Config.ctrlCredits v c % 4096)
      (List.range 4)
    exact ⟨c, hc⟩
  · exact ⟨_, rfl⟩

/-- A port after a flit of a defined type. -/
def Port.receive (x : Port) (h : Nat) (v : Line) : Port :=
  if bits h 2 0 = 1 ∨ bits h 2 0 = 2 then
    if bits h 15 6 = x.expected then (x.heard h v).join (bits h 2 0) (bits h 5 4) v (bit h 3) else (x.heard h v).refuse
  else x.heard h v

theorem State.flitIn_receives (s : State) (p : Nat) {h : Nat} (v : Line) (ht : bits h 2 0 ≤ 4) :
    ∃ x, s.flitIn p h v = { s.setPort p ((s.port p).receive h v) with tally := x } := by
  obtain ⟨c, hc⟩ := (s.port p).heard_eq h v
  have hexpected : ((s.port p).heard h v).expected = (s.port p).expected := by rw [hc]; rfl
  change ∃ x, (if 5 ≤ bits h 2 0 then s.setPort p (s.port p).refuse
    else if bits h 2 0 = 1 ∨ bits h 2 0 = 2 then
      (if bits h 15 6 = ((s.port p).heard h v).expected then
        ((s.setPort p (((s.port p).heard h v).join (bits h 2 0) (bits h 5 4) v (bit h 3))).count (blkXd (p / 9)) 0x11
          (p % 9 + 16 * bits h 5 4) 1).units (tlyBase + 0x1000 + 8 * p + 4) 1
      else s.setPort p ((s.port p).heard h v).refuse)
    else s.setPort p ((s.port p).heard h v)) = _
  rw [if_neg (by omega), hexpected]
  unfold Port.receive
  split
  · split
    · exact State.flitCounted _ _ _ _ _
    · exact ⟨_, rfl⟩
  · exact ⟨_, rfl⟩

theorem Port.store_eq (x : Port) (c : Nat) (m : Msg) : ∃ q i, x.store c m = { x with partialMsg := q, inbox := i } := by
  unfold store
  split
  · exact ⟨_, _, rfl⟩
  · exact ⟨_, _, rfl⟩

theorem Port.join_eq (x : Port) (type c : Nat) (v : Line) (poison : Bool) :
    ∃ q i, x.join type c v poison = { x with expected := (x.expected + 1) % 1024, partialMsg := q, inbox := i } := by
  unfold join
  dsimp only
  split
  · exact Port.store_eq _ _ _
  · split
    · exact Port.store_eq _ _ _
    · exact ⟨_, _, rfl⟩

/-- A message that is complete waits behind those of its class. -/
theorem Port.store_complete (x : Port) (c : Nat) {m : Msg} (h : msgFlits m.head ≤ m.data.length) :
    Tab.read [] (x.store c m).inbox c = Tab.read [] x.inbox c ++ [m] := by
  unfold store
  rw [if_pos h]
  exact Tab.read_write_same _ _ _ _

section
variable (x : Port) {h : Nat} (v : Line)

theorem Port.receive_replay :
    (x.receive h v).replay = x.replay.filter (fun f => decide (512 ≤ (bits h 25 16 + 1024 - f.seq) % 1024)) := by
  obtain ⟨c, hc⟩ := x.heard_eq h v
  obtain ⟨q, i, hj⟩ := (x.heard h v).join_eq (bits h 2 0) (bits h 5 4) v (bit h 3)
  unfold receive
  rw [hj, hc]
  split
  · split <;> rfl
  · rfl

theorem Port.receive_expected (ht : bits h 2 0 = 1 ∨ bits h 2 0 = 2) (hseq : bits h 15 6 = x.expected) :
    (x.receive h v).expected = (x.expected + 1) % 1024 ∧ (x.receive h v).nakDue = x.nakDue := by
  obtain ⟨c, hc⟩ := x.heard_eq h v
  obtain ⟨q, i, hj⟩ := (x.heard h v).join_eq (bits h 2 0) (bits h 5 4) v (bit h 3)
  unfold receive
  rw [if_pos ht, if_pos hseq, hj, hc]
  exact ⟨rfl, rfl⟩

theorem Port.receive_refused (ht : bits h 2 0 = 1 ∨ bits h 2 0 = 2) (hseq : bits h 15 6 ≠ x.expected) :
    (x.receive h v).expected = x.expected ∧ (x.receive h v).nakDue = some x.expected ∧ (x.receive h v).inbox = x.inbox ∧
    (x.receive h v).partialMsg = x.partialMsg := by
  obtain ⟨c, hc⟩ := x.heard_eq h v
  unfold receive
  rw [if_pos ht, if_neg hseq, hc]
  exact ⟨rfl, rfl, rfl, rfl⟩

theorem Port.receive_head (ht : bits h 2 0 = 1) (hseq : bits h 15 6 = x.expected) (hlen : msgFlits v = 0) :
    Tab.read [] (x.receive h v).inbox (bits h 5 4) = Tab.read [] x.inbox (bits h 5 4) ++ [{ cls := bits h 5 4, head := v, data := [] }] := by
  obtain ⟨c, hc⟩ := x.heard_eq h v
  unfold receive
  rw [if_pos (.inl ht), if_pos hseq, hc]
  unfold Port.join
  dsimp only
  rw [if_pos ht]
  exact Port.store_complete _ _ (by rw [hlen]; exact Nat.zero_le _)

theorem Port.receive_last {m : Msg} (ht : bits h 2 0 = 2) (hseq : bits h 15 6 = x.expected)
    (hm : Tab.find? x.partialMsg (bits h 5 4) = some m) (hlen : msgFlits m.head = m.data.length + 1) :
    Tab.read [] (x.receive h v).inbox (bits h 5 4) = Tab.read [] x.inbox (bits h 5 4) ++ [{ m with data := m.data ++ [(v, bit h 3)] }] := by
  obtain ⟨c, hc⟩ := x.heard_eq h v
  have hpartial : Tab.find? (x.ack (bits h 25 16)).partialMsg (bits h 5 4) = some m := hm
  unfold receive
  rw [if_pos (.inr ht), if_pos hseq, hc]
  unfold Port.join
  dsimp only
  rw [if_neg (by omega), hpartial]
  exact Port.store_complete _ _ (by simp [hlen])

end

/-! ### The lanes (R382, R386) -/

theorem State.fecCorrected_eq (s : State) (p : Nat) (fixed : List Nat) :
    ∃ r q j, s.fecCorrected p fixed = { s with regs := r, recent := q, jnl := j } := by
  unfold fecCorrected
  split
  · exact ⟨_, _, _, rfl⟩
  · obtain ⟨j, hj⟩ := (s.countRf (portBase p + 8) 15 0 1).corrected_eq (Err.of .corrected 0x720 (domXd (p / 9) 15) p)
      ((s.countRf (portBase p + 8) 15 0 1).rf (portBase p + 8) 15 0) 0xFFFF
    exact ⟨_, _, j, hj⟩

/-- The check of the lanes changes how a port stands and what it has queued, and nothing that it has received. -/
theorem State.laneCheck_leaves (s : State) (p : Nat) : Carries s (s.laneCheck p) ∧
    ∃ st f e, (s.laneCheck p).port p = { s.port p with state := st, failing := f, egress := e } := by
  unfold laneCheck
  dsimp only
  split
  · exact ⟨.refl s, _, _, _, rfl⟩
  · next k _ =>
    generalize Tab.read [] (s.port p).egress 0 = fs
    generalize hx : ({ s.port p with state := .retraining, failing := (s.port p).lanes[k]?, egress := Tab.del (s.port p).egress 0 } : Port) = x
    have hport := (Told.foldl (fun s f => Told.rerouteHead p s f) fs (s.setPort p x)).port p
    have hrep := (Reported.foldl (fun s f => Reported.rerouteHead p s f) fs (s.setPort p x)).carries
    refine ⟨(Carries.setPort s p x).trans hrep, ?_⟩
    rw [State.port_setPort_same] at hport
    exact ⟨_, _, _, hport.trans (by rw [← hx])⟩

/-! ### FLIT_RECEIVE -/

theorem exec_flitReceive_length (p : Fin 18) {bs : List Byte} (s : State) (h : bs.length ≠ 272) :
    ∃ f, exec (.flitReceive p bs) s = .fault f := ⟨_, if_pos h⟩

section
variable {s : State} {p : Fin 18} {bs : List Byte} (hlen : bs.length = 272) (hon : s.alive = true) (hup : (s.port p.val).state = .up)
include hlen hon hup

theorem exec_flitReceive_undecoded (hread : flitRead bs = none) :
    exec (.flitReceive p bs) s = .next (s.modPort p.val (fun x => (x.countLanes []).refuse)) := by
  change execFlitReceive p bs s = _
  unfold execFlitReceive
  dsimp only
  rw [if_neg (by simp [hlen]), if_neg (by simp [hon, hup])]
  split
  · rfl
  · next hsome => exact nomatch hread.symm.trans hsome

theorem exec_flitReceive_decoded {h : Nat} {v : Line} {fixed : List Nat} (hread : flitRead bs = some (h, v, fixed)) :
    exec (.flitReceive p bs) s =
      .next ((((s.modPort p.val (fun x => x.countLanes fixed)).fecCorrected p.val fixed).flitIn p.val h v).laneCheck p.val) := by
  change execFlitReceive p bs s = _
  unfold execFlitReceive
  dsimp only
  rw [if_neg (by simp [hlen]), if_neg (by simp [hon, hup])]
  split
  · next hnone => exact nomatch hnone.symm.trans hread
  · next hsome =>
    obtain ⟨rfl, rfl, rfl⟩ : _ ∧ _ ∧ _ := by simpa using hread.symm.trans hsome
    rfl

theorem exec_flitReceive_refuses (hread : flitRead bs = none) : ∃ t, exec (.flitReceive p bs) s = .next t ∧ t = { s with link := t.link } ∧
    t.port p.val = { (s.port p.val).countLanes [] with nakDue := some (s.port p.val).expected } :=
  ⟨_, exec_flitReceive_undecoded hlen hon hup hread, rfl, State.port_modPort_same _ _ _⟩

/-- A flit that decodes: the port receives it, after its lanes have been counted and before they are checked. -/
theorem exec_flitReceive_receives {h : Nat} {v : Line} {fixed : List Nat} (hread : flitRead bs = some (h, v, fixed)) (ht : bits h 2 0 ≤ 4) :
    ∃ t, exec (.flitReceive p bs) s = .next t ∧ Carries s t ∧
      ∃ st f e, t.port p.val = { ((s.port p.val).countLanes fixed).receive h v with state := st, failing := f, egress := e } := by
  refine ⟨_, exec_flitReceive_decoded hlen hon hup hread, ?_⟩
  generalize hu : (s.modPort p.val (fun x => x.countLanes fixed)).fecCorrected p.val fixed = u
  obtain ⟨r, q, j, hfec⟩ := (s.modPort p.val (fun x => x.countLanes fixed)).fecCorrected_eq p.val fixed
  have hlink : u.link = (s.modPort p.val (fun x => x.countLanes fixed)).link := by rw [← hu, hfec]
  have huport : u.port p.val = (s.port p.val).countLanes fixed := (State.port_of_link hlink _).trans (State.port_modPort_same s _ _)
  have hcarried : Carries s u := by
    rw [← hu, hfec]
    exact ⟨rfl, rfl, rfl, rfl⟩
  obtain ⟨x, hx⟩ := u.flitIn_receives p.val v ht
  have hlink' : (u.flitIn p.val h v).link = (u.setPort p.val ((u.port p.val).receive h v)).link := by rw [hx]
  have hin : (u.flitIn p.val h v).port p.val = (u.port p.val).receive h v :=
    (State.port_of_link hlink' _).trans (State.port_setPort_same u _ _)
  have hcarried' : Carries u (u.flitIn p.val h v) := by
    rw [hx]
    exact ⟨rfl, rfl, rfl, rfl⟩
  obtain ⟨hlanes, st, f, e, hport⟩ := (u.flitIn p.val h v).laneCheck_leaves p.val
  rw [hin, huport] at hport
  exact ⟨(hcarried.trans hcarried').trans hlanes, st, f, e, hport⟩

end

end Sys2Proof.Machine
end

section
/-! SUPPORT. Flits that leave a port, and their replay (R385 to R389). -/

namespace Sys2Proof.Machine

/-! ### A flit time (R389) -/

/-- A flit time changes tokens and the count of flit times alone. -/
theorem Port.tick_eq (x : Port) : ∃ n k, x.tick = { x with tokens := n, flitTimes := k } := by
  unfold tick
  split
  · exact ⟨_, _, rfl⟩
  · exact ⟨_, _, rfl⟩

/-- A port with nothing to send: a CTRL flit where one is due, otherwise an IDLE one. -/
def Port.rests (x : Port) : Port := if x.ctrlDue then x.putCtrl else x.put 0 false 0 0 0

theorem Port.rests_holds (x : Port) : x.rests.replay = x.replay ∧ x.rests.nextSeq = x.nextSeq ∧ x.rests.nakDue = none := by
  unfold rests
  split
  · exact ⟨rfl, rfl, rfl⟩
  · next hdue =>
    refine ⟨rfl, rfl, ?_⟩
    change x.nakDue = none
    unfold ctrlDue at hdue
    simp only [Bool.or_eq_true, not_or] at hdue
    simpa using hdue.1

/-! ### FLIT_TRANSMIT (R385, R388) -/

theorem State.ready?_empty (s : State) {x : Port} (h : x.egress = []) (c : Nat) : s.ready? x c = none := by
  unfold ready?
  rw [h]
  dsimp only
  split
  · rfl
  · split
    · rfl
    · rfl

theorem State.drr_empty (s : State) {x : Port} (h : x.egress = []) : s.drr x = none := by
  have hcan : [1, 2, 3].filter (fun c => (s.ready? x c).isSome) = [] := by
    rw [List.filter_eq_nil_iff]
    intro c _
    rw [s.ready?_empty h]
    simp
  unfold drr
  rw [hcan]
  rfl

section
variable {s : State} {p : Fin 18} (hon : s.alive = true) (hup : (s.port p.val).state = .up)
include hon hup

theorem exec_flitTransmit_up : ¬ ((!s.alive || (s.port p.val).tick.state != .up) = true) := by
  obtain ⟨n, k, hx⟩ := (s.port p.val).tick_eq
  rw [hx]
  simp [hon, hup]

/-- With nothing queued and nothing to be sent again the port rests. -/
theorem exec_flitTransmit_rests (hresend : (s.port p.val).resend = none) (hempty : (s.port p.val).egress = []) :
    exec (.flitTransmit p) s = .next (s.setPort p.val (s.port p.val).tick.rests) := by
  obtain ⟨n, k, hx⟩ := (s.port p.val).tick_eq
  have hagain : (s.port p.val).tick.resend = none := by rw [hx]; exact hresend
  have hegress : (s.port p.val).tick.egress = [] := by rw [hx]; exact hempty
  change execFlitTransmit p s = _
  unfold execFlitTransmit
  dsimp only
  rw [if_neg (exec_flitTransmit_up hon hup), hagain, s.ready?_empty hegress, s.drr_empty hegress]
  exact ite_self _

/-- A flit of class 0 that may be sent is sent for the first time, and counted. -/
theorem exec_flitTransmit_new (hresend : (s.port p.val).resend = none) {f : LinkFlit} (hf : s.ready? (s.port p.val).tick 0 = some f)
    (hroom : (s.port p.val).tick.replay.length < 512) : ∃ x mine, exec (.flitTransmit p) s =
      .next { s.setPort p.val (Port.sendNew { (s.port p.val).tick with resend := none } f mine) with tally := x } := by
  obtain ⟨n, k, hx⟩ := (s.port p.val).tick_eq
  have hagain : (s.port p.val).tick.resend = none := by rw [hx]; exact hresend
  change ∃ x mine, execFlitTransmit p s = _
  unfold execFlitTransmit
  dsimp only
  rw [if_neg (exec_flitTransmit_up hon hup), hagain, if_neg (by omega), hf]
  obtain ⟨x, hcount⟩ := State.flitCounted (s.setPort p.val (Port.sendNew { (s.port p.val).tick with resend := none } f
    (f.cls == 0 && bits f.payload.toNat 27 16 == s.self))) (blkXd (p.val / 9)) 0x10 (p.val % 9 + 16 * f.cls) (tlyBase + 0x1000 + 8 * p.val)
  exact ⟨x, _, congrArg Host.Outcome.next hcount⟩

/-- A held flit that is due again is sent again. -/
theorem exec_flitTransmit_again {q : Nat} {f : LinkFlit} (hresend : (s.port p.val).resend = some q)
    (hf : (s.port p.val).replay.find? (fun g => g.seq == q) = some f) : ∃ x r c, exec (.flitTransmit p) s =
      .next { s.setPort p.val ((s.port p.val).tick.sendAgain f) with tally := x, regs := r, recent := c } := by
  obtain ⟨n, k, hx⟩ := (s.port p.val).tick_eq
  have hagain : (s.port p.val).tick.resend.bind (fun r => (s.port p.val).tick.replay.find? (fun g => g.seq == r)) = some f := by
    rw [hx]
    change (s.port p.val).resend.bind _ = some f
    rw [hresend]
    exact hf
  change ∃ x r c, execFlitTransmit p s = _
  unfold execFlitTransmit
  dsimp only
  rw [if_neg (exec_flitTransmit_up hon hup), hagain]
  obtain ⟨x, hcount⟩ := (s.setPort p.val ((s.port p.val).tick.sendAgain f)).count_eq (blkXd (p.val / 9)) 0x13 (p.val % 9) 1
  exact ⟨x, _, _, congrArg (fun u : State => Host.Outcome.next (u.countRf (portBase p.val + 8) 31 24 1)) hcount⟩

end

/-! ### NAK and the replay limit (R385, R386) -/

theorem exec_nak {s : State} {p : Fin 18} (q : BitVec 10) (hon : s.alive = true) (hup : (s.port p.val).state = .up) :
    ((∃ f ∈ (s.port p.val).replay, f.seq = q.toNat) → ∃ t, exec (.nak p q) s = .next t ∧ t = { s with link := t.link } ∧
      t.port p.val = { s.port p.val with resend := some q.toNat }) ∧
    ((∀ f ∈ (s.port p.val).replay, f.seq ≠ q.toNat) → exec (.nak p q) s = .next s) := by
  refine ⟨fun hheld => ⟨_, congrArg Host.Outcome.next (if_pos ?_), rfl, State.port_modPort_same _ _ _⟩,
    fun hnone => congrArg Host.Outcome.next (if_neg ?_)⟩
  · obtain ⟨f, hf, hq⟩ := hheld
    simpa [hon, hup] using ⟨f, hf, hq⟩
  · simpa [hon, hup] using hnone

theorem exec_replayLimit {s : State} {p : Fin 18} (hon : s.alive = true) (hup : (s.port p.val).state = .up) :
    ((∀ f ∈ (s.port p.val).replay, f.sends < 8) → ∀ ok, exec (.replayLimit p ok) s = .next s) ∧
    ((∃ f ∈ (s.port p.val).replay, 8 ≤ f.sends) →
      exec (.replayLimit p true) s = .next (s.setPort p.val { s.port p.val with
        replay := (s.port p.val).replay.map (fun f => { f with sends := 0 }), resend := (s.port p.val).replay.head?.map (·.seq) }) ∧
      exec (.replayLimit p false) s = .next (s.losePort p.val)) := by
  refine ⟨fun hbelow ok => congrArg Host.Outcome.next (if_pos ?_), fun hlimit => ?_⟩
  · have hany : (s.port p.val).replay.any (fun f => decide (8 ≤ f.sends)) = false :=
      List.any_eq_false.2 fun f hf => by simpa using hbelow f hf
    rw [hany, Bool.not_false, Bool.or_true]
  · have hany : (s.port p.val).replay.any (fun f => decide (8 ≤ f.sends)) = true := by simpa using hlimit
    have hmay : ¬ ((!s.alive || (s.port p.val).state != .up || !(s.port p.val).replay.any (fun f => decide (8 ≤ f.sends))) = true) := by
      rw [hany]
      simp [hon, hup]
    exact ⟨congrArg Host.Outcome.next ((if_neg hmay).trans (if_pos rfl)), congrArg Host.Outcome.next ((if_neg hmay).trans (if_neg (by simp)))⟩

theorem State.losePort_carries (s : State) (p : Nat) : Carries s (s.losePort p) := by
  rw [State.losePort_eq]
  generalize (s.port p).replay.filter (fun f => f.cls == 0) ++ Tab.read [] (s.port p).egress 0 = fs
  exact (Carries.setPort s p _).trans
    ((Reported.foldl (fun s f => Reported.rerouteHead p s f) fs (s.setPort p (s.port p).gone)).trans (.vlFault _ p 0 .depart 0)).carries

/-! ### The clauses of O41 -/

theorem Port.countLanes_holds (x : Port) (fixed : List Nat) : (x.countLanes fixed).replay = x.replay ∧
    (x.countLanes fixed).expected = x.expected ∧ (x.countLanes fixed).nakDue = x.nakDue ∧ (x.countLanes fixed).inbox = x.inbox ∧
    (x.countLanes fixed).partialMsg = x.partialMsg := ⟨rfl, rfl, rfl, rfl, rfl⟩

theorem flitReceive_clause {s : State} {p : Fin 18} {bs : List Byte} (hlen : bs.length = 272) (hon : s.alive = true)
    (hup : (s.port p.val).state = .up) {h : Nat} {v : Line} {fixed : List Nat} (hread : flitRead bs = some (h, v, fixed)) (ht : bits h 2 0 ≤ 4) :
    ∃ t, exec (.flitReceive p bs) s = .next t ∧
      t.mem = s.mem ∧ t.cores = s.cores ∧ t.rings = s.rings ∧ t.outer = s.outer ∧
      (t.port p.val).replay = (s.port p.val).replay.filter (fun f => decide (512 ≤ (bits h 25 16 + 1024 - f.seq) % 1024)) ∧
      (bits h 2 0 = 1 ∨ bits h 2 0 = 2 → bits h 15 6 = (s.port p.val).expected →
        (t.port p.val).expected = ((s.port p.val).expected + 1) % 1024 ∧ (t.port p.val).nakDue = (s.port p.val).nakDue) ∧
      (bits h 2 0 = 1 ∨ bits h 2 0 = 2 → bits h 15 6 ≠ (s.port p.val).expected →
        (t.port p.val).expected = (s.port p.val).expected ∧ (t.port p.val).nakDue = some (s.port p.val).expected ∧
        (t.port p.val).inbox = (s.port p.val).inbox ∧ (t.port p.val).partialMsg = (s.port p.val).partialMsg) ∧
      (bits h 2 0 = 1 → bits h 15 6 = (s.port p.val).expected → msgFlits v = 0 →
        Tab.read [] (t.port p.val).inbox (bits h 5 4) =
          Tab.read [] (s.port p.val).inbox (bits h 5 4) ++ [{ cls := bits h 5 4, head := v, data := [] }]) ∧
      (∀ m : Msg, bits h 2 0 = 2 → bits h 15 6 = (s.port p.val).expected →
        Tab.find? (s.port p.val).partialMsg (bits h 5 4) = some m → msgFlits m.head = m.data.length + 1 →
        Tab.read [] (t.port p.val).inbox (bits h 5 4) =
          Tab.read [] (s.port p.val).inbox (bits h 5 4) ++ [{ m with data := m.data ++ [(v, bit h 3)] }]) := by
  obtain ⟨t, hexec, hcarried, st, f, e, hport⟩ := exec_flitReceive_receives hlen hon hup hread ht
  refine ⟨t, hexec, hcarried.mem, hcarried.cores, hcarried.rings, hcarried.outer, ?_⟩
  rw [hport]
  obtain ⟨hreplay, hexpected, hnak, hinbox, hpartial⟩ := (s.port p.val).countLanes_holds fixed
  generalize (s.port p.val).countLanes fixed = x at hreplay hexpected hnak hinbox hpartial
  rw [← hreplay, ← hexpected, ← hnak, ← hinbox, ← hpartial]
  exact ⟨Port.receive_replay x v, Port.receive_expected x v, Port.receive_refused x v, Port.receive_head x v, fun m => Port.receive_last x v⟩

theorem flitTransmit_clause {s : State} {p : Fin 18} {x : Port} (hon : s.alive = true) (hup : (s.port p.val).state = .up)
    (hresend : (s.port p.val).resend = none) (hx : x = (s.port p.val).tick) :
    ((s.port p.val).egress = [] → exec (.flitTransmit p) s = .next (s.setPort p.val (if x.ctrlDue then x.putCtrl else x.put 0 false 0 0 0)) ∧
      (if x.ctrlDue then x.putCtrl else x.put 0 false 0 0 0).replay = (s.port p.val).replay ∧
      (if x.ctrlDue then x.putCtrl else x.put 0 false 0 0 0).nextSeq = (s.port p.val).nextSeq ∧
      (if x.ctrlDue then x.putCtrl else x.put 0 false 0 0 0).nakDue = none) ∧
    (∀ f, s.ready? x 0 = some f → f.cls = 0 → x.replay.length < 512 → ∃ t, exec (.flitTransmit p) s = .next t ∧
      t = { s with link := t.link, tally := t.tally } ∧
      (t.port p.val).replay = (s.port p.val).replay ++ [{ f with seq := (s.port p.val).nextSeq, sends := 1 }] ∧
      (t.port p.val).nextSeq = ((s.port p.val).nextSeq + 1) % 1024 ∧
      Tab.read 0 (t.port p.val).credits 0 = Tab.read 0 (s.port p.val).credits 0 - 1 ∧
      Tab.read [] (t.port p.val).egress 0 = (Tab.read [] (s.port p.val).egress 0).erase f) := by
  subst hx
  obtain ⟨n, k, htick⟩ := (s.port p.val).tick_eq
  obtain ⟨hreplay, hseq, hnak⟩ := (s.port p.val).tick.rests_holds
  refine ⟨fun hempty => ⟨exec_flitTransmit_rests hon hup hresend hempty, hreplay.trans (by rw [htick]), hseq.trans (by rw [htick]), hnak⟩,
    fun f hf hcls hroom => ?_⟩
  obtain ⟨y, mine, hexec⟩ := exec_flitTransmit_new hon hup hresend hf hroom
  generalize hz : Port.sendNew { (s.port p.val).tick with resend := none } f mine = z at hexec
  refine ⟨_, hexec, rfl, ?_⟩
  have hport : ({ s.setPort p.val z with tally := y } : State).port p.val = z := State.port_setPort_same s _ _
  rw [hport, ← hz, htick]
  refine ⟨rfl, rfl, ?_, ?_⟩
  · change Tab.read 0 (Tab.write 0 (s.port p.val).credits f.cls _) 0 = _
    rw [hcls]
    exact Tab.read_write_same _ _ _ _
  · change Tab.read [] (Tab.write [] (s.port p.val).egress f.cls _) 0 = _
    rw [hcls]
    exact Tab.read_write_same _ _ _ _

theorem flitAgain_clause {s : State} {p : Fin 18} {r : Nat} {f : LinkFlit} (hon : s.alive = true) (hup : (s.port p.val).state = .up)
    (hresend : (s.port p.val).resend = some r) (hf : (s.port p.val).replay.find? (fun g => g.seq == r) = some f) :
    ∃ t, exec (.flitTransmit p) s = .next t ∧ (t.port p.val).nextSeq = (s.port p.val).nextSeq ∧
      (t.port p.val).replay = (s.port p.val).replay.map (fun g => if g.seq = r then { g with sends := g.sends + 1 } else g) ∧
      (t.port p.val).resend = (if (s.port p.val).replay.any (fun g => g.seq == (r + 1) % 1024) then some ((r + 1) % 1024) else none) ∧
      (t.port p.val).egress = (s.port p.val).egress ∧ t.mem = s.mem ∧ t.outer = s.outer := by
  have hseq : f.seq = r := by simpa using List.find?_some hf
  obtain ⟨n, k, htick⟩ := (s.port p.val).tick_eq
  obtain ⟨x, q, c, hexec⟩ := exec_flitTransmit_again hon hup hresend hf
  generalize hz : (s.port p.val).tick.sendAgain f = z at hexec
  have hport : ({ s.setPort p.val z with tally := x, regs := q, recent := c } : State).port p.val = z := State.port_setPort_same s _ _
  refine ⟨_, hexec, ?_⟩
  rw [hport, ← hz, htick, ← hseq]
  exact ⟨rfl, rfl, rfl, rfl, rfl, rfl⟩

theorem replayLimit_clause {s : State} {p : Fin 18} (hon : s.alive = true) (hup : (s.port p.val).state = .up)
    (hlimit : ∃ f ∈ (s.port p.val).replay, 8 ≤ f.sends) :
    (∃ t, exec (.replayLimit p true) s = .next t ∧ t = { s with link := t.link } ∧ (∀ f ∈ (t.port p.val).replay, f.sends = 0) ∧
      (t.port p.val).resend = (s.port p.val).replay.head?.map (·.seq)) ∧
    ∃ t, exec (.replayLimit p false) s = .next t ∧ (t.port p.val).state = .down ∧ (t.port p.val).lost = true ∧ t.mem = s.mem ∧
      t.cores = s.cores ∧ t.outer = s.outer := by
  obtain ⟨hok, hfail⟩ := (exec_replayLimit hon hup).2 hlimit
  obtain ⟨hdown, hlost, -, hmem, hcores⟩ := s.losePort_frame p.val
  refine ⟨⟨_, hok, rfl, ?_⟩, ⟨_, hfail, hdown, hlost, hmem, hcores, (s.losePort_carries p.val).outer⟩⟩
  rw [State.port_setPort_same]
  refine ⟨fun f hf => ?_, rfl⟩
  obtain ⟨g, -, rfl⟩ := List.mem_map.1 hf
  rfl

/-- Settles O41: receipt, sending, and replay, each by its own law. -/
theorem flitsFlow : Obligations.FlitsFlow := by
  unfold Obligations.FlitsFlow
  exact ⟨fun p bs s => exec_flitReceive_length p s,
    fun p bs s hlen hon hup => ⟨exec_flitReceive_refuses hlen hon hup, fun h v fixed => flitReceive_clause hlen hon hup⟩,
    fun p s x hon hup hresend => flitTransmit_clause hon hup hresend,
    fun p s r f hon hup hresend => flitAgain_clause hon hup hresend,
    fun p q s hon hup => exec_nak q hon hup,
    fun p s hon hup => ⟨(exec_replayLimit hon hup).1, replayLimit_clause hon hup⟩⟩

end Sys2Proof.Machine
end

section
/-! SUPPORT. Requests of cores and stations at the Vault: the command, the ways, and what hints do (R271 to R277). -/

namespace Sys2Proof.Machine

/-! ### The command and the request that it serves (R271, R272, R280) -/

/-- The state in whose banks the bit errors of a list have come to stand. -/
def State.bankUpsets (s : State) (ups : List (Fin 4 × Fin 40 × Fin 524288 × Bool)) : State :=
  ups.foldl (fun s x => s.bankUpset x.1.val x.2.1.val x.2.2.1.val x.2.2.2) s

theorem State.bankUpset_frame (s : State) (d bank word : Nat) (double : Bool) :
    s.bankUpset d bank word double = { s with dies := (s.bankUpset d bank word double).dies } := by
  unfold bankUpset
  dsimp only
  split
  · rfl
  · split
    · rfl
    · rfl

theorem State.bankUpsets_frame (s : State) (ups : List (Fin 4 × Fin 40 × Fin 524288 × Bool)) :
    s.bankUpsets ups = { s with dies := (s.bankUpsets ups).dies } := by
  unfold bankUpsets
  induction ups generalizing s with
  | nil => rfl
  | cons x ups ih =>
    have hx := s.bankUpset_frame x.1.val x.2.1.val x.2.2.1.val x.2.2.2
    rw [List.foldl_cons, ih]
    generalize s.bankUpset x.1.val x.2.1.val x.2.2.1.val x.2.2.2 = t at hx
    rw [hx]

/-- The five commands, each with its kind of request and the state in which it serves it. -/
def vaultCommands (r : Requester) (ups : List (Fin 4 × Fin 40 × Fin 524288 × Bool)) (s : State) : List (LineKind × Instr × State) :=
  [(.read, .vaultRead r ups, s.bankUpsets ups), (.write, .vaultWrite r, s), (.add, .vaultAdd r, s), (.readClear, .vaultReadClear r, s),
   (.release, .vaultRelease r, s)]

/-- What each of them does, and how its state stands to the one before. -/
theorem vaultCommands_run {r : Requester} {ups : List (Fin 4 × Fin 40 × Fin 524288 × Bool)} {s : State} {x : LineKind × Instr × State}
    (hx : x ∈ vaultCommands r ups s) : exec x.2.1 s = .next (x.2.2.vaultRow r x.1) ∧ ∃ m, x.2.2 = { s with dies := m } := by
  unfold vaultCommands at hx
  simp only [List.mem_cons, List.not_mem_nil, or_false] at hx
  rcases hx with rfl | rfl | rfl | rfl | rfl
  · exact ⟨rfl, _, s.bankUpsets_frame ups⟩
  · exact ⟨rfl, _, rfl⟩
  · exact ⟨rfl, _, rfl⟩
  · exact ⟨rfl, _, rfl⟩
  · exact ⟨rfl, _, rfl⟩

theorem State.takeReq_kind {s : State} {r : Requester} {k : LineKind} {tier : Bool} {q : LineReq} {rest : List LineReq}
    (h : s.takeReq r k tier = some (q, rest)) : q.kind = k := by
  unfold takeReq at h
  dsimp only at h
  split at h
  · exact nomatch h
  · next i hi =>
    split at h
    · exact nomatch h
    · next q' hq' =>
      split at h
      · obtain ⟨rfl, -⟩ := Prod.mk.injEq .. ▸ Option.some.inj h
        obtain ⟨hlt, hmine, -⟩ := List.findIdx?_eq_some_iff_getElem.1 hi
        rw [List.getElem?_eq_getElem hlt] at hq'
        obtain rfl := Option.some.inj hq'
        simp only [Bool.and_eq_true, beq_iff_eq] at hmine
        exact hmine.1.2
      · exact nomatch h

theorem State.vaultRow_taken {s u : State} {r : Requester} {k : LineKind} {q : LineReq} {rest : List LineReq} (hon : s.alive = true)
    (htake : s.takeReq r k false = some (q, rest)) (hu : u = { s.at (s.arrival q) with mem := { s.mem with reqs := rest } }) :
    s.vaultRow r k = (u.serve q).getD s := by
  have hmem : (s.at (s.arrival q)).mem = s.mem := s.at_mem _
  unfold vaultRow
  rw [if_neg (by simp [hon]), htake]
  dsimp only
  rw [hmem, hu]

/-! ### Ways of a die (R274 to R277) -/

/-- What the operations on ways leave: all but the die and Tally. -/
structure WayKept (d : Nat) (s t : State) : Prop where
  frame : t = { s with dies := t.dies, tally := t.tally }
  others : sameBut t.dies s.dies [d]

theorem WayKept.refl (d : Nat) (s : State) : WayKept d s s := ⟨rfl, sameBut_refl _ _⟩

theorem WayKept.trans {d : Nat} {s t u : State} (h : WayKept d s t) (h' : WayKept d t u) : WayKept d s u where
  frame := by rw [h'.frame, h.frame]
  others := sameBut_trans h'.others h.others

theorem WayKept.tally (d : Nat) (s : State) (x : Tally) : WayKept d s { s with tally := x } := ⟨rfl, sameBut_refl _ _⟩

theorem WayKept.count (d : Nat) (s : State) (b ev unit v : Nat) : WayKept d s (s.count b ev unit v) := by
  obtain ⟨x, hx⟩ := s.count_eq b ev unit v
  rw [hx]
  exact .tally d s x

theorem WayKept.modDie (s : State) (d : Nat) (f : MemDie → MemDie) : WayKept d s (s.modDie d f) :=
  ⟨rfl, sameBut_write _ _ _ _ (List.mem_singleton.2 rfl)⟩

theorem WayKept.setWay (s : State) (d k : Nat) (w : VLine) : WayKept d s (s.setWay d k w) := .modDie s d _

theorem WayKept.touchWay (s : State) (d k : Nat) (w : VLine) : WayKept d s (s.touchWay d k w) :=
  WayKept.trans (t := s.modDie d (fun m => { m with clock := (s.die d).clock + 1 })) (.modDie s d _) (.setWay _ d k _)

theorem State.way_setWay (s : State) (d k : Nat) (w : VLine) : Tab.find? ((s.setWay d k w).die d).ways k = some w := by
  unfold setWay
  rw [State.die_modDie_same]
  exact Tab.find?_put_same _ _ _

theorem State.way_dropWay (s : State) (d k : Nat) : Tab.find? ((s.dropWay d k).die d).ways k = none := by
  unfold dropWay
  rw [State.die_modDie_same]
  exact Tab.find?_del_same _ _

theorem State.way_touchWay (s : State) (d k : Nat) (w : VLine) :
    Tab.find? ((s.touchWay d k w).die d).ways k = some { w with age := (s.die d).clock + 1 } := State.way_setWay _ d k _

/-- Ways of a set whose lines are kept. -/
def State.keptWays (s : State) (li : Nat) : Nat := countWhere (fun w => w.2.keep) ((s.die (lineDie li)).setWays (setOf li))

/-- KEEP may be set where it is already, and where fewer ways of the set are kept than the limit. -/
theorem State.mayKeep_eq (s : State) (li : Nat) (already : Bool) : ∃ x,
    s.mayKeep li already = (already || decide (s.keptWays li < s.keepLimit (lineDie li)), { s with tally := x }) := by
  unfold mayKeep
  dsimp only
  cases already with
  | true => exact ⟨_, rfl⟩
  | false =>
    change ∃ x, (if s.keepLimit (lineDie li) ≤ s.keptWays li then (false, s.count (blkMd (lineDie li)) 0x13 0x1FF 1) else (true, s)) = _
    split
    · next h =>
      obtain ⟨x, hx⟩ := s.count_eq (blkMd (lineDie li)) 0x13 0x1FF 1
      exact ⟨x, by rw [hx, decide_eq_false (by omega)]; rfl⟩
    · next h => exact ⟨s.tally, by rw [decide_eq_true (by omega)]; rfl⟩

theorem State.readWay_clean (s : State) (k : Nat) {w : VLine} (h : w.marks = []) : s.readWay k w = (w.data, w.poison, w, s) := by
  have hw : { w with marks := [] } = w := by rw [← h]
  unfold readWay
  rw [h]
  exact congrArg (fun y => (w.data, w.poison, y, s)) hw

/-! ### What hints do (R275) -/

/-- A way that is read, its hint not SPEND. -/
structure WayRead (s : State) (h : Hint) (w y : VLine) : Prop where
  line : y.line = w.line
  data : y.data = w.data
  dirty : y.dirty = w.dirty
  poison : y.poison = w.poison
  stream : h = .stream → y.keep = w.keep ∧ y.count = w.count
  keep : h = .keep → y.keep = (w.keep || decide (s.keptWays w.line < s.keepLimit (lineDie w.line)))

theorem State.readHint_way (s : State) {h : Hint} (k : Nat) (w : VLine) (hh : ∀ n, h ≠ .spend n) :
    WayKept (lineDie w.line) s (s.readHint h k w) ∧
    ∃ y, Tab.find? ((s.readHint h k w).die (lineDie w.line)).ways k = some y ∧ WayRead s h w y := by
  cases h with
  | stream => exact ⟨.touchWay s _ k w, _, s.way_touchWay _ k w, rfl, rfl, rfl, rfl, fun _ => ⟨rfl, rfl⟩, nofun⟩
  | keep =>
    obtain ⟨x, hx⟩ := s.mayKeep_eq w.line w.keep
    unfold readHint
    dsimp only
    rw [hx]
    exact ⟨(WayKept.tally _ s x).trans (.touchWay _ _ k _), _, State.way_touchWay _ _ k _, rfl, rfl, rfl, rfl, nofun, fun _ => rfl⟩
  | spend n => exact absurd rfl (hh n)

/-- A read whose hint is SPEND counts one down, and at the last drops the line. -/
theorem State.readHint_spend (s : State) (n k : Nat) (w : VLine) {c : Nat} (hc : c = (if w.count = 0 then n - 1 else w.count - 1)) :
    WayKept (lineDie w.line) s (s.readHint (.spend n) k w) ∧
    (c = 0 → Tab.find? ((s.readHint (.spend n) k w).die (lineDie w.line)).ways k = none) ∧
    (0 < c → ∃ y, Tab.find? ((s.readHint (.spend n) k w).die (lineDie w.line)).ways k = some y ∧ y.data = w.data ∧ y.count = c) := by
  unfold readHint
  dsimp only
  rw [← hc]
  split
  · next h0 =>
    refine ⟨(WayKept.modDie s _ _).trans (.count _ _ _ _ _ _), fun _ => ?_, fun h => absurd h0 (by omega)⟩
    obtain ⟨x, hx⟩ := (s.dropWay (lineDie w.line) k).count_eq (blkMd (lineDie w.line)) 0x14 0x1FF 1
    rw [hx]
    exact s.way_dropWay _ k
  · next h0 => exact ⟨.touchWay s _ k _, fun h => absurd h h0, fun _ => ⟨_, s.way_touchWay _ k _, rfl, rfl⟩⟩

/-- A way that is written. -/
structure WayWritten (s : State) (h : Hint) (w : VLine) (v : Line) (poison : Bool) (y : VLine) : Prop where
  line : y.line = w.line
  data : y.data = v
  dirty : y.dirty = true
  poison : y.poison = poison
  stream : h = .stream → y.keep = w.keep ∧ y.count = w.count
  keep : h = .keep → y.keep = (w.keep || decide (s.keptWays w.line < s.keepLimit (lineDie w.line)))
  spend : ∀ n, h = .spend n → y.count = n ∧ y.keep = w.keep

theorem State.writeHint_way (s : State) (h : Hint) (k : Nat) (w : VLine) (v : Line) (poison : Bool) :
    WayKept (lineDie w.line) s (s.writeHint h k w v poison) ∧
    ∃ y, Tab.find? ((s.writeHint h k w v poison).die (lineDie w.line)).ways k = some y ∧ WayWritten s h w v poison y := by
  cases h with
  | stream => exact ⟨.touchWay s _ k _, _, s.way_touchWay _ k _, rfl, rfl, rfl, rfl, fun _ => ⟨rfl, rfl⟩, nofun, nofun⟩
  | keep =>
    obtain ⟨x, hx⟩ := s.mayKeep_eq w.line w.keep
    unfold writeHint
    dsimp only
    rw [hx]
    exact ⟨(WayKept.tally _ s x).trans (.touchWay _ _ k _), _, State.way_touchWay _ _ k _, rfl, rfl, rfl, rfl, nofun, fun _ => rfl, nofun⟩
  | spend n =>
    refine ⟨.touchWay s _ k _, _, s.way_touchWay _ k _, rfl, rfl, rfl, rfl, nofun, nofun, fun m hm => ?_⟩
    obtain rfl := Hint.spend.inj hm
    exact ⟨rfl, rfl⟩

end Sys2Proof.Machine
end

section
/-! SUPPORT. Requests for lines that the Vault holds (R275). -/

namespace Sys2Proof.Machine

/-- What a request for a held line does: to the way, to the requester, and to nothing else. -/
structure Hits (kind : LineKind) (u t : State) (q : LineReq) (li k : Nat) (v : VLine) : Prop where
  frame : t = { u with rings := t.rings, cores := t.cores, dies := t.dies, regs := t.regs, tally := t.tally, recent := t.recent }
  others : sameBut t.dies u.dies [lineDie li]
  way : (∀ n, q.hint = .spend n → kind ≠ .read) → ∃ y, Tab.find? (t.die (lineDie li)).ways k = some y ∧ y.line = li ∧
    (kind = .read → y.data = v.data ∧ y.dirty = v.dirty ∧ y.poison = v.poison) ∧
    (kind = .write → y.data = q.data ∧ y.dirty = true ∧ y.poison = q.poison) ∧
    (kind = .add → y.data = addedLine v.data q.data ∧ y.dirty = true ∧ y.poison = (v.poison || q.poison)) ∧
    (kind = .readClear → y.data = 0 ∧ y.dirty = true ∧ y.poison = false) ∧
    (kind = .release → y = { v with keep := false }) ∧
    (kind = .add ∨ kind = .readClear ∨ (kind ≠ .release ∧ q.hint = .stream) → y.keep = v.keep ∧ y.count = v.count) ∧
    (kind = .read ∨ kind = .write → q.hint = .keep → y.keep = (v.keep || decide (u.keptWays li < u.keepLimit (lineDie li)))) ∧
    (∀ n, kind = .write → q.hint = .spend n → y.count = n ∧ y.keep = v.keep)
  spend : ∀ n c, kind = .read → q.hint = .spend n → c = (if v.count = 0 then n - 1 else v.count - 1) →
    (c = 0 → Tab.find? (t.die (lineDie li)).ways k = none) ∧
    (0 < c → ∃ y, Tab.find? (t.die (lineDie li)).ways k = some y ∧ y.data = v.data ∧ y.count = c)
  silent : kind ≠ .read → kind ≠ .readClear → t.cores = u.cores ∧ t.rings = u.rings
  store : ∀ n m a op, kind = .read ∨ kind = .readClear → q.dest = .store n m a op → t.rings = u.rings ∧
    (t.core n m).arriving = arrive { due := max u.edge (q.leave + u.vaultHit), addr := a, data := bytesOfNum 256 v.data.toNat,
                                     poison := v.poison } (u.core n m).arriving

/-! ### The line that a hit delivers (R273, R341) -/

theorem State.die_of_dies {s t : State} (h : s.dies = t.dies) (d : Nat) : s.die d = t.die d := by
  unfold die
  rw [h]

section
variable {d : Nat} {u a : State} (h : WayKept d u a)
include h

theorem WayKept.cores : a.cores = u.cores := by rw [h.frame]

theorem WayKept.rings : a.rings = u.rings := by rw [h.frame]

theorem WayKept.delivered (dest : Dest) (v : Line) (poison : Bool) (due : Nat) {t : State} (ht : t = a.deliver dest v poison due) :
    t = { u with rings := t.rings, cores := t.cores, dies := t.dies, regs := t.regs, tally := t.tally, recent := t.recent } ∧
    t.dies = a.dies ∧ sameBut t.dies u.dies [d] := by
  have hread := Delivered.deliver a dest v poison due
  rw [← ht] at hread
  refine ⟨?_, hread.dies, ?_⟩
  · rw [hread.frame, h.frame]
  · rw [hread.dies]
    exact h.others

theorem WayKept.arriving {n m adr op : Nat} {dest : Dest} (hdest : dest = .store n m adr op) (v : Line) (poison : Bool) (due : Nat) :
    (a.deliver dest v poison due).rings = u.rings ∧ ((a.deliver dest v poison due).core n m).arriving =
      arrive { due := due, addr := adr, data := bytesOfNum 256 v.toNat, poison := poison } (u.core n m).arriving := by
  subst hdest
  refine ⟨h.rings, (arriving_deliver a n m adr op v poison due).trans ?_⟩
  rw [State.core_of_cores h.cores]

end

/-! ### Each kind of request -/

section
variable (u : State) {q : LineReq} (k : Nat) {v : VLine}

theorem Hits.release (hq : q.kind = .release) : Hits .release u (u.hit q k v) q v.line k v := by
  have hhit : u.hit q k v = u.setWay (lineDie v.line) k { v with keep := false } := by
    unfold State.hit
    rw [hq]
  rw [hhit]
  have hway := u.way_setWay (lineDie v.line) k { v with keep := false }
  have hkept := WayKept.setWay u (lineDie v.line) k { v with keep := false }
  generalize u.setWay (lineDie v.line) k { v with keep := false } = t at hway hkept
  exact {
    frame := by rw [hkept.frame]
    others := hkept.others
    way _ := ⟨_, hway, rfl, nofun, nofun, nofun, nofun, fun _ => rfl, fun h => by simp at h, fun h => by simp at h, nofun⟩
    spend _ _ h := nomatch h
    silent _ _ := ⟨hkept.cores, hkept.rings⟩
    store _ _ _ _ h := by simp at h }

theorem Hits.write (hq : q.kind = .write) : Hits .write u (u.hit q k v) q v.line k v := by
  have hhit : u.hit q k v = u.writeHint q.hint k v q.data q.poison := by
    unfold State.hit
    rw [hq]
  rw [hhit]
  obtain ⟨hkept, y, hway, hy⟩ := u.writeHint_way q.hint k v q.data q.poison
  generalize u.writeHint q.hint k v q.data q.poison = t at hway hkept
  exact {
    frame := by rw [hkept.frame]
    others := hkept.others
    way _ := ⟨y, hway, hy.line, nofun, fun _ => ⟨hy.data, hy.dirty, hy.poison⟩, nofun, nofun, nofun,
      fun h => hy.stream (by simpa using h), fun _ => hy.keep, fun n _ => hy.spend n⟩
    spend _ _ h := nomatch h
    silent _ _ := ⟨hkept.cores, hkept.rings⟩
    store _ _ _ _ h := by simp at h }

theorem Hits.add (hmarks : v.marks = []) (hq : q.kind = .add) : Hits .add u (u.hit q k v) q v.line k v := by
  have hhit : u.hit q k v = u.writeHint .stream k v (addedLine v.data q.data) (v.poison || q.poison) := by
    unfold State.hit
    rw [hq]
    change u.hitAdd q k v = _
    unfold State.hitAdd
    rw [u.readWay_clean k hmarks]
  rw [hhit]
  obtain ⟨hkept, y, hway, hy⟩ := u.writeHint_way .stream k v (addedLine v.data q.data) (v.poison || q.poison)
  generalize u.writeHint .stream k v (addedLine v.data q.data) (v.poison || q.poison) = t at hway hkept
  exact {
    frame := by rw [hkept.frame]
    others := hkept.others
    way _ := ⟨y, hway, hy.line, nofun, nofun, fun _ => ⟨hy.data, hy.dirty, hy.poison⟩, nofun, nofun, fun _ => hy.stream rfl,
      fun h => by simp at h, nofun⟩
    spend _ _ h := nomatch h
    silent _ _ := ⟨hkept.cores, hkept.rings⟩
    store _ _ _ _ h := by simp at h }

theorem Hits.readClear (hmarks : v.marks = []) (hq : q.kind = .readClear) : Hits .readClear u (u.hit q k v) q v.line k v := by
  have hhit : u.hit q k v = (u.writeHint .stream k v 0 false).deliver q.dest v.data v.poison (u.hitDue q) := by
    unfold State.hit
    rw [hq]
    change u.hitReadClear q k v = _
    unfold State.hitReadClear
    rw [u.readWay_clean k hmarks]
  rw [hhit]
  obtain ⟨hkept, y, hway, hy⟩ := u.writeHint_way .stream k v 0 false
  obtain ⟨hframe, hdies, hothers⟩ := hkept.delivered q.dest v.data v.poison (u.hitDue q) rfl
  have hstore := fun n m a op (h : q.dest = .store n m a op) => hkept.arriving h v.data v.poison (u.hitDue q)
  exact {
    frame := hframe
    others := hothers
    way _ := ⟨y, by rw [State.die_of_dies hdies]; exact hway, hy.line, nofun, nofun, nofun, fun _ => ⟨hy.data, hy.dirty, hy.poison⟩, nofun,
      fun _ => hy.stream rfl, fun h => by simp at h, nofun⟩
    spend _ _ h := nomatch h
    silent _ h := absurd rfl h
    store n m a op _ h := hstore n m a op h }

theorem State.hit_read (hmarks : v.marks = []) (hq : q.kind = .read) :
    u.hit q k v = (u.readHint q.hint k v).deliver q.dest v.data v.poison (u.hitDue q) := by
  unfold State.hit
  rw [hq]
  change u.hitRead q k v = _
  unfold State.hitRead
  rw [u.readWay_clean k hmarks]

theorem Hits.read (hmarks : v.marks = []) (hq : q.kind = .read) : Hits .read u (u.hit q k v) q v.line k v := by
  rw [u.hit_read k hmarks hq]
  have hkept : WayKept (lineDie v.line) u (u.readHint q.hint k v) := by
    cases hh : q.hint with
    | stream => exact (u.readHint_way (h := .stream) k v nofun).1
    | keep => exact (u.readHint_way (h := .keep) k v nofun).1
    | spend n => exact (u.readHint_spend n k v rfl).1
  obtain ⟨hframe, hdies, hothers⟩ := hkept.delivered q.dest v.data v.poison (u.hitDue q) rfl
  have hstore := fun n m a op (h : q.dest = .store n m a op) => hkept.arriving h v.data v.poison (u.hitDue q)
  exact {
    frame := hframe
    others := hothers
    way hnot := by
      obtain ⟨-, y, hway, hy⟩ := u.readHint_way (h := q.hint) k v (fun n hn => hnot n hn rfl)
      exact ⟨y, by rw [State.die_of_dies hdies]; exact hway, hy.line, fun _ => ⟨hy.data, hy.dirty, hy.poison⟩, nofun, nofun, nofun, nofun,
        fun h => hy.stream (by simpa using h), fun _ => hy.keep, nofun⟩
    spend n c _ hn hc := by
      obtain ⟨-, hnone, hsome⟩ := u.readHint_spend n k v hc
      rw [State.die_of_dies hdies, hn]
      exact ⟨hnone, hsome⟩
    silent h := absurd rfl h
    store n m a op _ h := hstore n m a op h }

end

/-- A request of any kind for a held line. -/
theorem State.hit_hits (u : State) {q : LineReq} (k : Nat) {v : VLine} (hmarks : v.marks = []) :
    Hits q.kind u (u.hit q k v) q v.line k v := by
  generalize hq : q.kind = kind
  cases kind with
  | read => exact .read u k hmarks hq
  | write => exact .write u k hq
  | add => exact .add u k hmarks hq
  | readClear => exact .readClear u k hmarks hq
  | release => exact .release u k hq

theorem Hits.untallied {kind : LineKind} {u t : State} {x : Tally} {q : LineReq} {li k : Nat} {v : VLine}
    (h : Hits kind { u with tally := x } t q li k v) : Hits kind u t q li k v :=
  ⟨h.frame, h.others, h.way, h.spend, h.silent, h.store⟩

/-- A near-memory request that no HBM read holds back, of a line that the Vault holds. -/
theorem State.serveNear_held {u : State} {q : LineReq} {li k : Nat} {v : VLine} (hon : u.hbmOn (lineDie li) = true)
    (hfree : ∀ y ∈ (u.die (lineDie li)).queue, u.where_ y.req.addr ≠ .near li) (hheld : u.held? li = some (k, v)) :
    ∃ x, u.serveNear q li = some (State.hit { u with tally := x } q k v) := by
  have hany : (u.die (lineDie li)).queue.any (fun x => u.where_ x.req.addr == .near li) = false :=
    List.any_eq_false.2 fun y hy => by simpa using hfree y hy
  have htally : ∃ x, (if q.kind = .release then u else u.vltTally li true) = { u with tally := x } := by
    split
    · exact ⟨_, rfl⟩
    · unfold State.vltTally
      split
      · exact State.count_eq _ _ _ _ _
      · exact ⟨_, rfl⟩
  obtain ⟨x, hx⟩ := htally
  unfold serveNear
  dsimp only
  rw [if_neg (by simp [hon]), hany, if_neg (by simp), hheld]
  dsimp only
  rw [hx]
  exact ⟨x, rfl⟩

/-- The way that holds a line is a way of that line. -/
theorem State.held?_line {u : State} {li k : Nat} {v : VLine} (h : u.held? li = some (k, v)) : v.line = li := by
  unfold held? MemDie.way? at h
  split at h
  · simpa using List.find?_some h
  · exact nomatch h

end Sys2Proof.Machine
end

section
/-! SUPPORT. Requests for lines that the Vault does not hold, to scratchpad, and to addresses that it does not serve (R271, R275, R276, R283). -/

namespace Sys2Proof.Machine

/-! ### Near-memory requests that wait, and those of lines that are not held (R271, R275, R548) -/

theorem State.serve_near {u : State} {q : LineReq} {li : Nat} (h : u.where_ q.addr = .near li) : u.serve q = u.serveNear q li := by
  unfold serve
  rw [h]

theorem State.serveNear_waits {u : State} {q : LineReq} {li : Nat}
    (h : u.hbmOn (lineDie li) = false ∨ ∃ y ∈ (u.die (lineDie li)).queue, u.where_ y.req.addr = .near li) : u.serveNear q li = none := by
  unfold serveNear
  dsimp only
  split
  · rfl
  · next hon =>
    rcases h with hoff | ⟨y, hy, hli⟩
    · exact absurd hoff (by simpa using hon)
    · exact if_pos (List.any_eq_true.2 ⟨y, hy, by simp [hli]⟩)

theorem State.serveNear_missed {u : State} {q : LineReq} {li : Nat} (hon : u.hbmOn (lineDie li) = true)
    (hfree : ∀ y ∈ (u.die (lineDie li)).queue, u.where_ y.req.addr ≠ .near li) (hheld : u.held? li = none) :
    ∃ x, u.serveNear q li = State.miss { u with tally := x } q li ∧ (q.kind = .release → x = u.tally) := by
  have hany : (u.die (lineDie li)).queue.any (fun x => u.where_ x.req.addr == .near li) = false :=
    List.any_eq_false.2 fun y hy => by simpa using hfree y hy
  have htally : ∃ x, (if q.kind = .release then u else u.vltTally li false) = { u with tally := x } ∧ (q.kind = .release → x = u.tally) := by
    split
    · exact ⟨_, rfl, fun _ => rfl⟩
    · next hk =>
      unfold State.vltTally
      split
      · obtain ⟨x, hx⟩ := u.count_eq (blkMd (lineDie li)) 0x11 0x1FF 1
        exact ⟨x, hx, fun h => absurd h hk⟩
      · exact ⟨_, rfl, fun _ => rfl⟩
  obtain ⟨x, hx, hrelease⟩ := htally
  unfold serveNear
  dsimp only
  rw [if_neg (by simp [hon]), hany, if_neg (by simp), hheld]
  dsimp only
  rw [hx]
  exact ⟨x, rfl, hrelease⟩

/-- What a read that misses will allocate. -/
def State.allocOf (s : State) (q : LineReq) (li : Nat) : Fill? :=
  if q.kind = .read ∧ s.caching (lineDie li) = true then missAlloc q.hint else .none

/-- The state in which a read that misses waits in the queue of its pseudo-channel. -/
def State.queueRead (s : State) (q : LineReq) (li : Nat) : State :=
  s.modDie (lineDie li) (fun m => { m with queue := m.queue ++ [{ req := q, channel := lineChan li, alloc := s.allocOf q li }] })

theorem State.miss_reads (s : State) {q : LineReq} (li : Nat) (hq : q.kind = .read ∨ q.kind = .add ∨ q.kind = .readClear) :
    s.miss q li = if 128 ≤ s.channelLoad li then none else some (s.queueRead q li) := by
  unfold miss queueRead allocOf
  rcases hq with h | h | h
  · rw [h]
    simp only [true_and]
  · rw [h]
    rfl
  · rw [h]
    rfl

theorem State.miss_write (s : State) {q : LineReq} (li : Nat) (hq : q.kind = .write) :
    s.miss q li = if (s.missWrites q.hint li).any (fun x => decide (128 ≤ s.channelLoad x)) = true then none
      else some (s.missWrite q.hint li q.data q.poison) := by
  unfold miss
  rw [hq]

theorem State.miss_release (s : State) {q : LineReq} (li : Nat) (hq : q.kind = .release) : s.miss q li = some s := by
  unfold miss
  rw [hq]

/-! ### A WRITE of a line that is not held (R275, R276) -/

/-- A line that is stored with its code: memory and Tally change. -/
theorem State.hbmWrite_eq (s : State) (li : Nat) (v : Line) (poison : Bool) :
    ∃ x, s.hbmWrite li v poison = { s with tally := x, mem := s.mem.putLine (s.steering li) li v poison } := by
  obtain ⟨x, hx⟩ := s.flitCounted (blkMd (lineDie li)) 0x19 (lineChan li) (tlyBase + 0x1100 + 8 * lineStack li + 4 * b2n true)
  have htally : s.hbmTally li true = { s with tally := x } := hx
  unfold hbmWrite
  rw [htally]
  exact ⟨x, rfl⟩

/-- A WRITE that does not allocate. -/
theorem State.missWrite_direct {s : State} {h : Hint} {li : Nat}
    (hd : h = .stream ∨ s.caching (lineDie li) = false ∨ s.victim li = none) (v : Line) (poison : Bool) :
    s.missWrites h li = some li ∧ ∃ x, s.missWrite h li v poison = { s with tally := x, mem := s.mem.putLine (s.steering li) li v poison } := by
  unfold missWrites missWrite
  dsimp only
  cases hc : s.caching (lineDie li) with
  | false => exact ⟨rfl, s.hbmWrite_eq li v poison⟩
  | true =>
    rw [hc] at hd
    cases h with
    | stream => exact ⟨rfl, s.hbmWrite_eq li v poison⟩
    | keep =>
      have hnone : s.victim li = none := by simpa using hd
      obtain ⟨x, hx⟩ := s.mayKeep_eq li false
      obtain ⟨y, hy⟩ := State.hbmWrite_eq { s with tally := x } li v poison
      have hvictim : State.victim { s with tally := x } li = none := hnone
      rw [hnone, hx]
      refine ⟨rfl, y, ?_⟩
      unfold allocate
      dsimp only
      rw [hvictim]
      exact hy
    | spend n =>
      have hnone : s.victim li = none := by simpa using hd
      rw [hnone]
      refine ⟨rfl, ?_⟩
      unfold allocate
      dsimp only
      rw [hnone]
      exact s.hbmWrite_eq li v poison

/-- What an allocation leaves: the line in the victim’s way, and the line that was there written back where it was dirty. -/
structure Allocates (s t : State) (w : VLine) (slot : Nat) (old : Option VLine) : Prop where
  frame : t = { s with mem := t.mem, dies := t.dies, tally := t.tally }
  others : sameBut t.dies s.dies [lineDie w.line]
  way : ∃ n, Tab.find? (t.die (lineDie w.line)).ways (38 * setOf w.line + slot) = some { w with age := n }
  back : ∀ v, old = some v → v.dirty = true → t.mem = s.mem.putLine (s.steering v.line) v.line v.data (v.poison || v.marks.any (·.2))
  clean : (∀ v, old = some v → v.dirty = false) → t.mem = s.mem

theorem Allocates.touchWay (s : State) (w : VLine) (slot : Nat) {old : Option VLine} {x : Tally} {m : Memories}
    (hback : ∀ v, old = some v → v.dirty = true → m = s.mem.putLine (s.steering v.line) v.line v.data (v.poison || v.marks.any (·.2)))
    (hclean : (∀ v, old = some v → v.dirty = false) → m = s.mem) :
    Allocates s (State.touchWay { s with tally := x, mem := m } (lineDie w.line) (38 * setOf w.line + slot) w) w slot old := by
  have hkept := WayKept.touchWay { s with tally := x, mem := m } (lineDie w.line) (38 * setOf w.line + slot) w
  exact {
    frame := by rw [hkept.frame]
    others := hkept.others
    way := ⟨_, State.way_touchWay _ _ _ w⟩
    back := hback
    clean := hclean }

theorem State.allocate_some {s : State} {w : VLine} {slot : Nat} {old : Option VLine} (h : s.victim w.line = some (slot, old)) :
    ∃ t, s.allocate w = some t ∧ Allocates s t w slot old := by
  unfold allocate
  dsimp only
  rw [h]
  cases old with
  | none => exact ⟨_, rfl, .touchWay s w slot (x := s.tally) (m := s.mem) (fun _ hv => absurd hv (by simp)) (fun _ => rfl)⟩
  | some v =>
    dsimp only
    cases hd : v.dirty with
    | false =>
      refine ⟨_, rfl, .touchWay s w slot (x := s.tally) (m := s.mem) (fun v' hv hdirty => ?_) (fun _ => rfl)⟩
      rw [← Option.some.inj hv, hd] at hdirty
      exact nomatch hdirty
    | true =>
      rw [if_pos rfl, s.writeBack_frame]
      refine ⟨_, rfl, .touchWay s w slot (fun v' hv _ => ?_) (fun hclean => ?_)⟩
      · rw [← Option.some.inj hv]
      · have hfalse := hclean v rfl
        rw [hd] at hfalse
        exact nomatch hfalse

/-- A line that is written into a way that it is allocated. -/
def VLine.written (li : Nat) (v : Line) (keep : Bool) (n : Nat) (poison : Bool) : VLine :=
  { line := li, data := v, dirty := true, keep := keep, count := n, age := 0, poison := poison, marks := [] }

/-- The line that a WRITE puts into a way. -/
structure LineWritten (h : Hint) (li : Nat) (v : Line) (poison : Bool) (w : VLine) : Prop where
  line : w.line = li
  data : w.data = v
  dirty : w.dirty = true
  poison : w.poison = poison
  spend : ∀ n, h = .spend n → w.count = n ∧ w.keep = false

theorem Allocates.untallied {s t : State} {x : Tally} {w : VLine} {slot : Nat} {old : Option VLine}
    (h : Allocates { s with tally := x } t w slot old) : Allocates s t w slot old := ⟨h.frame, h.others, h.way, h.back, h.clean⟩

/-- A WRITE that allocates. -/
theorem State.missWrite_allocates {s : State} {h : Hint} {li slot : Nat} {old : Option VLine} (hh : h ≠ .stream)
    (hc : s.caching (lineDie li) = true) (hv : s.victim li = some (slot, old)) (v : Line) (poison : Bool) :
    ∃ w, Allocates s (s.missWrite h li v poison) w slot old ∧ LineWritten h li v poison w := by
  unfold missWrite
  dsimp only
  rw [hc]
  cases h with
  | stream => exact absurd rfl hh
  | keep =>
    obtain ⟨x, hx⟩ := s.mayKeep_eq li false
    rw [hx]
    generalize (false || decide (s.keptWays li < s.keepLimit (lineDie li))) = b
    have hvictim : State.victim { s with tally := x } (VLine.written li v b 0 poison).line = some (slot, old) := hv
    obtain ⟨t, ht, hall⟩ := State.allocate_some hvictim
    refine ⟨.written li v b 0 poison, ?_, rfl, rfl, rfl, rfl, nofun⟩
    rw [if_neg (by simp)]
    exact (congrArg (fun o => Allocates s (Option.getD o _) _ slot old) ht).mpr hall.untallied
  | spend n =>
    have hvictim : s.victim (VLine.written li v false n poison).line = some (slot, old) := hv
    obtain ⟨t, ht, hall⟩ := State.allocate_some hvictim
    refine ⟨.written li v false n poison, ?_, rfl, rfl, rfl, rfl, fun m hm => ⟨Hint.spend.inj hm, rfl⟩⟩
    rw [if_neg (by simp)]
    exact (congrArg (fun o => Allocates s (Option.getD o _) _ slot old) ht).mpr hall

/-- The lines that such a WRITE writes to HBM at once: a dirty victim. -/
theorem State.missWrites_allocates {s : State} {h : Hint} {li slot : Nat} {old : Option VLine} (hh : h ≠ .stream)
    (hc : s.caching (lineDie li) = true) (hv : s.victim li = some (slot, old)) {n : Nat}
    (hroom : ∀ v, old = some v → v.dirty = true → s.channelLoad v.line < n) :
    (s.missWrites h li).any (fun x => decide (n ≤ s.channelLoad x)) = false := by
  unfold missWrites
  rw [hc, hv, if_neg (by simpa using hh)]
  cases old with
  | none => rfl
  | some v =>
    dsimp only
    cases hd : v.dirty with
    | false => rfl
    | true => exact decide_eq_false (Nat.not_le.2 (hroom v rfl hd))

end Sys2Proof.Machine
end

section
/-! SUPPORT. What the commands of the Vault do with the request that they take (R271 to R286). -/

namespace Sys2Proof.Machine

section
variable {r : Requester} {ups : List (Fin 4 × Fin 40 × Fin 524288 × Bool)} {s : State} {x : LineKind × Instr × State} {u : State}
  {q : LineReq} {rest : List LineReq}

/-- The request that a command takes is served at its die, or left. -/
theorem vaultCommands_serve (hx : x ∈ vaultCommands r ups s) (hon : s.alive = true) (htake : x.2.2.takeReq r x.1 false = some (q, rest))
    (hu : u = { x.2.2.at (x.2.2.arrival q) with mem := { s.mem with reqs := rest } }) :
    exec x.2.1 s = .next ((u.serve q).getD x.2.2) ∧ q.kind = x.1 ∧ u.outer = s.outer := by
  obtain ⟨hexec, m, hm⟩ := vaultCommands_run hx
  have hmem : x.2.2.mem = s.mem := by rw [hm]
  have halive : x.2.2.alive = true := by
    rw [hm]
    exact hon
  have houter : (x.2.2.at (x.2.2.arrival q)).outer = s.outer := by
    rw [State.at_outer, hm]
    rfl
  refine ⟨hexec.trans (congrArg _ (State.vaultRow_taken halive htake (by rw [hmem]; exact hu))), State.takeReq_kind htake, ?_⟩
  rw [hu]
  exact houter

/-- A request for a line that is held. -/
theorem vaultCommands_hit (hx : x ∈ vaultCommands r ups s) (hon : s.alive = true) (htake : x.2.2.takeReq r x.1 false = some (q, rest))
    (hu : u = { x.2.2.at (x.2.2.arrival q) with mem := { s.mem with reqs := rest } }) {li k : Nat} {v : VLine}
    (hwhere : u.where_ q.addr = .near li) (hhbm : u.hbmOn (lineDie li) = true)
    (hfree : ∀ y ∈ (u.die (lineDie li)).queue, u.where_ y.req.addr ≠ .near li) (hheld : u.held? li = some (k, v)) (hmarks : v.marks = []) :
    ∃ t, exec x.2.1 s = .next t ∧ Hits x.1 u t q li k v := by
  obtain ⟨hexec, hkind, -⟩ := vaultCommands_serve hx hon htake hu
  obtain ⟨y, hserve⟩ := State.serveNear_held hhbm hfree hheld
  obtain rfl := State.held?_line hheld
  refine ⟨State.hit { u with tally := y } q k v, ?_, ?_⟩
  · rw [hexec, State.serve_near hwhere, hserve]
    rfl
  · rw [← hkind]
    exact (State.hit_hits { u with tally := y } k hmarks).untallied

end

/-! ### Near-memory requests of lines that are not held -/

section
variable {u s0 : State} {q : LineReq} {li : Nat} (hwhere : u.where_ q.addr = .near li)
include hwhere

theorem serve_waits
    (h : u.hbmOn (lineDie li) = false ∨ (∃ y ∈ (u.die (lineDie li)).queue, u.where_ y.req.addr = .near li) ∨
      (u.held? li = none ∧ q.kind ≠ .release ∧ (q.kind = .write → (q.hint = .stream ∨ u.caching (lineDie li) = false)) ∧
        128 ≤ u.channelLoad li)) : u.serve q = none := by
  rw [State.serve_near hwhere]
  by_cases hwait : u.hbmOn (lineDie li) = false ∨ ∃ y ∈ (u.die (lineDie li)).queue, u.where_ y.req.addr = .near li
  · exact State.serveNear_waits hwait
  · obtain ⟨hheld, hkind, hwrite, hfull⟩ := (h.resolve_left fun h => hwait (.inl h)).resolve_left fun h => hwait (.inr h)
    obtain ⟨x, hx, -⟩ := State.serveNear_missed (u := u) (q := q) (by simpa using fun h => hwait (.inl h))
      (fun y hy hli => hwait (.inr ⟨y, hy, hli⟩)) hheld
    rw [hx]
    have hload : 128 ≤ State.channelLoad { u with tally := x } li := hfull
    by_cases hw : q.kind = .write
    · rw [State.miss_write _ _ hw, (State.missWrite_direct (s := { u with tally := x }) ((hwrite hw).imp_right .inl) q.data q.poison).1]
      exact if_pos (decide_eq_true hload)
    · have hread : q.kind = .read ∨ q.kind = .add ∨ q.kind = .readClear := by
        cases hq : q.kind <;> simp_all
      rw [State.miss_reads _ _ hread]
      exact if_pos hload

variable (hon : u.hbmOn (lineDie li) = true) (hfree : ∀ y ∈ (u.die (lineDie li)).queue, u.where_ y.req.addr ≠ .near li)
  (hheld : u.held? li = none)
include hon hfree hheld

theorem serve_queues (hq : q.kind = .read ∨ q.kind = .add ∨ q.kind = .readClear) (hroom : u.channelLoad li < 128) :
    ∃ x, u.serve q = some (State.queueRead { u with tally := x } q li) := by
  obtain ⟨x, hx, -⟩ := State.serveNear_missed hon hfree hheld
  rw [State.serve_near hwhere, hx, State.miss_reads _ _ hq]
  exact ⟨x, if_neg (Nat.not_le.2 hroom)⟩

theorem serve_stores (hq : q.kind = .write) (hd : q.hint = .stream ∨ u.caching (lineDie li) = false ∨ u.victim li = none)
    (hroom : u.channelLoad li < 128) :
    ∃ x, u.serve q = some { u with tally := x, mem := u.mem.putLine (u.steering li) li q.data q.poison } := by
  obtain ⟨x, hx, -⟩ := State.serveNear_missed hon hfree hheld
  obtain ⟨hwrites, y, hy⟩ := State.missWrite_direct (s := { u with tally := x }) hd q.data q.poison
  have hload : ¬ 128 ≤ State.channelLoad { u with tally := x } li := Nat.not_le.2 hroom
  rw [State.serve_near hwhere, hx, State.miss_write _ _ hq, hwrites, hy]
  exact ⟨y, if_neg (by simpa using hload)⟩

theorem serve_allocates {slot : Nat} {old : Option VLine} (hq : q.kind = .write) (hh : q.hint ≠ .stream) (hc : u.caching (lineDie li) = true)
    (hv : u.victim li = some (slot, old)) (hroom : ∀ v, old = some v → v.dirty = true → u.channelLoad v.line < 128) :
    ∃ t w, u.serve q = some t ∧ Allocates u t w slot old ∧ LineWritten q.hint li q.data q.poison w := by
  obtain ⟨x, hx, -⟩ := State.serveNear_missed hon hfree hheld
  obtain ⟨w, hall, hw⟩ := State.missWrite_allocates (s := { u with tally := x }) hh hc hv q.data q.poison
  have hwrites := State.missWrites_allocates (s := { u with tally := x }) hh hc hv hroom
  rw [State.serve_near hwhere, hx, State.miss_write _ _ hq, hwrites]
  exact ⟨_, w, if_neg (by simp), hall.untallied, hw⟩

theorem serve_releases (hq : q.kind = .release) : u.serve q = some u := by
  obtain ⟨x, hx, hrelease⟩ := State.serveNear_missed hon hfree hheld
  rw [State.serve_near hwhere, hx, State.miss_release _ _ hq, hrelease hq]

end

/-! ### Scratchpad (R271, R282, R283) -/

/-- A line of scratchpad without error marks that is read. -/
theorem State.scratchRead_clean {u : State} {n : Nat} (hmarks : (u.die n).scratchMarks = []) (g o a : Nat) :
    u.scratchRead n g o a =
    ((u.die n).scratch.line (2 ^ 20 * g + o / 256 * 256), (u.die n).scratchPoison.contains ((2 ^ 20 * g + o / 256 * 256) / 256), u) := by
  unfold scratchRead
  dsimp only
  rw [hmarks]
  rfl

section
variable {u : State} {q : LineReq} {n g o : Nat} (hwhere : u.where_ q.addr = .scratch n g o)
include hwhere

theorem serve_scratch : u.serve q = some (u.serveScratch q n g o) := by
  unfold State.serve
  rw [hwhere]

theorem serveScratch_release (hq : q.kind = .release) : u.serve q = some u := by
  rw [serve_scratch hwhere]
  unfold State.serveScratch
  rw [hq]

theorem serveScratch_write (hq : q.kind = .write) (hup : u.scratchUp n g = true) :
    u.serve q = some (u.scratchWrite n g o q.data q.poison) := by
  rw [serve_scratch hwhere]
  unfold State.serveScratch
  rw [hq]
  exact congrArg some (if_pos hup)

theorem serveScratch_read (hq : q.kind = .read) (hup : u.scratchUp n g = true) (hmarks : (u.die n).scratchMarks = []) :
    u.serve q = some (u.deliver q.dest ((u.die n).scratch.line (2 ^ 20 * g + o / 256 * 256))
      ((u.die n).scratchPoison.contains ((2 ^ 20 * g + o / 256 * 256) / 256)) (u.hitDue q)) := by
  rw [serve_scratch hwhere]
  unfold State.serveScratch
  rw [hq]
  dsimp only
  rw [if_pos hup, State.scratchRead_clean hmarks]

/-- What a request that scratchpad does not serve leaves: its fault, and a poisoned line for a read. -/
theorem serveScratch_faults {b : Nat} (hq : (q.kind = .read ∨ q.kind = .write) ∧ u.scratchUp n g = false ∧ b = 2 ∨
      (q.kind = .add ∨ q.kind = .readClear) ∧ b = 7) : ∃ t, u.serve q = some t ∧
    bit (t.reg (vltBase n + 0xC)).toNat b = true ∧ t.dies = u.dies ∧ t.mem = u.mem ∧ t.outer = u.outer := by
  have hb : b < 32 := by omega
  obtain ⟨hbit, hmem, -, -, hdies, houter⟩ := u.vltFault_frame (d := n) hb q.addr
  have hread := Delivered.deliver (u.vltFault n b q.addr) q.dest 0 true (u.hitDue q)
  have hpoisoned : bit (((u.vltFault n b q.addr).deliver q.dest 0 true (u.hitDue q)).reg (vltBase n + 0xC)).toNat b = true ∧
      ((u.vltFault n b q.addr).deliver q.dest 0 true (u.hitDue q)).dies = u.dies ∧
      ((u.vltFault n b q.addr).deliver q.dest 0 true (u.hitDue q)).mem = u.mem ∧
      ((u.vltFault n b q.addr).deliver q.dest 0 true (u.hitDue q)).outer = u.outer := by
    refine ⟨?_, hread.dies.trans hdies, hread.mem.trans hmem, by rw [State.deliver_outer]; exact houter⟩
    rw [hread.reg _ (fun d _ h => by unfold vltBase at h; omega)]
    exact hbit
  rw [serve_scratch hwhere]
  unfold State.serveScratch
  rcases hq with ⟨hq, hdown, rfl⟩ | ⟨hq, rfl⟩
  · have hnot : ¬ u.scratchUp n g = true := by simp [hdown]
    rcases hq with hq | hq
    · rw [hq]
      exact ⟨_, congrArg some (if_neg hnot), hpoisoned⟩
    · rw [hq]
      exact ⟨_, congrArg some (if_neg hnot), hbit, hdies, hmem, houter⟩
  · rcases hq with hq | hq
    · rw [hq]
      exact ⟨_, rfl, hbit, hdies, hmem, houter⟩
    · rw [hq]
      exact ⟨_, rfl, hpoisoned⟩

end

/-! ### Tier addresses, and addresses where no memory is (R259, R286) -/

theorem serve_tier {u : State} {q : LineReq} {o : Nat} (hwhere : u.where_ q.addr = .tier o) :
    (q.kind = .release → u.serve q = some u) ∧ (q.kind ≠ .release → u.serve q = some (u.refuse q 7)) := by
  unfold State.serve
  rw [hwhere]
  exact ⟨fun hq => congrArg some (if_pos hq), fun hq => congrArg some (if_neg hq)⟩

theorem serve_unmapped {u : State} {q : LineReq} (hwhere : u.where_ q.addr = .unmapped) : u.serve q = some (u.refuse q 4) := by
  unfold State.serve
  rw [hwhere]

/-- Settles O29: the request that a command takes, by where its line is. -/
theorem vaultRequests : Obligations.VaultRequests := by
  unfold Obligations.VaultRequests
  refine ⟨fun r ups s x hx u q rest li k v hon htake hu hwhere hhbm hfree hheld hmarks => ?_,
    fun r ups s x hx u q rest hon htake hu => ?_⟩
  · obtain ⟨t, hexec, h⟩ := vaultCommands_hit (r := r) (ups := ups) hx hon htake hu hwhere hhbm hfree hheld hmarks
    exact ⟨t, hexec, h.frame, h.others, h.way, h.spend, h.silent, h.store⟩
  · obtain ⟨hexec, hkind, houter⟩ := vaultCommands_serve (r := r) (ups := ups) hx hon htake hu
    have hserved : ∀ t, u.serve q = some t → exec x.2.1 s = .next t := fun t h => by
      rw [hexec, h]
      rfl
    rw [← hkind, ← houter]
    refine ⟨fun li hwhere => ⟨fun hwait => ?_, fun hhbm hfree hheld => ⟨fun hq hroom => ?_, fun hq hd hroom => ?_,
      fun slot old hq hh hc hv hroom => ?_, fun hq => hserved _ (serve_releases hwhere hhbm hfree hheld hq)⟩⟩, fun n g o hwhere => ⟨fun hq =>
        hserved _ (serveScratch_release hwhere hq), fun hq hup => ?_, fun m l a op hq hup hmarks hdest => ?_, fun hq hdown => ?_, fun hq => ?_⟩,
      fun o hwhere => ⟨fun hq => hserved _ ((serve_tier hwhere).1 hq), fun hq => ?_⟩, fun hwhere => ?_⟩
    · rw [hexec, serve_waits hwhere hwait]
      rfl
    · obtain ⟨y, hserve⟩ := serve_queues hwhere hhbm hfree hheld hq hroom
      exact ⟨_, hserved _ hserve, rfl, sameBut_write _ _ _ _ (List.mem_singleton.2 rfl), State.die_modDie_same _ _ _⟩
    · obtain ⟨y, hserve⟩ := serve_stores hwhere hhbm hfree hheld hq hd hroom
      exact ⟨_, hserved _ hserve, rfl, rfl⟩
    · obtain ⟨t, w, hserve, hall, hw⟩ := serve_allocates hwhere hhbm hfree hheld hq hh hc hv hroom
      obtain ⟨age, hway⟩ := hall.way
      have hothers := hall.others
      rw [hw.line] at hway hothers
      exact ⟨t, _, hserved _ hserve, hall.frame, hothers, hway, rfl, hw.data, hw.dirty, hw.poison, hw.spend, hall.back, hall.clean⟩
    · refine ⟨_, hserved _ (serveScratch_write hwhere hq hup), rfl, sameBut_write _ _ _ _ (List.mem_singleton.2 rfl), ?_⟩
      unfold State.scratchWrite
      rw [State.die_modDie_same]
    · refine ⟨_, hserved _ (serveScratch_read hwhere hq hup hmarks), ?_, ?_, ?_⟩
      · rw [hdest]
        rfl
      · rw [hdest]
        exact sameBut_write _ _ _ _ (List.mem_singleton.2 rfl)
      · rw [hdest]
        exact arriving_deliver u m l a op _ _ _
    · obtain ⟨t, hserve, h⟩ := serveScratch_faults (b := 2) hwhere (.inl ⟨hq, hdown, rfl⟩)
      exact ⟨t, hserved _ hserve, h⟩
    · obtain ⟨t, hserve, h⟩ := serveScratch_faults (b := 7) hwhere (.inr ⟨hq, rfl⟩)
      exact ⟨t, hserved _ hserve, h⟩
    · obtain ⟨hbit, hmem, hdies, houter'⟩ := u.refuse_frame q (b := 7) (by omega)
      exact ⟨_, hserved _ ((serve_tier hwhere).2 (by rcases hq with h | h <;> simp [h])), hbit, hdies, hmem, houter'⟩
    · obtain ⟨hbit, hmem, hdies, houter'⟩ := u.refuse_frame q (b := 4) (by omega)
      exact ⟨_, hserved _ (serve_unmapped hwhere), hbit, hdies, hmem, houter'⟩

end Sys2Proof.Machine
end

section
/-! SUPPORT. The Depository: slices and their caches, faults, and what follows an event where nothing waits (R297 to R313). -/

namespace Sys2Proof.Machine

/-! ### Slices -/

theorem State.slice_modSlice_same (s : State) (d : Nat) (f : Slice → Slice) : (s.modSlice d f).slice d = f (s.slice d) := by
  unfold slice modSlice Depository.slice Depository.setSlice
  by_cases h0 : d = 0
  · simp only [h0, ↓reduceIte]
  by_cases h1 : d = 1
  · simp only [h1, ↓reduceIte, Nat.one_ne_zero]
  by_cases h2 : d = 2
  · simp only [h2, ↓reduceIte, OfNat.ofNat_ne_zero, OfNat.ofNat_ne_one]
  · simp only [h0, h1, h2, ↓reduceIte]

theorem State.slice_of_dep {s t : State} (h : s.dep = t.dep) (d : Nat) : s.slice d = t.slice d := congrArg (fun x : Depository => x.slice d) h

/-- A slice that an operation leaves as it is. -/
theorem State.modSlice_fixed {s : State} {d : Nat} {f : Slice → Slice} (h : f (s.slice d) = s.slice d) : s.modSlice d f = s := by
  have hset : s.dep.setSlice d (s.dep.slice d) = s.dep := by
    unfold Depository.setSlice Depository.slice
    by_cases h0 : d = 0
    · simp only [h0, ↓reduceIte]
    by_cases h1 : d = 1
    · simp only [h1, ↓reduceIte, Nat.one_ne_zero]
    by_cases h2 : d = 2
    · simp only [h2, ↓reduceIte, OfNat.ofNat_ne_zero, OfNat.ofNat_ne_one]
    · simp only [h0, h1, h2, ↓reduceIte]
  have hdep : s.dep.setSlice d (f (s.dep.slice d)) = s.dep := (congrArg (s.dep.setSlice d) h).trans hset
  unfold modSlice
  rw [hdep]

/-! ### Faults (R311) -/

/-- A fault of a slice: memory and the Depository stand, and of the registers only its fault word and those of links change. -/
theorem State.depFault_frame (s : State) (d b stream plane : Nat) : (s.depFault d b stream plane).dep = s.dep ∧
    (s.depFault d b stream plane).mem = s.mem ∧
    ∀ o, (∀ n, o ≠ vlBase n + 0xC) → (s.depFault d b stream plane).reg o = (s.orReg (depBase d + 0xC) (2 ^ b)).reg o := by
  unfold depFault
  extract_lets acts cls s1
  have hrep : Reported (s.orReg (depBase d + 0xC) (2 ^ b)) s1 := .report _ _
  have hdep : s1.dep = s.dep := by
    rw [hrep.frame]
    rfl
  have hmem : s1.mem = s.mem := by
    rw [hrep.frame]
    rfl
  split
  · exact ⟨hdep, hmem, fun o ho => hrep.reg ho⟩
  · exact ⟨hdep, hmem, fun o ho => hrep.reg ho⟩

theorem State.bit_depFault (s : State) {d b : Nat} (hb : b < 32) (stream plane : Nat) :
    bit ((s.depFault d b stream plane).reg (depBase d + 0xC)).toNat b = true := by
  rw [(s.depFault_frame d b stream plane).2.2 _ (fun n h => by unfold depBase vlBase at h; omega), State.bit_orReg s hb]
  simp

/-! ### Block-table entries through the cache (R303) -/

theorem Moved.dep {s t : State} (h : Moved s t) : t.dep = s.dep := by rw [h.frame]

theorem State.cacheEntry_dep (s : State) (d key : Nat) (e : DepEntry) : (s.cacheEntry d key e).dep =
    (s.modSlice d (fun x => { x with cache := ((key, e) :: (s.slice d).cache.filter (fun y => y.1 != key)).take 4096 })).dep := by
  unfold cacheEntry
  extract_lets l s1
  split
  · exact (Served.putBytes s1 _ _ _).toMoved.dep
  · rfl

/-- Of a slice only its cache changes. -/
structure Caches (d : Nat) (s t : State) : Prop where
  slice : t.slice d = { s.slice d with cache := (t.slice d).cache }

theorem Caches.refl (d : Nat) (s : State) : Caches d s s := ⟨rfl⟩

theorem Caches.trans {d : Nat} {s t u : State} (h : Caches d s t) (h' : Caches d t u) : Caches d s u := ⟨by rw [h'.slice, h.slice]⟩

theorem Caches.of_dep {d : Nat} {s t : State} (h : t.dep = s.dep) : Caches d s t := ⟨by rw [State.slice_of_dep h]⟩

theorem Caches.cacheEntry (s : State) (d key : Nat) (e : DepEntry) : Caches d s (s.cacheEntry d key e) :=
  ⟨by rw [State.slice_of_dep (s.cacheEntry_dep d key e), State.slice_modSlice_same]⟩

/-- An entry that is put into the cache is found there. -/
theorem State.cached_cacheEntry (s : State) (d key : Nat) (e : DepEntry) : ((s.cacheEntry d key e).slice d).cached key = some e := by
  rw [State.slice_of_dep (s.cacheEntry_dep d key e), State.slice_modSlice_same]
  simp [Slice.cached]

theorem Caches.depEntry (s : State) (d key : Nat) : Caches d s (s.depEntry d key).2 := by
  unfold State.depEntry
  split
  · exact .cacheEntry s d key _
  · extract_lets r s1
    have hread : r.2.2.dep = s.dep := ((Served.count s _ _ _ _).trans (.readBytes _ _ _)).toMoved.dep
    have hs1 : s1.dep = s.dep := by
      change (if bits r.1 3 0 = 1 then r.2.2 else r.2.2.depFault d 0 (keyStream key) 0).dep = s.dep
      split
      · exact hread
      · exact (r.2.2.depFault_frame d 0 (keyStream key) 0).1.trans hread
    exact (Caches.of_dep hs1).trans (.cacheEntry s1 d key _)

/-! ### Where nothing waits -/

theorem State.depFrames_idle {s : State} {d : Nat} (h : (s.slice d).forFrame = []) : s.depFrames d = s := by
  unfold depFrames
  rw [h]
  exact State.modSlice_fixed (by rw [← h])

theorem State.depFrames_all_idle {s : State} (h : ∀ d < 4, (s.slice d).forFrame = []) : (List.range 4).foldl State.depFrames s = s :=
  foldl_eq_of_fixed fun d hd => State.depFrames_idle (h d (List.mem_range.1 hd))

theorem State.depRetry_idle {s : State} (h : s.dep.held = []) : s.depRetry = s := by
  have hround : s.depRound = s := by
    unfold depRound
    rw [h]
    change { s with dep := { s.dep with held := [] } } = s
    rw [← h]
  unfold depRetry
  exact foldl_eq_of_fixed fun _ _ => hround

/-- Where no request waits, none waits for a frame, and none is held. -/
theorem State.forFrame_of_idle {s : State} (h : s.depWaits = []) : s.dep.held = [] ∧ ∀ d < 4, (s.slice d).forFrame = [] := by
  unfold depWaits at h
  obtain ⟨hheld, hslices⟩ := List.append_eq_nil_iff.1 h
  refine ⟨hheld, fun d hd => ?_⟩
  have hslice := List.flatMap_eq_nil_iff.1 hslices d (List.mem_range.2 hd)
  exact (List.append_eq_nil_iff.1 (List.append_eq_nil_iff.1 hslice).1).2

/-- With no request waiting and no stream closing, nothing follows an event. -/
theorem State.depSettle_idle {s : State} (hwaits : s.depWaits = []) (hclosing : s.dep.closing = none) : s.depSettle = s := by
  obtain ⟨hheld, hframes⟩ := State.forFrame_of_idle hwaits
  unfold depSettle
  rw [State.depFrames_all_idle hframes, State.depRetry_idle hheld]
  unfold depFinishClose
  rw [hclosing]

end Sys2Proof.Machine
end

section
/-! SUPPORT. Streams of the Depository: opening, closing, and its enable (R299, R300, R320). -/

namespace Sys2Proof.Machine

/-! ### DEP_OPEN (R299) -/

theorem State.ignored_def (s : State) (off : Nat) : s.ignored off = s.notice (Err.aon .notice 0x0A21 0 0 off) := rfl

theorem exec_depOpen_busy (by_ : Writer) (st : BitVec 16) {s : State} (hon : s.power.phase = .on) (h : s.dep.opening.isSome = true) :
    exec (.depOpen by_ st) s = .next (s.notice (Err.aon .notice 0x0A21 0 0 (depBase 0 + 0x18))) := by
  refine congrArg Host.Outcome.next ((State.gate_open hon _ _ by_).trans ?_)
  rw [if_pos h, State.ignored_def]

/-- The state in which a stream opens, its descriptor still to be read. -/
def State.startOpen (s : State) (st : Nat) : State := { s with dep := { s.dep with opening := some st, reading := true } }

theorem exec_depOpen_starts (by_ : Writer) (st : BitVec 16) {s : State} (hon : s.power.phase = .on) (h : s.dep.opening = none) :
    exec (.depOpen by_ st) s = .next (if s.memFree then (s.startOpen st.toNat).depReadDesc st.toNat else s.startOpen st.toNat) := by
  refine congrArg Host.Outcome.next ((State.gate_open hon _ _ by_).trans ?_)
  rw [if_neg (by simp [h])]
  rfl

/-- Where the descriptor of a stream lies. -/
def State.descAddr (s : State) (st : Nat) : Nat := 2 ^ 32 * s.rf (depBase 0 + 0x14) 15 0 + 2 ^ 8 * s.rf (depBase 0 + 0x10) 31 8 + 64 * st

/-- The state that has read a descriptor. -/
def State.descRead (s : State) (st : Nat) : State :=
  let t := (s.readBytes (s.descAddr st) 64).2.2
  { t with dep := { t.dep with reading := false } }

theorem State.depReadDesc_eq (s : State) (st : Nat) : s.depReadDesc st =
    match (s.descRead st).descFault st (s.readBytes (s.descAddr st) 64).1 with
    | some b => ({ s.descRead st with dep := { (s.descRead st).dep with opening := none } } : State).depFault (st % 4) b st 0
    | none => { s.descRead st with dep := { (s.descRead st).dep with
        streams := Tab.put (s.descRead st).dep.streams st (BitVec.ofNat 512 (s.readBytes (s.descAddr st) 64).1) } } := rfl

theorem State.descFault_lt {s : State} {st x b : Nat} (h : s.descFault st x = some b) : b < 32 := by
  have htwo : ∀ (c d : Prop) [Decidable c] [Decidable d], (if c then some 0 else if d then some 1 else none) = some b → b < 32 := by
    intro c d _ _ h
    split at h
    · obtain rfl := Option.some.inj h
      omega
    · split at h
      · obtain rfl := Option.some.inj h
        omega
      · exact nomatch h
  exact htwo _ _ h

/-- A descriptor that is read is kept, or refused with the fault that it has. -/
theorem State.depReadDesc_does (s : State) (st : Nat) {r : Nat × Bool × State} (hr : r = s.readBytes (s.descAddr st) 64) :
    (s.depReadDesc st).dep.reading = false ∧
    (r.2.2.descFault st r.1 = none → (s.depReadDesc st).dep.opening = s.dep.opening ∧ (s.depReadDesc st).depDesc? st = some r.1) ∧
    (∀ b, r.2.2.descFault st r.1 = some b → (s.depReadDesc st).dep.opening = none ∧ (s.depReadDesc st).dep.streams = s.dep.streams ∧
      bit ((s.depReadDesc st).reg (depBase (st % 4) + 0xC)).toNat b = true) := by
  have hdep : (s.descRead st).dep = { s.dep with reading := false } := by
    have h := (Served.readBytes s (s.descAddr st) 64).toMoved.dep
    unfold descRead
    dsimp only
    rw [h]
  have hlt : r.1 < 2 ^ 512 := by
    subst hr
    exact Nat.mod_lt _ (Nat.two_pow_pos (8 * 64))
  have hfault : (s.descRead st).descFault st (s.readBytes (s.descAddr st) 64).1 = r.2.2.descFault st r.1 := by
    rw [hr]
    rfl
  have heq := s.depReadDesc_eq st
  rw [hfault, ← hr] at heq
  generalize s.descRead st = t at hdep heq
  cases hf : r.2.2.descFault st r.1 with
  | none =>
    rw [hf] at heq
    dsimp only at heq
    rw [heq]
    refine ⟨by rw [hdep], fun _ => ⟨by rw [hdep], ?_⟩, nofun⟩
    unfold depDesc?
    rw [Tab.find?_put_same, Option.map_some, BitVec.toNat_ofNat, Nat.mod_eq_of_lt hlt]
  | some b =>
    rw [hf] at heq
    dsimp only at heq
    obtain ⟨hkept, -, -⟩ := State.depFault_frame { t with dep := { t.dep with opening := none } } (st % 4) b st 0
    rw [heq, hkept]
    refine ⟨by rw [hdep], nofun, fun b' hb' => ?_⟩
    obtain rfl := Option.some.inj hb'
    exact ⟨rfl, by rw [hdep], State.bit_depFault _ (State.descFault_lt hf) _ _⟩

theorem exec_depOpenComplete_off {s : State} (h : s.memFree = false) : exec .depOpenComplete s = .next s :=
  congrArg Host.Outcome.next (if_pos (by simp [h]))

theorem exec_depOpenComplete {s : State} {st desc : Nat} (hmem : s.memFree = true) (hopen : s.dep.opening = some st)
    (hread : s.dep.reading = false) (hdesc : s.depDesc? st = some desc) :
    exec .depOpenComplete s = .next ({ s.tableAbsent desc with dep := { s.dep with opening := none } } : State).depSettle := by
  have hdep : (s.tableAbsent desc).dep = s.dep := (Served.putBytes s _ _ _).toMoved.dep
  have hkeep : (if s.dep.reading then s.depReadDesc st else s) = s := if_neg (by simp [hread])
  have htable : (if s.dep.opening.isSome then s.tableAbsent ((s.depDesc? st).getD 0) else s) = s.tableAbsent desc := by
    rw [hopen, hdesc]
    rfl
  have hstate : ({ s.tableAbsent desc with dep := { (s.tableAbsent desc).dep with opening := none } } : State) =
      { s.tableAbsent desc with dep := { s.dep with opening := none } } := by rw [hdep]
  change execDepOpenComplete s = _
  unfold execDepOpenComplete
  rw [if_neg (by simp [hmem])]
  split
  · next hnone => exact nomatch hnone.symm.trans hopen
  · next st' hsome =>
    obtain rfl : st = st' := Option.some.inj (hopen.symm.trans hsome)
    dsimp only
    rw [hkeep, htable]
    exact congrArg (fun t : State => Host.Outcome.next t.depSettle) hstate

/-! ### DEP_CLOSE (R300) -/

theorem exec_depClose_busy (by_ : Writer) (st : BitVec 16) {s : State} (hon : s.power.phase = .on) (h : s.dep.closing.isSome = true) :
    exec (.depClose by_ st) s = .next (s.notice (Err.aon .notice 0x0A21 0 0 (depBase 0 + 0x1C))) := by
  refine congrArg Host.Outcome.next ((State.gate_open hon _ _ by_).trans ?_)
  rw [if_pos h, State.ignored_def]

theorem exec_depClose_none (by_ : Writer) (st : BitVec 16) {s : State} (hon : s.power.phase = .on) (hclosing : s.dep.closing = none)
    (h : s.depDesc? st.toNat = none) : exec (.depClose by_ st) s = .next s := by
  refine congrArg Host.Outcome.next ((State.gate_open hon _ _ by_).trans ?_)
  rw [if_neg (by simp [hclosing]), if_pos (by simp [h])]

/-- The state in which a stream closes. -/
def State.startClose (s : State) (st : Nat) : State := { s with dep := { s.dep with closing := some st } }

theorem exec_depClose_starts (by_ : Writer) (st : BitVec 16) {s : State} (hon : s.power.phase = .on) (hclosing : s.dep.closing = none)
    {desc : Nat} (h : s.depDesc? st.toNat = some desc) : exec (.depClose by_ st) s = .next (s.startClose st.toNat).depFinishClose := by
  refine congrArg Host.Outcome.next ((State.gate_open hon _ _ by_).trans ?_)
  rw [if_neg (by simp [hclosing]), if_neg (by simp [h])]
  rfl

/-- Every slice gives up what it holds of a stream. -/
def State.forgetAll (s : State) (st : Nat) : State := (List.range 4).foldl (fun s d => s.modSlice d (fun x => x.forget st)) s

theorem State.forgetAll_dep (s : State) (st : Nat) : (s.forgetAll st).dep = { s.dep with
    slice0 := s.dep.slice0.forget st, slice1 := s.dep.slice1.forget st, slice2 := s.dep.slice2.forget st,
    slice3 := s.dep.slice3.forget st } := rfl

theorem State.slice_forgetAll (s : State) (st : Nat) (i : Fin 4) : (s.forgetAll st).slice i.val = (s.slice i.val).forget st := by
  unfold slice
  rw [s.forgetAll_dep st]
  match i with
  | 0 => rfl
  | 1 => rfl
  | 2 => rfl
  | 3 => rfl

/-- A stream of which something is pending goes on closing. -/
theorem State.depFinishClose_waits {s : State} {st desc : Nat} (h : s.depDesc? st = some desc)
    (hwait : s.dep.opening = some st ∨ s.depPending st = true ∨ s.memFree = false) : (s.startClose st).depFinishClose = s.startClose st := by
  have hwait' : ((s.startClose st).dep.opening == some st || (s.startClose st).depPending st || !(s.startClose st).memFree) = true := by
    rcases hwait with hw | hw | hw
    · have h' : (s.startClose st).dep.opening = some st := hw
      simp [h']
    · have h' : (s.startClose st).depPending st = true := hw
      simp [h']
    · have h' : (s.startClose st).memFree = false := hw
      simp [h']
  have hdesc : (s.startClose st).depDesc? st = some desc := h
  have hclosing : (s.startClose st).dep.closing = some st := rfl
  generalize s.startClose st = t at hwait' hdesc hclosing
  unfold depFinishClose
  rw [hclosing]
  dsimp only
  rw [hdesc]
  exact if_pos hwait'

/-- The state in which a stream has been closed. -/
def State.closed (s : State) (st desc : Nat) : State :=
  let t := ((s.startClose st).tableAbsent desc).forgetAll st
  { t with dep := { t.dep with closing := none, streams := Tab.del t.dep.streams st } }

theorem State.closed_dep (s : State) (st desc : Nat) : (s.closed st desc).dep = { s.dep with
    closing := none, streams := Tab.del s.dep.streams st, slice0 := s.dep.slice0.forget st, slice1 := s.dep.slice1.forget st,
    slice2 := s.dep.slice2.forget st, slice3 := s.dep.slice3.forget st } := by
  have hdep : ((s.startClose st).tableAbsent desc).dep = (s.startClose st).dep := (Served.putBytes _ _ _ _).toMoved.dep
  have hforget := ((s.startClose st).tableAbsent desc).forgetAll_dep st
  rw [hdep] at hforget
  unfold closed
  dsimp only
  rw [hforget]
  rfl

theorem State.slice_closed (s : State) (st desc : Nat) (i : Fin 4) : (s.closed st desc).slice i.val = (s.slice i.val).forget st := by
  unfold slice
  rw [s.closed_dep st desc]
  match i with
  | 0 => rfl
  | 1 => rfl
  | 2 => rfl
  | 3 => rfl

/-- With nothing of the stream pending, a close completes; where no request waits for a frame, nothing follows. -/
theorem State.depFinishClose_closes {s : State} {st desc : Nat} (hmem : s.memFree = true) (hopen : s.dep.opening ≠ some st)
    (hdesc : s.depDesc? st = some desc) (hpending : s.depPending st = false) (hframes : ∀ i : Fin 4, (s.slice i.val).forFrame = []) :
    (s.startClose st).depFinishClose = s.closed st desc := by
  have hnot : ¬ (((s.startClose st).dep.opening == some st || (s.startClose st).depPending st || !(s.startClose st).memFree) = true) := by
    have h1 : (s.startClose st).dep.opening ≠ some st := hopen
    have h2 : (s.startClose st).depPending st = false := hpending
    have h3 : (s.startClose st).memFree = true := hmem
    simp [h1, h2, h3]
  have hidle : (List.range 4).foldl State.depFrames (s.closed st desc) = s.closed st desc :=
    State.depFrames_all_idle fun d hd => (congrArg Slice.forFrame (s.slice_closed st desc ⟨d, hd⟩)).trans (hframes ⟨d, hd⟩)
  have hd : (s.startClose st).depDesc? st = some desc := hdesc
  have hclosing : (s.startClose st).dep.closing = some st := rfl
  unfold depFinishClose
  rw [hclosing]
  dsimp only
  rw [hd]
  dsimp only
  rw [if_neg hnot]
  exact hidle

/-! ### DEP_CTL (R320) -/

theorem exec_depEnable_on (by_ : Writer) {s : State} (h : s.depOn = true) : exec (.depEnable by_) s = .next s :=
  congrArg Host.Outcome.next (if_pos h)

/-- What a write that enables the Depository requires: a pool range, and for paging a region. -/
def State.depReady (s : State) : Prop :=
  s.rf (hbmBase 0 + 0x40 + 4 * s.rf (depBase 0 + 4) 7 6) 31 31 ≠ 0 ∧ (s.pageEn = true → 4 ≤ (s.step.job.map (·.xtDep)).getD 0)

theorem exec_depEnable {s : State} (hon : s.power.phase = .on) (hoff : s.depOn = false) :
    (¬ s.depReady → exec (.depEnable .firmware) s = .next (s.depFault 0 7 0 0)) ∧
    (s.depReady → exec (.depEnable .firmware) s = .next (s.setRf (depBase 0 + 4) 0 0 1).depSettle) := by
  have hgate : ∀ k : State → State, (if s.depOn then s else s.gate .firmware false (depBase 0 + 4) k) = k s := fun k =>
    (if_neg (by simp [hoff])).trans (State.gate_firmware hon (depBase 0 + 4) k false)
  refine ⟨fun h => congrArg Host.Outcome.next ((hgate _).trans (if_pos ?_)), fun h => congrArg Host.Outcome.next ((hgate _).trans (if_neg ?_))⟩
  · by_contra hnot
    obtain ⟨hpool, hpage⟩ := not_or.1 hnot
    exact h ⟨hpool, fun hp => Nat.le_of_not_lt fun hlt => hpage ⟨hp, hlt⟩⟩
  · rintro (hpool | ⟨hp, hlt⟩)
    · exact h.1 hpool
    · exact absurd (h.2 hp) (Nat.not_le.2 hlt)

end Sys2Proof.Machine
end

section
/-! SUPPORT. Paging of the Depository: page-ins, page-outs, the sweep, the intake (R309, R310, R312, R313). -/

namespace Sys2Proof.Machine

/-! ### What the sweep and transfers leave (R309, R310) -/

theorem Caches.sweepRound (d cls : Nat) (l : List (Nat × Nat)) (s : State) : Caches d s (s.sweepRound d cls l).2 := by
  induction l generalizing s with
  | nil => exact .refl d s
  | cons x l ih =>
    obtain ⟨f, key⟩ := x
    unfold State.sweepRound
    dsimp only
    split
    · exact ih s
    · split
      · exact (Caches.cacheEntry s d key _).trans (ih _)
      · split
        · exact ih s
        · exact .refl d s

theorem Caches.sweep (d : Nat) (order : List (Nat × Nat)) (classes : List Nat) (s : State) : Caches d s (s.sweep d order classes).2 := by
  induction classes generalizing s with
  | nil => exact .refl d s
  | cons c classes ih =>
    unfold State.sweep
    dsimp only
    split
    · exact .sweepRound d c order s
    · exact (Caches.sweepRound d c order s).trans (ih _)

theorem Moved.outer {s t : State} (h : Moved s t) : t.outer = s.outer := by
  rw [h.frame]
  rfl

theorem Moved.beforeMove (s : State) (m : PageMove) : Moved s (s.beforeMove m) :=
  .foldl (fun s x => Moved.xtDone s x false) _ s

theorem Moved.copyFrame (s : State) (a b : Nat) : Moved s (s.copyFrame a b) :=
  .foldl (fun s i => ((Served.readLine s (a + 256 * i) .stream).trans (.writeLine _ _ _ _ _)).toMoved) _ s

theorem Moved.spoils (s : State) (a : Nat) (l : List (Fin 256)) : Moved s (l.foldl (fun s i => s.tierSpoil (a + 256 * i.val)) s) :=
  .foldl (f := fun (s : State) (i : Fin 256) => s.tierSpoil (a + 256 * i.val)) (fun s i => (Served.tierSpoil s (a + 256 * i.val)).toMoved) l s

/-- The transfer that begins. -/
def State.moveOf (s : State) (d key : Nat) (toTier : Bool) (h y : Nat) : PageMove :=
  { key := key, toTier := toTier, hbm := h, xt := y, ports := s.framePorts (s.regionAddr d y), order := s.nextId }

theorem State.slice_startMove (s : State) (d key : Nat) (toTier : Bool) (h y : Nat) :
    (s.startMove d key toTier h y).slice d = { s.slice d with moves := (s.slice d).moves ++ [s.moveOf d key toTier h y] } := by
  unfold startMove
  dsimp only
  rw [State.slice_modSlice_same]
  rfl

/-- The state in which a transfer of a block has begun: what the slice takes for it, the transfer, and the block’s entry, MOVING. -/
def State.begins (s : State) (d key : Nat) (toTier : Bool) (h y : Nat) (f : Slice → Slice) (e : DepEntry) : State :=
  ((s.modSlice d f).startMove d key toTier h y).cacheEntry d key { e with loc := .moving }

/-- A transfer that begins stands last among those of its slice, and its block is MOVING. -/
theorem State.begins_does (s : State) (d key : Nat) (toTier : Bool) (h y : Nat) (f : Slice → Slice) (e : DepEntry)
    (hf : (f (s.slice d)).moves = (s.slice d).moves) :
    ((s.begins d key toTier h y f e).slice d).moves = (s.slice d).moves ++ [(s.modSlice d f).moveOf d key toTier h y] ∧
    (∃ c m, (s.begins d key toTier h y f e).slice d = { f (s.slice d) with cache := c, moves := m }) ∧
    ((s.begins d key toTier h y f e).slice d).cached key = some { e with loc := .moving } ∧
    (s.begins d key toTier h y f e).outer = s.outer := by
  have hslice := (Caches.cacheEntry ((s.modSlice d f).startMove d key toTier h y) d key { e with loc := .moving }).slice
  rw [State.slice_startMove, State.slice_modSlice_same] at hslice
  refine ⟨?_, ⟨_, _, hslice⟩, State.cached_cacheEntry _ _ _ _, by unfold begins; simp⟩
  unfold begins
  rw [hslice, ← hf]

/-! ### PAGE_IN_START (R312, R313) -/

theorem exec_pageInStart_idle {i : Fin 4} {s : State}
    (h : (s.slice i.val).nextPageIn = none ∨ s.freeFrame i.val = none ∨ 16 ≤ (s.slice i.val).moves.length) :
    exec (.pageInStart i) s = .next s := by
  change execPageInStart i s = _
  unfold execPageInStart
  dsimp only
  split
  · next f y hf hy =>
    refine if_pos ?_
    rcases h with h | h | h
    · exact nomatch h.symm.trans hf
    · exact nomatch h.symm.trans hy
    · rw [decide_eq_true h, Bool.or_true]
  · rfl

theorem exec_pageInStart {i : Fin 4} {s : State} {f : FaultEntry} {h : Nat} (hmem : s.memFree = true) (hon : s.depOn = true)
    (hnext : (s.slice i.val).nextPageIn = some f) (hfree : s.freeFrame i.val = some h) (hroom : (s.slice i.val).moves.length < 16) :
    exec (.pageInStart i) s = .next ((s.depEntry i.val f.key).2.begins i.val f.key false h (s.depEntry i.val f.key).1.frame
      (fun x => { x with frames := Tab.put x.frames h f.key }) (s.depEntry i.val f.key).1) := by
  have hmay : ¬ ((!(s.memFree && s.depOn) || decide (16 ≤ (s.slice i.val).moves.length)) = true) := by
    rw [hmem, hon, decide_eq_false (by omega)]
    decide
  change execPageInStart i s = _
  unfold execPageInStart
  dsimp only
  rw [hnext, hfree]
  exact if_neg hmay

/-! ### PAGE_OUT_START (R309, R310, R312) -/

/-- A page-out may start: the frames that are free are below LOW or paging goes on, there is room, and no page-in goes first. -/
structure MayPageOut (s : State) (d : Nat) : Prop where
  mem : s.memFree = true
  on : s.depOn = true
  page : s.pageEn = true
  room : (s.slice d).moves.length < 16
  next : (s.slice d).nextPageIn = none ∨ s.freeFrame d = none
  wanted : s.hbmFree d < s.markLow d ∨ (s.slice d).sweeping = true

theorem exec_pageOutStart_idle {i : Fin 4} {s : State} (h : 16 ≤ (s.slice i.val).moves.length ∨
    ((s.slice i.val).nextPageIn.isSome = true ∧ (s.freeFrame i.val).isSome = true) ∨
    (s.markLow i.val ≤ s.hbmFree i.val ∧ (s.slice i.val).sweeping = false)) : exec (.pageOutStart i) s = .next s := by
  change execPageOutStart i s = _
  unfold execPageOutStart
  refine if_pos ?_
  rcases h with h | ⟨h, h'⟩ | ⟨h, h'⟩
  · simp [h]
  · simp [h, h']
  · simp [h, h']

theorem MayPageOut.may {s : State} {d : Nat} (h : MayPageOut s d) : ¬ ((!(s.memFree && s.depOn && s.pageEn) ||
    !(decide (s.hbmFree d < s.markLow d) || (s.slice d).sweeping) || decide (16 ≤ (s.slice d).moves.length) ||
    ((s.slice d).nextPageIn.isSome && (s.freeFrame d).isSome)) = true) := by
  have hnext : ((s.slice d).nextPageIn.isSome && (s.freeFrame d).isSome) = false := by
    rcases h.next with hn | hn
    · rw [hn]
      rfl
    · rw [hn]
      exact Bool.and_false _
  have hwanted : (decide (s.hbmFree d < s.markLow d) || (s.slice d).sweeping) = true := by
    rcases h.wanted with hw | hw
    · rw [decide_eq_true hw, Bool.true_or]
    · rw [hw, Bool.or_true]
  rw [h.mem, h.on, h.page, hwanted, hnext, decide_eq_false (Nat.not_le.2 h.room)]
  decide

theorem exec_pageOutStart_high {i : Fin 4} {s : State} (h : MayPageOut s i.val) (hhigh : s.markHigh i.val ≤ s.hbmFree i.val) :
    exec (.pageOutStart i) s = .next (s.modSlice i.val (fun x => { x with sweeping := false })) := by
  change execPageOutStart i s = _
  unfold execPageOutStart
  dsimp only
  rw [if_neg h.may, if_pos hhigh]

/-- The resident frames of a slice in the order of the sweep. -/
def Slice.sweepOrder (x : Slice) : List (Nat × Nat) :=
  x.frames.filter (fun f => decide (x.sweepAt ≤ f.1)) ++ x.frames.filter (fun f => decide (f.1 < x.sweepAt))

theorem exec_pageOutStart {i : Fin 4} {s : State} (h : MayPageOut s i.val) {f key y : Nat} (hregion : s.freeRegion i.val = some y)
    (hlow : s.hbmFree i.val + countWhere (fun (m : PageMove) => m.toTier) (s.slice i.val).moves < s.markHigh i.val)
    {r : Option (Nat × Nat) × State} (hr : r = s.sweep i.val (s.slice i.val).sweepOrder [0, 1, 2, 3, 3]) (hfound : r.1 = some (f, key)) :
    exec (.pageOutStart i) s = .next (r.2.begins i.val key true f y
      (fun x => { x with xtFrames := Tab.put x.xtFrames y key, sweepAt := f + 1, sweeping := true }) (r.2.depPeek i.val key)) := by
  change execPageOutStart i s = _
  unfold execPageOutStart
  dsimp only
  rw [if_neg h.may, if_neg (by omega), if_neg (by omega), hregion]
  dsimp only
  have hsweep : s.sweep i.val ((s.slice i.val).frames.filter (fun f => decide ((s.slice i.val).sweepAt ≤ f.1)) ++
    (s.slice i.val).frames.filter (fun f => decide (f.1 < (s.slice i.val).sweepAt))) [0, 1, 2, 3, 3] = r := hr.symm
  rw [hsweep, hfound]
  rfl

/-! ### Transfers that end (R42, R310, R313) -/

theorem exec_pageIn_waits {i : Fin 4} {s : State} {m : PageMove} (poison : List (Fin 256)) (hfree : s.moveFree m = false)
    (hm : (s.slice i.val).moves.find? (fun m => !m.toTier) = some m) : exec (.pageInComplete i poison) s = .next s := by
  change execPageInComplete i s poison = _
  unfold execPageInComplete
  dsimp only
  rw [hm]
  exact if_pos (by simp [hfree])

theorem exec_pageOut_waits {i : Fin 4} {s : State} {m : PageMove} (hfree : s.moveFree m = false)
    (hm : (s.slice i.val).moves.find? (fun m => m.toTier) = some m) : exec (.pageOutComplete i) s = .next s := by
  change execPageOutComplete i s = _
  unfold execPageOutComplete
  dsimp only
  rw [hm]
  exact if_pos (by simp [hfree])

/-- The state in which the entry of a moved block has been looked up and replaced. -/
def State.placed (s : State) (d key : Nat) (loc : Loc) (frame : Nat) : State :=
  (s.depEntry d key).2.cacheEntry d key { (s.depEntry d key).1 with loc := loc, frame := frame }

theorem State.placed_does (s : State) (d key : Nat) (loc : Loc) (frame : Nat) : Caches d s (s.placed d key loc frame) ∧
    (∃ n, ((s.placed d key loc frame).slice d).cached key = some n ∧ n.loc = loc ∧ n.frame = frame) ∧
    (s.placed d key loc frame).outer = s.outer :=
  ⟨(Caches.depEntry s d key).trans (.cacheEntry _ _ _ _), ⟨_, State.cached_cacheEntry _ _ _ _, rfl, rfl⟩, by unfold placed; simp⟩

/-- A block whose transfer has ended is where it went, and the slice has given up what the transfer held. -/
theorem State.ends_does {s s1 : State} {d key frame : Nat} {loc : Loc} (hmoved : Moved s s1) (f : Slice → Slice)
    (hf : ∀ x, (f x).cache = x.cache) : ∃ n, (∃ c, ((s1.placed d key loc frame).modSlice d f).slice d = f { s.slice d with cache := c }) ∧
      (((s1.placed d key loc frame).modSlice d f).slice d).cached key = some n ∧ n.loc = loc ∧ n.frame = frame ∧
      ((s1.placed d key loc frame).modSlice d f).outer = s.outer := by
  obtain ⟨hcaches, ⟨n, hn, hloc, hframe⟩, houter'⟩ := s1.placed_does d key loc frame
  refine ⟨n, ⟨((s1.placed d key loc frame).slice d).cache, ?_⟩, ?_, hloc, hframe, ?_⟩
  · rw [State.slice_modSlice_same, hcaches.slice, State.slice_of_dep hmoved.dep]
  · rw [State.slice_modSlice_same, Slice.cached, hf]
    exact hn
  · rw [State.modSlice_outer]
    exact houter'.trans hmoved.outer

end Sys2Proof.Machine
end

section
/-! SUPPORT. Transfers of the Depository that end, and its intake (R310, R313). -/

namespace Sys2Proof.Machine

/-! ### PAGE_IN_COMPLETE and PAGE_OUT_COMPLETE (R310, R313) -/

/-- The requests that wait for the block of a transfer. -/
def Slice.waitingFor (x : Slice) (m : PageMove) : List DepReq := ((x.faults.find? (fun f => f.key == m.key)).map (·.waiting)).getD []

/-- What a slice keeps of a page-in that has ended. -/
def Slice.endIn (x : Slice) (m : PageMove) : Slice :=
  { x with moves := x.moves.erase m, xtFrames := Tab.del x.xtFrames m.xt, faults := x.faults.filter (fun f => f.key != m.key) }

/-- What a slice keeps of a page-out that has ended. -/
def Slice.endOut (x : Slice) (m : PageMove) : Slice := { x with moves := x.moves.erase m, frames := Tab.del x.frames m.hbm }

/-- The state in which a page-in has ended; the device may have poisoned some lines of the block. -/
def State.inEnded (s : State) (d : Nat) (m : PageMove) (poison : List (Fin 256)) : State :=
  let from_ := s.regionAddr d m.xt
  let s1 := (poison.foldl (fun s i => s.tierSpoil (from_ % 2 ^ 44 + 256 * i.val)) (s.beforeMove m)).copyFrame from_ (s.frameAddr d m.hbm)
  (s1.placed d m.key .hbm m.hbm).modSlice d (fun x => x.endIn m)

/-- The state in which a page-out has ended, but for the end of paging at HIGH. -/
def State.outEnded (s : State) (d : Nat) (m : PageMove) : State :=
  (((s.beforeMove m).copyFrame (s.frameAddr d m.hbm) (s.regionAddr d m.xt)).placed d m.key .xt m.xt).modSlice d (fun x => x.endOut m)

/-- Paging ends where the free frames have reached HIGH. -/
def State.atHigh (s : State) (d : Nat) : State :=
  if s.markHigh d ≤ s.hbmFree d then s.modSlice d (fun x => { x with sweeping := false }) else s

theorem State.atHigh_does (s : State) (d : Nat) :
    (∃ b, (s.atHigh d).slice d = { s.slice d with sweeping := b }) ∧ (s.atHigh d).outer = s.outer := by
  unfold atHigh
  split
  · exact ⟨⟨false, State.slice_modSlice_same _ _ _⟩, State.modSlice_outer _ _ _⟩
  · exact ⟨⟨_, rfl⟩, rfl⟩

theorem exec_pageInComplete {i : Fin 4} {s : State} {m : PageMove} (poison : List (Fin 256)) (hfree : s.moveFree m = true)
    (hm : (s.slice i.val).moves.find? (fun m => !m.toTier) = some m) : exec (.pageInComplete i poison) s =
      .next (((s.slice i.val).waitingFor m).foldl State.depRequest ((s.inEnded i.val m poison).count (blkMd i.val) 0x2A 0x1FF 1)).depSettle := by
  change execPageInComplete i s poison = _
  unfold execPageInComplete
  dsimp only
  rw [hm]
  exact if_neg (by simp [hfree])

theorem exec_pageOutComplete {i : Fin 4} {s : State} {m : PageMove} (hfree : s.moveFree m = true)
    (hm : (s.slice i.val).moves.find? (fun m => m.toTier) = some m) : exec (.pageOutComplete i) s =
      .next (((s.outEnded i.val m).atHigh i.val).count (blkMd i.val) 0x2B 0x1FF 1).depSettle := by
  change execPageOutComplete i s = _
  unfold execPageOutComplete
  dsimp only
  rw [hm]
  exact if_neg (by simp [hfree])

theorem State.inEnded_does (s : State) (d : Nat) (m : PageMove) (poison : List (Fin 256)) :
    ∃ n, (∃ c, (s.inEnded d m poison).slice d = ({ s.slice d with cache := c } : Slice).endIn m) ∧
      ((s.inEnded d m poison).slice d).cached m.key = some n ∧ n.loc = .hbm ∧ n.frame = m.hbm ∧ (s.inEnded d m poison).outer = s.outer :=
  State.ends_does (((Moved.beforeMove s m).trans (.spoils _ _ poison)).trans (.copyFrame _ _ _)) (fun x => x.endIn m) (fun _ => rfl)

theorem State.outEnded_does (s : State) (d : Nat) (m : PageMove) :
    ∃ n, (∃ c, (s.outEnded d m).slice d = ({ s.slice d with cache := c } : Slice).endOut m) ∧
      ((s.outEnded d m).slice d).cached m.key = some n ∧ n.loc = .xt ∧ n.frame = m.xt ∧ (s.outEnded d m).outer = s.outer :=
  State.ends_does ((Moved.beforeMove s m).trans (.copyFrame _ _ _)) (fun x => x.endOut m) (fun _ => rfl)

theorem State.slice_count (s : State) (b ev unit v d : Nat) : (s.count b ev unit v).slice d = s.slice d :=
  State.slice_of_dep (s.count_dep b ev unit v) d

/-! ### The intake (R313) -/

theorem exec_depIntakeRelease_none {i : Fin 4} {s : State} (h : (s.slice i.val).intake = []) : exec (.depIntakeRelease i) s = .next s := by
  change execDepIntakeRelease i s = _
  unfold execDepIntakeRelease
  dsimp only
  rw [h]

theorem exec_depIntakeRelease {i : Fin 4} {s : State} {q : DepReq} {rest : List DepReq} (h : (s.slice i.val).intake = q :: rest) :
    (s.memFree = true → s.depOn = true → s.intakeFree i.val q = true →
      exec (.depIntakeRelease i) s = .next (((rest.filter (sameCore q)).foldl State.depRequest
        ((s.modSlice i.val (fun x => { x with intake := rest.filter (fun x => !sameCore q x) })).depRequest q)).depSettle)) ∧
    ((s.memFree = false ∨ s.depOn = false ∨ s.intakeFree i.val q = false) → exec (.depIntakeRelease i) s = .next s) := by
  change (_ → _ → _ → execDepIntakeRelease i s = _) ∧ (_ → execDepIntakeRelease i s = _)
  unfold execDepIntakeRelease
  dsimp only
  rw [h]
  refine ⟨fun hmem hon hfree => if_neg (by simp [hmem, hon, hfree]), fun hwait => if_pos ?_⟩
  rcases hwait with hw | hw | hw <;> simp [hw]

/-! ### The clauses of O32 -/

theorem depOpen_clause {s u : State} (by_ : Writer) (st : BitVec 16) (hon : s.power.phase = .on) (hopen : s.dep.opening = none)
    (hu : u = { s with dep := { s.dep with opening := some st.toNat, reading := true } }) :
    (s.memFree = false → exec (.depOpen by_ st) s = .next u) ∧
    (∀ r, s.memFree = true →
      r = u.readBytes (2 ^ 32 * s.rf (depBase 0 + 0x14) 15 0 + 2 ^ 8 * s.rf (depBase 0 + 0x10) 31 8 + 64 * st.toNat) 64 →
      ∃ t, exec (.depOpen by_ st) s = .next t ∧ t.outer = s.outer ∧ t.dep.reading = false ∧
        (r.2.2.descFault st.toNat r.1 = none → t.dep.opening = some st.toNat ∧ t.depDesc? st.toNat = some r.1) ∧
        (∀ b, r.2.2.descFault st.toNat r.1 = some b → t.dep.opening = none ∧ t.dep.streams = s.dep.streams ∧
          bit (t.reg (depBase (st.toNat % 4) + 0xC)).toNat b = true)) := by
  have hexec := exec_depOpen_starts by_ st hon hopen
  have hstart : s.startOpen st.toNat = u := hu.symm
  rw [hstart] at hexec
  refine ⟨fun hmem => by rw [hexec, hmem]; rfl, fun r hmem hr => ?_⟩
  have haddr : 2 ^ 32 * s.rf (depBase 0 + 0x14) 15 0 + 2 ^ 8 * s.rf (depBase 0 + 0x10) 31 8 + 64 * st.toNat = u.descAddr st.toNat := by
    rw [hu]
    rfl
  rw [haddr] at hr
  obtain ⟨hread, hkeeps, hrefuses⟩ := u.depReadDesc_does st.toNat hr
  have houter : u.outer = s.outer := by
    rw [hu]
    rfl
  have hdep : u.dep.opening = some st.toNat ∧ u.dep.streams = s.dep.streams := by
    rw [hu]
    exact ⟨rfl, rfl⟩
  refine ⟨u.depReadDesc st.toNat, by rw [hexec, hmem]; rfl, by rw [State.depReadDesc_outer, houter], hread, fun h => ?_, fun b h => ?_⟩
  · rw [← hdep.1]
    exact hkeeps h
  · rw [← hdep.2]
    exact hrefuses b h

theorem depOpenComplete_clause {s : State} {st desc : Nat} (hmem : s.memFree = true) (hopen : s.dep.opening = some st)
    (hread : s.dep.reading = false) (hdesc : s.depDesc? st = some desc) :
    ∃ t u, exec .depOpenComplete s = .next t ∧ u = s.putBytes (descTable desc)
        ((List.range (descBlocks desc)).flatMap (fun _ => bytesOfNum 8 (DepEntry.word {}))) ∧
      t = ({ u with dep := { s.dep with opening := none } } : State).depSettle ∧
      (s.depWaits = [] → s.dep.closing = none → t = { u with dep := { s.dep with opening := none } } ∧ t.outer = s.outer) := by
  refine ⟨_, s.tableAbsent desc, exec_depOpenComplete hmem hopen hread hdesc, rfl, rfl, fun hwaits hclosing => ?_⟩
  have hwaits' : State.depWaits { s.tableAbsent desc with dep := { s.dep with opening := none } } = [] := hwaits
  rw [State.depSettle_idle hwaits' hclosing]
  exact ⟨rfl, s.tableAbsent_outer desc⟩

theorem depClose_clause {s : State} (by_ : Writer) (st : BitVec 16) (desc : Nat) (hon : s.power.phase = .on) (hmem : s.memFree = true)
    (hclosing : s.dep.closing = none) (hopen : s.dep.opening ≠ some st.toNat) (hdesc : s.depDesc? st.toNat = some desc)
    (hpending : s.depPending st.toNat = false) (hframes : ∀ i : Fin 4, (s.slice i.val).forFrame = []) :
    ∃ t, exec (.depClose by_ st) s = .next t ∧ t.dep.closing = none ∧ t.depDesc? st.toNat = none ∧ t.outer = s.outer ∧
      ∀ i : Fin 4, t.slice i.val = { s.slice i.val with
        cache := (s.slice i.val).cache.filter (fun e => keyStream e.1 != st.toNat),
        frames := (s.slice i.val).frames.filter (fun f => keyStream f.2 != st.toNat),
        xtFrames := (s.slice i.val).xtFrames.filter (fun f => keyStream f.2 != st.toNat) } := by
  have hclosed := State.depFinishClose_closes hmem hopen hdesc hpending hframes
  have houter := (s.startClose st.toNat).depFinishClose_outer
  have hdep := s.closed_dep st.toNat desc
  have hslices := s.slice_closed st.toNat desc
  rw [hclosed] at houter
  refine ⟨s.closed st.toNat desc, by rw [exec_depClose_starts by_ st hon hclosing hdesc, hclosed], by rw [hdep], ?_, houter, hslices⟩
  unfold State.depDesc?
  rw [hdep]
  exact congrArg (Option.map BitVec.toNat) (Tab.find?_del_same _ _)

theorem depEnable_clause {s : State} (hon : s.power.phase = .on) (hoff : s.depOn = false) :
    ∃ t, exec (.depEnable .firmware) s = .next t ∧
      (s.rf (hbmBase 0 + 0x40 + 4 * s.rf (depBase 0 + 4) 7 6) 31 31 = 0 ∨
          (s.pageEn = true ∧ (s.step.job.map (·.xtDep)).getD 0 < 4) →
        t.depOn = false ∧ bit (t.reg (depBase 0 + 0xC)).toNat 7 = true ∧ t.dep = s.dep ∧ t.mem = s.mem ∧ t.outer = s.outer) ∧
      (s.rf (hbmBase 0 + 0x40 + 4 * s.rf (depBase 0 + 4) 7 6) 31 31 ≠ 0 →
          (s.pageEn = true → 4 ≤ (s.step.job.map (·.xtDep)).getD 0) →
        t = (s.setRf (depBase 0 + 4) 0 0 1).depSettle ∧
        (s.depWaits = [] → s.dep.closing = none → t.depOn = true ∧ t = { s with regs := t.regs } ∧
          sameBut t.regs s.regs [depBase 0 + 4])) := by
  obtain ⟨hrefused, hready⟩ := exec_depEnable hon hoff
  by_cases h : s.depReady
  · refine ⟨_, hready h, fun hnot => ?_, fun _ _ => ⟨rfl, fun hwaits hclosing => ?_⟩⟩
    · rcases hnot with hpool | ⟨hpage, hregion⟩
      · exact absurd hpool h.1
      · exact absurd (h.2 hpage) (Nat.not_le.2 hregion)
    · have hwaits' : (s.setRf (depBase 0 + 4) 0 0 1).depWaits = [] := hwaits
      rw [State.depSettle_idle hwaits' hclosing]
      refine ⟨?_, rfl, sameBut_write _ _ _ _ (List.mem_singleton.2 rfl)⟩
      unfold State.depOn
      rw [State.rf_setRf_same _ _ _ _ (by omega)]
      rfl
  · refine ⟨_, hrefused h, fun _ => ?_, fun hpool hpage => absurd ⟨hpool, hpage⟩ h⟩
    obtain ⟨hdep, hmem, hreg⟩ := s.depFault_frame 0 7 0 0
    refine ⟨?_, State.bit_depFault s (by omega) 0 0, hdep, hmem, State.depFault_outer _ _ _ _ _⟩
    have hctl : (s.depFault 0 7 0 0).reg (depBase 0 + 4) = s.reg (depBase 0 + 4) :=
      (hreg _ (fun n h => by unfold depBase vlBase at h; omega)).trans (State.reg_orReg_other _ _ (by omega))
    unfold State.depOn
    rw [State.rf_of_reg hctl]
    exact hoff

theorem pageInStart_clause {i : Fin 4} {s : State} {f : FaultEntry} {h : Nat} (hmem : s.memFree = true) (hon : s.depOn = true)
    (hnext : (s.slice i.val).nextPageIn = some f) (hfree : s.freeFrame i.val = some h) (hroom : (s.slice i.val).moves.length < 16) :
    ∃ t m n, exec (.pageInStart i) s = .next t ∧ (t.slice i.val).moves = (s.slice i.val).moves ++ [m] ∧ m.key = f.key ∧
      m.toTier = false ∧ m.hbm = h ∧ Tab.find? (t.slice i.val).frames h = some f.key ∧
      (t.slice i.val).cached f.key = some n ∧ n.loc = .moving ∧ n.frame = m.xt ∧ t.outer = s.outer := by
  have hexec := exec_pageInStart hmem hon hnext hfree hroom
  have hcaches := (Caches.depEntry s i.val f.key).slice
  have houter := s.depEntry_outer i.val f.key
  generalize s.depEntry i.val f.key = r at hexec hcaches houter
  obtain ⟨hmoves, ⟨c, l, hslice⟩, hcached, houter'⟩ := r.2.begins_does i.val f.key false h r.1.frame
    (fun x => { x with frames := Tab.put x.frames h f.key }) r.1 rfl
  refine ⟨_, _, _, hexec, hmoves.trans (by rw [hcaches]), rfl, rfl, rfl, ?_, hcached, rfl, rfl, houter'.trans houter⟩
  rw [hslice]
  exact Tab.find?_put_same _ _ _

theorem pageOutStart_clause {i : Fin 4} {s : State} (h : MayPageOut s i.val) {f key y : Nat} (hregion : s.freeRegion i.val = some y)
    (hlow : s.hbmFree i.val + countWhere (fun (m : PageMove) => m.toTier) (s.slice i.val).moves < s.markHigh i.val)
    (hfound : (s.sweep i.val (s.slice i.val).sweepOrder [0, 1, 2, 3, 3]).1 = some (f, key)) :
    ∃ t m n, exec (.pageOutStart i) s = .next t ∧ (t.slice i.val).moves = (s.slice i.val).moves ++ [m] ∧ m.key = key ∧
      m.toTier = true ∧ m.hbm = f ∧ m.xt = y ∧ Tab.find? (t.slice i.val).xtFrames y = some key ∧
      (t.slice i.val).sweepAt = f + 1 ∧ (t.slice i.val).sweeping = true ∧ (t.slice i.val).cached key = some n ∧ n.loc = .moving ∧
      t.outer = s.outer := by
  have hexec := exec_pageOutStart h hregion hlow rfl hfound
  have hcaches := (Caches.sweep i.val (s.slice i.val).sweepOrder [0, 1, 2, 3, 3] s).slice
  have houter := s.sweep_outer i.val (s.slice i.val).sweepOrder [0, 1, 2, 3, 3]
  generalize s.sweep i.val (s.slice i.val).sweepOrder [0, 1, 2, 3, 3] = r at hexec hcaches houter
  obtain ⟨hmoves, ⟨c, l, hslice⟩, hcached, houter'⟩ := r.2.begins_does i.val key true f y
    (fun x => { x with xtFrames := Tab.put x.xtFrames y key, sweepAt := f + 1, sweeping := true }) (r.2.depPeek i.val key) rfl
  refine ⟨_, _, _, hexec, hmoves.trans (by rw [hcaches]), rfl, rfl, rfl, rfl, ?_, ?_, ?_, hcached, rfl, houter'.trans houter⟩
  · rw [hslice]
    exact Tab.find?_put_same _ _ _
  · rw [hslice]
  · rw [hslice]

theorem pageInComplete_clause {i : Fin 4} {s : State} {m : PageMove} (poison : List (Fin 256)) (hfree : s.moveFree m = true)
    (hm : (s.slice i.val).moves.find? (fun m => !m.toTier) = some m) :
    ∃ (u : State) (n : DepEntry), exec (.pageInComplete i poison) s = .next
        (((((s.slice i.val).faults.find? (fun f => f.key == m.key)).map (·.waiting)).getD []).foldl State.depRequest u).depSettle ∧
      (u.slice i.val).moves = (s.slice i.val).moves.erase m ∧ (u.slice i.val).xtFrames = Tab.del (s.slice i.val).xtFrames m.xt ∧
      (u.slice i.val).faults = (s.slice i.val).faults.filter (fun f => f.key != m.key) ∧
      (u.slice i.val).frames = (s.slice i.val).frames ∧
      (u.slice i.val).cached m.key = some n ∧ n.loc = .hbm ∧ n.frame = m.hbm ∧ u.outer = s.outer := by
  obtain ⟨n, ⟨c, hslice⟩, hcached, hloc, hframe, houter⟩ := s.inEnded_does i.val m poison
  refine ⟨_, n, exec_pageInComplete poison hfree hm, ?_⟩
  rw [State.slice_count, State.count_outer]
  refine ⟨?_, ?_, ?_, ?_, hcached, hloc, hframe, houter⟩
  · rw [hslice]
    rfl
  · rw [hslice]
    rfl
  · rw [hslice]
    rfl
  · rw [hslice]
    rfl

theorem pageOutComplete_clause {i : Fin 4} {s : State} {m : PageMove} (hfree : s.moveFree m = true)
    (hm : (s.slice i.val).moves.find? (fun m => m.toTier) = some m) :
    ∃ (u : State) (n : DepEntry), exec (.pageOutComplete i) s = .next u.depSettle ∧ (u.slice i.val).moves = (s.slice i.val).moves.erase m ∧
      (u.slice i.val).frames = Tab.del (s.slice i.val).frames m.hbm ∧ (u.slice i.val).xtFrames = (s.slice i.val).xtFrames ∧
      (u.slice i.val).cached m.key = some n ∧ n.loc = .xt ∧ n.frame = m.xt ∧ u.outer = s.outer := by
  obtain ⟨n, ⟨c, hslice⟩, hcached, hloc, hframe, houter⟩ := s.outEnded_does i.val m
  obtain ⟨⟨b, hhigh⟩, houter'⟩ := (s.outEnded i.val m).atHigh_does i.val
  refine ⟨_, n, exec_pageOutComplete hfree hm, ?_⟩
  rw [State.slice_count, State.count_outer]
  refine ⟨?_, ?_, ?_, ?_, hloc, hframe, houter'.trans houter⟩
  · rw [hhigh, hslice]
    rfl
  · rw [hhigh, hslice]
    rfl
  · rw [hhigh, hslice]
    rfl
  · rw [hhigh]
    exact hcached

/-- Settles O32: streams open and close, blocks are paged in and out, and the intake releases its requests. -/
theorem depositoryStreams : Obligations.DepositoryStreams := by
  unfold Obligations.DepositoryStreams
  refine ⟨⟨fun by_ st s hon h => exec_depOpen_busy by_ st hon h, fun by_ st s hon h => exec_depClose_busy by_ st hon h,
    fun by_ st s u hon hopen hu => depOpen_clause by_ st hon hopen hu, fun s st desc => depOpenComplete_clause,
    fun s => exec_depOpenComplete_off, fun by_ st s hon hclosing h => exec_depClose_none by_ st hon hclosing h,
    fun by_ st s hon hclosing hdesc hwait => ?_,
    fun by_ st s desc hon hmem hclosing hopen hdesc => depClose_clause by_ st desc hon hmem hclosing hopen hdesc,
    fun by_ s => exec_depEnable_on by_, fun s => depEnable_clause⟩, ⟨fun i s f h => pageInStart_clause, fun i s => exec_pageInStart_idle,
    fun i poison s m hfree hm => pageInComplete_clause poison hfree hm, fun i s m => pageOutComplete_clause,
    fun i poison s m hfree => ⟨exec_pageIn_waits poison hfree, exec_pageOut_waits hfree⟩, fun i s => exec_pageOutStart_idle,
    fun i s hmem hon hpage hroom hnext hwanted => ?_, fun i s => exec_depIntakeRelease_none, fun i s q rest => exec_depIntakeRelease⟩⟩
  · obtain ⟨desc, hsome⟩ := Option.isSome_iff_exists.1 hdesc
    rw [exec_depClose_starts by_ st hon hclosing hsome, State.depFinishClose_waits hsome hwait]
    rfl
  · have hmay : MayPageOut s i.val := ⟨hmem, hon, hpage, hroom, hnext, hwanted⟩
    exact ⟨exec_pageOutStart_high hmay, fun f key y hregion hlow hfound => pageOutStart_clause hmay hregion hlow hfound⟩

end Sys2Proof.Machine
end
